-- ==== Sys2Proof/Word.lean ====
section
/-! DEFINITION. The word types of the KZ-A41 and their plainest arithmetic (R5, R73, R97). -/

namespace Sys2Proof

/-- A byte (R97). -/
abbrev Byte := BitVec 8

/-- One 32-bit lane of a token or one stored word (R21, R97). -/
abbrev Lane := BitVec 32

/-- A 64-bit value: keeper registers, registers, tags (R74, R126). -/
abbrev Word := BitVec 64

/-- A destination word of 21 bits (R27). -/
abbrev Dest := BitVec 21

/-- A keeper register number (R110). -/
abbrev Reg := BitVec 5

/-- The 64-bit value of a lane pair, low word first (R74). -/
def pair64 (lo hi : Lane) : Word := hi ++ lo

/-- The low lane of a 64-bit value. -/
def lo32 (w : Word) : Lane := w.extractLsb' 0 32

/-- The high lane of a 64-bit value. -/
def hi32 (w : Word) : Lane := w.extractLsb' 32 32

/-- Bits [hi : lo] of a number, as a number (R5). -/
def bits (n hi lo : Nat) : Nat := (n / 2 ^ lo) % 2 ^ (hi + 1 - lo)

/-- Bit `i` of a number. -/
def bitOf (n i : Nat) : Bool := (n / 2 ^ i) % 2 = 1

end Sys2Proof
end

