-- ==== Sys2Proof/Syntax.lean ====
section
/-! DEFINITION. The syntax of the KZ-A41: the records, tokens and commands that its steps carry, and the one
inductive `Instr` with a constructor for every row of the opcode table. -/

namespace Sys2Proof

/-- The fields of a node record beside its opcode (R98). -/
structure NodeRec where
  /-- Arity, bits [86:85]. -/
  arity : BitVec 2
  /-- Tag operation, bits [84:82]. -/
  tagop : BitVec 3
  /-- Urgency, bit [81]. -/
  urg : Bool
  /-- Width code, bits [80:78] (R23). -/
  width : BitVec 3
  /-- Modifier, bits [77:74] (R99). -/
  mod : BitVec 4
  /-- Destination A, bits [73:53] (R27). -/
  dstA : Dest
  /-- Destination B, bits [52:32] (R27). -/
  dstB : Dest
  /-- Literal, bits [31:0]. -/
  lit : BitVec 32
deriving DecidableEq, Repr

/-- A token: its 128-bit header and its payload lanes (R21, R22). -/
structure Token where
  /-- Destination, header [127:107]. -/
  dest : Dest
  /-- Context slot, header [106:95]. -/
  ctx : BitVec 12
  /-- Run length, header [94:90]; 0 stands for 32. -/
  len : BitVec 5
  /-- Width code, header [89:87]. -/
  width : BitVec 3
  /-- Poison flag, header [86]. -/
  poison : Bool
  /-- Fault flag, header [85]. -/
  fault : Bool
  /-- Empty-run flag, header [84]. -/
  empty : Bool
  /-- Class, header [83:80] (R24). -/
  cls : BitVec 4
  /-- Auxiliary field, header [79:64]. -/
  aux : BitVec 16
  /-- Iteration tag, header [63:0]. -/
  tag : Word
  /-- Payload lanes, lane 0 first. -/
  lanes : List Lane
deriving DecidableEq, Repr

/-- A command taken by the command front (R437, R439): the queue that carries it, its sequence number, the command
line that names its operation, its 64-byte body as eight words, and, for a `kp.launch`, the keeper that waits for the
answer with its context and ticket (R151). -/
structure Cmd where
  queue : Nat
  seq : Nat
  line : Nat
  body : List Word
  keeper : Option (Nat × BitVec 12 × Lane)
deriving DecidableEq, Repr

/-- An inbound request from another module (R411, R412): its source, a number that source gave it, the device-local
offset, the size in bytes, what it asks (0 load, 1 store, 2 atomic), the atomic's opcode, its operands and the poison
of its data. -/
structure Inbound where
  src : Nat
  req : Nat
  off : Nat
  size : Nat
  kind : Nat
  atom : Nat
  data : List Byte
  arg : Word
  poison : Bool
deriving DecidableEq, Repr

/-- A reply of a remote home (R412): a fault code or 0, the bytes returned, their poison. -/
structure RemoteData where
  code : Nat
  data : List Byte
  poison : Bool
deriving DecidableEq, Repr

/-- A member's collective descriptor (R427): opcode, TYPE, OP, COUNT, ROOT and its valid bit. -/
structure CollDesc where
  op : Nat
  ty : Nat
  rop : Nat
  count : Nat
  root : Nat
  valid : Bool
deriving DecidableEq, Repr

/-- A member's data contribution to a collective (R428): its elements' bytes and the poison of each element. -/
structure Contribution where
  data : List Byte
  poison : List Bool
deriving DecidableEq, Repr

/-- A notice of `ln.signal` from another module (R423): the sender's device id, the destination, the context and the
value after the add. -/
structure Notice where
  dev : Nat
  dest : Dest
  ctx : BitVec 12
  value : Word
deriving DecidableEq, Repr

/-- What the custodian measures in one millisecond (R497, R498): input power in W, temperatures in degrees C. -/
structure EnvSample where
  watts : Nat
  die : Nat
  hbm : Nat
  inlet : Nat
deriving DecidableEq, Repr

/-- A host access through BAR2 (R490): address, size, the bytes of a write, and the EP bit of a write. -/
structure HostAccess where
  addr : Nat
  size : Nat
  write : Option (List Byte)
  ep : Bool
deriving DecidableEq, Repr

/-- An error seen by a unit (R484): source, severity, location, detail; and, for a line of a stack, what its symbols as they are read
have been XORed with since they were written (R361), from symbol 0 on: the decoder finds the severity. -/
structure ErrInfo where
  source : Nat
  severity : Nat
  loc : Nat
  detail : Word
  upset : List Nat := []
deriving DecidableEq, Repr

/-- The steps of the KZ-A41, one constructor for every row of the opcode table: the keeper's words, the firings of
worker, guard and forager nodes, the commands of the engines and of the front, and the events of the machine. A node
firing's record and operands are those of the firing on the datapath (`NodeRec`, R98), so its constructor has none.
The constructors with operands stand first. -/
inductive Instr where
  /-- KEEPER_ADD (R130): Keeper register add: kd := (ka + kb) mod 2^64. -/
  | keeperAdd (d a b : Reg)
  /-- KEEPER_SUB (R130): Keeper register subtract: kd := (ka - kb) mod 2^64. -/
  | keeperSub (d a b : Reg)
  /-- KEEPER_AND (R130): Keeper bitwise AND of two registers. -/
  | keeperAnd (d a b : Reg)
  /-- KEEPER_OR (R130): Keeper bitwise OR of two registers. -/
  | keeperOr (d a b : Reg)
  /-- KEEPER_XOR (R130): Keeper bitwise XOR of two registers. -/
  | keeperXor (d a b : Reg)
  /-- KEEPER_SLL (R130): Keeper shift left by kb[5:0]. -/
  | keeperSll (d a b : Reg)
  /-- KEEPER_SRL (R130): Keeper logical shift right by kb[5:0]. -/
  | keeperSrl (d a b : Reg)
  /-- KEEPER_SRA (R130): Keeper arithmetic shift right by kb[5:0]. -/
  | keeperSra (d a b : Reg)
  /-- KEEPER_MUL (R130): Keeper multiply, low 64 bits of the product. -/
  | keeperMul (d a b : Reg)
  /-- KEEPER_MULH (R130): Keeper multiply high, both operands signed. -/
  | keeperMulh (d a b : Reg)
  /-- KEEPER_MULHN (R130): Keeper multiply high, both operands unsigned. -/
  | keeperMulhn (d a b : Reg)
  /-- KEEPER_SLT (R130): Keeper set kd to 1 if ka < kb signed, else 0. -/
  | keeperSlt (d a b : Reg)
  /-- KEEPER_SLTN (R130): Keeper set kd to 1 if ka < kb unsigned, else 0. -/
  | keeperSltn (d a b : Reg)
  /-- KEEPER_MIN (R130): Keeper signed minimum of two registers. -/
  | keeperMin (d a b : Reg)
  /-- KEEPER_MAX (R130): Keeper signed maximum of two registers. -/
  | keeperMax (d a b : Reg)
  /-- KEEPER_ADDI (R131): Keeper add of a sign-extended 15-bit immediate. -/
  | keeperAddi (d a : Reg) (i : BitVec 15)
  /-- KEEPER_ANDI (R131): Keeper AND with a sign-extended 15-bit immediate. -/
  | keeperAndi (d a : Reg) (i : BitVec 15)
  /-- KEEPER_ORI (R131): Keeper OR with a sign-extended 15-bit immediate. -/
  | keeperOri (d a : Reg) (i : BitVec 15)
  /-- KEEPER_XORI (R131): Keeper XOR with a sign-extended 15-bit immediate. -/
  | keeperXori (d a : Reg) (i : BitVec 15)
  /-- KEEPER_SLLI (R131): Keeper shift left by an immediate amount 0-63. -/
  | keeperSlli (d a : Reg) (sh : BitVec 6)
  /-- KEEPER_SRLI (R131): Keeper logical shift right by an immediate amount 0-63. -/
  | keeperSrli (d a : Reg) (sh : BitVec 6)
  /-- KEEPER_SRAI (R131): Keeper arithmetic shift right by an immediate amount 0-63. -/
  | keeperSrai (d a : Reg) (sh : BitVec 6)
  /-- KEEPER_LUI (R131): Keeper load upper immediate: kd := sext64(imm << 12) from bit 31. -/
  | keeperLui (d : Reg) (i : BitVec 20)
  /-- KEEPER_LD8 (R132): Keeper sign-extending 8-bit load at ka + offset. -/
  | keeperLd8 (d a : Reg) (i : BitVec 15)
  /-- KEEPER_LD16 (R132): Keeper sign-extending 16-bit load at ka + offset. -/
  | keeperLd16 (d a : Reg) (i : BitVec 15)
  /-- KEEPER_LD32 (R132): Keeper sign-extending 32-bit load at ka + offset. -/
  | keeperLd32 (d a : Reg) (i : BitVec 15)
  /-- KEEPER_LD64 (R132): Keeper 64-bit load at ka + offset, resolved under R129. -/
  | keeperLd64 (d a : Reg) (i : BitVec 15)
  /-- KEEPER_ST8 (R132): Keeper 8-bit store of kb at ka + offset. -/
  | keeperSt8 (a b : Reg) (o : BitVec 15)
  /-- KEEPER_ST16 (R132): Keeper 16-bit store of kb at ka + offset. -/
  | keeperSt16 (a b : Reg) (o : BitVec 15)
  /-- KEEPER_ST32 (R132): Keeper 32-bit store of kb at ka + offset. -/
  | keeperSt32 (a b : Reg) (o : BitVec 15)
  /-- KEEPER_ST64 (R132): Keeper 64-bit store of kb at ka + offset. -/
  | keeperSt64 (a b : Reg) (o : BitVec 15)
  /-- KEEPER_BEQ (R133): Keeper branch if ka = kb. -/
  | keeperBeq (a b : Reg) (o : BitVec 15)
  /-- KEEPER_BNE (R133): Keeper branch if ka != kb. -/
  | keeperBne (a b : Reg) (o : BitVec 15)
  /-- KEEPER_BLT (R133): Keeper branch if ka < kb signed. -/
  | keeperBlt (a b : Reg) (o : BitVec 15)
  /-- KEEPER_BGE (R133): Keeper branch if ka >= kb signed. -/
  | keeperBge (a b : Reg) (o : BitVec 15)
  /-- KEEPER_BLTN (R133): Keeper branch if ka < kb unsigned. -/
  | keeperBltn (a b : Reg) (o : BitVec 15)
  /-- KEEPER_BGEN (R133): Keeper branch if ka >= kb unsigned. -/
  | keeperBgen (a b : Reg) (o : BitVec 15)
  /-- KEEPER_JAL (R133): Keeper jump and link to pc + 4*offset. -/
  | keeperJal (d : Reg) (o : BitVec 20)
  /-- KEEPER_JALR (R133): Keeper jump and link to ka + offset. -/
  | keeperJalr (d a : Reg) (i : BitVec 15)
  /-- KEEPER_CSRR (R134): Keeper read of a control and status register. -/
  | keeperCsrr (d : Reg) (c : BitVec 12)
  /-- KEEPER_CSRW (R134): Keeper write of ka to a control and status register. -/
  | keeperCsrw (a : Reg) (c : BitVec 12)
  /-- KEEPER_TRAP (R135): Keeper software trap with a 15-bit code into the handler. -/
  | keeperTrap (c : BitVec 15)
  /-- KEEPER_WAIT (R138): Keeper waits for a non-empty event queue or a clk limit. -/
  | keeperWait (d a : Reg) (i : BitVec 15)
  /-- KEEPER_FENCE (R139): Keeper fence until earlier tokens, deliveries and domain stores are done. -/
  | keeperFence (sc : BitVec 2)
  /-- KP_LAUNCH (R151): Keeper submits a launch record as a LAUNCH on queue KQUEUE and takes a ticket. -/
  | kpLaunch (d a : Reg)
  /-- KP_CFGP (R145): Keeper reads and checks a node-record pattern and starts its delivery to rectangles. -/
  | kpCfgp (a : Reg) (ntf : Bool)
  /-- KP_CFGK (R145): Keeper reads and checks a constants pattern and starts its delivery. -/
  | kpCfgk (a : Reg) (ntf : Bool)
  /-- KP_SEND (R147): Keeper sends an engine-message token image through its injection port. -/
  | kpSend (a : Reg)
  /-- KP_EVQ (R149): Keeper pops or peeks the oldest event-queue entry into a buffer. -/
  | kpEvq (d a : Reg) (peek : Bool)
  /-- KP_SCHED (R150): Keeper steps the schedule table and returns the next entry address. -/
  | kpSched (d : Reg) (rew : Bool)
  /-- KP_INJECT (R147): Keeper injects a class-0 token image through its injection port. -/
  | kpInject (a : Reg)
  /-- KP_DRAIN (R152): Keeper starts the end of a tile-task by injecting drain tokens. -/
  | kpDrain (d : Reg)
  /-- ILLEGAL_INSTRUCTION (R112): A keeper word with an unassigned major or func or a non-zero required-zero field raises ILLEGAL. -/
  | illegalInstruction (w : BitVec 32)
  /-- KEEPER_WAIT_RESUME (R138): A waiting keeper resumes when an event enters the queue or its limit passes. -/
  | keeperWaitResume (ps : Nat)
  /-- KEEPER_FENCE_COMPLETE (R139): A keeper fence completes once all its conditions hold, and issue resumes. -/
  | keeperFenceComplete (ps : Nat)
  /-- CONFIG_DELIVERY_COMPLETE (R145): A pattern delivery ends, planes written or refused, BUSY clears and an NTF completion may be posted. -/
  | configDeliveryComplete (ps : Nat)
  /-- TOKEN_ARRIVAL (R36): A token arriving at a cell node port is matched, made ready, or placed in an entry. -/
  | tokenArrival (k : Nat)
  /-- SPILL_RECORD_STORE (R42): The spill unit stores a class-3 token as a spill record in area or overflow chunk. -/
  | spillRecordStore (ps : Nat)
  /-- OVERFLOW_ROOM_FREED (R44): Room freed during an OVERFLOW trap lets the waiting record be stored and the token taken. -/
  | overflowRoomFreed (ps : Nat)
  /-- SPILL_REINJECT (R45): Below the low mark the spill unit re-injects the oldest record for a cell. -/
  | spillReinject (ps ci : Nat)
  /-- SPILL_PROBE (R45): Every 256 clk at or above the low mark the spill unit re-injects a probe record. -/
  | spillProbe (ps ci : Nat)
  /-- OVERFLOW_CHUNK_RETURN (R43): Records of an overflow chunk return to the spill area and the chunk is freed. -/
  | overflowChunkReturn (ps : Nat)
  /-- EVENT_QUEUE_ARRIVAL (R57): A token for a keeper event queue enters it or the event reserve. -/
  | eventQueueArrival (k : Nat)
  /-- DRAIN_FORWARD (R67): A cell forwards its drains once all fan-in drains are in and its work is performed. -/
  | drainForward (ci : Nat)
  /-- ENGINE_DRAIN_RETURN (R67): An engine returns a drain to the named keeper once earlier messages of the inbox complete. -/
  | engineDrainReturn (d : Dest)
  /-- DRAIN_COUNT (R152): A drain token reaching a keeper is counted and may end the tile-task. -/
  | drainCount (k : Nat)
  /-- FENCE_MARKER_RETURN (R220): An engine returns a fence marker once earlier messages complete. -/
  | fenceMarkerReturn (d : Dest)
  /-- SEC_PARK_RESUME (R71): Write of SEC.PARK with ACT = 0 resumes a parked activation. -/
  | secParkResume (ps : Nat) (v : Word)
  /-- SEC_PARK_DISCARD (R71): Write of SEC.PARK with ACT = 1 discards a parked activation. -/
  | secParkDiscard (ps : Nat) (v : Word)
  /-- REGISTER_WRITE (R6): Write to a register with no behaviour of its own, under its access types. -/
  | registerWrite (pa : Nat) (v : Word)
  /-- ENGINE_UNASSIGNED_OPCODE (R118): An engine message with an unassigned opcode is answered BADOP. -/
  | engineUnassignedOpcode (m : Token)
  /-- CHAIN_MEMBER_LINK (R243): A waiting ordered member links to its chain when its predecessor arrives. -/
  | chainMemberLink (id : Nat)
  /-- STORE_BUFFER_SEND (R245): A linked store leaves the store buffer once older members are performed or sent. -/
  | storeBufferSend (id : Nat)
  /-- HOME_ACCESS (R253): A home performs a load, store or atomic in its single order. -/
  | homeAccess (id j : Nat)
  /-- MEMORY_REPLY (R234): A forager emits a reply or acknowledgement when its access completes. -/
  | memoryReply (id j : Nat)
  /-- POOL_CFG (R274): Pool installs a carving in a configuration bank. -/
  | poolCfg (m : Token)
  /-- POOL_MAP (R274): Pool installs a multicast map in a bank. -/
  | poolMap (m : Token)
  /-- POOL_BLOAD (R275): Pool takes a dense B announcement for pairing. -/
  | poolBload (m : Token)
  /-- POOL_BLOAD_NM (R276): Pool takes an N:M-compressed B announcement for pairing. -/
  | poolBloadNm (m : Token)
  /-- POOL_A (R277): Pool queues a pass bound to the last loaded B set. -/
  | poolA (m : Token)
  /-- POOL_MMA (R277): Pool takes an A announcement that pairs with a B announcement to form a pass. -/
  | poolMma (m : Token)
  /-- POOL_MMA_BS (R290): Pool starts a block-sparse walk of passes and drains. -/
  | poolMmaBs (m : Token)
  /-- POOL_DRAIN (R285): Pool takes a drain of a committed region, pairing with a steering token unless NOSTEER. -/
  | poolDrain (m : Token)
  /-- POOL_ZERO (R286): Pool zeroes a committed region at its sequence position. -/
  | poolZero (m : Token)
  /-- POOL_SPAN (R283): Pool writes the span setting of a bank. -/
  | poolSpan (m : Token)
  /-- POOL_FENCE (R288): Pool completes once earlier messages of named inboxes complete. -/
  | poolFence (m : Token)
  /-- POOL_STAT (R289): Pool returns its counters, optionally clearing them. -/
  | poolStat (m : Token)
  /-- POOL_COMMIT (R287): Pool completes once overlapping earlier passes have committed. -/
  | poolCommit (m : Token)
  /-- STEER_TOKEN (R268): A class-0 token in a steer inbox enters the pairing store and may pair with a drain. -/
  | steerToken (m : Token)
  /-- B_SET_LOAD (R270): A paired pass loads its B set into a free set. -/
  | bSetLoad (pl id : Nat)
  /-- PASS_STREAM_START (R265): A pass begins streaming once overlapping earlier passes have committed. -/
  | passStreamStart (pl id : Nat)
  /-- SPAN_SUMS_ARRIVE (R283): A primary receives the secondary's group sums and combines them. -/
  | spanSumsArrive (pl id : Nat)
  /-- LADDER_DECISION (R306): At stream end a pass commits or is squashed for a replay one step wider. -/
  | ladderDecision (pl id : Nat)
  /-- REPLAY_STREAM (R307): A squashed pass reloads B and streams again at the wider step. -/
  | replayStream (pl id : Nat)
  /-- POOL_DRAIN_PERFORM (R285): A steered drain reads its region at its sequence position and delivers by route. -/
  | poolDrainPerform (pl id : Nat)
  /-- WALK_ENTRY_FETCH (R291): A block-sparse walk fetches row pointers and entries ahead of use. -/
  | walkEntryFetch (pl : Nat)
  /-- WALK_PARK (R291): A walk reaching a failed fetch parks and sends an ENTRY record. -/
  | walkPark (pl : Nat)
  /-- POOL_WALK_RESUME (R292): Write of POOL.RESUME with ACT = 0 resumes a parked walk. -/
  | poolWalkResume (pl : Nat) (v : Word)
  /-- POOL_WALK_ABORT (R292): Write of POOL.RESUME with ACT = 1 ends a parked walk with ENTRY. -/
  | poolWalkAbort (pl : Nat) (v : Word)
  /-- LAD_BUDGET (R316): Ladder sets a profile's thresholds for selected steps. -/
  | ladBudget (m : Token)
  /-- LAD_START (R316): Ladder sets a profile's start step. -/
  | ladStart (m : Token)
  /-- LAD_CAP (R316): Ladder sets a profile's cap step. -/
  | ladCap (m : Token)
  /-- LAD_RETAIN (R316): Ladder takes an explicit hold on a scratchpad range. -/
  | ladRetain (m : Token)
  /-- LAD_RELEASE (R313): Ladder ends explicit holds and marks automatic extents released. -/
  | ladRelease (m : Token)
  /-- LAD_READ (R316): Ladder returns pool counters or a profile. -/
  | ladRead (m : Token)
  /-- LAD_CLEAR (R316): Ladder clears the counters of named pools. -/
  | ladClear (m : Token)
  /-- LAD_FORCE (R310): Ladder forces or stops forcing a fixed format for the context. -/
  | ladForce (m : Token)
  /-- HELD_WRITE_RESUME (R313): An engine write waiting on a ladder hold proceeds once no hold covers it. -/
  | heldWriteResume (d : Dest)
  /-- CP_LIN (R329): Copy engine linear byte copy. -/
  | cpLin (m : Token)
  /-- CP_2D (R330): Copy engine strided two-dimensional copy. -/
  | cp2d (m : Token)
  /-- CP_TR (R331): Copy engine block transpose. -/
  | cpTr (m : Token)
  /-- CP_ZIP (R335): Copy engine compresses tiles into a bounded buffer. -/
  | cpZip (m : Token)
  /-- CP_UNZIP (R337): Copy engine decompresses tiles. -/
  | cpUnzip (m : Token)
  /-- CP_FILL (R332): Copy engine fills a range with a pattern. -/
  | cpFill (m : Token)
  /-- CP_GATH (R333): Copy engine copies a list of items. -/
  | cpGath (m : Token)
  /-- CP_FENCE (R342): Copy engine joins inboxes. -/
  | cpFence (m : Token)
  /-- DRAIN_HANDOFF (R340): A pool drain row is handed to a copy inbox as a one-row copy. -/
  | drainHandoff (pl id : Nat)
  /-- STK_GEMV (R353): Stack engine matrix-vector product into Y. -/
  | stkGemv (m : Token)
  /-- STK_GEMV_ACC (R353): Stack engine matrix-vector product accumulated into Y. -/
  | stkGemvAcc (m : Token)
  /-- STK_LOAD (R350): Stack engine loads a vector slot. -/
  | stkLoad (m : Token)
  /-- STK_STAT (R355): Stack engine returns its counters, optionally clearing them. -/
  | stkStat (m : Token)
  /-- STK_FENCE (R356): Stack engine joins inboxes. -/
  | stkFence (m : Token)
  /-- REFRESH_INTERVAL (R360): At each tREFI a channel issues or postpones its refresh. -/
  | refreshInterval (st ch : Nat) (postpone : Bool)
  /-- REFRESH_PULL_IN (R360): A channel idle for 200 ns may refresh ahead of time. -/
  | refreshPullIn (st ch : Nat)
  /-- REMAP_REBUILD (R364): A failed remap-table copy is rebuilt from its mirror. -/
  | remapRebuild (st : Nat)
  /-- PG_MOVE (R397): Page engine moves a page to a tier and die. -/
  | pgMove (m : Token)
  /-- PG_ABORT (R398): Page engine aborts an unsealed move. -/
  | pgAbort (m : Token)
  /-- PG_PIN (R399): Page engine adds a hold to consecutive pages. -/
  | pgPin (m : Token)
  /-- PG_UNPIN (R399): Page engine removes a hold from consecutive pages. -/
  | pgUnpin (m : Token)
  /-- PG_HOT (R400): Page engine reads hotness of pages, optionally clearing it. -/
  | pgHot (m : Token)
  /-- PG_VIEW_OPEN (R388): Page engine opens a snapshot view for the context. -/
  | pgViewOpen (m : Token)
  /-- PG_VIEW_CLOSE (R392): Page engine closes the context's view and sweeps old copies. -/
  | pgViewClose (m : Token)
  /-- PG_INVAL (R402): Page engine shoots down pages or an ASID, with optional teardown. -/
  | pgInval (m : Token)
  /-- PG_PROBE (R403): Page engine walks a VA and returns entry and side state. -/
  | pgProbe (m : Token)
  /-- PG_FENCE (R404): Page engine joins inboxes. -/
  | pgFence (m : Token)
  /-- WALK (R371): A walker resolves ASID, VA and access through the page tables. -/
  | walk (ps : Nat) (asid ctx : Nat) (va : Nat) (wr : Bool)
  /-- SHOOTDOWN_INVALIDATE (R374): A receiver invalidates matching translations and acknowledges. -/
  | shootdownInvalidate (id rc : Nat)
  /-- SHOOTDOWN_COMPLETE (R374): All receivers have acknowledged and the shootdown completes. -/
  | shootdownComplete (id : Nat)
  /-- MOVE_BEGIN (R379): A move takes a free frame and sets the leaf to MOVING once unheld. -/
  | moveBegin (id : Nat)
  /-- MOVE_LINE_COPY (R380): A line of a moving page is copied and marked at the source home. -/
  | moveLineCopy (id : Nat)
  /-- FORWARD_APPLY (R380): The destination applies a queued forwarded write or access. -/
  | forwardApply (id line : Nat)
  /-- MOVE_CUTOVER (R381): With queues empty the leaf is swapped to the destination and a shootdown begins. -/
  | moveCutover (id : Nat)
  /-- MOVE_COPY_RESUME (R382): A paused move resumes copying when HOLD returns to 0. -/
  | moveCopyResume (id : Nat)
  /-- MOVE_TIMEOUT (R382): A hold outlasting MOVETO ends or aborts the move with HELD. -/
  | moveTimeout (id : Nat)
  /-- MOVE_ABORT (R383): An abort cause before the seal sets ABORTING and stops copying. -/
  | moveAbort (id : Nat) (cause : Nat)
  /-- MOVE_ABORT_FINISH (R383): After discarding in-flight copies the leaf returns to HOME and MIGABORT is sent. -/
  | moveAbortFinish (id : Nat)
  /-- TWIN_LINE_COPY (R390): A twin fill copies a line to the new frame. -/
  | twinLineCopy (id : Nat)
  /-- TWIN_FILL_COMPLETE (R390): A completed fill links the old copy and starts a shootdown. -/
  | twinFillComplete (id : Nat)
  /-- HOT_HALVE (R386): Every 2^20 clk HOT is halved in every side entry. -/
  | hotHalve (die : Nat)
  /-- AUTO_MOVE_START (R387): A queued automatic move runs as pg.move. -/
  | autoMoveStart (die : Nat)
  /-- HOLD_GRANT (R377): A hold waiting at HOLD = 255 is taken once the count falls. -/
  | holdGrant (id : Nat)
  /-- LN_PUT (R422): Link engine copies local bytes into the domain window. -/
  | lnPut (m : Token)
  /-- LN_GET (R422): Link engine copies remote bytes into local memory. -/
  | lnGet (m : Token)
  /-- LN_ALLRED (R428): Link engine all-reduce over a group. -/
  | lnAllred (m : Token)
  /-- LN_REDSC (R428): Link engine reduce-scatter over a group. -/
  | lnRedsc (m : Token)
  /-- LN_ALLGATH (R428): Link engine all-gather over a group. -/
  | lnAllgath (m : Token)
  /-- LN_BCAST (R428): Link engine broadcast from ROOT. -/
  | lnBcast (m : Token)
  /-- LN_BARRIER (R431): Link engine barrier over a group. -/
  | lnBarrier (m : Token)
  /-- LN_SIGNAL (R423): Link engine atomic add with an optional notice to a remote destination. -/
  | lnSignal (m : Token)
  /-- LN_JOIN (R425): Link engine joins a group after a digest exchange. -/
  | lnJoin (m : Token)
  /-- LN_JOIN_LEAVE (R426): Link engine frees a group on this module after earlier collectives. -/
  | lnJoinLeave (m : Token)
  /-- LN_FENCE (R432): Link engine joins inboxes at domain scope. -/
  | lnFence (m : Token)
  /-- LN_STAT (R433): Link engine returns its counters, optionally clearing them. -/
  | lnStat (m : Token)
  /-- INBOUND_REQUEST (R411): A remote request is checked against inbound windows and performed or refused. -/
  | inboundRequest (l : Nat) (r : Inbound)
  /-- REMOTE_REPLY (R412): A reply from a remote home returns to its requester. -/
  | remoteReply (id : Nat) (r : RemoteData)
  /-- REMOTE_REQUEST_TIMEOUT (R417): A remote request without reply within REQTO fails with LINK. -/
  | remoteRequestTimeout (id : Nat)
  /-- FLIT_REPLAY (R415): A flit failing CRC is replayed, and a repeatedly failing lane dropped. -/
  | flitReplay (l port : Nat) (dropLane : Bool)
  /-- PORT_DOWN (R416): A down port's devices move to other ports and outstanding requests are resent. -/
  | portDown (l port : Nat)
  /-- JOIN_DIGEST_ARRIVE (R425): A member's join digest arrives and may complete the join. -/
  | joinDigestArrive (gid rank : Nat) (dg : Word)
  /-- COLLECTIVE_DESCRIPTOR (R427): A member's collective descriptor arrives and may start or fail the collective. -/
  | collectiveDescriptor (gid rank : Nat) (d : CollDesc)
  /-- COLLECTIVE_TIMEOUT (R427): A join or collective not matched within COLLTO completes TIMEOUT. -/
  | collectiveTimeout (gid : Nat)
  /-- SIGNAL_NOTICE (R423): The target link engine injects an ln.signal notice. -/
  | signalNotice (l : Nat) (n : Notice)
  /-- COMMAND_WINDOW_WRITE (R438): A host write to a command window stages bytes and accepts complete commands. -/
  | commandWindowWrite (off : Nat) (data : List Byte)
  /-- OVERFLOW_AREA_RETURN (R440): A command returns from the overflow area to a freed on-chip slot. -/
  | overflowAreaReturn (q : Nat)
  /-- LAUNCH (R450): Front checks and performs a launch on its partition. -/
  | launch (c : Cmd)
  /-- WAIT (R444): Front blocks its queue until another queue's command completes. -/
  | wait (c : Cmd)
  /-- SIGNAL (R445): Front writes a value, posts a token and raises an MSI-X vector. -/
  | signal (c : Cmd)
  /-- PREEMPT (R454): Front drains a context, loads the overlay and starts its save. -/
  | preempt (c : Cmd)
  /-- SAVE_COMPLETE (R454): The save image is written, the context completes PREEMPTED and the slot is freed. -/
  | saveComplete (slot : Nat)
  /-- RESUME (R458): Front restores a saved context into a slot, relocating if needed. -/
  | resume (c : Cmd)
  /-- RESTORE_COMPLETE (R458): Restored state is in place, keepers start and RESUMED is journaled. -/
  | restoreComplete (slot : Nat)
  /-- RESET_PART (R463): Front resets its queue's partition. -/
  | resetPart (c : Cmd)
  /-- QUERY (R446): Front writes queue or slot state to memory. -/
  | query (c : Cmd)
  /-- COMMAND_RESERVED (R439): A command in line 7 completes REFUSED with BADARG. -/
  | commandReserved (c : Cmd)
  /-- CONTEXT_END (R452): A context whose work is all gone ends, frees its resources and sends its end token. -/
  | contextEnd (slot : Nat)
  /-- WATCHDOG_EXPIRE (R462): A context's watchdog expires and the front drains, saves, ends or resets it. -/
  | watchdogExpire (slot : Nat)
  /-- DRAIN_DEADLINE_EXPIRE (R462): The drain deadline passes and the partition is reset. -/
  | drainDeadlineExpire (slot : Nat)
  /-- PARTITION_RESET_COMPLETE (R463): A partition reset completes and its sectors become ready. -/
  | partitionResetComplete (id : Nat)
  /-- PARTITION_WRITE (R449): Write of FRONT.PARTn, ignored with ERRPART when it conflicts. -/
  | partitionWrite (n : Nat) (v : Word)
  /-- SECTOR_GATE (R466): Writing 1 to a FRONT.SECPWR bit gates a sector or sets ERRGATE. -/
  | sectorGate (ps : Nat)
  /-- SECTOR_WAKE (R466): Writing 0 to a FRONT.SECPWR bit enables a sector's rails. -/
  | sectorWake (ps : Nat)
  /-- SECTOR_CLOCK_START (R466): At 3.0 µs power is good and clocks start. -/
  | sectorClockStart (ps : Nat)
  /-- SECTOR_STATE_RESET (R466): At 3.5 µs the waking sector's state is reset. -/
  | sectorStateReset (ps : Nat)
  /-- SECTOR_READY (R466): At 4.0 µs the sector is marked ready and held tokens enter. -/
  | sectorReady (ps : Nat)
  /-- CLOCK_THROTTLE_STEP (R497): The 1 ms power average or temperature lowers or raises the clock by 75 MHz. -/
  | clockThrottleStep (e : EnvSample)
  /-- HOST_MEMORY_ACCESS (R490): A host access through BAR2 is performed at its home or refused. -/
  | hostMemoryAccess (r : HostAccess)
  /-- CXL_PORT_ENABLE (R494): Setting CXLP.CTL.EN trains the link and commits its decoder. -/
  | cxlPortEnable (p : Nat) (ok : Bool) (cap : Nat)
  /-- CXL_PORT_DISABLE (R495): Clearing CXLP.CTL.EN takes the link down. -/
  | cxlPortDisable (p : Nat)
  /-- CXL_LINK_DOWN (R494): A CXL link going down while enabled poisons its range and logs a fatal record. -/
  | cxlLinkDown (p : Nat)
  /-- LINK_DEVID_VALID (R409): Setting LINK.DEVID.VALID on both link dies lets Rendun ports come up. -/
  | linkDevidValid (l : Nat)
  /-- FIRMWARE_LOAD (R471): CUST.BOOT.GO loads and verifies the firmware image. -/
  | firmwareLoad (img : Option (List Byte))
  /-- GET_VERSION (R474): SPDM GET_VERSION request. -/
  | getVersion (req : List Byte)
  /-- GET_CAPABILITIES (R474): SPDM GET_CAPABILITIES request. -/
  | getCapabilities (req : List Byte)
  /-- NEGOTIATE_ALGORITHMS (R474): SPDM NEGOTIATE_ALGORITHMS request. -/
  | negotiateAlgorithms (req : List Byte)
  /-- GET_DIGESTS (R474): SPDM GET_DIGESTS request. -/
  | getDigests (req : List Byte)
  /-- GET_CERTIFICATE (R474): SPDM GET_CERTIFICATE request. -/
  | getCertificate (req : List Byte)
  /-- CHALLENGE (R474): SPDM CHALLENGE request. -/
  | challenge (req : List Byte)
  /-- GET_MEASUREMENTS (R474): SPDM GET_MEASUREMENTS request returning the four measurements. -/
  | getMeasurements (req : List Byte)
  /-- KEY_EXCHANGE (R474): SPDM KEY_EXCHANGE request. -/
  | keyExchange (req : List Byte)
  /-- FINISH (R474): SPDM FINISH request. -/
  | finish (req : List Byte)
  /-- END_SESSION (R474): SPDM END_SESSION request. -/
  | endSession (req : List Byte)
  /-- SPDM_UNSUPPORTED_REQUEST (R474): Any other SPDM request is answered ERROR UnsupportedRequest. -/
  | spdmUnsupportedRequest (req : List Byte)
  /-- IDE_ENABLE (R475): Setting CUST.IDE.EN opens an SPDM session and programs IDE keys for a port. -/
  | ideEnable (p : Nat) (ok : Bool)
  /-- IDE_FAILURE (R475): A failed IDE session or key refresh sets ERR and blocks the port. -/
  | ideFailure (p : Nat)
  /-- DEBUG_LEVEL_WRITE (R477): Write of CUST.SEC.LEVEL, ignored with LVLERR above the permitted level. -/
  | debugLevelWrite (lvl : BitVec 2)
  /-- WATCHPOINT_WRITE (R480): Write of CUST.WPCTLw, ignored with LVLERR when ACT = 1 below level 2. -/
  | watchpointWrite (wp : Nat) (v : Word)
  /-- ERROR_DETECT (R484): A detected error writes an error record with TEST pending. -/
  | errorDetect (e : ErrInfo)
  /-- SELF_TEST_START (R485): A targeted self-test starts when a test slot is free and the resource allows. -/
  | selfTestStart (rec : Nat)
  /-- SELF_TEST_COMPLETE (R486): A self-test ends, the record is rewritten and any lasting fault repaired. -/
  | selfTestComplete (rec : Nat) (lasting : Bool)
  /-- FRAME_LINE_RETIRE (R486): A deferred frame-line retirement is made once the cell is free. -/
  | frameLineRetire (ci line : Nat)
  /-- JTAG_BYPASS (R479): JTAG BYPASS instruction. -/
  | jtagBypass (dr : List Bool)
  /-- JTAG_SAMPLE_PRELOAD (R479): JTAG SAMPLE/PRELOAD instruction. -/
  | jtagSamplePreload (dr : List Bool)
  /-- JTAG_EXTEST (R479): JTAG EXTEST, permitted only in FA at level 2. -/
  | jtagExtest (dr : List Bool)
  /-- JTAG_INTEST (R479): JTAG INTEST, permitted only in FA at level 2. -/
  | jtagIntest (dr : List Bool)
  /-- JTAG_REGISTER_READ (R477): Non-intrusive JTAG register read within its scope. -/
  | jtagRegisterRead (pa : Nat)
  /-- JTAG_WRITE (R477): Intrusive JTAG register or memory write. -/
  | jtagWrite (pa : Nat) (v : Word) (isReg : Bool)
  /-- JTAG_MEMORY_READ (R477): Intrusive JTAG memory read. -/
  | jtagMemoryRead (pa : Nat)
  /-- JTAG_KEEPER_HALT (R477): Intrusive JTAG halt of a keeper. -/
  | jtagKeeperHalt (ps : Nat)
  /-- JTAG_KEEPER_STEP (R477): Intrusive JTAG single step of a keeper. -/
  | jtagKeeperStep (ps : Nat)
  /-- PLDM_SENSOR_READ (R500): A PLDM request over I3C reads a module sensor. -/
  | pldmSensorRead (n : Nat)
  /-- PLDM_SET_EFFECTER (R500): A PLDM request over I3C sets MOD.PCAP. -/
  | pldmSetEffecter (v : Nat)
  /-- TREF2X_CHANGE (R360): A stack's temperature crosses 85 °C, halving or restoring tREFI and setting or clearing STK.STATUS.TREF2X. -/
  | tref2xChange (st : Nat) (hot : Bool)
  /-- MEMORY_TRAINED (R492): HBM4E or LPDDR-6 training completes and MOD.STATUS.HBMRDY or LPRDY is set, opening those ranges to host accesses and launches. -/
  | memoryTrained (lp : Bool)
  /-- PORT_UP (R409): A Rendun port finishes training and comes up, setting its LINK.STATUS.UP bit and taking target devices. -/
  | portUp (l port : Nat)
  /-- DEVICE_UNREACHABLE (R417): The switch reports a target device unreachable and the remote request fails at once with LINK. -/
  | deviceUnreachable (id : Nat)
  /-- COLLECTIVE_CONTRIBUTION_ARRIVE (R428): A member's data contribution to a running collective arrives, and the last one lets the member write DST and complete. -/
  | collectiveContributionArrive (gid rank : Nat) (c : Contribution)
  /-- ENGINE_INBOX_STREAM_FAULT (R28): A token of a class not permitted at an engine inbox, or a class-2 token with lane 0 neither 0 nor 1, arrives and is held with a STREAM fault record. -/
  | engineInboxStreamFault (k : Nat)
  /-- KEEPER_TRET (R136): Keeper return from trap to KRESUME, restoring the prior mode. -/
  | keeperTret
  /-- ADD (R168): Worker integer add per sub-element, wrapping or saturating. -/
  | add
  /-- SUB (R168): Worker integer subtract per sub-element. -/
  | sub
  /-- MUL (R168): Worker integer multiply per sub-element. -/
  | mul
  /-- MULH (R168): Worker signed multiply high per sub-element. -/
  | mulh
  /-- MULHN (R168): Worker unsigned multiply high per sub-element. -/
  | mulhn
  /-- NEG (R168): Worker integer negate per sub-element. -/
  | neg
  /-- ABS (R168): Worker integer absolute value per sub-element. -/
  | abs
  /-- MIN (R168): Worker signed minimum per sub-element. -/
  | min
  /-- MAX (R168): Worker signed maximum per sub-element. -/
  | max
  /-- MINN (R168): Worker unsigned minimum per sub-element. -/
  | minn
  /-- MAXN (R168): Worker unsigned maximum per sub-element. -/
  | maxn
  /-- AND (R168): Worker bitwise AND per sub-element. -/
  | and
  /-- OR (R168): Worker bitwise OR per sub-element. -/
  | or
  /-- XOR (R168): Worker bitwise XOR per sub-element. -/
  | xor
  /-- SHL (R168): Worker shift left by y mod w. -/
  | shl
  /-- SHR (R168): Worker logical shift right by y mod w. -/
  | shr
  /-- SRA (R168): Worker arithmetic shift right by y mod w. -/
  | sra
  /-- ROTL (R168): Worker rotate left by y mod w. -/
  | rotl
  /-- CLZ (R169): Worker count of leading zeros per sub-element. -/
  | clz
  /-- POPC (R169): Worker count of one bits per sub-element. -/
  | popc
  /-- BREV (R169): Worker bit reversal per sub-element. -/
  | brev
  /-- CEQ (R170): Worker integer equality mask. -/
  | ceq
  /-- CNE (R170): Worker integer inequality mask. -/
  | cne
  /-- CLT (R170): Worker signed less-than mask. -/
  | clt
  /-- CLE (R170): Worker signed less-or-equal mask. -/
  | cle
  /-- CLTN (R170): Worker unsigned less-than mask. -/
  | cltn
  /-- CLEN (R170): Worker unsigned less-or-equal mask. -/
  | clen
  /-- FADD (R171): Worker float add, rounded under the node's mode. -/
  | fadd
  /-- FSUB (R171): Worker float subtract, rounded under the node's mode. -/
  | fsub
  /-- FMUL (R171): Worker float multiply, rounded under the node's mode. -/
  | fmul
  /-- FFMA (R171): Worker fused multiply-add x*y + z with one rounding, z from a slot. -/
  | ffma
  /-- FNEG (R172): Worker float sign inversion. -/
  | fneg
  /-- FABS (R172): Worker float sign clear. -/
  | fabs
  /-- FMIN (R88): Worker minimumNumber. -/
  | fmin
  /-- FMAX (R88): Worker maximumNumber. -/
  | fmax
  /-- FMINP (R88): Worker NaN-propagating minimum. -/
  | fminp
  /-- FMAXP (R88): Worker NaN-propagating maximum. -/
  | fmaxp
  /-- FCEQ (R89): Worker quiet float equality mask. -/
  | fceq
  /-- FCLT (R89): Worker signalling float less-than mask. -/
  | fclt
  /-- FCLE (R89): Worker signalling float less-or-equal mask. -/
  | fcle
  /-- FCUN (R89): Worker quiet unordered mask. -/
  | fcun
  /-- FRCP (R173): Worker correctly rounded reciprocal. -/
  | frcp
  /-- FRSQ (R173): Worker correctly rounded reciprocal square root. -/
  | frsq
  /-- FEXP2 (R173): Worker base-2 exponential. -/
  | fexp2
  /-- FLOG2 (R173): Worker base-2 logarithm. -/
  | flog2
  /-- FSIN (R173): Worker sine in radians. -/
  | fsin
  /-- FCOS (R173): Worker cosine in radians. -/
  | fcos
  /-- CVT_F (R174): Worker float-to-float conversion into sub-element group SEL. -/
  | cvtF
  /-- CVT_FI (R174): Worker float-to-integer conversion. -/
  | cvtFi
  /-- CVT_IF (R174): Worker integer-to-float conversion. -/
  | cvtIf
  /-- PACK (R175): Worker packs elements of consecutive lanes into sub-elements, changing innermost tags. -/
  | pack
  /-- UNPACK (R175): Worker spreads sub-elements onto separate lanes, changing innermost tags. -/
  | unpack
  /-- PADD (R176): Worker packed add, integer or float by F. -/
  | padd
  /-- PMUL (R176): Worker packed multiply, integer or float by F. -/
  | pmul
  /-- PDOT (R177): Worker per-lane dot product into one 32-bit value. -/
  | pdot
  /-- PMAX (R176): Worker packed maximum. -/
  | pmax
  /-- RSUM (R178): Worker sum of the whole fired run into one lane. -/
  | rsum
  /-- RMAX (R178): Worker maximum of the whole fired run into one lane. -/
  | rmax
  /-- RMIN (R178): Worker minimum of the whole fired run into one lane. -/
  | rmin
  /-- RPREFIX (R179): Worker inclusive prefix sum over element index. -/
  | rprefix
  /-- RSHIFT (R180): Worker whole-lane shift within the fired run. -/
  | rshift
  /-- BAND (R181): Worker bitmap AND with popcounts to destination B. -/
  | band
  /-- BOR (R181): Worker bitmap OR with popcounts to destination B. -/
  | bor
  /-- PCPRE (R182): Worker exclusive prefix counts of one bits. -/
  | pcpre
  /-- BEXP (R183): Worker expands each bitmap word into a run of bit positions. -/
  | bexp
  /-- ISECT (R184): Worker intersects two bitmaps and emits rank pairs per common bit. -/
  | isect
  /-- SLD (R185): Worker gathers elements from named frame lines. -/
  | sld
  /-- SST (R185): Worker scatters elements into named frame lines. -/
  | sst
  /-- LIT (R187): Worker emits the record literal over the trigger's run. -/
  | lit
  /-- STEER_T (R195): Guard sends lanes with a true predicate to A and the rest to B. -/
  | steerT
  /-- STEER_F (R195): Guard sends lanes with a false predicate to A and the rest to B. -/
  | steerF
  /-- MERGE (R196): Guard passes each token of either port on alone. -/
  | merge
  /-- COPY (R196): Guard emits operand a to both destinations. -/
  | copy
  /-- CONST (R198): Guard emits a constants-plane word over the trigger's run. -/
  | const
  /-- SINK (R196): Guard consumes its operand and emits nothing. -/
  | sink
  /-- SEL (R197): Guard selects per lane between b and a frame slot by predicate a. -/
  | sel
  /-- GATE (R196): Guard emits a's lanes over the overlap matched with b. -/
  | gate
  /-- LOOP_ENTER (R203): Guard creates a loop window record and emits iteration 0. -/
  | loopEnter
  /-- LOOP_NEXT (R203): Guard admits the next iteration or holds the token at the window bound. -/
  | loopNext
  /-- LOOP_EXIT (R203): Guard records the exit iteration and emits the value popped. -/
  | loopExit
  /-- LOOP_CLOSE (R203): Guard closes an iteration, advances the window and ends the loop or re-presents held tokens. -/
  | loopClose
  /-- TAG_PUSH (R199): Guard emits a with the push tag operation. -/
  | tagPush
  /-- TAG_POP (R199): Guard emits a with the pop tag operation. -/
  | tagPop
  /-- TAG_SET (R199): Guard emits a with its innermost field set from literal or b. -/
  | tagSet
  /-- TAG_GET (R200): Guard emits a tag field of each lane as n32. -/
  | tagGet
  /-- TAG_INC (R199): Guard emits a with its innermost field incremented. -/
  | tagInc
  /-- CALL_ENTER (R210): Guard enters a call, setting field L+1 to the site number. -/
  | callEnter
  /-- CALL_RET (R211): Guard returns a result to the linkage destination, clearing field L+1. -/
  | callRet
  /-- COUNT (R212): Guard accumulates arriving lanes per key and emits the total at N. -/
  | count
  /-- REORDER (R213): Guard emits runs in order of field L, holding early runs. -/
  | reorder
  /-- SEND (R214): Guard turns operand a into an engine message. -/
  | send
  /-- POST (R215): Guard posts a class-6 token with the literal and a's lanes. -/
  | post
  /-- TRAP (R216): Guard faults its firing with a TRAP code. -/
  | trap
  /-- DRAIN (R217): Guard sends a drain token to each destination early. -/
  | drain
  /-- WAIT_DRAIN (R218): Guard holds its operand in a control entry until the cell forwards its drain. -/
  | waitDrain
  /-- FENCE_Q (R219): Guard sends fence markers to named inboxes and emits a once all return. -/
  | fenceQ
  /-- ROT_LD (R221): Guard reads a rotating slot over the fired run. -/
  | rotLd
  /-- ROT_ST (R221): Guard writes a to a rotating slot and emits it. -/
  | rotSt
  /-- LD (R235): Forager loads 4*L contiguous bytes. -/
  | ld
  /-- ST (R235): Forager stores b's lanes contiguously and acknowledges. -/
  | st
  /-- LD_S (R235): Forager walks a shape record and loads its elements. -/
  | ldS
  /-- ST_S (R235): Forager stores a's elements along a shape record. -/
  | stS
  /-- LD_X (R235): Forager gathers one element per lane. -/
  | ldX
  /-- ST_X (R235): Forager scatters one element per lane. -/
  | stX
  /-- ATOM_ADD (R239): Forager atomic integer add per lane at the home. -/
  | atomAdd
  /-- ATOM_FADD (R239): Forager atomic f32 add per lane at the home. -/
  | atomFadd
  /-- ATOM_MIN (R239): Forager atomic signed minimum. -/
  | atomMin
  /-- ATOM_MAX (R239): Forager atomic signed maximum. -/
  | atomMax
  /-- ATOM_MINN (R239): Forager atomic unsigned minimum. -/
  | atomMinn
  /-- ATOM_MAXN (R239): Forager atomic unsigned maximum. -/
  | atomMaxn
  /-- ATOM_AND (R239): Forager atomic AND. -/
  | atomAnd
  /-- ATOM_OR (R239): Forager atomic OR. -/
  | atomOr
  /-- ATOM_XOR (R239): Forager atomic XOR. -/
  | atomXor
  /-- ATOM_SWAP (R239): Forager atomic swap. -/
  | atomSwap
  /-- ATOM_CAS (R240): Forager atomic compare-and-swap against a slot value. -/
  | atomCas
  /-- ATOM_FINC (R241): Forager bounded fetch-and-increment of a counter. -/
  | atomFinc
  /-- MNOP (R244): Forager chain member that performs no access. -/
  | mnop
  /-- FENCE_REL (R251): Forager release fence at its scope. -/
  | fenceRel
  /-- FENCE_ACQ (R251): Forager acquire fence. -/
  | fenceAcq
  /-- FENCE_FULL (R251): Forager full fence. -/
  | fenceFull
  /-- XLAT (R247): Forager translates a virtual address and emits a four-lane reply. -/
  | xlat
  /-- SHAPE_SET (R233): Forager rewrites a shape-record field from its param port. -/
  | shapeSet
  /-- FLR (R491): Function Level Reset discards staged commands, refuses undispatched ones and resets every partition. -/
  | flr
  /-- MODULE_RESET (R464): PERST# resets the whole module and starts the mask ROM. -/
  | moduleReset
  /-- POWER_ON (R492): 48 V and PWR_EN bring up the module rails until PWR_OK. -/
  | powerOn
  /-- BROWNOUT (R496): Input below 40 V for over 1 ms turns the module off as a module reset. -/
  | brownout
  /-- THERMTRIP (R497): A die above 115 °C asserts THERMTRIP# and turns off. -/
  | thermtrip
  /-- AUTH_PROVISION (R478): A signed PROVISION request moves LOCKED to PROVISIONED. -/
  | authProvision
  /-- AUTH_UNLOCK (R478): A signed UNLOCK request moves PROVISIONED to DEBUG_AUTH. -/
  | authUnlock
  /-- AUTH_FA (R478): A signed FA request zeroes storage, erases keys and enters FA. -/
  | authFa
  /-- RELOCK (R476): Write of CUST.SEC.RELOCK returns DEBUG_AUTH to PROVISIONED. -/
  | relock
  /-- POWER_REQUEST_P0 (R483): Write of CUST.PWR.TARGET 0 or 1 returns the package to P0. -/
  | powerRequestP0
  /-- POWER_REQUEST_P2 (R483): Write of CUST.PWR.TARGET 2 requests P2, or is refused. -/
  | powerRequestP2
  /-- POWER_REQUEST_P3 (R483): Write of CUST.PWR.TARGET 3 requests P3, or is refused. -/
  | powerRequestP3
  /-- POWER_STATE_ENTRY (R483): Once tests and remote traffic are done the package enters P2 or P3. -/
  | powerStateEntry
  /-- POWER_WAKE (R483): An accepted command or host access returns the package to P0. -/
  | powerWake
  /-- RETIRED_LIST (R487): CUST.RETIRED.GO writes the list of retired frames. -/
  | retiredList
  /-- JTAG_IDCODE (R479): JTAG IDCODE returns 0x1A41_D0F3. -/
  | jtagIdcode
  /-- AUTH_REQUEST_UNKNOWN_TYPE (R478): CUST.AUTH.GO starts a request block whose TYPE is none of PROVISION, UNLOCK or FA. -/
  | authRequestUnknownType
deriving DecidableEq, Repr

end Sys2Proof
end

