-- ==== Sys2Proof/WellFormed.lean ====
section
/-! DEFINITION. Which instruction terms are well formed: unit numbers within the machine (R12 to R16, R61, R101), tokens
with as many lanes as their header says (R21, R22), commands of eight words, and illegal keeper words that are really
illegal (R112). -/

namespace Sys2Proof

/-! ## Keeper words (R110 to R112) -/

/-- The major opcode [31:25]. -/
def kMajor (w : BitVec 32) : Nat := (w.extractLsb' 25 7).toNat
/-- Bits [24:20]. -/
def kFieldD (w : BitVec 32) : Reg := w.extractLsb' 20 5
/-- Bits [19:15]. -/
def kFieldA (w : BitVec 32) : Reg := w.extractLsb' 15 5
/-- Bits [14:10]. -/
def kFieldB (w : BitVec 32) : Reg := w.extractLsb' 10 5
/-- Bits [9:0]. -/
def kFunc (w : BitVec 32) : BitVec 10 := w.extractLsb' 0 10
/-- The RI immediate [14:0]. -/
def kImm15 (w : BitVec 32) : BitVec 15 := w.extractLsb' 0 15
/-- The WI or JL immediate [19:0]. -/
def kImm20 (w : BitVec 32) : BitVec 20 := w.extractLsb' 0 20
/-- The SD or CB offset: [24:20] over [9:0]. -/
def kOff15 (w : BitVec 32) : BitVec 15 := w.extractLsb' 20 5 ++ w.extractLsb' 0 10

/-- A word that R112 makes illegal: an unassigned major or func, or a required-zero field that is not zero (R111, R141). -/
def illegalWord (w : BitVec 32) : Bool :=
  match kMajor w with
  | 0x01 => decide (0x00F ≤ (kFunc w).toNat)
  | 0x02 => false | 0x03 => false | 0x04 => false | 0x05 => false
  | 0x06 => (kImm15 w).extractLsb' 6 9 != 0
  | 0x07 => (kImm15 w).extractLsb' 6 9 != 0
  | 0x08 => (kImm15 w).extractLsb' 6 9 != 0
  | 0x09 => false
  | 0x10 => false | 0x11 => false | 0x12 => false | 0x13 => false
  | 0x14 => false | 0x15 => false | 0x16 => false | 0x17 => false
  | 0x18 => false | 0x19 => false | 0x1A => false | 0x1B => false | 0x1C => false | 0x1D => false
  | 0x1E => false | 0x1F => false
  | 0x20 => kFieldA w != 0 || (kImm15 w).extractLsb' 12 3 != 0
  | 0x21 => kFieldD w != 0 || (kImm15 w).extractLsb' 12 3 != 0
  | 0x22 => kFieldD w != 0 || kFieldA w != 0
  | 0x23 => w.extractLsb' 0 25 != 0
  | 0x24 => false
  | 0x25 => w.extractLsb' 2 23 != 0
  | 0x28 => kFieldB w != 0 || kFunc w != 0
  | 0x29 => kFieldD w != 0 || kFieldB w != 0 || (kFunc w).extractLsb' 1 9 != 0
  | 0x2A => kFieldD w != 0 || kFieldB w != 0 || (kFunc w).extractLsb' 1 9 != 0
  | 0x2B => kFieldD w != 0 || kFieldB w != 0 || kFunc w != 0
  | 0x2C => kFieldB w != 0 || (kFunc w).extractLsb' 1 9 != 0
  | 0x2D => kFieldA w != 0 || kFieldB w != 0 || (kFunc w).extractLsb' 1 9 != 0
  | 0x2E => kFieldD w != 0 || kFieldB w != 0 || kFunc w != 0
  | 0x2F => kFieldA w != 0 || kFieldB w != 0 || kFunc w != 0
  | _ => true

/-- A token has as many lanes as its header says; an empty run carries one (R21, R22). -/
def Token.wf (t : Token) : Bool :=
  t.lanes.length == (if t.empty then 1 else if t.len = 0 then 32 else t.len.toNat)

/-- A command of the front: a queue of the 1,024, a command line of the eight, eight words of body (R437, R439). -/
def Cmd.wf (c : Cmd) : Bool := decide (c.queue < 1024) && decide (c.line < 8) && c.body.length == 8

/-- A remote request: 2,048 device ids, 45 bits of offset, three kinds (R62, R411). -/
def Inbound.wf (r : Inbound) : Bool := decide (r.src < 2048) && decide (r.off < 2 ^ 45) && decide (r.kind < 3)

/-- An error's source and severity (R484). -/
def ErrInfo.wf (e : ErrInfo) : Bool := decide (1 ≤ e.source ∧ e.source ≤ 14) && decide (e.severity ≤ 2) && decide (e.upset.length ≤ 72) && e.upset.all (fun x => decide (x < 256))

/-- Well-formed instructions. -/
def Instr.wf : Instr → Bool
  | .illegalInstruction w => illegalWord w
  | .keeperWaitResume ps => decide (ps < 32)
  | .keeperFenceComplete ps => decide (ps < 32)
  | .configDeliveryComplete ps => decide (ps < 32)
  | .spillRecordStore ps => decide (ps < 32)
  | .overflowRoomFreed ps => decide (ps < 32)
  | .overflowChunkReturn ps => decide (ps < 32)
  | .spillReinject ps ci => decide (ps < 32 ∧ ci < 8192)
  | .spillProbe ps ci => decide (ps < 32 ∧ ci < 8192)
  | .drainForward ci => decide (ci < 8192)
  | .secParkResume ps _ => decide (ps < 32)
  | .secParkDiscard ps _ => decide (ps < 32)
  | .registerWrite pa _ => decide (pa % 8 = 0)
  | .engineUnassignedOpcode m => m.wf
  | .steerToken m => m.wf
  | .poolCfg m => m.wf | .poolMap m => m.wf | .poolBload m => m.wf | .poolBloadNm m => m.wf | .poolA m => m.wf
  | .poolMma m => m.wf | .poolMmaBs m => m.wf | .poolDrain m => m.wf | .poolZero m => m.wf | .poolSpan m => m.wf
  | .poolFence m => m.wf | .poolStat m => m.wf | .poolCommit m => m.wf
  | .ladBudget m => m.wf | .ladStart m => m.wf | .ladCap m => m.wf | .ladRetain m => m.wf | .ladRelease m => m.wf
  | .ladRead m => m.wf | .ladClear m => m.wf | .ladForce m => m.wf
  | .cpLin m => m.wf | .cp2d m => m.wf | .cpTr m => m.wf | .cpZip m => m.wf | .cpUnzip m => m.wf | .cpFill m => m.wf
  | .cpGath m => m.wf | .cpFence m => m.wf
  | .stkGemv m => m.wf | .stkGemvAcc m => m.wf | .stkLoad m => m.wf | .stkStat m => m.wf | .stkFence m => m.wf
  | .pgMove m => m.wf | .pgAbort m => m.wf | .pgPin m => m.wf | .pgUnpin m => m.wf | .pgHot m => m.wf
  | .pgViewOpen m => m.wf | .pgViewClose m => m.wf | .pgInval m => m.wf | .pgProbe m => m.wf | .pgFence m => m.wf
  | .lnPut m => m.wf | .lnGet m => m.wf | .lnAllred m => m.wf | .lnRedsc m => m.wf | .lnAllgath m => m.wf
  | .lnBcast m => m.wf | .lnBarrier m => m.wf | .lnSignal m => m.wf | .lnJoin m => m.wf | .lnJoinLeave m => m.wf
  | .lnFence m => m.wf | .lnStat m => m.wf
  | .bSetLoad pl _ => decide (pl < 160) | .passStreamStart pl _ => decide (pl < 160)
  | .spanSumsArrive pl _ => decide (pl < 160) | .ladderDecision pl _ => decide (pl < 160)
  | .replayStream pl _ => decide (pl < 160) | .poolDrainPerform pl _ => decide (pl < 160)
  | .drainHandoff pl _ => decide (pl < 160) | .walkEntryFetch pl => decide (pl < 160) | .walkPark pl => decide (pl < 160)
  | .poolWalkResume pl _ => decide (pl < 160) | .poolWalkAbort pl _ => decide (pl < 160)
  | .refreshInterval k ch _ => decide (k < 12 ∧ ch < 32) | .refreshPullIn k ch => decide (k < 12 ∧ ch < 32)
  | .remapRebuild k => decide (k < 12) | .tref2xChange k _ => decide (k < 12)
  | .walk ps asid ctx va _ => decide (ps < 32 ∧ asid < 16384 ∧ ctx < 4096 ∧ va < 2 ^ 56)
  | .shootdownInvalidate _ rc => decide (rc < 38)
  | .moveAbort _ cause => decide (1 ≤ cause ∧ cause ≤ 7)
  | .hotHalve die => decide (die < 4) | .autoMoveStart die => decide (die < 4)
  | .inboundRequest l r => decide (l < 2) && r.wf
  | .flitReplay l port _ => decide (l < 2 ∧ port < 8) | .portDown l port => decide (l < 2 ∧ port < 8)
  | .portUp l port => decide (l < 2 ∧ port < 8)
  | .signalNotice l _ => decide (l < 2) | .linkDevidValid l => decide (l < 2)
  | .joinDigestArrive _ rank _ => decide (rank < 2048) | .collectiveDescriptor _ rank _ => decide (rank < 2048)
  | .collectiveContributionArrive _ rank _ => decide (rank < 2048)
  | .commandWindowWrite off data => decide (off + data.length ≤ 1024 * 4096)
  | .overflowAreaReturn q => decide (q < 1024)
  | .launch c => c.wf | .wait c => c.wf | .signal c => c.wf | .preempt c => c.wf | .resume c => c.wf
  | .resetPart c => c.wf | .query c => c.wf | .commandReserved c => c.wf
  | .saveComplete slot => decide (slot < 4096) | .restoreComplete slot => decide (slot < 4096)
  | .contextEnd slot => decide (slot < 4096) | .watchdogExpire slot => decide (slot < 4096)
  | .drainDeadlineExpire slot => decide (slot < 4096)
  | .partitionWrite n _ => decide (n < 32)
  | .sectorGate ps => decide (ps < 32) | .sectorWake ps => decide (ps < 32) | .sectorClockStart ps => decide (ps < 32)
  | .sectorStateReset ps => decide (ps < 32) | .sectorReady ps => decide (ps < 32)
  | .hostMemoryAccess r => decide (1 ≤ r.size)
  | .cxlPortEnable p _ _ => decide (p < 4) | .cxlPortDisable p => decide (p < 4) | .cxlLinkDown p => decide (p < 4)
  | .ideEnable p _ => decide (p < 4) | .ideFailure p => decide (p < 4)
  | .watchpointWrite wp _ => decide (wp < 16)
  | .errorDetect e => e.wf
  | .frameLineRetire ci line => decide (ci < 8192 ∧ line < 256)
  | .jtagKeeperHalt ps => decide (ps < 32) | .jtagKeeperStep ps => decide (ps < 32)
  | _ => true

end Sys2Proof
end

