-- ==== Sys2Proof/Decode.lean ====
section
/-! DEFINITION. Decoding (R110 to R118): keeper words, node opcodes and engine opcodes to constructors, and the encoder of
the keeper's words. Steps that the manual gives no encoding have none here. -/

namespace Sys2Proof

/-- The instruction of major 0x01 with a func (R111); none where R112 makes the func illegal. -/
def decodeRR (w : BitVec 32) : Instr :=
  let d := kFieldD w
  let a := kFieldA w
  let b := kFieldB w
  match (kFunc w).toNat with
  | 0x0 => .keeperAdd d a b | 0x1 => .keeperSub d a b | 0x2 => .keeperAnd d a b | 0x3 => .keeperOr d a b
  | 0x4 => .keeperXor d a b | 0x5 => .keeperSll d a b | 0x6 => .keeperSrl d a b | 0x7 => .keeperSra d a b
  | 0x8 => .keeperMul d a b | 0x9 => .keeperMulh d a b | 0xA => .keeperMulhn d a b | 0xB => .keeperSlt d a b
  | 0xC => .keeperSltn d a b | 0xD => .keeperMin d a b | 0xE => .keeperMax d a b
  | _ => .illegalInstruction w

/-- The instruction of a word that is not illegal, by its major (R111, R141). -/
def decodeMajor (w : BitVec 32) : Instr :=
  let d := kFieldD w
  let a := kFieldA w
  let b := kFieldB w
  let i := kImm15 w
  let o := kOff15 w
  match kMajor w with
  | 0x01 => decodeRR w
  | 0x02 => .keeperAddi d a i | 0x03 => .keeperAndi d a i | 0x04 => .keeperOri d a i | 0x05 => .keeperXori d a i
  | 0x06 => .keeperSlli d a (i.extractLsb' 0 6) | 0x07 => .keeperSrli d a (i.extractLsb' 0 6)
  | 0x08 => .keeperSrai d a (i.extractLsb' 0 6) | 0x09 => .keeperLui d (kImm20 w)
  | 0x10 => .keeperLd8 d a i | 0x11 => .keeperLd16 d a i | 0x12 => .keeperLd32 d a i | 0x13 => .keeperLd64 d a i
  | 0x14 => .keeperSt8 a b o | 0x15 => .keeperSt16 a b o | 0x16 => .keeperSt32 a b o | 0x17 => .keeperSt64 a b o
  | 0x18 => .keeperBeq a b o | 0x19 => .keeperBne a b o | 0x1A => .keeperBlt a b o | 0x1B => .keeperBge a b o
  | 0x1C => .keeperBltn a b o | 0x1D => .keeperBgen a b o
  | 0x1E => .keeperJal d (kImm20 w) | 0x1F => .keeperJalr d a i
  | 0x20 => .keeperCsrr d (i.extractLsb' 0 12) | 0x21 => .keeperCsrw a (i.extractLsb' 0 12)
  | 0x22 => .keeperTrap i | 0x23 => .keeperTret | 0x24 => .keeperWait d a i
  | 0x25 => .keeperFence (w.extractLsb' 0 2)
  | 0x28 => .kpLaunch d a | 0x29 => .kpCfgp a (w.getLsbD 0) | 0x2A => .kpCfgk a (w.getLsbD 0) | 0x2B => .kpSend a
  | 0x2C => .kpEvq d a (w.getLsbD 0) | 0x2D => .kpSched d (w.getLsbD 0) | 0x2E => .kpInject a | 0x2F => .kpDrain d
  | _ => .illegalInstruction w

/-- Decode a keeper word: total; every word that R112 makes illegal is `illegalInstruction`. -/
def decode (w : BitVec 32) : Instr := if illegalWord w then .illegalInstruction w else decodeMajor w

/-! ## The encoder (R110, R111, R141) -/

/-- Format RR. -/
def encRR (major : BitVec 7) (d a b : Reg) (func : BitVec 10) : BitVec 32 := major ++ d ++ a ++ b ++ func
/-- Format RI. -/
def encRI (major : BitVec 7) (d a : Reg) (i : BitVec 15) : BitVec 32 := major ++ d ++ a ++ i
/-- Formats WI and JL. -/
def encWI (major : BitVec 7) (d : Reg) (i : BitVec 20) : BitVec 32 := major ++ d ++ i
/-- Formats SD and CB. -/
def encSD (major : BitVec 7) (a b : Reg) (o : BitVec 15) : BitVec 32 :=
  major ++ o.extractLsb' 10 5 ++ a ++ b ++ o.extractLsb' 0 10

/-- The word of a keeper instruction; none for a step that the manual gives no keeper word. -/
def encode : Instr → Option (BitVec 32)
  | .keeperAdd d a b => some (encRR 0x01 d a b 0x0) | .keeperSub d a b => some (encRR 0x01 d a b 0x1)
  | .keeperAnd d a b => some (encRR 0x01 d a b 0x2) | .keeperOr d a b => some (encRR 0x01 d a b 0x3)
  | .keeperXor d a b => some (encRR 0x01 d a b 0x4) | .keeperSll d a b => some (encRR 0x01 d a b 0x5)
  | .keeperSrl d a b => some (encRR 0x01 d a b 0x6) | .keeperSra d a b => some (encRR 0x01 d a b 0x7)
  | .keeperMul d a b => some (encRR 0x01 d a b 0x8) | .keeperMulh d a b => some (encRR 0x01 d a b 0x9)
  | .keeperMulhn d a b => some (encRR 0x01 d a b 0xA) | .keeperSlt d a b => some (encRR 0x01 d a b 0xB)
  | .keeperSltn d a b => some (encRR 0x01 d a b 0xC) | .keeperMin d a b => some (encRR 0x01 d a b 0xD)
  | .keeperMax d a b => some (encRR 0x01 d a b 0xE)
  | .keeperAddi d a i => some (encRI 0x02 d a i) | .keeperAndi d a i => some (encRI 0x03 d a i)
  | .keeperOri d a i => some (encRI 0x04 d a i) | .keeperXori d a i => some (encRI 0x05 d a i)
  | .keeperSlli d a sh => some (encRI 0x06 d a ((0 : BitVec 9) ++ sh))
  | .keeperSrli d a sh => some (encRI 0x07 d a ((0 : BitVec 9) ++ sh))
  | .keeperSrai d a sh => some (encRI 0x08 d a ((0 : BitVec 9) ++ sh))
  | .keeperLui d i => some (encWI 0x09 d i)
  | .keeperLd8 d a i => some (encRI 0x10 d a i) | .keeperLd16 d a i => some (encRI 0x11 d a i)
  | .keeperLd32 d a i => some (encRI 0x12 d a i) | .keeperLd64 d a i => some (encRI 0x13 d a i)
  | .keeperSt8 a b o => some (encSD 0x14 a b o) | .keeperSt16 a b o => some (encSD 0x15 a b o)
  | .keeperSt32 a b o => some (encSD 0x16 a b o) | .keeperSt64 a b o => some (encSD 0x17 a b o)
  | .keeperBeq a b o => some (encSD 0x18 a b o) | .keeperBne a b o => some (encSD 0x19 a b o)
  | .keeperBlt a b o => some (encSD 0x1A a b o) | .keeperBge a b o => some (encSD 0x1B a b o)
  | .keeperBltn a b o => some (encSD 0x1C a b o) | .keeperBgen a b o => some (encSD 0x1D a b o)
  | .keeperJal d o => some (encWI 0x1E d o) | .keeperJalr d a i => some (encRI 0x1F d a i)
  | .keeperCsrr d c => some (encRI 0x20 d 0 ((0 : BitVec 3) ++ c))
  | .keeperCsrw a c => some (encRI 0x21 0 a ((0 : BitVec 3) ++ c))
  | .keeperTrap c => some (encRI 0x22 0 0 c)
  | .keeperTret => some (encRR 0x23 0 0 0 0)
  | .keeperWait d a i => some (encRI 0x24 d a i)
  | .keeperFence sc => some (encRR 0x25 0 0 0 ((0 : BitVec 8) ++ sc))
  | .kpLaunch d a => some (encRR 0x28 d a 0 0)
  | .kpCfgp a ntf => some (encRR 0x29 0 a 0 ((0 : BitVec 9) ++ BitVec.ofBool ntf))
  | .kpCfgk a ntf => some (encRR 0x2A 0 a 0 ((0 : BitVec 9) ++ BitVec.ofBool ntf))
  | .kpSend a => some (encRR 0x2B 0 a 0 0)
  | .kpEvq d a peek => some (encRR 0x2C d a 0 ((0 : BitVec 9) ++ BitVec.ofBool peek))
  | .kpSched d rew => some (encRR 0x2D d 0 0 ((0 : BitVec 9) ++ BitVec.ofBool rew))
  | .kpInject a => some (encRR 0x2E 0 a 0 0)
  | .kpDrain d => some (encRR 0x2F d 0 0 0)
  | .illegalInstruction w => some w
  | _ => none

/-! ## Node opcodes (R113 to R115) -/

/-- The worker, guard and forager opcodes and their instructions. -/
def nodeOpcodes : List (Nat × Instr) :=
  [(0x000, Instr.add), (0x001, Instr.sub), (0x002, Instr.mul), (0x003, Instr.mulh), (0x004, Instr.mulhn), (0x005, Instr.neg), (0x006, Instr.abs),
   (0x007, Instr.min), (0x008, Instr.max), (0x009, Instr.minn), (0x00A, Instr.maxn), (0x00B, Instr.and), (0x00C, Instr.or), (0x00D, Instr.xor),
   (0x00E, Instr.shl), (0x00F, Instr.shr), (0x010, Instr.sra), (0x011, Instr.rotl), (0x012, Instr.clz), (0x013, Instr.popc), (0x014, Instr.brev)] ++
  [(0x020, Instr.ceq), (0x021, Instr.cne), (0x022, Instr.clt), (0x023, Instr.cle), (0x024, Instr.cltn), (0x025, Instr.clen), (0x030, Instr.fadd),
   (0x031, Instr.fsub), (0x032, Instr.fmul), (0x033, Instr.ffma), (0x034, Instr.fneg), (0x035, Instr.fabs), (0x036, Instr.fmin), (0x037, Instr.fmax),
   (0x038, Instr.fminp), (0x039, Instr.fmaxp), (0x03A, Instr.fceq), (0x03B, Instr.fclt), (0x03C, Instr.fcle), (0x03D, Instr.fcun)] ++
  [(0x040, Instr.frcp), (0x041, Instr.frsq), (0x042, Instr.fexp2), (0x043, Instr.flog2), (0x044, Instr.fsin), (0x045, Instr.fcos), (0x050, Instr.cvtF),
   (0x051, Instr.cvtFi), (0x052, Instr.cvtIf), (0x053, Instr.pack), (0x054, Instr.unpack), (0x060, Instr.padd), (0x061, Instr.pmul), (0x062, Instr.pdot),
   (0x063, Instr.pmax), (0x070, Instr.rsum), (0x071, Instr.rmax), (0x072, Instr.rmin), (0x073, Instr.rprefix), (0x074, Instr.rshift)] ++
  [(0x080, Instr.band), (0x081, Instr.bor), (0x082, Instr.pcpre), (0x083, Instr.bexp), (0x084, Instr.isect), (0x090, Instr.sld), (0x091, Instr.sst),
   (0x0A0, Instr.lit)] ++
  [(0x100, Instr.steerT), (0x101, Instr.steerF), (0x102, Instr.merge), (0x103, Instr.copy), (0x104, Instr.const), (0x105, Instr.sink), (0x106, Instr.sel),
   (0x107, Instr.gate), (0x110, Instr.loopEnter), (0x111, Instr.loopNext), (0x112, Instr.loopExit), (0x113, Instr.loopClose), (0x118, Instr.tagPush),
   (0x119, Instr.tagPop), (0x11A, Instr.tagSet), (0x11B, Instr.tagGet), (0x11C, Instr.tagInc), (0x120, Instr.callEnter), (0x121, Instr.callRet)] ++
  [(0x128, Instr.count), (0x129, Instr.reorder), (0x130, Instr.send), (0x131, Instr.post), (0x132, Instr.trap), (0x133, Instr.drain),
   (0x134, Instr.waitDrain), (0x135, Instr.fenceQ), (0x138, Instr.rotLd), (0x139, Instr.rotSt)] ++
  [(0x180, Instr.ld), (0x181, Instr.st), (0x182, Instr.ldS), (0x183, Instr.stS), (0x184, Instr.ldX), (0x185, Instr.stX), (0x190, Instr.atomAdd),
   (0x191, Instr.atomFadd), (0x192, Instr.atomMin), (0x193, Instr.atomMax), (0x194, Instr.atomMinn), (0x195, Instr.atomMaxn), (0x196, Instr.atomAnd),
   (0x197, Instr.atomOr), (0x198, Instr.atomXor), (0x199, Instr.atomSwap), (0x19A, Instr.atomCas), (0x19B, Instr.atomFinc)] ++
  [(0x1A0, Instr.mnop), (0x1A1, Instr.fenceRel), (0x1A2, Instr.fenceAcq), (0x1A3, Instr.fenceFull), (0x1B0, Instr.xlat), (0x1B1, Instr.shapeSet)]

/-- The instruction of the row with a number, or none. -/
def lookupOpcode : List (Nat × Instr) → Nat → Option Instr
  | [], _ => none
  | (j, i) :: t, k => if j = k then some i else lookupOpcode t k

/-- The instruction of a node opcode; none where it is unassigned (R117). -/
def nodeInstr (op : Nat) : Option Instr := lookupOpcode nodeOpcodes op

/-- The instruction of a node record: its opcode field [95:87] (R98). -/
def decodeNode (b : BitVec 96) : Option Instr := nodeInstr (b.extractLsb' 87 9).toNat

/-! ## Engine opcodes (R118) -/

/-- A pool's commands. -/
def poolInstr (m : Token) : Nat → Instr
  | 0x01 => .poolCfg m | 0x02 => .poolMap m | 0x03 => .poolBload m | 0x04 => .poolBloadNm m | 0x05 => .poolA m
  | 0x06 => .poolMma m | 0x07 => .poolMmaBs m | 0x08 => .poolDrain m | 0x09 => .poolZero m | 0x0A => .poolSpan m
  | 0x0B => .poolFence m | 0x0C => .poolStat m | 0x0D => .poolCommit m
  | _ => .engineUnassignedOpcode m

/-- A ladder controller's commands. -/
def ladInstr (m : Token) : Nat → Instr
  | 0x01 => .ladBudget m | 0x02 => .ladStart m | 0x03 => .ladCap m | 0x04 => .ladRetain m | 0x05 => .ladRelease m
  | 0x06 => .ladRead m | 0x07 => .ladClear m | 0x08 => .ladForce m
  | _ => .engineUnassignedOpcode m

/-- A copy engine's commands. -/
def cpInstr (m : Token) : Nat → Instr
  | 0x01 => .cpLin m | 0x02 => .cp2d m | 0x03 => .cpTr m | 0x04 => .cpZip m | 0x05 => .cpUnzip m | 0x06 => .cpFill m
  | 0x07 => .cpGath m | 0x08 => .cpFence m
  | _ => .engineUnassignedOpcode m

/-- A stack engine's commands. -/
def stkInstr (m : Token) : Nat → Instr
  | 0x01 => .stkGemv m | 0x02 => .stkGemvAcc m | 0x03 => .stkLoad m | 0x04 => .stkStat m | 0x05 => .stkFence m
  | _ => .engineUnassignedOpcode m

/-- A page engine's commands. -/
def pgInstr (m : Token) : Nat → Instr
  | 0x01 => .pgMove m | 0x02 => .pgAbort m | 0x03 => .pgPin m | 0x04 => .pgUnpin m | 0x05 => .pgHot m
  | 0x06 => .pgViewOpen m | 0x07 => .pgViewClose m | 0x08 => .pgInval m | 0x09 => .pgProbe m | 0x0A => .pgFence m
  | _ => .engineUnassignedOpcode m

/-- A link engine's commands; `ln.join` with its LEAVE flag is a step of its own (R426). -/
def lnInstr (m : Token) : Nat → Instr
  | 0x01 => .lnPut m | 0x02 => .lnGet m | 0x03 => .lnAllred m | 0x04 => .lnRedsc m | 0x05 => .lnAllgath m
  | 0x06 => .lnBcast m | 0x07 => .lnBarrier m | 0x08 => .lnSignal m
  | 0x09 => if bitOf (m.lanes.headD 0).toNat 20 then .lnJoinLeave m else .lnJoin m
  | 0x0A => .lnFence m | 0x0B => .lnStat m
  | _ => .engineUnassignedOpcode m

/-! ## The host's numbering -/

/-- The instruction read from a table word: bit 0 is the least significant bit of the first word. Only keeper words have
a numbered encoding, of 32 bits; a record's 96 bits are read as a node. -/
def decodeTableWord (nbits w : Nat) : Option Instr :=
  if nbits ≤ 32 then some (decode (BitVec.ofNat 32 w))
  else if nbits ≤ 96 then decodeNode (BitVec.ofNat 96 w)
  else none

end Sys2Proof
end

