-- ==== Sys2Proof/Machine/Layout.lean ====
section
/-! DEFINITION. Where things stand: the physical map and the on-chip window (R58, R59), destinations (R27), token
headers and images (R21, R42), tag shapes (R30, R32). -/

namespace Sys2Proof.Machine

/-- The base of the on-chip window (R58). -/
def windowBase : Nat := 0x1F0000000000

/-- A sector register's physical address: package sector, unit, offset (R59, region 4). -/
def secReg (ps unit off : Nat) : Nat :=
  windowBase + (ps / 8) * 2 ^ 38 + 4 * 2 ^ 34 + (ps % 8) * 2 ^ 23 + unit * 2 ^ 16 + off

/-- A die register's physical address (R59, region 5). -/
def dieReg (d unit off : Nat) : Nat := windowBase + d * 2 ^ 38 + 5 * 2 ^ 34 + unit * 2 ^ 16 + off

/-- A link die register's physical address, link die A = 0, B = 1 (R59, region 6). -/
def linkReg (l unit off : Nat) : Nat := windowBase + l * 2 ^ 38 + 6 * 2 ^ 34 + unit * 2 ^ 16 + off

/-- The address of a frame line of cell `ci` = 2048·d + 64·y + x (R59, region 0). -/
def frameAddr (ci line : Nat) : Nat := windowBase + (ci / 2048) * 2 ^ 38 + (ci % 2048) * 2 ^ 15 + line * 2 ^ 7

/-- The address of a scratchpad byte of a package sector (R59, region 1). -/
def scratchAddr (ps off : Nat) : Nat := windowBase + (ps / 8) * 2 ^ 38 + 2 ^ 34 + (ps % 8) * 2 ^ 23 + off

/-- The address of a byte of a pool's committed half (R59, region 2). -/
def accAddr (ps p off : Nat) : Nat :=
  windowBase + (ps / 8) * 2 ^ 38 + 2 * 2 ^ 34 + (ps % 8) * 2 ^ 23 + p * 2 ^ 20 + off

/-- The address of a byte of a keeper's local memory (R59, region 3). -/
def kmemAddr (ps off : Nat) : Nat := windowBase + (ps / 8) * 2 ^ 38 + 3 * 2 ^ 34 + (ps % 8) * 2 ^ 23 + off

/-- What a local physical address names (R58, R59). -/
inductive Place where
  | hbm (stack off : Nat)
  | lp (die : Nat)
  | cxl (port off : Nat)
  | frame (ci line : Nat)
  | scratch (ps off : Nat)
  | acc (ps pool off : Nat)
  | kmem (ps off : Nat)
  | sreg (ps unit off : Nat)
  | dreg (die unit off : Nat)
  | lreg (link unit off : Nat)
  | bad
deriving DecidableEq, Repr

/-- The place an on-chip window offset names; bits a region does not name must be zero (R59). -/
def windowPlace (o : Nat) : Place :=
  let d := bits o 39 38
  let ps := 8 * d + bits o 25 23
  match bits o 37 34 with
  | 0 => if bits o 33 26 = 0 then .frame (2048 * d + bits o 25 15) (bits o 14 7) else .bad
  | 1 => if bits o 33 26 = 0 then .scratch ps (bits o 22 0) else .bad
  | 2 => if bits o 33 26 = 0 ∧ bits o 22 20 ≤ 4 ∧ bits o 19 17 = 0 then .acc ps (bits o 22 20) (bits o 16 0) else .bad
  | 3 => if bits o 33 26 = 0 ∧ bits o 22 18 = 0 then .kmem ps (bits o 17 0) else .bad
  | 4 => if bits o 33 26 = 0 ∧ bits o 22 16 ≤ 9 then .sreg ps (bits o 22 16) (bits o 15 0) else .bad
  | 5 => if bits o 33 23 = 0 ∧ bits o 22 16 ≤ 5 then .dreg d (bits o 22 16) (bits o 15 0) else .bad
  | 6 =>
    if bits o 33 23 = 0 ∧ ((d = 0 ∧ bits o 22 16 ≤ 5) ∨ (d = 1 ∧ (bits o 22 16 = 0 ∨ bits o 22 16 = 5)))
    then .lreg d (bits o 22 16) (bits o 15 0) else .bad
  | _ => .bad

/-- The place a local physical address (bit 56 zero) names (R58). -/
def placeOf (pa : Nat) : Place :=
  if pa < 0xC000000000 then .hbm (pa / 2 ^ 36) (pa % 2 ^ 36)
  else if pa < 0x10000000000 then .bad
  else if pa < 0x28000000000 then .lp ((pa - 0x10000000000) / 0x6000000000)
  else if pa < 0x100000000000 then .bad
  else if pa < 0x180000000000 then .cxl ((pa - 0x100000000000) / 2 ^ 41) ((pa - 0x100000000000) % 2 ^ 41)
  else if pa < windowBase then .bad
  else if pa < 0x200000000000 then windowPlace (pa - windowBase)
  else .bad

/-- The compute die that homes a line (R58, R63). -/
def homeDie (pa : Nat) : Nat :=
  match placeOf pa with
  | .hbm k _ => k / 3
  | .lp d => d
  | .cxl p _ => nth 0 [0, 2, 1, 3] p
  | .frame ci _ => ci / 2048
  | .scratch ps _ => ps / 8
  | .acc ps _ _ => ps / 8
  | .kmem ps _ => ps / 8
  | .sreg ps _ _ => ps / 8
  | .dreg d _ _ => d
  | _ => 0

/-- Whether an address lies in global memory: HBM4E, LPDDR-6 or CXL (R58). -/
def isGlobal (pa : Nat) : Bool :=
  match placeOf pa with
  | .hbm _ _ => true
  | .lp _ => true
  | .cxl _ _ => true
  | _ => false

/-- The tier of an address: 0 HBM4E, 1 LPDDR-6, 2 CXL, 3 none of them (R376). -/
def tierOf (pa : Nat) : Nat :=
  match placeOf pa with
  | .hbm _ _ => 0
  | .lp _ => 1
  | .cxl _ _ => 2
  | _ => 3

/-! ## Destinations (R27, R101) -/

/-- Kind of a destination word: 0 none, 1 cell, 2 engine, 3 keeper. -/
def dKind (d : Dest) : Nat := bits d.toNat 20 19
/-- Die of a destination. -/
def dDie (d : Dest) : Nat := bits d.toNat 18 17
/-- Sector field of an engine or keeper destination. -/
def dSec (d : Dest) : Nat := bits d.toNat 16 14
/-- Engine field. -/
def dEng (d : Dest) : Nat := bits d.toNat 13 11
/-- Inbox number. -/
def dInbox (d : Dest) : Nat := bits d.toNat 10 6
/-- Node number of a cell destination. -/
def dNode (d : Dest) : Nat := bits d.toNat 5 2
/-- Port of a cell destination. -/
def dPort (d : Dest) : Nat := bits d.toNat 1 0
/-- The cell a destination of kind 01 names. -/
def dCell (d : Dest) : Nat := 2048 * dDie d + 64 * bits d.toNat 10 6 + bits d.toNat 16 11
/-- The package sector an engine or keeper destination names. -/
def dSector (d : Dest) : Nat := 8 * dDie d + dSec d

/-- The R27 form: every field the table marks zero is zero. -/
def destForm (d : Dest) : Bool :=
  match dKind d with
  | 0 => bits d.toNat 18 0 == 0
  | 1 => true
  | 2 => bits d.toNat 5 0 == 0
  | _ => bits d.toNat 13 0 == 0

/-- The destination word of a cell's node port. -/
def cellDest (ci node port : Nat) : Dest :=
  BitVec.ofNat 21 (2 ^ 19 + (ci / 2048) * 2 ^ 17 + (ci % 64) * 2 ^ 11 + ((ci % 2048) / 64) * 2 ^ 6 + node * 4 + port)

/-- The destination word of an engine port of a die. -/
def engineDest (die sec eng inbox : Nat) : Dest :=
  BitVec.ofNat 21 (2 * 2 ^ 19 + die * 2 ^ 17 + sec * 2 ^ 14 + eng * 2 ^ 11 + inbox * 2 ^ 6)

/-- The destination word of a keeper's event queue. -/
def keeperDest (ps : Nat) : Dest := BitVec.ofNat 21 (3 * 2 ^ 19 + (ps / 8) * 2 ^ 17 + (ps % 8) * 2 ^ 14)

/-- The same destination with its inbox number zero: the engine port as a source word (R29). -/
def portOf (d : Dest) : Dest := engineDest (dDie d) (dSec d) (dEng d) 0

/-- The engines (R101). -/
inductive Engine where
  | pool (pl : Nat)
  | copy (ps : Nat)
  | ladder (ps : Nat)
  | stack (st : Nat)
  | page (die : Nat)
  | link (l die : Nat)
deriving DecidableEq, Repr

/-- The engine a destination of kind 10 names, if it names one (R101). -/
def engineOf (d : Dest) : Option Engine :=
  let ps := dSector d
  if dEng d ≤ 4 then some (.pool (5 * ps + dEng d))
  else if dEng d = 5 then some (.copy ps)
  else if dEng d = 6 then some (.ladder ps)
  else if dSec d ≤ 2 then some (.stack (3 * dDie d + dSec d))
  else if dSec d = 3 then some (.page (dDie d))
  else if dSec d = 4 then some (.link (dDie d % 2) (dDie d))
  else none

/-- How many inboxes an engine has (R101). -/
def inboxCount : Engine → Nat
  | .pool _ => 5
  | .copy _ => 4
  | .ladder _ => 1
  | .stack _ => 4
  | .page _ => 4
  | .link _ _ => 8

/-- The inbox a destination names, as a key: a link engine's inbox is one inbox whichever die it is named through. -/
def inboxKey (d : Dest) : Nat :=
  match engineOf d with
  | some (.link l _) => (engineDest l 4 7 (dInbox d)).toNat
  | _ => d.toNat

/-- The sector whose keeper takes an engine's fault records and whose spill area holds its stream-faulted tokens (R28,
R103). -/
def engineSector (d : Dest) : Nat := if dEng d = 7 then 8 * dDie d else dSector d

/-- The package sector of a cell (R13). -/
def sectorOf (ci : Nat) : Nat := 8 * (ci / 2048) + (ci % 64) / 8

/-- The cells of a package sector, in the order 8y + (x mod 8) (R457). -/
def cellsOf (ps : Nat) : List Nat :=
  (upTo 256).map (fun i => 2048 * (ps / 8) + 64 * (i / 8) + 8 * (ps % 8) + i % 8)

/-- The kinds of cell (R14). -/
inductive CellKind where
  | worker
  | guard
  | forager
deriving DecidableEq, Repr

/-- The kind of a cell, fixed by its position (R14). -/
def kindOf (ci : Nat) : CellKind :=
  if ci % 4 = 3 then (if (ci % 2048) / 64 % 4 = 0 then .forager else .guard) else .worker

/-- A cell's home forager (R15). -/
def homeForager (ci : Nat) : Nat :=
  let x := ci % 64
  let y := (ci % 2048) / 64
  2048 * (ci / 2048) + 64 * (4 * (y / 4)) + (4 * (x / 4) + 3)

/-! ## Bytes (R97) -/

/-- The number of a little-endian list of bytes. -/
def leNat : List Byte → Nat
  | [] => 0
  | b :: bs => b.toNat + 256 * leNat bs

/-- The `n` little-endian bytes of a number. -/
def leBytes : Nat → Nat → List Byte
  | 0, _ => []
  | n + 1, v => BitVec.ofNat 8 v :: leBytes n (v / 256)

/-- Bytes as lanes. -/
def lanesOf : List Byte → List Lane
  | a :: b :: c :: d :: t => (d ++ c ++ b ++ a) :: lanesOf t
  | _ => []

/-- Lanes as bytes. -/
def bytesOf : List Lane → List Byte
  | [] => []
  | l :: t => [l.extractLsb' 0 8, l.extractLsb' 8 8, l.extractLsb' 16 8, l.extractLsb' 24 8] ++ bytesOf t

end Sys2Proof.Machine

namespace Sys2Proof

/-! ## Tokens (R21, R22, R42) -/

/-- The run length of a token (R21). -/
def Token.runLen (t : Token) : Nat := if t.len = 0 then 32 else t.len.toNat

/-- A run length as its field. -/
def Machine.lenField (n : Nat) : BitVec 5 := BitVec.ofNat 5 n

/-- The 128-bit header (R21). -/
def Token.header (t : Token) : BitVec 128 :=
  t.dest ++ t.ctx ++ t.len ++ t.width ++ BitVec.ofBool t.poison ++ BitVec.ofBool t.fault ++ BitVec.ofBool t.empty ++
    t.cls ++ t.aux ++ t.tag

/-- The token of a header and a payload. -/
def Machine.tokenOf (h : BitVec 128) (lanes : List Lane) : Token :=
  { dest := h.extractLsb' 107 21, ctx := h.extractLsb' 95 12, len := h.extractLsb' 90 5, width := h.extractLsb' 87 3,
    poison := h.getLsbD 86, fault := h.getLsbD 85, empty := h.getLsbD 84, cls := h.extractLsb' 80 4,
    aux := h.extractLsb' 64 16, tag := h.extractLsb' 0 64, lanes := lanes }

/-- The header as four lanes, [31:0] first (R97). -/
def Token.headerLanes (t : Token) : List Lane :=
  [t.header.extractLsb' 0 32, t.header.extractLsb' 32 32, t.header.extractLsb' 64 32, t.header.extractLsb' 96 32]

/-- Payload lanes: an empty run carries one (R22). -/
def Token.payload (t : Token) : Nat := if t.empty then 1 else t.runLen

/-- Bytes of the token's image in spill-record form: header, payload, padding to a multiple of 32 (R42). -/
def Token.imageSize (t : Token) : Nat := (16 + 4 * t.payload + 31) / 32 * 32

/-- A token with no lanes and every field zero. -/
def Token.zero : Token :=
  { dest := 0, ctx := 0, len := 0, width := 0, poison := false, fault := false, empty := false, cls := 0, aux := 0,
    tag := 0, lanes := [] }

/-- A token's image in spill-record form (R42). -/
def Token.image (t : Token) : List Byte :=
  Machine.padTo 0 t.imageSize (Machine.leBytes 16 t.header.toNat ++ Machine.bytesOf t.lanes)

/-- The token of an image. -/
def Machine.tokenOfImage (bs : List Byte) : Token :=
  let h := Machine.tokenOf (BitVec.ofNat 128 (Machine.leNat (bs.take 16))) []
  { h with lanes := Machine.padTo 0 h.payload (Machine.lanesOf (bs.drop 16)) }

end Sys2Proof

namespace Sys2Proof.Machine

/-! ## Tags (R30, R32, R95) -/

/-- Width of field `k` of a tag shape. -/
def fieldWidth (shape : Word) (k : Nat) : Nat := bits shape.toNat (8 * k + 7) (8 * k)

/-- The widths of a tag shape's fields, outermost first. -/
def fieldWidths (shape : Word) : List Nat := ((upTo 8).map (fieldWidth shape)).takeWhile (fun w => w != 0)

/-- How many fields a shape has. -/
def fieldCount (shape : Word) : Nat := (fieldWidths shape).length

/-- The tag bit at which field `k` begins: P_k. -/
def fieldPos (shape : Word) (k : Nat) : Nat := ((fieldWidths shape).drop (k + 1)).foldl (· + ·) 0

/-- A well-formed shape (R30): at least one field, zeros after a zero width, widths summing to at most 64. -/
def shapeOk (shape : Word) : Bool :=
  let ws := fieldWidths shape
  decide (1 ≤ ws.length) && ((upTo 8).drop ws.length).all (fun k => fieldWidth shape k == 0)
    && decide (ws.foldl (· + ·) 0 ≤ 64)

/-- tag.field(t, k) (R95): 0 at or beyond the shape's fields. -/
def tagField (shape : Word) (t : Word) (k : Nat) : Nat :=
  if k < fieldCount shape then (t.toNat / 2 ^ fieldPos shape k) % 2 ^ fieldWidth shape k else 0

/-- The tag with field `k` set, modulo its width (R95). -/
def setField (shape : Word) (t : Word) (k v : Nat) : Word :=
  if k < fieldCount shape then
    let p := fieldPos shape k
    let w := fieldWidth shape k
    BitVec.ofNat 64 (t.toNat - ((t.toNat / 2 ^ p) % 2 ^ w) * 2 ^ p + (v % 2 ^ w) * 2 ^ p)
  else t

/-- The tag with only its fields 0 to n − 1: the key of an activation or of a node that ignores the others (R202, R212, R213). -/
def keepFields (shape : Word) (t : Word) (n : Nat) : Word := ((upTo 8).drop n).foldl (fun u k => setField shape u k 0) t

/-- The tag with field `k` advanced by `n` (R22). -/
def addField (shape : Word) (t : Word) (k n : Nat) : Word := setField shape t k (tagField shape t k + n)

/-- The tag with the fields beyond field `k` zero: the activation at level `k`. -/
def actTag (shape : Word) (t : Word) (k : Nat) : Word :=
  let p := fieldPos shape k
  BitVec.ofNat 64 (t.toNat / 2 ^ p * 2 ^ p)

/-- Serial comparison of one field of width `w`: `s` before `t` (R32). -/
def fieldOlder (w s t : Nat) : Bool :=
  let d := (t + 2 ^ w - s) % 2 ^ w
  if d = 2 ^ (w - 1) then decide (s < t) else decide (1 ≤ d ∧ d < 2 ^ (w - 1))

/-- Tag `s` is older than tag `t` (R32). -/
def tagOlder (shape : Word) (s t : Word) : Bool :=
  match (upTo (fieldCount shape)).find? (fun k => tagField shape s k != tagField shape t k) with
  | none => false
  | some k => fieldOlder (fieldWidth shape k) (tagField shape s k) (tagField shape t k)

end Sys2Proof.Machine
end

