-- ==== Sys2Proof/Machine/Ecc.lean ====
section
/-! DEFINITION. The code of a stack's lines (R361): RS(72,64) over GF(2⁸), its check symbols, and its decoder. Symbols are
numbers below 256; symbol i is the coefficient of x^(71 − i). -/

namespace Sys2Proof.Machine

/-! ## The field (R361) -/

/-- x·a in the field of x⁸ + x⁴ + x³ + x² + 1. -/
def gfDouble (a : Nat) : Nat := if 128 ≤ a then (2 * a) ^^^ 0x11D else 2 * a

/-- The product of two field elements, over the low `n` bits of the second. -/
def gfMulBits : Nat → Nat → Nat → Nat
  | 0, _, _ => 0
  | n + 1, a, b => (if b % 2 = 1 then a else 0) ^^^ gfMulBits n (gfDouble a) (b / 2)

/-- The product of two field elements. -/
def gfMul (a b : Nat) : Nat := gfMulBits 8 a b

/-- A power of a field element. -/
def gfPow (a : Nat) : Nat → Nat
  | 0 => 1
  | n + 1 => gfMul a (gfPow a n)

/-- The inverse of a field element. -/
def gfInv (a : Nat) : Nat := gfPow a 254

/-- α^n. -/
def gfAlpha (n : Nat) : Nat := gfPow 2 (n % 255)

/-! ## Encoding -/

/-- A polynomial, its highest coefficient first, times (x − r). -/
def timesRoot (p : List Nat) (r : Nat) : List Nat :=
  ((p ++ [0]).zip (0 :: p)).map (fun (e : Nat × Nat) => e.1 ^^^ gfMul r e.2)

/-- The generator g(x) = (x − α⁰)(x − α¹) ⋯ (x − α⁷), its highest coefficient first. -/
def rsGenerator : List Nat := (upTo 8).foldl (fun p i => timesRoot p (gfAlpha i)) [1]

/-- The remainder after one more symbol of the dividend. -/
def rsShift (g rem : List Nat) (d : Nat) : List Nat :=
  let f := d ^^^ nth 0 rem 0
  ((rem.drop 1 ++ [0]).zip (g.drop 1)).map (fun (e : Nat × Nat) => e.1 ^^^ gfMul f e.2)

/-- The eight check symbols of 64 data symbols: symbol 64 + j is the coefficient of x^(7 − j) of the remainder. -/
def rsChecks (data : List Nat) : List Nat := data.foldl (rsShift rsGenerator) (List.replicate 8 0)

/-- The code word of 64 bytes as storage holds it: a poisoned line has each check symbol XORed with 0xFF (R362). -/
def rsStored (data : List Nat) (poison : Bool) : List Nat :=
  data ++ (rsChecks data).map (fun c => if poison then c ^^^ 0xFF else c)

/-! ## Decoding -/

/-- Syndrome k of 72 symbols: their polynomial at α^k. -/
def syndrome (r : List Nat) (k : Nat) : Nat := r.foldl (fun acc c => gfMul acc (gfAlpha k) ^^^ c) 0

/-- The eight syndromes. -/
def syndromes (r : List Nat) : List Nat := (upTo 8).map (syndrome r)

/-- The syndromes of a poisoned line's check symbols (R362). -/
def poisonSyndromes : List Nat := syndromes (List.replicate 64 0 ++ List.replicate 8 0xFF)

/-- The value of a polynomial, its lowest coefficient first. -/
def polyAt (p : List Nat) (x : Nat) : Nat := p.foldr (fun c acc => c ^^^ gfMul acc x) 0

/-- p + k·x^m·q, the lowest coefficients first, of up to nine coefficients. -/
def polyAdd (p q : List Nat) (k m : Nat) : List Nat :=
  (upTo 9).map (fun i => nth 0 p i ^^^ (if m ≤ i then gfMul k (nth 0 q (i - m)) else 0))

/-- The state of the search for the error locator: the locator C and its degree L, and the B, b and m of its last change. -/
structure Locator where
  c : List Nat
  l : Nat
  b : List Nat
  d : Nat
  m : Nat
deriving DecidableEq, Repr

/-- The search taken on by syndrome `n` (Berlekamp and Massey). -/
def Locator.next (s : List Nat) (q : Locator) (n : Nat) : Locator :=
  let d := (upTo (q.l + 1)).foldl (fun acc i => if i ≤ n then acc ^^^ gfMul (nth 0 q.c i) (nth 0 s (n - i)) else acc) 0
  if d = 0 then { q with m := q.m + 1 }
  else
    let c := polyAdd q.c q.b (gfMul d (gfInv q.d)) q.m
    if 2 * q.l ≤ n then { c := c, l := n + 1 - q.l, b := q.c, d := d, m := 1 } else { q with c := c, m := q.m + 1 }

/-- The error locator of eight syndromes. -/
def locatorOf (s : List Nat) : Locator := (upTo 8).foldl (Locator.next s) { c := [1], l := 0, b := [1], d := 1, m := 1 }

/-- The value of an error at the locator's root for symbol `i` (Forney). -/
def errorAt (s : List Nat) (q : Locator) (i : Nat) : Nat :=
  let x := gfAlpha (71 - i)
  let y := gfInv x
  let omega := (upTo 8).map (fun n => (upTo (n + 1)).foldl (fun acc k => acc ^^^ gfMul (nth 0 q.c k) (nth 0 s (n - k))) 0)
  let slope := (upTo 9).map (fun n => if n % 2 = 0 then nth 0 q.c (n + 1) else 0)
  gfMul x (gfMul (polyAt omega y) (gfInv (polyAt slope y)))

/-- What a read of 72 symbols gives (R361, R362). -/
inductive RsRead where
  /-- A code word: its data. -/
  | clean (data : List Nat)
  /-- The syndromes of a poisoned line: its data. -/
  | poisoned (data : List Nat)
  /-- At most four symbols were wrong: the code word's data, and the symbols that were wrong. -/
  | corrected (data : List Nat) (at_ : List Nat)
  /-- No code word lies within four symbols: the data as they are. -/
  | uncorrectable (data : List Nat)
deriving DecidableEq, Repr

/-- A read of 72 symbols (R361, R362). -/
def rsRead (r : List Nat) : RsRead :=
  let s := syndromes r
  if s.all (fun c => c == 0) then .clean (r.take 64)
  else if s = poisonSyndromes then .poisoned (r.take 64)
  else
    let q := locatorOf s
    let bad := (upTo 72).filter (fun i => polyAt q.c (gfInv (gfAlpha (71 - i))) == 0)
    let fixed := (indexed 0 r).map (fun e => if bad.contains e.1 then e.2 ^^^ errorAt s q e.1 else e.2)
    if q.l ≤ 4 ∧ bad.length = q.l ∧ (syndromes fixed).all (fun c => c == 0) then .corrected (fixed.take 64) bad
    else .uncorrectable (r.take 64)

/-- The TSV group of wrong symbols (R361, R365): symbols 4t to 4t + 3 travel in group t; 31 where they span groups. -/
def tsvGroup (bad : List Nat) : Nat :=
  match bad with
  | [] => 31
  | i :: _ => if bad.all (fun j => j / 4 == i / 4) then i / 4 else 31

end Sys2Proof.Machine
end

