-- ==== Sys2Proof/Config.lean ====
section
/-! DEFINITION. What an implementation fixes and the free values: constants without a body, so that no proof can see
what they are. Each is named in the assumption log. -/

namespace Sys2Proof

/-- The free choice among the steps that may come next, by the count of choices made so far (R10, R19, R65). -/
opaque Config.choice : Nat → Nat

/-- A free 64-bit value, fresh for each count. -/
opaque Config.freeWord : Nat → BitVec 64

/-- A free 32-bit value, fresh for each count. -/
opaque Config.freeLane : Nat → BitVec 32

/-- A free byte, fresh for each count. -/
opaque Config.freeByte : Nat → BitVec 8

/-- A byte that a read of a place delivers whose storage is lost (R364, R494), by its address. -/
opaque Config.deadByte : Nat → BitVec 8

/-- A free truth value, fresh for each count. -/
opaque Config.freeBool : Nat → Bool

/-- The `f32` result of `fexp2`, where R173 leaves the bits open within its bound. -/
opaque Config.fexp2 : BitVec 32 → BitVec 32

/-- The `f32` result of `flog2` within the bound of R173. -/
opaque Config.flog2 : BitVec 32 → BitVec 32

/-- The `f32` result of `fsin` within the bound of R173. -/
opaque Config.fsin : BitVec 32 → BitVec 32

/-- The `f32` result of `fcos` within the bound of R173. -/
opaque Config.fcos : BitVec 32 → BitVec 32

/-- What "set from b" (R192) takes for lane 0 of operand b at a firing that has no operand b, by the firing's tag. -/
opaque Config.tagWithoutB : BitVec 64 → BitVec 32

/-- The digest of a group's list (R425). Its algorithm is not the manual's. -/
opaque Config.listDigest : List Nat → BitVec 64

/-- SHA-512 (R471, R474, R478): 64 bytes. Its algorithm is not the manual's. -/
opaque Config.sha512 : List (BitVec 8) → List (BitVec 8)

/-- Whether an RSA-4096 RSASSA-PKCS1-v1_5 signature verifies: modulus, message, signature (R471, R478). -/
opaque Config.rsaVerify : List (BitVec 8) → List (BitVec 8) → List (BitVec 8) → Bool

/-- The public modulus of the Dunhewa firmware key, whose digest the mask ROM holds (R471). -/
opaque Config.firmwareModulus : List (BitVec 8)

/-- The digest of the Dunhewa provisioning key (R478). -/
opaque Config.provisionDigest : List (BitVec 8)

/-- The digest of the Dunhewa failure-analysis key (R478). -/
opaque Config.faDigest : List (BitVec 8)

/-- The mask ROM's bytes (R474, measurement 1). -/
opaque Config.maskRom : List (BitVec 8)

/-- The fuse configuration's bytes apart from the owner hash (R474, measurement 4). -/
opaque Config.fuses : List (BitVec 8)

/-- The certificate chain of the module for a firmware measurement (R473). -/
opaque Config.certificates : List (BitVec 8) → List (BitVec 8)

/-- The bytes of an SPDM answer whose layout the manual leaves to SPDM 1.3 (R474), from the request, the negotiated
state and the measurements. -/
opaque Config.spdmAnswer : List (BitVec 8) → List (BitVec 8) → List (BitVec 8)

/-- The module's serial number, `CUST.SERIAL` (R488). -/
opaque Config.serial : BitVec 64

/-- How many repairs the repair store of 64 KiB holds (R487): the size of its records is not the manual's. -/
opaque Config.repairStore : Nat

/-- The custodian's random nonces (R478). -/
opaque Config.nonce : Nat → BitVec 64

/-- The boundary-scan cells' values (R479). -/
opaque Config.boundaryCell : Nat → Bool

end Sys2Proof
end

