-- ==== Sys2Proof/Machine/State.lean ====
section
/-! DEFINITION. The state of the KZ-A41 as plain data, and its value after module reset. -/

namespace Sys2Proof.Machine

/-- Reasons the machine stops. -/
inductive Fault where
  /-- Raised by `step` while the module has no power and the next input is not power-on (R496, R497): nothing runs.
  Safe: no claim about a running machine can be proved of it. -/
  | poweredOff
deriving DecidableEq, Repr

/-- Reasons an instruction has no meaning. -/
inductive Refusal where
  /-- Raised by an arm of `exec` whose instruction has no meaning yet. Safe. -/
  | notModelled (mnemonic : String)
deriving DecidableEq, Repr

/-- What the next step is: a keeper issues, a cell issues its head firing, an engine takes the head message of an
inbox, the front dispatches the head of a queue, an event happens, or time passes. -/
inductive Turn where
  | keeper (ps : Nat)
  | cell (ci : Nat)
  | inbox (d : Nat)
  | queue (q : Nat)
  | event (i : Instr)
  | pass (n : Nat)
deriving DecidableEq, Repr

/-- A configured node: its opcode (R113 to R115), the rest of its record, and its level (R31, R49). -/
structure Node where
  opcode : Nat
  fields : NodeRec
  level : Nat
deriving DecidableEq, Repr

/-- A configuration plane of a cell (R49): the nodes that are configured, the region sizes P and Q, the drain fan-in,
the context it was delivered for (R38), and whether it is the propolis overlay (R72). -/
structure Plane where
  nodes : Tab Node
  named : Nat
  rotating : Nat
  fanin : Nat
  ctx : Option Nat
  overlay : Bool
deriving DecidableEq, Repr

/-- An entry of a matching store (R34): a waiting run whose lanes stand in the slot line, and its node, port, frame pointer
(the frame of its activation, R35), line, parked bit and arrival order. -/
structure Entry where
  tok : Token
  node : Nat
  port : Nat
  frame : Nat
  line : Nat
  parked : Bool
  order : Nat
deriving DecidableEq, Repr

/-- A firing that is ready or on the datapath (R36, R40): the cell, the node's number and the node, the fired run, its operands, the port that
completed it, whether that operand was re-injected by the spill unit (R208), whether it is a held `loop.next` presented again
(R209), when it became ready, and its arrival order. -/
structure Firing where
  ci : Nat
  node : Nat
  cfg : Node
  ctx : BitVec 12
  tag : Word
  len : Nat
  a : Token
  b : Option Token
  port : Nat
  reinj : Bool
  held : Bool
  since : Nat
  order : Nat
deriving DecidableEq, Repr

/-- The kinds of control entry a guard firing creates (R207). -/
inductive CtrlKind where
  | loop
  | count
  | reorder
  | fenceq
  | waitDrain
deriving DecidableEq, Repr

/-- A control entry of a guard cell (R202, R212, R213, R218, R219): its kind, context, node, key tag and key number,
the held token if any, its slot line (256: none), the numbers its rule gives it, and its arrival order. -/
structure Ctrl where
  kind : CtrlKind
  ctx : BitVec 12
  node : Nat
  tag : Word
  key : Nat
  line : Nat
  nums : List Nat
  held : List Token
  poison : Bool
  order : Nat
deriving DecidableEq, Repr

/-- A parked activation (R69, R188): its context, its level, the tag that names its fields 0 to level, and how many
consecutive values of its last field a fired run covers. -/
structure Parked where
  ctx : BitVec 12
  level : Nat
  tag : Word
  len : Nat
deriving DecidableEq, Repr

/-- A cell: its planes (R49), constants plane, the ASID beside each shape window (R230), matching store, ready firings,
control entries, parked activations, LFSR (R85), presence and poison bits of its lines, the channels on which a drain
has arrived (named by their senders) or been sent (R52, R217), the arrival counter when the last drain arrived (R67), its
retired lines (R460) and the arrival counter. -/
structure Cell where
  active : Plane
  staged : Plane
  stagedValid : Bool
  consts : Tab Lane
  shapeAsid : Tab Nat
  entries : List Entry
  ready : List Firing
  ctrl : List Ctrl
  parkedActs : List Parked
  lfsr : BitVec 32
  present : List Nat
  linePoison : List Nat
  drainsIn : List Nat
  drained : List Nat
  drainOrder : Nat
  retired : List Nat
  arrivals : Nat
deriving DecidableEq, Repr

/-- Why the spill unit holds a record. -/
inductive HeldAs where
  /-- Spilled from a cell (R42). -/
  | spilled
  /-- A parked operand without an entry (R69). -/
  | parked
  /-- A stream-faulted token of an engine or a keeper (R28), with the destination of its receiver. -/
  | stream
  /-- The payload of a returned token (R29). -/
  | unroutable
deriving DecidableEq, Repr

/-- A spill record (R42, R43): the token, the cell it is for, why it is held, its arrival order, whether it has a place in
storage (a token that must not be lost and finds none stays in the unit, log 14), and the overflow chunk it stands in, if any, and
its offset in the spill area or in the chunk. -/
structure Spilled where
  tok : Token
  ci : Nat
  how : HeldAs
  order : Nat
  placed : Bool := true
  chunk : Option Nat
  addr : Nat
deriving DecidableEq, Repr

/-- A sector's spill unit (R41 to R46, R57): its records, the class-3 tokens not yet stored, the record last probed for each
cell, the cell after the one served last (the round-robin pointer of R45), the event reserve, and the contexts trapped with
OVERFLOW. -/
structure SpillUnit where
  records : List Spilled
  arriving : List Spilled
  probe : Tab Spilled
  next : Nat
  evReserve : List Token
  trapped : List Nat
  counter : Nat
deriving DecidableEq, Repr

/-- A pattern delivery of a keeper (R145): whether it writes records or constants, the cells covered, what is written,
NTF, the mode it writes under, the completion's context, and `KASID`. -/
structure Delivery where
  cfgk : Bool
  cells : List Nat
  plane : Plane
  kbase : Nat
  words : List Lane
  ntf : Bool
  maint : Bool
  ctx : BitVec 12
  asid : Nat
deriving DecidableEq, Repr

/-- A keeper (R126): its general registers, its pc, its injection port, its running delivery, a wait in progress (the
clk at which it ends and its destination), a fence in progress, whether a drain is outstanding and the context it was started for
(R152), the cell of each drain that is on the configuration network, its event queue, its next launch slot, its last cold-loaded
graph pointer, the domain stores that are not yet performed, the context of its last cold launch, the number of the domain load
that is outstanding, and the reply that has come for it. -/
structure Keeper where
  k : Vector Word 32
  pc : Word
  port : Option Token
  delivery : Option Delivery
  waiting : Option (Nat × Reg)
  fencing : Option (BitVec 2)
  draining : Bool
  drainCtx : BitVec 12
  drainCells : List Nat
  evq : List Token
  slot : Nat
  graph : Option Nat
  domStores : List Nat
  coldCtx : Option Nat
  pending : Option Nat
  reply : Option RemoteData
deriving DecidableEq, Repr

/-- A token on the stream switch: its source word (R29), the token, and how many of its beats have moved, one place for each clk
(R17, R20, R22): while it is less than the token's beats, the token stands in an output slot of its source. -/
structure Flight where
  src : Dest
  tok : Token
  pos : Nat := 0
deriving DecidableEq, Repr

/-- A translation held by a sector or by a forager's `xlat` cache (R225, R249): the unit that holds it, its ASID, the
64 KiB virtual page, the accessor's view stamp if it has one, the frame, its permissions, the view flag, and whether the
leaf that gave it is a large one (R248). -/
structure Xlation where
  owner : Nat
  asid : Nat
  page : Nat
  stamp : Option Nat
  frame : Nat
  read : Bool
  write : Bool
  view : Bool
  large : Bool
deriving DecidableEq, Repr

/-- A pointer entry in a walk cache (R372): die, ASID, level, VA prefix, the next table. -/
structure WalkEntry where
  die : Nat
  asid : Nat
  level : Nat
  pre : Nat
  next : Nat
deriving DecidableEq, Repr

/-- The phases of a page move (R379 to R384). -/
inductive MovePhase where
  | waiting
  | copying
  | sealed
  | shooting
  | aborting
deriving DecidableEq, Repr

/-- A page move (R379): its number, the arrival number of its message, the engine's die, the ASID and VA, the message that asked for it (none for an automatic move),
the leaf entry's address, the entry as the walk found it, source and destination frames, phase, lines copied, the forwarding queues
(line, offset, bytes, poison), since when it is held back at its first step, since when a hold pauses its copying, the frame taken at
step 3, the abort cause, the shootdown it waits for, and whether the custodian moves the page to retire its frame (R486). -/
structure Move where
  id : Nat
  arr : Nat
  die : Nat
  asid : Nat
  va : Nat
  msg : Option Token
  tier : Nat
  toDie : Nat
  pte : Nat
  entry : Nat
  src : Nat
  dst : Nat
  phase : MovePhase
  copied : Nat
  queue : List (Nat × List Byte × Bool)
  heldAt : Option Nat
  paused : Option Nat
  taken : Option Nat
  cause : Nat
  shoot : Nat
  retire : Bool
deriving DecidableEq, Repr

/-- A twin fill (R390): the die, ASID, page, leaf entry's address, the entry as the engine left it, the frame O, the reserve frame F, its descriptor, the prior
BIRTH and TWIN, the lines copied, and the shootdown after it. -/
structure Fill where
  id : Nat
  die : Nat
  asid : Nat
  va : Nat
  pte : Nat
  entry : Nat
  old : Nat
  new : Nat
  desc : Nat
  birth : Nat
  next : Nat
  lines : List Nat
  shoot : Option Nat
deriving DecidableEq, Repr

/-- What a shootdown covers (R374). -/
inductive ShootSet where
  | pages (asid page n : Nat)
  | all (asid : Nat)
  | stamp (asid s : Nat)
deriving DecidableEq, Repr

/-- A shootdown in progress (R374): its number, the die of its engine, what it covers, and the receivers that have not
acknowledged. -/
structure Shoot where
  id : Nat
  die : Nat
  what : ShootSet
  waiting : List Nat
deriving DecidableEq, Repr

/-- Where a copy command in progress stands (R322): the ASID it was taken with (R501) and the frames it holds (R339); whether its
addresses, or those of the entry or tile in use, have been checked; its next 64-byte chunk there; that entry or tile, and the offset
at which the tile begins; bytes written; whether poison was carried; the bytes that both its extents share, as they were before the
command, and those that are to be read as they were before the entry in use (R328), each an address, a byte and its poison; the list
entries fetched ahead (R333): a fault code or 0, and two words; and the tile in use: its bytes, its header, the bytes it needs. -/
structure CopyRun where
  asid : Option Nat
  holds : List Nat
  begun : Bool
  chunk : Nat
  part : Nat
  off : Nat
  bytes : Nat
  bad : Bool
  shared : Tab (Byte × Bool)
  own : Tab (Byte × Bool)
  ahead : Tab (Nat × Nat × Nat)
  tile : List Byte
  header : Nat
  need : Nat
deriving DecidableEq, Repr

/-- A copy command as it is taken. -/
def CopyRun.fresh (asid : Option Nat) : CopyRun :=
  { asid := asid, holds := [], begun := false, chunk := 0, part := 0, off := 0, bytes := 0, bad := false, shared := [], own := [],
    ahead := [], tile := [], header := 0, need := 0 }

/-- A message that its engine has taken and not yet completed (R54): the message, its phase, and the numbers, holds
(frames) and data its engine keeps for it; a copy engine keeps the command's progress; the ASID that it was taken with (R501); and the
source and destination pages that a transfer of a link engine has translated: page, frame of 57 bits, view flag. -/
structure Busy where
  msg : Token
  phase : Nat
  nums : List Nat
  holds : List Nat
  data : List Byte
  copy : Option CopyRun := none
  asid : Option Nat := none
  src : Tab (Nat × Bool) := []
  dst : Tab (Nat × Bool) := []
deriving DecidableEq, Repr

/-- A context slot (R450 to R462): the queue, sequence number, command line and digest of the LAUNCH or RESUME that started it,
its launch record, PART, ASID, the sectors with a section, the sectors that have ended a tile-task since the last boundary,
boundaries passed, `CYCLE` at its start, the timer at its start or last boundary, its spill bases, PRIO, TAGSHAPE, SEED, whether
it is live, whether the overlay is loaded for it (R454), whether a watchdog saved it, whether it has just met a boundary (R452),
and the status with which its watchdog expired (0: it has not). -/
structure Context where
  queue : Nat
  seq : Nat
  line : Nat
  digest : Word
  record : List Word
  part : Nat
  asid : Nat
  sections : List Nat
  ended : List Nat
  bounds : Nat
  started : Nat
  mark : Nat
  spill : Tab Nat
  prio : Nat
  shape : Word
  seed : BitVec 32
  live : Bool
  overlaid : Bool
  savedByDog : Bool
  closing : Bool
  expired : Nat
deriving DecidableEq, Repr

/-- A queue of the front (R437 to R440): the staging line and byte mask of each command line, the commands on chip, the
commands in the overflow area, and the sequence numbers completed out of order. -/
structure QueueSt where
  staging : Tab (List (Option Byte))
  onchip : List Cmd
  overflow : List Cmd
  ovfHead : Nat
  done : List Nat
  readySince : Nat
deriving DecidableEq, Repr

/-- A drain of a context by the front (R454, R462): the slot, the PREEMPT that asked for it (none for the watchdog), the
timer at its start, the sectors still to end their tile-task, and the status of the watchdog (TIMEOUT or OVERFLOW). -/
structure FrontDrain where
  slot : Nat
  cmd : Option Cmd
  since : Nat
  sectors : List Nat
  status : Nat
deriving DecidableEq, Repr

/-- A saved context's cell state, which a cell record of an image names by its number (R72, R457): the plane that was active,
the waiting entries with their lanes and lines (a line with an entry is present), the control entries with the lanes they hold, the
parked activations, the LFSR, the bytes of the frame lines that are not zero (by offset), the poison bits of the lines, and the
rotating base. -/
structure SavedCell where
  active : Plane
  entries : List Entry
  ctrl : List Ctrl
  parkedActs : List Parked
  lfsr : BitVec 32
  frame : List (Nat × Byte)
  poison : List Nat
  rot : Lane
deriving DecidableEq, Repr

/-- A partition reset in progress (R463): its number, its sectors, the status of the end tokens, the command. -/
structure PartReset where
  id : Nat
  mask : Nat
  cmd : Option Cmd
deriving DecidableEq, Repr

/-- A restore in progress (R458): the slot, the image's address, its command, the pairs of saved and target sector. -/
structure Restore where
  slot : Nat
  image : Nat
  cmd : Cmd
  pairs : List (Nat × Nat)
deriving DecidableEq, Repr

/-- The waking states of a sector (R466). -/
inductive WakePhase where
  | rails
  | clocks
  | cleared
deriving DecidableEq, Repr

/-- A group of the scale-up domain (R424, R425): its list, digest, rank, the inbox that took its join, its context (while that is
saved out, its image's address, R456), its collective sequence number, its broken bit, whether every member has joined, the members heard from, its timer, the join's message,
and whether its context is gone while a collective of it still runs (R463). -/
structure Group where
  list : List Nat
  digest : Word
  rank : Nat
  inbox : Nat
  ctx : BitVec 12
  saved : Option Nat
  seq : Nat
  broken : Bool
  bound : Bool
  heard : Tab Word
  since : Nat
  msg : Token
  leaving : Bool
deriving DecidableEq, Repr

/-- A collective in progress on a group (R427): the message, this module's own status, the descriptors and contributions that
have arrived by rank, the frames it holds, the timer at its take, whether it runs, the ASID it was taken with (R501), and the pages of
SRC and DST (page, frame, view flag). -/
structure Coll where
  gid : Nat
  msg : Token
  status : Nat
  descs : Tab CollDesc
  parts : Tab Contribution
  holds : List Nat
  since : Nat
  running : Bool
  asid : Option Nat
  src : Tab (Nat × Bool)
  dst : Tab (Nat × Bool)
deriving DecidableEq, Repr

/-- Who waits for a remote request (R410, R412, R419). -/
inductive Requester where
  | keeper (ps : Nat)
  | access (id j : Nat)
  | command (d : Nat)
deriving DecidableEq, Repr

/-- A remote request (R410 to R417, R423): its number, the link die, the port (8: none), the target device and offset, its kind
(0 load, 1 store, 2 atomic, 3 a notice whose destination is `off`, context `size` and value `arg`, 4 a load of `ln.get` that has been
answered and waits to be written), the atomic's opcode, size, data, operand (the chunk's offset for `ln.put` and `ln.get`), poison,
who waits for it, its source, the timer at its first sending. -/
structure Remote where
  id : Nat
  die : Nat
  port : Nat
  dev : Nat
  off : Nat
  kind : Nat
  atom : Nat
  size : Nat
  data : List Byte
  arg : Word
  poison : Bool
  who : Requester
  source : Nat
  since : Nat
deriving DecidableEq, Repr

/-- Kinds of repair the repair store names (R487). -/
inductive Repair where
  | remap (stack chan row spare : Nat)
  | frame (pa : Nat)
  | spareLine (loc : Nat)
  | multiplier (pool leaf : Nat)
  | pool (pl : Nat)
  | frameLine (ci line : Nat)
  | ucie (lane : Nat)
deriving DecidableEq, Repr

/-- An error whose test is pending or running, or whose repair is deferred (R484, R485, R486): its own number, its RECNO if a record
was written, `CYCLE` at its detection, its error, its merge count and whether its test has started. -/
structure TestRec where
  id : Nat
  recno : Option Nat
  time : Nat
  err : ErrInfo
  count : Nat
  running : Bool
deriving DecidableEq, Repr

/-- One recorded answer of a management interface: which one, and its bytes or bits as numbers. -/
structure Answer where
  what : String
  data : List Nat
deriving DecidableEq, Repr

/-- The custodian's own state (R471 to R500): the verified image, the fused minimum SVN and owner hash, the repair store and the
repairs made since boot that it could not keep (R487), deferred frame-line retirements (cell, line, error), error tests, scratchpad
and keeper memory lines that no spare replaced (by address / 64), the dropped Rendun lanes (link die, port, lane), the count of nonces used, the SPDM requests taken, whether the
identity keys stand, the recorded answers, the JTAG status word and boundary cells (R479), the power state whose entry waits (R483),
whether an exit to P0 is in progress, the host accesses that wait for it, and the CXL ports that went down while enabled (R494). -/
structure Custodian where
  image : List Byte
  minSvn : Nat
  owner : List Byte
  repairs : List Repair
  unkept : List Repair
  deferred : List (Nat × Nat × TestRec)
  tests : List TestRec
  badLines : List Nat
  lanes : List (Nat × Nat × Nat)
  nonces : Nat
  spdm : List Byte
  keys : Bool
  answers : List Answer
  jtagStatus : Nat
  boundary : List Bool
  pwrEntry : Option Nat
  pwrExit : Bool
  hostWait : List HostAccess
  cxlDown : List Nat
deriving DecidableEq, Repr

/-- A request of a forager access (R225, R250): the lane or element it is for, its virtual and physical address, its size,
the bytes and the compare operand of a write, the bytes that forwarding supplies with their poison (R245), its state (0 to
be performed, 1 performed, 2 failed, 3 on its way to another module), its result, the fault code, and whether it counts
towards its frame's hotness: the first of a firing's requests in a frame does (R385). -/
structure LaneReq where
  lane : Nat
  va : Nat
  pa : Nat
  size : Nat
  wdata : List Byte
  cmp : Nat
  fwd : List (Option Byte)
  fwdPoison : Bool
  state : Nat
  rdata : List Byte
  poison : Bool
  code : Nat
  view : Bool
  away : Bool
  hot : Bool
deriving DecidableEq, Repr

/-- What a forager access does (R235 to R251). -/
inductive AccessKind where
  | load
  | store
  | atomic
  | mnop
  | fenceRel
  | fenceAcq
  | fenceFull
  | xlat
  | shapeSet
deriving DecidableEq, Repr

/-- An access of a forager in progress (R224 to R256): its number in issue order, the firing, what it does, the lanes of
the fired run it covers, its requests, whether it is ordered and when it linked (R243), when it entered the memory port
(R225), its scope, the acquire and release bits, the reply pieces emitted, whether it emits nothing, and whether it is
the place of a member that faulted (R256). -/
structure Access where
  id : Nat
  fir : Firing
  kind : AccessKind
  first : Nat
  count : Nat
  reqs : List LaneReq
  ordered : Bool
  link : Option Nat
  port : Option Nat
  scope : Nat
  acq : Bool
  rel : Bool
  emitted : List Nat
  silent : Bool
  faulted : Bool
deriving DecidableEq, Repr

/-- A chain of ordered accesses at a forager (R243): context, level, the tag that names its activation, S and N of the
last linked member, and the wave numbers it holds. -/
structure Chain where
  ctx : BitVec 12
  level : Nat
  tag : Word
  last : Option (Nat × Nat)
  waves : List Nat
deriving DecidableEq, Repr

/-- A configuration bank of a pool (R258, R274, R283): group sizes, the map (KS_g, c_g), its valid bit and WIN, and the
span setting (G0, G1, ROLE secondary). -/
structure Bank where
  sizes : List Nat
  map : List (Nat × Nat)
  mapped : Bool
  win : Bool
  span : Option (Nat × Nat × Bool)
deriving DecidableEq, Repr

/-- The A operands of a pass (R277): scratchpad offset, bytes between rows, `f32` or `bf16`, M, KW, KOFF, ACCBASE, ACCPITCH. -/
structure AArgs where
  base : Nat
  pitch : Nat
  wide : Bool
  rows : Nat
  kw : Nat
  koff : Nat
  acc : Nat
  accPitch : Nat
deriving DecidableEq, Repr

/-- The B operands of a pass (R275, R276): scratchpad offset, bytes between rows, `f32` or `bf16`, KB, and for N:M-compressed
B the metadata's offset and pitch and whether it is 4:8. -/
structure BArgs where
  base : Nat
  pitch : Nat
  wide : Bool
  kb : Nat
  nm : Option (Nat × Nat × Bool)
deriving DecidableEq, Repr

/-- A group of a carving with its map (R260, R261): its number, n_g, KS_g and c_g. -/
structure Grp where
  g : Nat
  n : Nat
  ks : Nat
  c : Nat
deriving DecidableEq, Repr

/-- A group sum of a stream (R278, R301): group, row, accumulator element, the sum, the sum of the magnitudes, and whether a
poisoned element was consumed (R266). The sums of a pass are its part of the pending half (R263). -/
structure PSum where
  g : Nat
  m : Nat
  e : Nat
  sum : Lane
  mag : Lane
  bad : Bool
deriving DecidableEq, Repr

/-- The phases of a pass (R267, R275, R278, R306). -/
inductive PassPhase where
  /-- formed; its first stream has not begun -/
  | paired
  /-- its B set is loaded -/
  | loaded
  /-- streamed; the partner's part of a spanned pass is to come -/
  | span
  /-- streamed; the ladder has to decide -/
  | streamed
  /-- accepted; it commits at its sequence position -/
  | decided
  /-- squashed; it is to stream again -/
  | replay
deriving DecidableEq, Repr

/-- A pass of a pool (R263, R277, R305): its sequence number, the arrival number of its message, its message, whether a walk
runs it, its operands, the B announcement that has not completed, its bank and SPAN flag, the profile of a profile pass,
the fixed format code (0 for a profile pass and `pool.a`), the ladder step, the format code and kind of its stream, whether
it takes holds and has them (R312), replays, phase, the pass that loaded its B set (itself but for `pool.a`), its groups, the
three monitor counts, the sums, the moved products, `CYCLE` at its pairing or binding, the bank as its stream used it (R265), and
whether its metadata has been checked (R276). -/
structure Pass where
  seq : Nat
  arr : Nat
  msg : Token
  walk : Bool
  a : AArgs
  b : Option BArgs
  bann : Option (Nat × Token)
  bank : Nat
  span : Bool
  prof : Option Nat
  fixed : Nat
  step : Nat
  fmt : Nat
  ladder : Bool
  needs : Bool
  held : Bool
  replays : Nat
  phase : PassPhase
  parent : Nat
  act : List Grp
  counts : List Nat
  sums : List PSum
  moved : Nat
  start : Nat
  used : Option Bank
  checked : Bool
deriving DecidableEq, Repr

/-- What a `pool.a` needs of the pass that loaded its B set (R275, R309): its sequence number, B operands, the status with
which it ended before its load (0: none), whether the set has been loaded, its profile, its format code, whether it was a
ladder pass, and the groups whose elements the set is loaded with. -/
structure BParent where
  seq : Nat
  b : Option BArgs
  status : Nat
  loaded : Bool
  prof : Option Nat
  fmt : Nat
  ladder : Bool
  groups : List Grp
deriving DecidableEq, Repr

/-- A drain of a pool (R285): sequence number, arrival number and message, its region (base, pitch, rows, columns), the
route once steered, OFMT, ZERO, OFF, DPITCH, its phase (0 waits for its steering token, 1 to be performed, 2 hands rows to the
copy engine, 3 waits on a ladder hold), the row words read with their poison, the next row, whether that row stands in the
copy inbox, and whether a walk runs it. -/
structure PoolDrain where
  seq : Nat
  arr : Nat
  msg : Token
  region : Nat × Nat × Nat × Nat
  ridx : Nat
  ofmt : Nat
  zero : Bool
  off : Nat
  dpitch : Nat
  phase : Nat
  route : Nat
  rows : List (List Nat × List Bool)
  next : Nat
  queued : Bool
  walk : Bool
deriving DecidableEq, Repr

/-- A block-sparse walk (R290 to R292): its message and arrival number, the block-row and entry index in use, its phase (0 the
row's zero, 4 its pointers, 1 its entries, 2 its drain, 3 only its passes and drains in progress are awaited), entries passed,
rows drained, replays, `CYCLE` and the ASID at take (R501), the fetched row pointers and entries (a fault code or 0, and the word), the entry base
in force from an index, whether it is parked, its status, and NC. -/
structure BWalk where
  msg : Token
  arr : Nat
  cols : Nat
  row : Nat
  idx : Nat
  phase : Nat
  passed : Nat
  drained : Nat
  replays : Nat
  start : Nat
  asid : Option Nat
  rps : Tab (Nat × Nat)
  ents : Tab (Nat × Nat)
  rebase : Option (Nat × Nat)
  parked : Bool
  status : Nat
deriving DecidableEq, Repr

/-- An announcement in a pool's pairing store (R267): sequence number, arrival number, message. -/
structure Ann where
  seq : Nat
  arr : Nat
  msg : Token
deriving DecidableEq, Repr

/-- A stationary B set of a pool (R258, R270): the pass that loaded it, its format code, the wide elements loaded for each
group with their poison, and its place in the order of use. -/
structure BSet where
  owner : Option Nat
  fmt : Nat
  elems : Tab (List (Nat × Bool))
  used : Nat
deriving DecidableEq, Repr

/-- The group sums a secondary sends to its primary (R283, R311): context, tag, the secondary's pass, M, FMT and PROF, its
spanned active groups with their sizes, its three counts, and the sums. -/
structure SpanSums where
  ctx : BitVec 12
  tag : Word
  seq : Nat
  rows : Nat
  fmt : Nat
  prof : Option Nat
  groups : List (Nat × Nat)
  counts : List Nat
  sums : List PSum
deriving DecidableEq, Repr

/-- A multiplier pool (R258): banks, pairing store, passes with their pending values, drains, the walk, the sequence counter,
the B sets, what later `pool.a` need of the passes that loaded them, the last `pool.mma` taken, the sums that have come from
the pool's secondary, and whether it is retired (R486). -/
structure Pool where
  bank0 : Bank
  bank1 : Bank
  annA : List Ann
  annB : List Ann
  steers : List Token
  passes : List Pass
  drains : List PoolDrain
  walk : Option BWalk
  seq : Nat
  set0 : BSet
  set1 : BSet
  parents : List BParent
  lastMma : Option Nat
  spanIn : List SpanSums
  retired : Bool
deriving DecidableEq, Repr

/-- A ladder profile (R303). -/
structure Profile where
  start : Nat
  cap : Nat
  sat : List Nat
  und : List Nat
  can : List Nat
deriving DecidableEq, Repr

/-- A profile set bound to a context (R304); while the context is saved out, its image's address and its PART. -/
structure LadSet where
  ctx : BitVec 12
  saved : Option (Nat × Nat)
  profs : List Profile
  forced : Nat
deriving DecidableEq, Repr

/-- A hold on scratchpad bytes [lo, hi) (R312): automatic of a pool's pass, or explicit of a context; and whether it has
been released; while an explicit hold's context is saved out, its image's address and its PART. -/
structure LadHold where
  saved : Option (Nat × Nat)
  auto : Bool
  pool : Nat
  seq : Nat
  ctx : BitVec 12
  lo : Nat
  hi : Nat
  released : Bool
  lifted : Bool
deriving DecidableEq, Repr

/-- A ladder controller (R303, R304, R314). -/
structure Ladder where
  sets : List LadSet
  holds : List LadHold
deriving DecidableEq, Repr

/-- A vector slot of a stack engine (R345): its elements, the length K, the poison bit, the context that loaded it, and the valid
bit. -/
structure VecSlot where
  data : List Lane
  len : Nat
  poison : Bool
  ctx : BitVec 12
  valid : Bool
deriving DecidableEq, Repr

/-- A stack engine (R345, R360, R362, R364): vector slots, the copies of the remap table that wait to be rebuilt, the timer at
which each channel's last refresh interval ended, and, by line (address / 64), what its stored symbols have been XORed with since it was
written (R361): errors that no read has met yet; the inbox after the one it served last (R357), and the timer at the last access of
each channel (R360). The remap table itself is the custodian's list of repairs. -/
structure Stack where
  slots : List VecSlot
  rebuild : List Nat
  last : Tab Nat
  upsets : Tab (List Nat)
  next : Nat
  used : Tab Nat
deriving DecidableEq, Repr

/-- The power of the module (R492, R496). -/
inductive Power where
  | on
  | off
deriving DecidableEq, Repr

/-- The state of the module. -/
structure State where
  /-- Whether the module has power. -/
  power : Power
  /-- THERMTRIP# (R497). -/
  thermtrip : Bool
  /-- Arithmetic clocks since module reset (R128 `CYCLE`). -/
  clk : Nat
  /-- The front's timer of fixed rate (R462), in units of 1/`timerScale` µs. -/
  timer : Nat
  /-- How many free values the run has used. The model's own field. -/
  free : Nat
  /-- What happens next, oldest first: the environment's inputs and fixed turns. The model's own field. -/
  inputs : List Turn
  /-- The keeper whose word is executed. The model's own field. -/
  cur : Nat
  /-- The firing on the datapath. The model's own field. -/
  issue : Option Firing
  /-- Every byte of the physical map that reads other than zero (R58, R59). -/
  mem : List Host.Cell
  /-- The poisoned 64-byte lines of memory, by address / 64 (R238, R266). -/
  poison : List Nat
  /-- Every register of the on-chip window, by its physical address (R59, R61). -/
  regs : Tab Word
  keepers : Tab Keeper
  cells : Tab Cell
  spills : Tab SpillUnit
  /-- Tokens on the stream switch, oldest first. -/
  net : List Flight
  /-- Engine inboxes, by their 21-bit destination word: each message with its arrival number. -/
  inboxes : Tab (List (Nat × Token))
  /-- Messages that wait at the head of their inbox after they were taken, by inbox. -/
  busy : Tab Busy
  accesses : List Access
  chains : Tab (List Chain)
  /-- The source after the one that each home's atomic unit served last, by home (R242). -/
  atomicNext : Tab Nat
  /-- The inbox after the one that each copy engine served last, by sector (R322). -/
  copyNext : Tab Nat
  /-- The next access number, arrival number, and the next number of a move, fill, shootdown, reset or remote request. -/
  nextId : Nat
  xlations : List Xlation
  walkCache : List WalkEntry
  viewStamps : Tab Nat
  moves : List Move
  fills : List Fill
  shoots : List Shoot
  /-- By die, the multiples of 2^20 clk at which HOT has been halved (R386). -/
  halved : Tab Nat
  autoQ : Tab (List (Nat × Nat × Nat × Nat))
  contexts : Tab Context
  queues : Tab QueueSt
  served : Tab Nat
  fdrains : List FrontDrain
  resets : List PartReset
  restores : List Restore
  /-- The waking sectors: the phase, and the timer at the write that woke them (R466). -/
  waking : Tab (WakePhase × Nat)
  /-- Inboxes whose head's completion is discarded (R463). -/
  muted : List Nat
  flrHold : Bool
  images : Tab SavedCell
  msix : List Nat
  bar0 : Tab Byte
  groups : Tab Group
  colls : List Coll
  remotes : List Remote
  inboundDone : List (Nat × Nat × RemoteData)
  inboundWait : List (Nat × Inbound)
  earlyJoins : List (Nat × Nat × Word)
  earlyDescs : List (Nat × Nat × CollDesc)
  sentDescs : List (Nat × CollDesc)
  cust : Custodian
  pools : Tab Pool
  ladders : Tab Ladder
  stackUnits : Tab Stack
deriving DecidableEq, Repr

/-- A cell plane with no node configured (R145, R463). -/
def Plane.none : Plane :=
  { nodes := [], named := 0, rotating := 0, fanin := 0, ctx := .none, overlay := false }

/-- A cell as reset leaves it (R463, R464). -/
def Cell.reset : Cell :=
  { active := .none, staged := .none, stagedValid := false, consts := [], shapeAsid := [], entries := [], ready := [],
    ctrl := [], parkedActs := [], lfsr := 0, present := [], linePoison := [], drainsIn := [], drained := [], drainOrder := 0,
    retired := [], arrivals := 0 }

/-- A keeper as reset leaves it (R128, R463): halted, with an empty event queue. The general registers and the pc have
no reset value in the manual: 0 is the model's. -/
def Keeper.reset : Keeper :=
  { k := Vector.replicate 32 0, pc := 0, port := none, delivery := none, waiting := none, fencing := none,
    draining := false, drainCtx := 0, drainCells := [], evq := [], slot := 0, graph := none, domStores := [], coldCtx := none, pending := none,
    reply := none }

/-- A spill unit as reset leaves it. -/
def SpillUnit.reset : SpillUnit :=
  { records := [], arriving := [], probe := [], next := 0, evReserve := [], trapped := [], counter := 0 }

/-- A queue as reset leaves it (R464). -/
def QueueSt.reset : QueueSt :=
  { staging := [], onchip := [], overflow := [], ovfHead := 0, done := [], readySince := 0 }

/-- A bank with no carving. -/
def Bank.none : Bank := { sizes := [], map := [], mapped := false, win := false, span := .none }

/-- A B set that holds nothing. -/
def BSet.none : BSet := { owner := .none, fmt := 0, elems := [], used := 0 }

/-- A pool as reset leaves it (R463). -/
def Pool.reset : Pool :=
  { bank0 := .none, bank1 := .none, annA := [], annB := [], steers := [], passes := [], drains := [], walk := none,
    seq := 0, set0 := .none, set1 := .none, parents := [], lastMma := none, spanIn := [], retired := false }

/-- The default profile (R303). -/
def Profile.default : Profile :=
  { start := 0, cap := 3, sat := [0, 0, 0, 0], und := [0xFFFF, 0xFFFF, 0xFFFF, 0xFFFF],
    can := [0xFFFF, 0xFFFF, 0xFFFF, 0xFFFF] }

/-- A ladder controller with no set bound and no hold. -/
def Ladder.reset : Ladder := { sets := [], holds := [] }

/-- A vector slot that holds nothing (R346). -/
def VecSlot.none : VecSlot := { data := [], len := 0, poison := false, ctx := 0, valid := false }

/-- A stack engine after module reset. -/
def Stack.reset : Stack :=
  { slots := [.none, .none, .none, .none], rebuild := [], last := [], upsets := [], next := 0, used := [] }

/-- The custodian after module reset of a module that has never been provisioned or repaired. -/
def Custodian.reset : Custodian :=
  { image := [], minSvn := 0, owner := [], repairs := [], unkept := [], deferred := [], tests := [], badLines := [], lanes := [], nonces := 0,
    spdm := [], keys := true, answers := [], jtagStatus := 0, boundary := [], pwrEntry := none, pwrExit := false, hostWait := [],
    cxlDown := [] }

/-- The module right after module reset (R464). -/
def State.reset : State :=
  { power := .on, thermtrip := false, clk := 0, timer := 0, free := 0, inputs := [], cur := 0, issue := none, mem := [],
    poison := [], regs := [], keepers := [], cells := [], spills := [], net := [], inboxes := [], busy := [],
    accesses := [], chains := [], atomicNext := [], copyNext := [], nextId := 0, xlations := [], walkCache := [], viewStamps := [], moves := [],
    fills := [], shoots := [], halved := [], autoQ := [], contexts := [], queues := [], served := [], fdrains := [],
    resets := [], restores := [], waking := [], muted := [], flrHold := false, images := [], msix := [], bar0 := [], groups := [],
    colls := [], remotes := [], inboundDone := [], inboundWait := [], earlyJoins := [], earlyDescs := [], sentDescs := [], cust := .reset, pools := [],
    ladders := [], stackUnits := [] }

end Sys2Proof.Machine
end

