-- ==== Sys2Proof/Machine/Memory.lean ====
section
/-! DEFINITION. Memory as a sorted list of the bytes that read other than zero, and the operations over it. -/

namespace Sys2Proof.Machine

/-- What a byte that nothing has written reads as. On-chip storage is zeroed by reset (R463); for device memory the
manual gives no value. DESIGN CHOICE (log 2), unsafe: 0. -/
def unwritten : Byte := 0

/-- The byte at an address. -/
def Memory.get : List Host.Cell → Nat → Byte
  | [], _ => unwritten
  | (j, b) :: t, a => if j = a then b else Memory.get t a

/-- The memory with one byte set; a byte equal to what an unlisted address reads as is not listed. -/
def Memory.put : List Host.Cell → Nat → Byte → List Host.Cell
  | [], a, b => if b = unwritten then [] else [(a, b)]
  | (j, c) :: t, a, b =>
    if j = a then (if b = unwritten then t else (a, b) :: t)
    else if a < j then (if b = unwritten then (j, c) :: t else (a, b) :: (j, c) :: t)
    else (j, c) :: Memory.put t a b

/-- Every address of the list is above `lo`, rising, and no byte is the unwritten one. -/
def Memory.wfFrom : Nat → List Host.Cell → Bool
  | _, [] => true
  | lo, (j, b) :: t => decide (lo ≤ j) && (b != unwritten) && Memory.wfFrom (j + 1) t

/-- The canonical form of memory: addresses strictly rising, no entry equal to what an unlisted address reads as. -/
def Memory.wf (m : List Host.Cell) : Bool := Memory.wfFrom 0 m

/-- The memory with the bytes `bs` written from `a` on. -/
def Memory.putAll (m : List Host.Cell) (a : Nat) : List Byte → List Host.Cell
  | [] => m
  | b :: bs => Memory.putAll (Memory.put m a b) (a + 1) bs

/-- The `n` bytes from `a` on. -/
def Memory.getAll (m : List Host.Cell) (a : Nat) : Nat → List Byte
  | 0 => []
  | n + 1 => Memory.get m a :: Memory.getAll m (a + 1) n

/-- The memory without the bytes of [lo, hi): they read as unwritten. -/
def Memory.clear (m : List Host.Cell) (lo hi : Nat) : List Host.Cell := m.filter (fun e => !(decide (lo ≤ e.1 ∧ e.1 < hi)))

/-- A byte of the physical map, as storage holds it. -/
def State.byte (s : State) (a : Nat) : Byte := Memory.get s.mem a

/-- `n` bytes of storage. -/
def State.bytes (s : State) (a n : Nat) : List Byte := Memory.getAll s.mem a n

/-- A little-endian number of `n` bytes of storage. -/
def State.readLE (s : State) (a n : Nat) : Nat := leNat (s.bytes a n)

/-- A lane of storage. -/
def State.lane (s : State) (a : Nat) : Lane := BitVec.ofNat 32 (s.readLE a 4)

/-- A 64-bit word of storage. -/
def State.word (s : State) (a : Nat) : Word := BitVec.ofNat 64 (s.readLE a 8)

/-- Bytes written to storage. -/
def State.putBytes (s : State) (a : Nat) (bs : List Byte) : State := { s with mem := Memory.putAll s.mem a bs }

/-- A number written to storage as `n` little-endian bytes. -/
def State.putLE (s : State) (a n v : Nat) : State := s.putBytes a (leBytes n v)

/-- Whether any 64-byte line of [a, a + n) is poisoned (R238, R266), or is one that reads poisoned for want of a spare (R486). -/
def State.isPoisoned (s : State) (a n : Nat) : Bool :=
  s.poison.any (fun l => decide (a / 64 ≤ l ∧ l ≤ (a + (n - 1)) / 64))
    || s.cust.badLines.any (fun l => decide (a / 64 ≤ l ∧ l ≤ (a + (n - 1)) / 64))

/-- The lines of [a, a + n) marked poisoned. -/
def State.markPoison (s : State) (a n : Nat) : State :=
  { s with poison := (upTo ((a + (n - 1)) / 64 + 1 - a / 64)).foldl (fun p i => insertNat (a / 64 + i) p) s.poison }

/-- The lines that [a, a + n) covers whole are no longer poisoned. -/
def State.clearPoison (s : State) (a n : Nat) : State :=
  { s with poison := s.poison.filter (fun l => !(decide (a ≤ 64 * l ∧ 64 * l + 64 ≤ a + n))) }

/-- The range [lo, hi) of storage as reset leaves it: zeros, not poisoned. -/
def State.wipe (s : State) (lo hi : Nat) : State :=
  { s with mem := Memory.clear s.mem lo hi,
           poison := s.poison.filter (fun l => !(decide (lo ≤ 64 * l ∧ 64 * l < hi))) }

end Sys2Proof.Machine
end

