-- ==== Sys2Proof/Machine/Ops.lean ====
section
/-! DEFINITION. The named operations over registers, units and tokens that every meaning uses: reading and writing a
register, sending a token, a fault record, a completion, the error log and trace, and taking a keeper's trap and
returning from it. -/

namespace Sys2Proof.Machine

/-! ## Registers -/

/-- A register's value after module reset, by its physical address (R48, R61, R128, R406, R434, R467, R468, R498). Every
register this does not name resets to zero. -/
def regReset (pa : Nat) : Word :=
  match placeOf pa with
  | .sreg _ 0 off => if off = 0x00 then 1 else if off = 0x08 then 256 else if off = 0x10 then 192 else 0
  | .sreg _ 7 off => if off = 0x00 then 9 else 0
  | .dreg d 0 off => if off = 0 then BitVec.ofNat 64 d else 0
  | .dreg _ 4 off => if off = 0x10 then 0x10064 else 0
  | .lreg _ 0 off => if off = 0x08 then 0x6400C8 else 0
  | .lreg _ 1 off => if off = 0x118 then 0xFFFFFFFF else 0
  | .lreg _ 2 off => if off % 64 = 0 then 0x0064000000000000 else 0
  | .lreg _ 3 off => if off = 0x20 then Config.nonce 0 else if off = 0x30 then Config.serial else 0
  | .lreg _ 4 off => if off = 0x08 then 3400 else if off = 0x20 then 2250 else 0
  | _ => 0

/-- The stored value of a register. -/
def State.reg (s : State) (pa : Nat) : Word := Tab.get (regReset pa) s.regs pa

/-- A register set by the device. -/
def State.setReg (s : State) (pa : Nat) (v : Word) : State := { s with regs := Tab.set s.regs pa v }

/-- Bits [hi:lo] of a register. -/
def State.regBits (s : State) (pa hi lo : Nat) : Nat := bits (s.reg pa).toNat hi lo

/-- A number with bits [hi:lo] replaced. -/
def putBits (n hi lo v : Nat) : Nat := n - bits n hi lo * 2 ^ lo + (v % 2 ^ (hi + 1 - lo)) * 2 ^ lo

/-- Bits [hi:lo] of a register set by the device. -/
def State.setBits (s : State) (pa hi lo v : Nat) : State :=
  s.setReg pa (BitVec.ofNat 64 (putBits (s.reg pa).toNat hi lo v))

/-- A counter of a register's bits [hi:lo] advanced by `n`, saturating at all ones (R48). -/
def State.bumpBits (s : State) (pa hi lo n : Nat) : State :=
  s.setBits pa hi lo (Nat.min (s.regBits pa hi lo + n) (2 ^ (hi + 1 - lo) - 1))

/-- A 64-bit counter advanced by `n`, saturating. -/
def State.bump (s : State) (pa n : Nat) : State := s.bumpBits pa 63 0 n

/-- CSR `n` of a keeper (R128). -/
def csr (ps n : Nat) : Nat := secReg ps 7 (8 * n)
/-- `FRONT` registers (R467). -/
def frontReg (off : Nat) : Nat := linkReg 0 1 off
/-- Queue registers (R468). -/
def queueReg (q off : Nat) : Nat := linkReg 0 2 (64 * q + off)
/-- `CUST` registers (R488). -/
def custReg (off : Nat) : Nat := linkReg 0 3 off
/-- `MOD` registers (R498). -/
def modReg (off : Nat) : Nat := linkReg 0 4 off
/-- The CXL port registers (R495). -/
def cxlReg (p off : Nat) : Nat := linkReg (p / 2) 5 (0x40 * (p % 2) + off)
/-- Page engine registers (R406). -/
def pageReg (d off : Nat) : Nat := dieReg d 4 off
/-- Stack engine registers, by stack 3d + j (R365). -/
def stackReg (st off : Nat) : Nat := dieReg (st / 3) (1 + st % 3) off
/-- Pool registers, by pool 5·ps + p (R293). -/
def poolReg (pl off : Nat) : Nat := secReg (pl / 5) (1 + pl % 5) off
/-- `DIE.CTXFLAGS` of a context slot (R91). -/
def ctxFlags (c : Nat) : Nat := dieReg 0 0 (0x8000 + 8 * c)

/-! ## Memory as the module's own units use it -/

/-- Whether reads of a place are poisoned and its writes discarded until module reset: a CXL port that went down while
enabled (R494), a fenced pseudo-channel (R364). -/
def State.dead (s : State) (pa : Nat) : Bool :=
  match placeOf pa with
  | .cxl p _ => s.cust.cxlDown.contains p
  | .hbm k off => (s.reg (stackReg k 8)).getLsbD (bits off 13 8)
  | _ => false

/-- A number of `n` bytes that a unit keeps in memory for itself: a side entry, a leaf entry, a descriptor, a ring's entry. -/
def State.devRead (s : State) (a n : Nat) : Nat :=
  if s.dead a then leNat ((upTo n).map (fun i => Config.deadByte (a + i))) else s.readLE a n

/-- Bytes that a unit writes for itself: discarded where the storage is lost. -/
def State.devPutBytes (s : State) (a : Nat) (bs : List Byte) : State := if s.dead a then s else s.putBytes a bs

/-- A number of `n` bytes that a unit writes for itself. -/
def State.devPut (s : State) (a n v : Nat) : State := s.devPutBytes a (leBytes n v)

/-! ## Units -/

/-- A cell. -/
def State.cell (s : State) (ci : Nat) : Cell := Tab.get Cell.reset s.cells ci
/-- A cell replaced. -/
def State.setCell (s : State) (ci : Nat) (c : Cell) : State := { s with cells := Tab.set s.cells ci c }
/-- A keeper. -/
def State.keeper (s : State) (ps : Nat) : Keeper := Tab.get Keeper.reset s.keepers ps
/-- A keeper replaced. -/
def State.setKeeper (s : State) (ps : Nat) (k : Keeper) : State := { s with keepers := Tab.set s.keepers ps k }
/-- A spill unit. -/
def State.spill (s : State) (ps : Nat) : SpillUnit := Tab.get SpillUnit.reset s.spills ps
/-- A spill unit replaced. -/
def State.setSpill (s : State) (ps : Nat) (u : SpillUnit) : State := { s with spills := Tab.set s.spills ps u }
/-- A pool. -/
def State.pool (s : State) (pl : Nat) : Pool := Tab.get Pool.reset s.pools pl
/-- A pool replaced. -/
def State.setPool (s : State) (pl : Nat) (p : Pool) : State := { s with pools := Tab.set s.pools pl p }
/-- A ladder controller. -/
def State.ladder (s : State) (ps : Nat) : Ladder := Tab.get Ladder.reset s.ladders ps
/-- A ladder controller replaced. -/
def State.setLadder (s : State) (ps : Nat) (l : Ladder) : State := { s with ladders := Tab.set s.ladders ps l }
/-- A stack engine. -/
def State.stack (s : State) (st : Nat) : Stack := Tab.get Stack.reset s.stackUnits st
/-- A stack engine replaced. -/
def State.setStack (s : State) (st : Nat) (k : Stack) : State := { s with stackUnits := Tab.set s.stackUnits st k }
/-- A queue of the front. -/
def State.queue (s : State) (q : Nat) : QueueSt := Tab.get QueueSt.reset s.queues q
/-- A queue replaced. -/
def State.setQueue (s : State) (q : Nat) (k : QueueSt) : State := { s with queues := Tab.set s.queues q k }
/-- The custodian replaced. -/
def State.setCust (s : State) (c : Custodian) : State := { s with cust := c }

/-- A live context's slot (R501). -/
def State.live? (s : State) (c : BitVec 12) : Option Context :=
  match s.contexts.find? c.toNat with
  | some x => if x.live then some x else none
  | none => none

/-- The tag shape of a context; no fields when its slot holds none. -/
def State.shape (s : State) (c : BitVec 12) : Word :=
  match s.contexts.find? c.toNat with
  | some x => x.shape
  | none => 0

/-- The launch priority of a context (R107, R40). -/
def State.prio (s : State) (c : BitVec 12) : Nat :=
  match s.contexts.find? c.toNat with
  | some x => x.prio
  | none => 0

/-- The ASID bound to a live context (R501). -/
def State.asid? (s : State) (c : BitVec 12) : Option Nat := (s.live? c).map (fun x => x.asid)

/-- A fresh count for a free value. -/
def State.useFree (s : State) : State := { s with free := s.free + 1 }

/-- The front's timer counts this many units in one µs, so that one clk of every clock from 1,200 to 2,250 MHz in steps
of 75 MHz is a whole number of units (R462, R497). -/
def timerScale : Nat := 75 * 2329089562800

/-- Timer units of one clk at the present arithmetic clock. -/
def State.clkUnits (s : State) : Nat :=
  let mhz := s.regBits (modReg 0x20) 11 0
  if mhz = 0 then 0 else timerScale / mhz

/-- The compute dies have their clocks (R482): the package is in P0 or P1. -/
def State.awake (s : State) : Bool := decide (s.regBits (custReg 0x38) 3 2 < 2)

/-- Time passes: `n` clk of the arithmetic clock (R128 `CYCLE`, R462); in P2 and P3, while that clock stands, as
much time as `n` clk take. -/
def State.pass (s : State) (n : Nat) : State :=
  { s with clk := if s.awake then s.clk + n else s.clk, timer := s.timer + n * s.clkUnits }

/-- Microseconds of the timer since a mark. -/
def State.usSince (s : State) (mark : Nat) : Nat := (s.timer - mark) / timerScale

/-! ## Tokens -/

/-- The sender of a token of the front (R29): its source word is of kind none; beside it, in its low bits, stands the queue that
carried the command, which names the sending sector and which the word itself does not show. -/
def frontSrc (q : Nat) : Dest := BitVec.ofNat 21 (q + 1)

/-- Send a token onto the stream switch; a destination of kind none sends nothing (R27). -/
def State.send (s : State) (src : Dest) (t : Token) : State :=
  if dKind t.dest = 0 then s else { s with net := s.net ++ [{ src := src, tok := t }] }

/-- The messages of an inbox. -/
def State.inbox (s : State) (key : Nat) : List (Nat × Token) := Tab.get [] s.inboxes key

/-- An inbox replaced. -/
def State.setInbox (s : State) (key : Nat) (ts : List (Nat × Token)) : State :=
  { s with inboxes := Tab.set s.inboxes key ts }

/-- A message arrives at the end of an inbox. -/
def State.pushInbox (s : State) (key : Nat) (t : Token) : State :=
  { s.setInbox key (s.inbox key ++ [(s.nextId, t)]) with nextId := s.nextId + 1 }

/-- The arrival number of an inbox's head message. -/
def State.headArrival (s : State) (key : Nat) : Nat :=
  match s.inbox key with
  | (n, _) :: _ => n
  | [] => 0

/-- The head message of an inbox leaves it. -/
def State.popInbox (s : State) (key : Nat) : State :=
  { s with inboxes := Tab.set s.inboxes key (s.inbox key).tail, busy := s.busy.erase key,
           muted := s.muted.filter (fun k => k != key) }

/-- A message that its engine has taken from an inbox before the message numbered `arr`, and not yet completed: a pool's
announcements, passes and drains (R267, R277, R285, R290), and moves that have begun (R405). -/
def State.stillOpen (s : State) (key arr : Nat) : Bool :=
  let mine (m : Token) (n : Nat) : Bool := inboxKey m.dest == key && decide (n < arr)
  s.moves.any (fun v => match v.msg with | some m => mine m v.arr | none => false)
    || (match engineOf (BitVec.ofNat 21 key) with
        | some (.pool pl) =>
          let p := s.pool pl
          p.annA.any (fun a => mine a.msg a.arr) || p.annB.any (fun a => mine a.msg a.arr)
            || p.passes.any (fun q => (!q.walk && mine q.msg q.arr) ||
                (match q.bann with | some b => mine b.2 b.1 | none => false))
            || p.drains.any (fun d => !d.walk && mine d.msg d.arr)
            || (match p.walk with | some w => mine w.msg w.arr | none => false)
        | _ => false)

/-- Every message that arrived in the inboxes of a mask before the head of a fence's own inbox has completed (R66). The
fence's own inbox is always included. -/
def State.inboxesClear (s : State) (m : Token) (mask n : Nat) : Bool :=
  let arr := s.headArrival (inboxKey m.dest)
  (upTo n).all (fun i =>
    let key := inboxKey (engineDest (dDie m.dest) (dSec m.dest) (dEng m.dest) i)
    !(bitOf mask i || dInbox m.dest == i) ||
      ((s.inbox key).all (fun e => decide (arr ≤ e.1)) && !s.stillOpen key arr))

/-- Write a trace record (R481): word 1 to word 3. -/
def State.trace (s : State) (w1 w2 w3 : Nat) : State :=
  let c := s.reg (custReg 0x60)
  if c.getLsbD 0 && decide (s.regBits (custReg 0x18) 3 2 ≥ 1) && decide (s.regBits (custReg 0x38) 3 2 < 2) then
    let n := s.regBits (custReg 0x68) 31 0
    if c.getLsbD 1 && decide (n ≥ 65536) then s.bumpBits (custReg 0x68) 63 32 1
    else
      let a := bits c.toNat 56 21 * 2 ^ 21 + 32 * (n % 65536)
      ((((s.devPut a 8 s.clk).devPut (a + 8) 8 w1).devPut (a + 16) 8 w2).devPut (a + 24) 8 w3).setBits (custReg 0x68) 31 0
        (n + 1)
  else s

/-- Send a fault record (R106) from `src` to the keeper of package sector `ps`: context, tag, code, the subject lanes
0–3, the location, lane 5, lanes 6–7. A copy goes to the trace ring (R481). -/
def State.faultRecord (s : State) (src : Dest) (ps : Nat) (ctx : BitVec 12) (tag : Word) (code : Nat)
    (subject : List Lane) (loc op level : Nat) (tail : List Lane) : State :=
  let t : Token :=
    { dest := keeperDest ps, ctx := ctx, len := 8, width := 0, poison := false, fault := false, empty := false,
      cls := 7, aux := BitVec.ofNat 16 code, tag := tag,
      lanes := padTo 0 4 subject ++ [BitVec.ofNat 32 loc, BitVec.ofNat 32 (op % 512 + (level % 8) * 512)] ++ padTo 0 2 tail }
  (s.send src t).trace (loc % 2 ^ 21 + ctx.toNat * 2 ^ 21 + (op % 512) * 2 ^ 33 + 2 ^ 46) tag.toNat (code % 2 ^ 16)

/-- Raise an MSI-X vector; numbers above 2,047 raise nothing (R489). -/
def State.raise (s : State) (v : Nat) : State := if v ≤ 2047 then { s with msix := s.msix ++ [v] } else s

/-! ## Errors (R484, R485) -/

/-- Whether an error source has a targeted self-test (R485). -/
def testable (source : Nat) : Bool := [1, 3, 5, 6, 7, 8, 9, 10].contains source

/-- The 32 bytes of an error record (R484). -/
def errorRecord (time : Nat) (e : ErrInfo) (test action count recno : Nat) : List Byte :=
  leBytes 8 time ++ leBytes 1 e.source ++ leBytes 1 (e.severity + 4 * test + 32 * action) ++ leBytes 2 count ++
    leBytes 4 recno ++ leBytes 8 e.loc ++ leBytes 8 e.detail.toNat

/-- The address of error record `n` in the ring. -/
def State.elogAddr (s : State) (n : Nat) : Nat := s.regBits (custReg 0x48) 56 17 * 2 ^ 17 + 32 * (n % 4096)

/-- Write or rewrite error record `n` with its test and action (R484, R486). -/
def State.writeError (s : State) (n time : Nat) (e : ErrInfo) (test action count : Nat) : State :=
  if s.regBits (custReg 0x48) 0 0 = 1 then s.devPutBytes (s.elogAddr n) (errorRecord time e test action count n) else s

/-- The record of a test rewritten in place (R484). -/
def State.rewriteError (s : State) (r : TestRec) (test action : Nat) : State :=
  match r.recno with
  | some n => s.writeError n r.time r.err test action r.count
  | none => s

/-- The resource an error is on (R485): an HBM4E row is one page in one pseudo-channel (R359); an LPDDR-6 row, whose layout the
manual does not give, is taken as its page; a line of a frame, of the scratchpad or of keeper memory; a leaf or a lane. -/
def resourceOf (e : ErrInfo) : Nat × Nat × Nat :=
  if e.source = 1 then (1, e.loc / 65536, bits e.loc 13 8)
  else if e.source = 3 then (3, e.loc / 65536, 0)
  else if e.source = 5 then (5, e.loc / 128, 0)
  else if e.source = 6 ∨ e.source = 10 then (e.source, e.loc / 64, 0)
  else (e.source, e.loc, e.detail.toNat)

/-- An error is seen: an error on a resource whose test is pending or running is merged into its record; else a new record is
written and its test waits (R484, R485). A fatal record raises the vector of `CUST.IRQ`. -/
def State.logError (s : State) (e : ErrInfo) : State :=
  match s.cust.tests.find? (fun r => resourceOf r.err == resourceOf e) with
  | some r =>
    let r1 := { r with count := Nat.min 0xFFFF (r.count + 1) }
    (s.setCust { s.cust with tests := s.cust.tests.map (fun q => if q.id = r.id then r1 else q) }).rewriteError r1 1 0
  | none =>
    let n := s.regBits (custReg 0x50) 31 0
    let on : Bool := s.regBits (custReg 0x48) 0 0 == 1
    let test := if testable e.source then 1 else if e.source = 12 then 0 else 4
    let s1 := s.writeError n s.clk e test 0 1
    let s2 := if on then s1.setBits (custReg 0x50) 31 0 (n + 1) else s1
    let s3 :=
      if testable e.source then
        { s2.setCust { s2.cust with tests := s2.cust.tests ++
            [{ id := s.nextId, recno := if on then some n else none, time := s.clk, err := e, count := 1, running := false }] } with
          nextId := s2.nextId + 1 }
      else s2
    if e.severity = 2 ∧ on = true ∧ s.regBits (custReg 0x58) 16 16 = 1 then s3.raise (s.regBits (custReg 0x58) 10 0) else s3

/-! ## Keeper registers, traps and the return from a trap (R126, R135, R136, R137) -/

/-- A keeper's register: k0 reads as zero (R126). -/
def State.kReg (s : State) (ps : Nat) (r : Reg) : Word := if r = 0 then 0 else (s.keeper ps).k[r.toNat]'r.isLt

/-- A keeper's register set: a write to k0 is discarded (R126). -/
def State.setK (s : State) (ps : Nat) (r : Reg) (v : Word) : State :=
  if r = 0 then s else s.setKeeper ps { s.keeper ps with k := (s.keeper ps).k.set r.toNat v r.isLt }

/-- A keeper's pc set. -/
def State.setPc (s : State) (ps : Nat) (v : Word) : State := s.setKeeper ps { s.keeper ps with pc := v }

/-- A keeper's pc moved past the word it has executed. -/
def State.pcNext (s : State) (ps : Nat) : State := s.setPc ps ((s.keeper ps).pc + 4)

/-- `KSTAT` as bits: MODE, PRIOR, INTRAP, HALT. -/
def kstatWord (mode prior intrap halt : Nat) : Word := BitVec.ofNat 64 (mode % 2 + 2 * (prior % 2) + 4 * (intrap % 2) + 8 * (halt % 2))

/-- A keeper's mode: true in supervisor mode. -/
def State.supervisor (s : State) (ps : Nat) : Bool := (s.reg (csr ps 0)).getLsbD 0

/-- Whether a keeper is halted (R137). -/
def State.halted (s : State) (ps : Nat) : Bool := (s.reg (csr ps 0)).getLsbD 3

/-- Whether a keeper's trap handler is running. -/
def State.inTrap (s : State) (ps : Nat) : Bool := (s.reg (csr ps 0)).getLsbD 2

/-- Taking a trap (R135), the one operation for every keeper fault and for `trap`: KRESUME, KFAULT and KADDR are
written, MODE is saved in PRIOR and set, INTRAP is set and the pc goes to KHANDLER. While INTRAP is 1 the keeper halts
instead, and the custodian logs the halt (R137). -/
def State.takeTrap (s : State) (ps : Nat) (soft : Bool) (code : BitVec 16) (addr resume : Word) : State :=
  let fault : Word := BitVec.ofNat 64 (code.toNat + (if soft then 0x10000 else 0))
  let st := (s.reg (csr ps 0)).toNat
  if s.inTrap ps then
    (((s.setReg (csr ps 3) fault).setReg (csr ps 4) addr).setReg (csr ps 0)
      (kstatWord (bits st 0 0) (bits st 1 1) 1 1)).logError
      { source := 12, severity := 2, loc := kmemAddr ps 0, detail := fault }
  else
    ((((s.setReg (csr ps 2) resume).setReg (csr ps 3) fault).setReg (csr ps 4) addr).setReg (csr ps 0)
      (kstatWord 1 (bits st 0 0) 1 (bits st 3 3))).setPc ps (s.reg (csr ps 1))

/-- A keeper's fault: a trap that resumes at the faulting word (R135). -/
def State.keeperFault (s : State) (ps : Nat) (code : Nat) (addr : Word) : State :=
  s.takeTrap ps false (BitVec.ofNat 16 code) addr (s.keeper ps).pc

/-- The return from a trap (R136): the pc from KRESUME, MODE from PRIOR, INTRAP cleared. -/
def State.returnTrap (s : State) (ps : Nat) : State :=
  let st := (s.reg (csr ps 0)).toNat
  (s.setReg (csr ps 0) (kstatWord (bits st 1 1) (bits st 1 1) 0 (bits st 3 3))).setPc ps (s.reg (csr ps 2))

/-! ## Fault and status codes (R104, R105) -/

/-- STREAM. -/
def fSTREAM : Nat := 1
/-- ROUTE. -/
def fROUTE : Nat := 2
/-- COLLIDE. -/
def fCOLLIDE : Nat := 3
/-- OVERFLOW. -/
def fOVERFLOW : Nat := 4
/-- CONFIG. -/
def fCONFIG : Nat := 5
/-- FPX. -/
def fFPX : Nat := 6
/-- ADDR. -/
def fADDR : Nat := 7
/-- XLAT. -/
def fXLAT : Nat := 8
/-- PERM. -/
def fPERM : Nat := 9
/-- ALIGN. -/
def fALIGN : Nat := 0xA
/-- POISON. -/
def fPOISON : Nat := 0xB
/-- ILLEGAL. -/
def fILLEGAL : Nat := 0xC
/-- WATCH. -/
def fWATCH : Nat := 0xD
/-- MIGABORT. -/
def fMIGABORT : Nat := 0x10
/-- ENTRY. -/
def fENTRY : Nat := 0x11
/-- ECC. -/
def fECC : Nat := 0x12
/-- LINK. -/
def fLINK : Nat := 0x13

/-- WATCHDOG. R462 gives a queue watchdog's expiry a journal entry and no fault record, so nothing carries the code (log 69). -/
def fWATCHDOG : Nat := 0x14

/-- Completion statuses (R104). -/
def sOK : Nat := 0
/-- BADOP. -/
def sBADOP : Nat := 1
/-- BADLEN. -/
def sBADLEN : Nat := 2
/-- BADARG. -/
def sBADARG : Nat := 3
/-- ADDR. -/
def sADDR : Nat := 4
/-- XLAT. -/
def sXLAT : Nat := 5
/-- PERM. -/
def sPERM : Nat := 6
/-- POISON. -/
def sPOISON : Nat := 7
/-- ECC. -/
def sECC : Nat := 8
/-- OVERFLOW. -/
def sOVERFLOW : Nat := 9
/-- NM_META. -/
def sNMMETA : Nat := 0xA
/-- LADDER_NOSRC. -/
def sNOSRC : Nat := 0xB
/-- HELD. -/
def sHELD : Nat := 0xC
/-- ABORTED. -/
def sABORTED : Nat := 0xD
/-- TIMEOUT. -/
def sTIMEOUT : Nat := 0xE
/-- LINK. -/
def sLINK : Nat := 0xF
/-- ENTRY. -/
def sENTRY : Nat := 0x10
/-- FAULTIN. -/
def sFAULTIN : Nat := 0x11

/-- The fault code that bears a status's name; STREAM for BADOP, BADLEN and BADARG (R104). -/
def codeOfStatus (st : Nat) : Nat :=
  if st ≤ 3 then fSTREAM
  else nth fSTREAM [0, 0, 0, 0, fADDR, fXLAT, fPERM, fPOISON, fECC, fOVERFLOW, 0xE, 0xF, 0x15, 0x16, 0x17, fLINK, fENTRY, 0x18] st

/-- The status that bears a fault code's name. -/
def statusOfCode (c : Nat) : Nat :=
  if c = fADDR then sADDR else if c = fXLAT then sXLAT else if c = fPERM then sPERM else if c = fPOISON then sPOISON
  else if c = fECC then sECC else if c = fLINK then sLINK else sBADARG

/-! ## Engine messages (R54, R56, R103) -/

/-- The opcode of a message. -/
def msgOpcode (m : Token) : Nat := bits (nth 0 m.lanes 0).toNat 7 0

/-- Operand Qn of a message, in lanes (2n − 1, 2n). -/
def qOp (m : Token) (n : Nat) : Nat := (pair64 (nth 0 m.lanes (2 * n - 1)) (nth 0 m.lanes (2 * n))).toNat

/-- Lane 0 of a message. -/
def lane0 (m : Token) : Nat := (nth 0 m.lanes 0).toNat

/-- The last lane that arrived: the reply destination (R54, R103). -/
def replyLane (m : Token) : Lane := nth 0 m.lanes (m.runLen - 1)

/-- Whether the reply lane is one a completion can go to (R103): [31:21] zero, R27 form, not an engine port. -/
def replyOk (m : Token) : Bool :=
  let r := replyLane m
  decide (r.toNat < 2 ^ 21) && destForm (r.extractLsb' 0 21) && dKind (r.extractLsb' 0 21) != 2

/-- The run length of a command's completion, by its engine and opcode (R104, R271, R315, R325, R349, R394, R418). -/
def replyLen (e : Option Engine) (op : Nat) : Nat :=
  match e with
  | some (.pool _) => nth 1 [1, 1, 1, 1, 1, 6, 6, 5, 1, 1, 1, 1, 8, 2] op
  | some (.ladder _) => nth 1 [1, 1, 1, 1, 1, 2, 12, 1, 1] op
  | some (.copy _) => 4
  | some (.stack _) => nth 4 [4, 4, 4, 4, 8, 1] op
  | some (.page _) => nth 1 [1, 4, 2, 2, 2, 10, 2, 2, 1, 8, 1] op
  | some (.link _ _) => nth 1 [1, 2, 2, 2, 2, 2, 2, 2, 3, 2, 1, 8] op
  | none => 1

/-- The completion token of a message (R56, R104): opcode, status, data and the engine's further lanes, as many as its
chapter gives whatever the status (log 19). -/
def completion (m : Token) (st data : Nat) (more : List Lane) : Token :=
  let n := replyLen (engineOf m.dest) (lane0 m % 256)
  { dest := (replyLane m).extractLsb' 0 21, ctx := m.ctx, len := lenField n, width := 0,
    poison := false, fault := false, empty := false, cls := 6, aux := 0, tag := m.tag,
    lanes := BitVec.ofNat 32 (lane0 m % 256 + (st % 256) * 256 + (data % 65536) * 65536) :: padTo 0 (n - 1) more }

/-- Send the answer to a message (R56, R103): the completion; or a STREAM record where the reply lane is malformed; or,
for a status other than OK with no reply destination, the fault record of the engine's chapter (R272, R396, R419). The completion
of an inbox's head is discarded where its partition was reset meanwhile (R463). -/
def State.answer (s : State) (m : Token) (st data : Nat) (more : List Lane) : State :=
  let ps := engineSector m.dest
  let at_ : Bool := ((s.inbox (inboxKey m.dest)).head?.map (fun e => e.2)) == some m
  if at_ && s.muted.contains (inboxKey m.dest) then s
  else if replyOk m then
    if dKind ((replyLane m).extractLsb' 0 21) = 0 then
      if st = sOK then s
      else s.faultRecord (portOf m.dest) ps m.ctx m.tag (codeOfStatus st)
        (if st = sFAULTIN then [BitVec.ofNat 32 data] else []) m.dest.toNat (lane0 m % 256) 0 []
    else s.send (portOf m.dest) (completion m st data more)
  else s.faultRecord (portOf m.dest) ps m.ctx m.tag fSTREAM [] m.dest.toNat (lane0 m % 256) 0 []

/-- The message at the head of its inbox is answered and leaves the inbox (R55, R56). -/
def State.finish (s : State) (m : Token) (st data : Nat) (more : List Lane) : State :=
  (s.answer m st data more).popInbox (inboxKey m.dest)

/-- A pool takes nothing from an inbox: a walk holds inbox `a` until it completes (R267), and a drain that waits on a ladder hold holds
back the messages behind it (R66, R313). -/
def State.inboxHeld (s : State) (d : Dest) : Bool :=
  match engineOf d with
  | some (.pool pl) =>
    (dInbox d == 1 && (s.pool pl).walk.isSome)
      || (dInbox d == 3 && (s.pool pl).drains.any (fun x => !x.walk && x.phase == 3))
  | _ => false

/-- A message is the head of its inbox, and its engine takes from it. -/
def State.atHead (s : State) (m : Token) : Bool :=
  ((s.inbox (inboxKey m.dest)).head?.map (fun e => e.2)) == some m && !s.inboxHeld m.dest

/-- The checks of R103 on a message whose command takes `lanes` lanes and whose flags lie in `flags` (a mask over lane 0),
in the order of the table: the status and the completion's data. -/
def messageCheck (m : Token) (accepted : Bool) (lanes flags : Nat) : Option (Nat × Nat) :=
  if m.width ≠ 0 then some (sBADARG, 0)
  else if m.empty then some (sBADLEN, 0)
  else if m.fault then some (sFAULTIN, m.aux.toNat)
  else if m.poison then some (sPOISON, 0)
  else if !accepted then some (sBADOP, 0)
  else if m.runLen ≠ lanes then some (sBADLEN, lanes)
  else if (lane0 m &&& (0xFFFFFF00 ^^^ flags)) ≠ 0 then some (sBADARG, 0)
  else none

/-- Taking a command from the head of its inbox (R54, R103): a message that fails a check is answered and has no other
effect; otherwise `f` performs it. A message that is not at the head of its inbox is not taken. -/
def State.command (s : State) (m : Token) (accepted : Bool) (lanes flags : Nat) (f : State → State) : State :=
  if s.atHead m then
    match messageCheck m accepted lanes flags with
    | some (st, data) => s.finish m st data []
    | none => f s
  else s

end Sys2Proof.Machine
end

