-- ==== Sys2Proof/Machine/Regs.lean ====
section
/-! DEFINITION. The registers of the on-chip window as software reads and writes them (R6, R59 to R61): the writable
bits of each, the values the device computes, and the actions a write starts. A write that starts an action sets the
action as the machine's very next step. -/

namespace Sys2Proof.Machine

/-- All ones in bits [hi:lo]. -/
def maskBits (hi lo : Nat) : Nat := (2 ^ (hi + 1 - lo) - 1) * 2 ^ lo

/-- The RW bits and the W1C bits of a register (R6). Every other bit is RO, WO or reserved: a write leaves it alone. -/
def regMask : Place → Nat × Nat
  -- sector control (R48)
  | .sreg _ 0 off =>
    if off = 0x00 then (1, 0)
    else if off = 0x08 ∨ off = 0x10 then (maskBits 8 0, 0)
    else if off = 0x18 ∨ off = 0x20 ∨ off = 0x28 ∨ off = 0x30 then (0, maskBits 63 0)
    else if off = 0x38 then (0, maskBits 15 0)
    else if off = 0x40 then (maskBits 15 0, 0)
    else if off = 0x50 then (maskBits 63 0, 0)
    else (0, 0)
  -- copy engine (R343)
  | .sreg _ 6 off => if off = 0x08 ∨ off = 0x10 ∨ off = 0x18 then (0, maskBits 63 0) else (0, 0)
  -- keeper CSRs (R128)
  | .sreg _ 7 off =>
    if off = 0x00 then (6, 0)
    else if off = 0x08 ∨ off = 0x10 ∨ off = 0x20 ∨ off = 0x28 then (maskBits 63 0, 0)
    else if off = 0x18 then (maskBits 16 0, 0)
    else if off = 0x40 then (maskBits 13 0, 0)
    else if off = 0x48 then (maskBits 11 0, 0)
    else if off = 0x50 then (maskBits 9 0, 0)
    else if off = 0x58 then (maskBits 17 0, 0)
    else if off = 0x90 then (maskBits 31 0, 0)
    else (0, 0)
  -- ladder controller (R318)
  | .sreg _ 8 off =>
    if off < 0x280 ∧ off % 0x80 < 0x58 ∧ off % 8 = 0 then (0, maskBits 63 0) else (0, 0)
  | .sreg _ 9 _ => (0, 0)
  -- pools (R293)
  | .sreg _ _ off =>
    if off < 0x40 ∧ off % 8 = 0 then (maskBits 63 0, 0)
    else if off = 0x50 then (maskBits 55 0, 0)
    else if off = 0x60 ∨ off = 0x68 ∨ off = 0x70 ∨ off = 0x78 ∨ off = 0x80 then (0, maskBits 63 0)
    else (0, 0)
  -- die control (R91)
  | .dreg 0 0 off => if 0x8000 ≤ off ∧ off % 8 = 0 then (maskBits 12 8, maskBits 4 0) else (0, 0)
  -- page engine (R406)
  | .dreg _ 4 off =>
    if off = 0x00 then (maskBits 56 6, 0)
    else if off = 0x08 then (maskBits 56 4, 0)
    else if off = 0x10 then (maskBits 17 0, 0)
    else if off = 0x20 ∨ off = 0x40 ∨ off = 0x60 then (maskBits 56 3, 0)
    else if off = 0x28 ∨ off = 0x48 ∨ off = 0x68 then (maskBits 23 0, 0)
    else if off = 0x38 ∨ off = 0x58 ∨ off = 0x78 then (maskBits 23 0, 0)
    else if 0x88 ≤ off ∧ off ≤ 0xB8 ∧ off % 8 = 0 then (0, maskBits 63 0)
    else (0, 0)
  -- memory-side cache (R61)
  | .dreg _ 5 off => if off = 0x00 ∨ off = 0x08 ∨ off = 0x10 then (0, maskBits 63 0) else (0, 0)
  -- stack engines (R365)
  | .dreg _ _ off => if off = 0x10 ∨ off = 0x18 ∨ off = 0x30 ∨ off = 0x38 then (0, maskBits 63 0) else (0, 0)
  -- link engines (R434)
  | .lreg _ 0 off =>
    if off = 0x00 then (maskBits 10 0 + 2 ^ 16, 0)
    else if off = 0x08 then (maskBits 31 0, 0)
    else if 0x40 ≤ off ∧ off < 0x80 ∧ off % 16 = 0 then (maskBits 44 16, 0)
    else if 0x40 ≤ off ∧ off < 0x80 ∧ off % 16 = 8 then (maskBits 2 0 + maskBits 44 16, 0)
    else if 0x80 ≤ off ∧ off ≤ 0xA8 ∧ off % 8 = 0 then (0, maskBits 63 0)
    else (0, 0)
  -- command front (R467); PARTn and SECPWR act by their own steps
  | .lreg _ 1 off =>
    if off = 0x100 then (1 + maskBits 56 21, 0) else if off = 0x120 then (0, 3) else (0, 0)
  -- queues (R468)
  | .lreg _ 2 off =>
    if off % 64 = 0x00 then (maskBits 8 0 + maskBits 63 16, 0)
    else if off % 64 = 0x08 then (maskBits 56 12, 0)
    else if off % 64 = 0x10 then (maskBits 23 0, 0)
    else if off % 64 = 0x20 then (0, 2 ^ 32 + 2 ^ 33)
    else if off % 64 = 0x28 then (maskBits 11 0 + maskBits 56 16, 0)
    else (0, 0)
  -- custodian (R488); SEC.LEVEL, PWR.TARGET and WPCTL act by their own steps
  | .lreg _ 3 off =>
    if off = 0x008 then (maskBits 63 0, 0)
    else if off = 0x010 then (maskBits 24 0, 0)
    else if off = 0x018 then (0, 2 ^ 5)
    else if off = 0x028 then (maskBits 56 11, 0)
    else if off = 0x038 then (0, 2 ^ 4)
    else if off = 0x040 then (maskBits 3 0, maskBits 11 8)
    else if off = 0x048 then (1 + maskBits 56 17, 0)
    else if off = 0x058 then (maskBits 10 0 + 2 ^ 16, 0)
    else if off = 0x060 then (3 + maskBits 56 21, 0)
    else if off = 0x068 then (0, maskBits 63 32)
    else if off = 0x078 then (maskBits 56 12, 0)
    else if 0x100 ≤ off ∧ off < 0x300 ∧ (off % 32 = 8 ∨ off % 32 = 16) then (maskBits 63 0, 0)
    else if 0x100 ≤ off ∧ off < 0x300 ∧ off % 32 = 24 then (0, maskBits 31 0)
    else (0, 0)
  -- module (R498)
  | .lreg _ 4 off => if off = 0x08 then (maskBits 11 0, 0) else (0, 0)
  -- CXL ports (R495); CTL.EN acts by its own step
  | .lreg _ 5 off => if off % 0x40 = 0x08 ∧ off < 0x80 then (0, 2 ^ 2) else (0, 0)
  | _ => (0, 0)

/-- A masked write (R6): RW bits take the value written, each W1C bit written 1 clears, the rest stand. -/
def maskedWrite (old : Nat) (rw w1c v : Nat) : Nat :=
  (old - (old &&& rw) - (old &&& (v &&& w1c))) + (v &&& rw)

/-- The value a write really gives the RW bits: `SEC.MSCAP` clamps to 16–256 (R48), `MOD.PCAP` to 1,000–3,600 (R498),
and `CUST.TRACE`.EN is ignored below level 1 (R488). -/
def State.clampWrite (s : State) (p : Place) (v : Nat) : Nat :=
  match p with
  | .sreg _ 0 0x08 => Nat.max 16 (Nat.min 256 (v % 512))
  | .lreg _ 4 0x08 => Nat.max 1000 (Nat.min 3600 (v % 4096))
  | .lreg _ 3 0x060 => if s.regBits (custReg 0x18) 3 2 ≥ 1 then v else putBits v 0 0 (s.regBits (custReg 0x060) 0 0)
  | _ => v

/-- The firmware runs: the front, the page engines and the link engines accept register writes (R471). -/
def State.running (s : State) : Bool := s.regBits (custReg 0x000) 2 1 = 2

/-- Whether a place's register writes are ignored because firmware does not run yet (R471). -/
def State.closed (s : State) (p : Place) : Bool :=
  match p with
  | .lreg _ 0 _ => !s.running
  | .lreg _ 1 _ => !s.running
  | .lreg _ 2 _ => !s.running
  | .dreg _ 4 _ => !s.running
  | _ => false

/-- A sector's bytes of spill areas in use (R61): every record that stands in an area. -/
def State.spillUsed (s : State) (ps : Nat) : Nat :=
  ((s.spill ps).records.filter (fun r => r.placed && r.chunk.isNone)).foldl (fun n r => n + r.tok.imageSize) 0

/-- The overflow chunks a sector's spill unit holds (R61). -/
def State.chunksHeld (s : State) (ps : Nat) : List Nat :=
  (s.spill ps).records.foldl (fun l r =>
    match r.chunk with | some c => insertNat (r.tok.ctx.toNat * 2 ^ 32 + c) l | none => l) []

/-- Bit `m` of a mask for each inbox of an engine port that has a command in progress: taken, and not completed (R343, R365). -/
def State.busyMask (s : State) (d : Dest) (n : Nat) : Nat :=
  (upTo n).foldl (fun acc m =>
    let key := (engineDest (dDie d) (dSec d) (dEng d) m).toNat
    if (s.busy.find? key).isNone then acc else acc + 2 ^ m) 0

/-- Bit `m` for each inbox whose head waits on a hold (R343). -/
def State.heldMask (s : State) (d : Dest) (n : Nat) : Nat :=
  (upTo n).foldl (fun acc m =>
    match s.busy.find? (engineDest (dDie d) (dSec d) (dEng d) m).toNat with
    | some b => if b.phase = 98 ∨ b.phase = 99 then acc + 2 ^ m else acc
    | none => acc) 0

/-- `POOL.STATUS` (R293). -/
def State.poolStatus (s : State) (pl : Nat) : Nat :=
  let p := s.pool pl
  (if p.passes.any (fun q => q.phase == .span || q.phase == .streamed) then 1 else 0)
    + (match p.walk with | some w => if w.parked then 2 else 0 | none => 0)
    + p.annA.length * 2 ^ 2 + p.annB.length * 2 ^ 7 + p.steers.length * 2 ^ 12
    + (if p.bank0.mapped then 2 ^ 17 else 0) + (if p.bank1.mapped then 2 ^ 18 else 0)

/-- `LAD.STATUS` (R318). -/
def State.ladStatus (s : State) (ps : Nat) : Nat :=
  let l := s.ladder ps
  (l.holds.filter (fun h => h.auto)).length + (l.holds.filter (fun h => !h.auto)).length * 2 ^ 7 + l.sets.length * 2 ^ 13

/-- A vector slot as `STK.SLOT`s shows it (R365). -/
def slotWord (v : VecSlot) : Nat :=
  v.len + (if v.poison then 2 ^ 15 else 0) + v.ctx.toNat * 2 ^ 16 + (if v.valid then 2 ^ 28 else 0)

/-- The value a read of a register returns (R6): WO fields read zero, and the registers the device computes read as
their state stands. -/
def State.regRead (s : State) (pa : Nat) : Word :=
  match placeOf pa with
  | .sreg _ 0 off => if off = 0x58 then 0 else s.reg pa
  | .sreg ps 6 off =>
    if off = 0 then
      let d := engineDest (ps / 8) (ps % 8) 5 0
      BitVec.ofNat 64 (s.busyMask d 4 + s.heldMask d 4 * 16)
    else s.reg pa
  | .sreg ps 7 off =>
    if off = 0xC0 then BitVec.ofNat 64 s.clk
    else if off = 0xC8 then BitVec.ofNat 64 (s.keeper ps).evq.length
    else s.reg pa
  | .sreg ps 8 off => if off = 0x300 then BitVec.ofNat 64 (s.ladStatus ps) else s.reg pa
  | .sreg ps 9 off =>
    if off = 0x00 then BitVec.ofNat 64 (s.spillUsed ps + (s.chunksHeld ps).length * 2 ^ 32)
    else if off = 0x08 then BitVec.ofNat 64 (s.spill ps).evReserve.length
    else s.reg pa
  | .sreg ps u off => if off = 0x40 then BitVec.ofNat 64 (s.poolStatus (5 * ps + (u - 1))) else if off = 0x58 then 0 else s.reg pa
  | .dreg d 4 off =>
    if off = 0x80 then
      BitVec.ofNat 64 ((s.moves.filter (fun m => m.die == d && m.phase != .waiting)).length
        + (Config.freeWord s.free).toNat % 33 * 2 ^ 4 + (Tab.get [] s.autoQ d).length * 2 ^ 10)
    else s.reg pa
  | .dreg d u off =>
    if 1 ≤ u ∧ u ≤ 3 ∧ off = 0 then
      BitVec.ofNat 64 (putBits (s.reg pa).toNat 3 0 (s.busyMask (engineDest d (u - 1) 7 0) 4))
    else if 1 ≤ u ∧ u ≤ 3 ∧ 0x40 ≤ off ∧ off < 0x60 ∧ off % 8 = 0 then
      BitVec.ofNat 64 (slotWord (nth VecSlot.none (s.stack (3 * d + (u - 1))).slots ((off - 0x40) / 8)))
    else s.reg pa
  | .lreg _ 0 off =>
    if off = 0x10 then
      BitVec.ofNat 64 (putBits (s.reg pa).toNat 22 16 (s.groups.filter (fun g => g.2.bound)).length)
    else s.reg pa
  | .lreg _ 2 off =>
    let q := s.queue (off / 64)
    if off % 64 = 0x18 then
      BitVec.ofNat 64 ((s.regBits pa 31 0) + (s.regBits pa 63 32) * 2 ^ 32)
    else if off % 64 = 0x20 then
      BitVec.ofNat 64 (q.onchip.length + q.overflow.length * 2 ^ 8 + bits (s.reg pa).toNat 33 32 * 2 ^ 32)
    else s.reg pa
  | .lreg _ 3 off =>
    if off = 0x038 then
      BitVec.ofNat 64 (putBits (s.reg pa).toNat 3 2
        (if s.regBits pa 3 2 = 0 ∧ s.regBits (frontReg 0x110) 31 0 ≠ 0 then 1 else s.regBits pa 3 2))
    else s.reg pa
  | _ => s.reg pa

/-- The step a register write starts, if it starts one: it is the machine's next step (R71, R292, R449, R466, R471,
R475, R476, R477, R478, R480, R483, R487, R409, R494, R495). -/
def State.regAction (s : State) (p : Place) (v : Word) : Option Instr :=
  let n := v.toNat
  match p with
  | .sreg ps 0 0x58 => some (if v.getLsbD 15 then .secParkDiscard ps v else .secParkResume ps v)
  | .sreg ps u 0x58 =>
    if 1 ≤ u ∧ u ≤ 5 then
      some (if v.getLsbD 32 then .poolWalkAbort (5 * ps + (u - 1)) v else .poolWalkResume (5 * ps + (u - 1)) v)
    else none
  | .lreg l 0 0x00 => if v.getLsbD 16 then some (.linkDevidValid l) else none
  | .lreg _ 1 off =>
    if off < 0x100 ∧ off % 8 = 0 then some (.partitionWrite (off / 8) v) else none
  | .lreg _ 3 off =>
    if off = 0x028 then
      (if v.getLsbD 0 then
        let ty := (s.byte (bits n 56 11 * 2 ^ 11)).toNat
        some (if ty = 1 then .authProvision else if ty = 2 then .authUnlock else if ty = 3 then .authFa
              else .authRequestUnknownType)
       else none)
    else if off = 0x038 then
      some (if bits n 1 0 = 2 then .powerRequestP2 else if bits n 1 0 = 3 then .powerRequestP3 else .powerRequestP0)
    else if off = 0x070 then (if v.getLsbD 0 then some .retiredList else none)
    else if 0x100 ≤ off ∧ off < 0x300 ∧ off % 32 = 0 then some (.watchpointWrite ((off - 0x100) / 32) v)
    else none
  | _ => none

/-- The steps a write of `CUST.SEC` starts (R476, R477): the level, and RELOCK. -/
def secActions (v : Word) : List Turn :=
  .event (.debugLevelWrite (v.extractLsb' 2 2)) :: (if v.getLsbD 4 then [.event .relock] else [])

/-- The steps a write of `FRONT.SECPWR` starts: a gate or a wake for each bit that changes (R466). -/
def State.gateActions (s : State) (v : Word) : List Turn :=
  (upTo 32).filterMap (fun i =>
    let old := (s.reg (frontReg 0x110)).getLsbD i
    if v.getLsbD i && !old then some (.event (.sectorGate i))
    else if !v.getLsbD i && old then some (.event (.sectorWake i)) else none)

/-- A write of `CUST.BOOT` (R471): GO starts the ROM's load while it waits for it; the image comes with FIRMWARE_LOAD. -/
def State.bootGo (s : State) (v : Word) : State :=
  let st := s.regBits (custReg 0) 2 1
  if v.getLsbD 0 ∧ (st = 0 ∨ st = 3) then s.setBits (custReg 0) 2 1 1 else s

/-- A write of a register by software (R6, R61): the masked write, and the action it starts as the next step. -/
def State.regWrite (s : State) (pa : Nat) (v : Word) : State :=
  let p := placeOf pa
  if s.closed p then s
  else if p = .lreg 0 3 0 then s.bootGo v
  else
    let (rw, w1c) := regMask p
    let new := maskedWrite (s.reg pa).toNat rw w1c (s.clampWrite p v.toNat)
    let s1 := if rw = 0 ∧ w1c = 0 then s else s.setReg pa (BitVec.ofNat 64 new)
    let acts : List Turn :=
      match p with
      | .lreg _ 3 0x018 => secActions v
      | .lreg _ 3 0x040 =>
        (upTo 4).filterMap (fun i =>
          if v.getLsbD i && !(s.reg pa).getLsbD i then some (.event (.ideEnable i (Config.freeBool (s.free + i)))) else none)
      | .lreg l 5 off =>
        if off % 0x40 = 0 ∧ off < 0x80 then
          let q := 2 * l + off / 0x40
          if v.getLsbD 0 && !(s.reg pa).getLsbD 0 then
            [.event (.cxlPortEnable q (Config.freeBool s.free) (Config.freeWord s.free).toNat)]
          else if !v.getLsbD 0 && (s.reg pa).getLsbD 0 then [.event (.cxlPortDisable q)] else []
        else []
      | .lreg _ 1 0x110 => s.gateActions v
      | _ => (match s.regAction p v with | some i => [.event i] | none => [])
    let s2 := if p = .lreg 0 3 0x40 then s1.setBits pa 7 4 (s1.regBits pa 7 4 &&& s1.regBits pa 3 0) else s1
    { s2 with inputs := acts ++ s2.inputs, free := s2.free + 4 }

end Sys2Proof.Machine
end

