-- ==== Sys2Proof/Machine/Home.lean ====
section
/-! DEFINITION. Accesses performed at their homes (R58 to R63, R238, R250, R253): what storage an address reaches, the
frame that serves it while its page moves or is twinned (R380, R381, R390), hotness (R385, R387) and poison. -/

namespace Sys2Proof.Machine

/-- What a load returns: its bytes, their poison, and a fault code (0 where it is performed). -/
structure Got where
  data : List Byte
  poison : Bool
  code : Nat
deriving DecidableEq, Repr

/-- A load that failed. -/
def Got.fail (code : Nat) : Got := { data := [], poison := false, code := code }

/-- Whether two places lie in one storage. -/
def sameUnit : Place → Place → Bool
  | .hbm a _, .hbm b _ => a == b
  | .lp a, .lp b => a == b
  | .cxl a _, .cxl b _ => a == b
  | .frame a _, .frame b _ => a == b
  | .scratch a _, .scratch b _ => a == b
  | .acc a p _, .acc b q _ => a == b && p == q
  | .kmem a _, .kmem b _ => a == b
  | .sreg a u _, .sreg b v _ => a == b && u == v
  | .dreg a u _, .dreg b v _ => a == b && u == v
  | .lreg a u _, .lreg b v _ => a == b && u == v
  | _, _ => false

/-- Whether a CXL port serves [off, off + n) (R58, R475, R494). -/
def State.cxlOk (s : State) (p off n : Nat) : Bool :=
  let ide := s.reg (custReg 0x40)
  decide (off + n ≤ s.regBits (cxlReg p 8) 29 16 * 2 ^ 28) && !(ide.getLsbD p && !ide.getLsbD (4 + p))

/-- Whether an access of `n` bytes is one the map permits (R58 to R60); `false` is an ADDR fault. -/
def State.physOk (s : State) (pa n : Nat) (atomic : Bool) : Bool :=
  let p := placeOf pa
  sameUnit p (placeOf (pa + (n - 1))) &&
    (match p with
     | .cxl q off => s.cxlOk q off n
     | .frame _ _ => !atomic
     | .acc _ _ _ => !atomic
     | .sreg _ _ _ => !atomic && n == 8 && pa % 8 == 0
     | .dreg _ _ _ => !atomic && n == 8 && pa % 8 == 0
     | .lreg _ _ _ => !atomic && n == 8 && pa % 8 == 0
     | .bad => false
     | _ => true)

/-! ## The side table and hotness (R376, R385, R387) -/

/-- A frame's index in its die's side table (R376). -/
def sideIndex (pa : Nat) : Option Nat :=
  match placeOf pa with
  | .hbm k off => some ((k % 3) * 2 ^ 20 + off / 65536)
  | .lp d => some (0x300000 + (pa - 0x10000000000 - d * 0x6000000000) / 65536)
  | .cxl _ off => some (0x900000 + off / 65536)
  | _ => none

/-- The address of a frame's side entry (R376). -/
def State.sideAddr (s : State) (pa : Nat) : Option Nat :=
  (sideIndex pa).map (fun i => (s.reg (pageReg (homeDie pa) 0x08)).toNat + 16 * i)

/-- Word 0 of a frame's side entry; zero for an address that lies in no frame. -/
def State.side0 (s : State) (pa : Nat) : Nat :=
  match s.sideAddr pa with
  | some a => s.devRead a 8
  | none => 0

/-- Word 1 of a frame's side entry. -/
def State.side1 (s : State) (pa : Nat) : Nat :=
  match s.sideAddr pa with
  | some a => s.devRead (a + 8) 8
  | none => 0

/-- Word 0 of a frame's side entry written. -/
def State.setSide0 (s : State) (pa v : Nat) : State :=
  match s.sideAddr pa with
  | some a => s.devPut a 8 v
  | none => s

/-- Word 1 of a frame's side entry written. -/
def State.setSide1 (s : State) (pa v : Nat) : State :=
  match s.sideAddr pa with
  | some a => s.devPut (a + 8) 8 v
  | none => s

/-- The address of an ASID's descriptor (R366), by the page engine of a die. -/
def State.descAddr (s : State) (die asid : Nat) : Nat := (s.reg (pageReg die 0)).toNat + 64 * asid

/-- The reserve-th word of an ASID's descriptor. -/
def State.desc (s : State) (die asid off : Nat) : Nat := s.devRead (s.descAddr die asid + off) 8

/-- Queue an automatic move (R387): frame, ASID, leaf entry, target tier; a full queue drops it and counts. -/
def State.autoPush (s : State) (die frame asid pte tier : Nat) : State :=
  let q := Tab.get [] s.autoQ die
  if q.length < 64 then { s with autoQ := Tab.set s.autoQ die (q ++ [(frame, asid, pte, tier)]) }
  else s.bump (pageReg die 0xB8) 1

/-- One counted access to a frame (R385), and the promotion it may queue (R387). -/
def State.touch (s : State) (pa : Nat) : State :=
  match s.sideAddr pa with
  | none => s
  | some a =>
    let w := s.devRead a 8
    let sub := bits w 11 8
    let hot := bits w 7 0
    let hot' := if sub = 15 then Nat.min 255 (hot + 1) else hot
    let s1 := s.devPut a 8 (putBits (putBits w 11 8 (sub + 1)) 7 0 hot')
    let die := homeDie pa
    let asid := bits w 45 32
    let promo := bits (s.desc die asid 8) 39 32
    if hot' ≠ hot ∧ promo ≠ 0 ∧ hot' ≥ promo ∧ bits w 20 20 = 1 ∧ tierOf pa ≠ 0
        ∧ s.regBits (pageReg die 0x10) 17 17 = 1 then
      s1.autoPush die (pa / 65536 * 65536) asid (s.devRead (a + 8) 8) 0
    else s1

/-- A channel of a stack serves an access, where it goes on to the stack (R359, R360). -/
def State.useChannel (s : State) (pa : Nat) (served : Bool) : State :=
  match placeOf pa with
  | .hbm st off =>
    s.setStack st { s.stack st with
      used := if served then Tab.set (s.stack st).used (bits off 13 8 / 2) s.timer else (s.stack st).used }
  | _ => s

/-- The memory-side cache's counters after one access to a slice, which goes on to a stack's channel where it misses: whether it hits, and whether a dirty line is written
back, is the cache's own (R61, R63). The choice is free. -/
def State.mscCount (s : State) (pa : Nat) : State :=
  if isGlobal pa then
    let d := homeDie pa
    let hit := Config.freeBool s.free
    let wb := !hit && Config.freeBool (s.free + 1)
    let add (b : Bool) (w : Word) : Word := BitVec.ofNat 64 (Nat.min (w.toNat + (if b then 1 else 0)) (2 ^ 64 - 1))
    { ((((s.useChannel pa !hit).setReg (dieReg d 5 0x00) (add hit (s.reg (dieReg d 5 0x00)))).setReg (dieReg d 5 0x08)
        (add (!hit) (s.reg (dieReg d 5 0x08)))).setReg (dieReg d 5 0x10) (add wb (s.reg (dieReg d 5 0x10)))) with
      free := s.free + 2 }
  else s

/-! ## Storage -/

/-! ## Errors of a stack's lines (R361, R362) -/

/-- The symbols that a read of a line of a stack delivers: those stored, XORed with the errors they have taken. -/
def State.readSymbols (s : State) (line : Nat) (e : List Nat) : List Nat :=
  ((rsStored ((s.bytes (64 * line) 64).map (fun b => b.toNat)) (s.poison.contains line)).zip (padTo 0 72 e)).map
    (fun (x : Nat × Nat) => x.1 ^^^ (x.2 % 256))

/-- A stack engine counts a line that it corrected or found uncorrectable, and records it (R362, R365). -/
def State.stackError (s : State) (st off group : Nat) (ue : Bool) : State :=
  (s.bump (stackReg st (if ue then 0x18 else 0x10)) 1).setReg (stackReg st 0x20)
    (BitVec.ofNat 64 (off % 2 ^ 36 + (if ue then 2 ^ 36 else 0) + (group % 32) * 2 ^ 37))

/-- The errors of a line, if it is a stack's and has any. -/
def State.upsetOf (s : State) (line : Nat) : Option (List Nat) :=
  match placeOf (64 * line) with
  | .hbm st _ => (s.stack st).upsets.find? line
  | _ => none

/-- The errors of a line are gone: it has been written anew. -/
def State.dropUpset (s : State) (line : Nat) : State :=
  match placeOf (64 * line) with
  | .hbm st _ => s.setStack st { s.stack st with upsets := (s.stack st).upsets.erase line }
  | _ => s

/-- A read of a line meets its errors (R361, R362): a line that decodes is written back as its code word; one that does not becomes a
poisoned line. The stack engine counts both, and the custodian is told. -/
def State.meetLine (s : State) (line : Nat) : State :=
  match placeOf (64 * line), s.upsetOf line with
  | .hbm st off, some e =>
    let back (d : List Nat) (p : Bool) : State :=
      let t := (s.dropUpset line).putBytes (64 * line) (d.map (BitVec.ofNat 8))
      if p then t.markPoison (64 * line) 64 else t.clearPoison (64 * line) 64
    let told (t : State) (ue : Bool) (group : Nat) : State :=
      (t.stackError st off group ue).logError
        { source := 1, severity := if ue then 1 else 0, loc := 64 * line, detail := BitVec.ofNat 64 group }
    match rsRead (s.readSymbols line e) with
    | .clean d => back d false
    | .poisoned d => back d true
    | .corrected d bad => told (back d false) false (tsvGroup bad)
    | .uncorrectable d => told (back d true) true 31
  | _, _ => s

/-- Whether no stack has a line with errors. -/
def State.noUpsets (s : State) : Bool := s.stackUnits.all (fun e => e.2.upsets.isEmpty)

/-- A read of [pa, pa + n) meets the errors of its lines. -/
def State.meet (s : State) (pa n : Nat) : State :=
  if s.noUpsets || s.dead pa then s
  else (upTo ((pa + (n - 1)) / 64 + 1 - pa / 64)).foldl (fun t i => t.meetLine (pa / 64 + i)) s

/-- A write of [pa, pa + n) at a stack: a line written whole is free of errors; a line written in part is read first. -/
def State.meetWrite (s : State) (pa n : Nat) : State :=
  if s.noUpsets || s.dead pa then s
  else
    (upTo ((pa + (n - 1)) / 64 + 1 - pa / 64)).foldl (fun t i =>
      let l := pa / 64 + i
      if pa ≤ 64 * l ∧ 64 * l + 64 ≤ pa + n then t.dropUpset l else t.meetLine l) s

/-- Bytes of storage with their poison. -/
def State.rawLoad (s : State) (pa n : Nat) : Got :=
  if s.dead pa then { data := (upTo n).map (fun i => Config.freeByte (s.free + i)), poison := true, code := 0 }
  else
    let p : Bool :=
      match placeOf pa with
      | .frame ci line => (s.cell ci).linePoison.contains line
      | _ => s.isPoisoned pa n
    { data := s.bytes pa n, poison := p, code := 0 }

/-- The free bytes that a read of a dead place has used. -/
def State.readUsed (s : State) (pa n : Nat) : State := if s.dead pa then { s with free := s.free + n } else s

/-- A line's poison bit in a cell set or cleared. -/
def State.setLinePoison (s : State) (ci line : Nat) (p : Bool) : State :=
  let c := s.cell ci
  let rest := c.linePoison.filter (fun l => l != line)
  s.setCell ci { c with linePoison := if p then insertNat line rest else rest }

/-- Bytes stored, with their poison: poisoned data poisons each line it reaches; a whole line of unpoisoned data clears
the line's poison, and a part keeps it (R238, R362, R186). -/
def State.rawStore (s : State) (pa : Nat) (bs : List Byte) (poison : Bool) : State :=
  if s.dead pa then s
  else
    let s1 := (s.meetWrite pa bs.length).putBytes pa bs
    match placeOf pa with
    | .frame ci line =>
      if poison then s1.setLinePoison ci line true
      else if bs.length = 128 then s1.setLinePoison ci line false else s1
    | _ => if poison then s1.markPoison pa bs.length else s1.clearPoison pa bs.length

/-! ## Moving and twinned pages (R380, R381, R390) -/

/-- Forwarded writes of one line applied to a move's destination in order (R380). -/
def State.applyQueued (s : State) (m : Move) (line : Nat) : State :=
  let mine := m.queue.filter (fun e => e.1 / 256 == line)
  let rest := m.queue.filter (fun e => e.1 / 256 != line)
  let s1 := mine.foldl (fun t e => (t.rawStore (m.dst + e.1) e.2.1 e.2.2).mscCount (m.dst + e.1)) s
  { s1 with moves := s1.moves.map (fun x => if x.id = m.id then { x with queue := rest } else x) }

/-- One line of a twin fill copied from O to F (R390): two accesses to memory-side slices, which count for no frame (R385). -/
def State.copyFillLine (s : State) (f : Fill) (line : Nat) : State :=
  let s0 := s.meet (f.old + 256 * line) 256
  let g := s0.rawLoad (f.old + 256 * line) 256
  let s1 := (((s0.readUsed f.old 256).rawStore (f.new + 256 * line) g.data g.poison).mscCount (f.old + 256 * line)).mscCount
    (f.new + 256 * line)
  { s1 with fills := s1.fills.map (fun x => if x.id = f.id then { x with lines := insertNat line x.lines } else x) }

/-- Where an access that reaches a frame is performed, one hop: the address it is passed on to, if it is. An old copy performs view
reads, and what is made by physical address (`phys`, R393). -/
def State.passOn (s : State) (pa : Nat) (view write phys : Bool) : Option Nat × State :=
  let off := pa % 65536
  let fr := pa - off
  match s.fills.find? (fun f => f.old == fr) with
  | some f =>
    if view then (none, s)
    else if f.shoot.isSome then ((if phys then none else some (f.new + off)), s)
    else if f.lines.contains (off / 256) then (some (f.new + off), s)
    else if write then (some (f.new + off), s.copyFillLine f (off / 256))
    else (none, s)
  | none =>
    match s.moves.find? (fun m => m.src == fr && (m.phase == .sealed || m.phase == .shooting)) with
    | some m => (some (m.dst + off), s.applyQueued m (off / 256))
    | none =>
      if !view && !phys && isGlobal pa && bits (s.side0 fr) 21 21 == 1 then (some (bits (s.side1 fr) 56 16 * 65536 + off), s)
      else (none, s)

/-- Where an access is performed, after every hop: an old copy passes an access on to the next newer copy, a stub to
the move's destination. -/
def State.redirect : Nat → State → Nat → Bool → Bool → (phys : Bool := false) → Nat × State
  | 0, s, pa, _, _, _ => (pa, s)
  | n + 1, s, pa, view, write, phys =>
    match s.passOn pa view write phys with
    | (some q, t) => State.redirect n t q view write phys
    | (none, t) => (pa, t)

/-- A write performed at a move's source before the seal enters its line's forwarding queue where the line has been
copied (R380). -/
def State.forward (s : State) (pa : Nat) (bs : List Byte) (poison : Bool) : State :=
  let off := pa % 65536
  { s with moves := s.moves.map (fun m =>
      if m.src == pa - off && m.phase == .copying && decide (off / 256 < m.copied) then
        { m with queue := m.queue ++ [(off, bs, poison)] } else m) }

/-! ## Accesses -/

/-- A load within one 256-byte line. -/
def State.loadLine (s : State) (pa n : Nat) (view : Bool) (phys : Bool := false) : Got × State :=
  let (q, s1) := s.redirect 8 pa view false phys
  let s2 := s1.meet q n
  (s2.rawLoad q n, s2.readUsed q n)

/-- A store within one 256-byte line. -/
def State.storeLine (s : State) (pa : Nat) (bs : List Byte) (poison : Bool) (phys : Bool := false) : State :=
  let (q, s1) := s.redirect 8 pa false true phys
  (s1.rawStore q bs poison).forward q bs poison

/-- A load cut at 256-byte lines. -/
def State.loadParts : Nat → State → Nat → Nat → Bool → (phys : Bool := false) → Got × State
  | 0, s, _, _, _, _ => ({ data := [], poison := false, code := 0 }, s)
  | k + 1, s, pa, n, view, phys =>
    if n = 0 then ({ data := [], poison := false, code := 0 }, s)
    else
      let m := Nat.min n (256 - pa % 256)
      let (g, s1) := s.loadLine pa m view phys
      let (h, s2) := State.loadParts k s1 (pa + m) (n - m) view phys
      ({ data := g.data ++ h.data, poison := g.poison || h.poison, code := 0 }, s2)

/-- A store cut at 256-byte lines. -/
def State.storeParts : Nat → State → Nat → List Byte → Bool → (phys : Bool := false) → State
  | 0, s, _, _, _, _ => s
  | k + 1, s, pa, bs, poison, phys =>
    if bs.isEmpty then s
    else
      let m := Nat.min bs.length (256 - pa % 256)
      State.storeParts k (s.storeLine pa (bs.take m) poison phys) (pa + m) (bs.drop m) poison phys

/-- Count an access at the frame that performs it (R385), unless it is a further part of one that has been counted, and at the
memory-side slice (R61). -/
def State.count (s : State) (pa : Nat) (view write hot : Bool) (phys : Bool := false) : State :=
  let (q, s1) := s.redirect 8 pa view write phys
  (if hot then s1.touch q else s1).mscCount q

/-- A load of `n` bytes performed at the home (R253). A register read returns the register (R6). `hot` is false where the
access is a further part of one that has been counted (R385), `phys` true where it is made by physical address (R393). -/
def State.load (s : State) (pa n : Nat) (view : Bool) (hot : Bool := true) (phys : Bool := false) : Got × State :=
  if s.physOk pa n false then
    match placeOf pa with
    | .sreg _ _ _ => ({ data := leBytes 8 (s.regRead pa).toNat, poison := false, code := 0 }, s)
    | .dreg _ u off =>
      ({ data := leBytes 8 (s.regRead pa).toNat, poison := false, code := 0 }, if u = 4 ∧ off = 0x80 then s.useFree else s)
    | .lreg _ _ _ => ({ data := leBytes 8 (s.regRead pa).toNat, poison := false, code := 0 }, s)
    | _ =>
      if isGlobal pa then
        let (g, s1) := State.loadParts (n / 256 + 2) s pa n view phys
        (g, s1.count pa view false hot phys)
      else (s.rawLoad pa n, s)
  else (.fail fADDR, s)

/-- A store performed at the home (R253): the fault code, or 0. -/
def State.store (s : State) (pa : Nat) (bs : List Byte) (poison : Bool) (hot : Bool := true) (phys : Bool := false) : Nat × State :=
  if s.physOk pa bs.length false then
    match placeOf pa with
    | .sreg _ _ _ => (0, s.regWrite pa (BitVec.ofNat 64 (leNat bs)))
    | .dreg _ _ _ => (0, s.regWrite pa (BitVec.ofNat 64 (leNat bs)))
    | .lreg _ _ _ => (0, s.regWrite pa (BitVec.ofNat 64 (leNat bs)))
    | _ =>
      if isGlobal pa then
        let s1 := State.storeParts (bs.length / 256 + 2) s pa bs poison phys
        (0, s1.count pa false true hot phys)
      else (0, s.rawStore pa bs poison)
  else (fADDR, s)

/-- An atomic performed whole at the home (R239, R253): `f` gives the new value of the old one, or none. The old bytes
come back. A poisoned target is not updated and returns poison (R238). -/
def State.atomic (s : State) (pa n : Nat) (f : Nat → Option Nat) (hot : Bool := true) (phys : Bool := false) :
    Got × State :=
  if s.physOk pa n true then
    let (q, s0) := if isGlobal pa then s.redirect 8 pa false true phys else (pa, s)
    let s1 := s0.meet q n
    let g := s1.rawLoad q n
    let counted (t : State) : State := if isGlobal pa then (if hot then t.touch q else t).mscCount q else t
    if g.poison then (g, counted (s1.readUsed q n))
    else
      let s2 :=
        match f (leNat g.data) with
        | some v => (s1.rawStore q (leBytes n v) false).forward q (leBytes n v) false
        | none => s1
      (g, counted s2)
  else (.fail fADDR, s)

/-- Whether an engine's write of [pa, pa + n) waits: a ladder hold covers a byte of it (R313), or its sector's boundary holds
accesses back (R463, R466). -/
def State.ladHeld (s : State) (pa n : Nat) : Bool :=
  match placeOf pa with
  | .scratch ps off =>
    !(s.reg (frontReg 0x118)).getLsbD ps
      || (s.ladder ps).holds.any (fun h => !h.lifted && decide (h.lo < off + n ∧ off < h.hi))
  | _ => false

end Sys2Proof.Machine
end

