-- ==== Sys2Proof/Machine/Translate.lean ====
section
/-! DEFINITION. Translation (R366 to R375, R388 to R391): page walks, view resolution, twins started by write walks, the
sectors' second-level caches, and what a shootdown invalidates. -/

namespace Sys2Proof.Machine

/-- A leaf found by a walk: the entry's address, the entry, its level, the 64 KiB frame of the address (of a large page, the one it
lies in), its extension word. -/
structure Leaf where
  pte : Nat
  entry : Nat
  lvl : Nat
  frame : Nat
  ext : Nat
deriving DecidableEq, Repr

/-- A leaf's ST (R368). -/
def Leaf.st (l : Leaf) : Nat := if l.lvl = 4 then bits l.entry 7 4 else 0
/-- Reads permitted. -/
def Leaf.r (l : Leaf) : Bool := bitOf l.entry 1
/-- Writes permitted. -/
def Leaf.w (l : Leaf) : Bool := bitOf l.entry 2
/-- BIRTH of the current copy (R369). -/
def Leaf.birth (l : Leaf) : Nat := bits l.ext 31 0
/-- GAP. -/
def Leaf.gap (l : Leaf) : Bool := bitOf l.ext 32
/-- TWIN: descriptor index + 1 of the newest old copy. -/
def Leaf.twin (l : Leaf) : Nat := bits l.ext 63 48

/-- The index of a level (R367). -/
def tableIndex (va lvl : Nat) : Nat :=
  if lvl = 1 then bits va 55 46 else if lvl = 2 then bits va 45 36 else if lvl = 3 then bits va 35 26 else bits va 25 16

/-- Whether the fields an entry's form marks zero are zero, and its ST is not reserved (R368). -/
def entryOk (e lvl : Nat) : Bool :=
  if !bitOf e 3 then lvl != 4 && bits e 2 1 == 0 && bits e 13 4 == 0 && bits e 63 57 == 0
  else if lvl = 3 then bits e 25 4 == 0 && bits e 63 57 == 0
  else if lvl = 4 then bits e 15 8 == 0 && decide (bits e 7 4 ≤ 4) && bits e 63 57 == 0
  else true

/-- The VA prefix that a walk-cache entry of a level is keyed by (R372). -/
def walkPrefix (va lvl : Nat) : Nat := if lvl = 1 then va / 2 ^ 46 else if lvl = 2 then va / 2 ^ 36 else va / 2 ^ 26

/-- A pointer remembered by a die's walk cache of 512 entries (R372); the oldest makes room. DESIGN CHOICE (log 10): the
manual does not give the replacement. -/
def State.walkRemember (s : State) (die asid lvl va next : Nat) : State :=
  let e : WalkEntry := { die := die, asid := asid, level := lvl, pre := walkPrefix va lvl, next := next }
  let mine := s.walkCache.filter (fun x => x.die == die)
  let rest := s.walkCache.filter (fun x => x.die != die)
  { s with walkCache := rest ++ (mine ++ [e]).drop ((mine.length + 1) - 512) }

/-- A word of a page table or descriptor read by a walker at its home (R371, R385): the word; none where it is poisoned, which the home
reports, or where the map permits no access. Whether another walker is reading its 64-byte line, so that the two merge, is the
walkers' own timing, which this model does not keep: a free choice (R372, log 72). -/
def State.tableWord (s : State) (die a : Nat) : Option Nat × State :=
  let (g, s1) := s.load a 8 false true true
  if g.code ≠ 0 then (none, s1)
  else if g.poison then
    (none, s1.logError { source := nth 1 [1, 3, 4] (tierOf a), severity := 1, loc := a, detail := 0 })
  else
    (some (leNat g.data), (s1.bump (pageReg die 0xA8) (if Config.freeBool s1.free then 1 else 0)).useFree)

/-- The levels of a walk (R371), with `n` levels left. -/
def State.walkLevels : Nat → State → Nat → Nat → Nat → Nat → Except Nat Leaf × State
  | 0, s, _, _, _, _ => (.error fXLAT, s)
  | n + 1, s, die, asid, va, t =>
    let lvl := 4 - n
    match s.walkCache.find? (fun x => x.die == die && x.asid == asid && x.level == lvl && x.pre == walkPrefix va lvl) with
    | some c => State.walkLevels n s die asid va c.next
    | none =>
      let a := t + 8 * tableIndex va lvl
      match s.tableWord die a with
      | (none, s1) => (.error fXLAT, s1)
      | (some e, s1) =>
        if !bitOf e 0 || !entryOk e lvl then (.error fXLAT, s1)
        else if !bitOf e 3 then
          let next := bits e 56 14 * 2 ^ 14
          State.walkLevels n (s1.walkRemember die asid lvl va next) die asid va next
        else if lvl < 3 then (.error fXLAT, s1)
        else
          let l : Leaf :=
            { pte := a, entry := e, lvl := lvl,
              frame := if lvl = 3 then bits e 56 26 * 2 ^ 26 + bits va 25 16 * 65536 else bits e 56 16 * 65536, ext := 0 }
          if lvl = 3 then (.ok l, s1)
          else
            match s1.tableWord die (a + 8192) with
            | (none, s2) => (.error fXLAT, s2)
            | (some x, s2) => (.ok { l with ext := x }, s2)

/-- A walk of (ASID, VA) down to its leaf, without a permission check (R371); the engine counts it (R406). -/
def State.findLeaf (s : State) (die asid va : Nat) : Except Nat Leaf × State :=
  match (s.bump (pageReg die 0xA0) 1).tableWord die (s.descAddr die asid) with
  | (none, s0) => (.error fXLAT, s0)
  | (some d, s0) =>
    if !bitOf d 0 then (.error fXLAT, s0)
    else
      match State.walkLevels 4 s0 die asid va (bits d 56 14 * 2 ^ 14) with
      | (.ok l, s1) => ((if l.st = 4 then .error fXLAT else .ok l), s1)
      | r => r

/-- The page that a leaf entry maps: the lowest virtual address that leads from a table to it, and its level. `n` levels are left. -/
def State.pageOf : Nat → State → Nat → Nat → Option (Nat × Nat)
  | 0, _, _, _ => none
  | n + 1, s, t, pte =>
    (upTo 1024).findSome? (fun i =>
      let e := s.devRead (t + 8 * i) 8
      let base := i * 2 ^ (16 + 10 * n)
      if !bitOf e 0 then none
      else if bitOf e 3 then (if t + 8 * i = pte ∧ n ≤ 1 then some (base, 4 - n) else none)
      else (State.pageOf n s (bits e 56 14 * 2 ^ 14) pte).map (fun x => (base + x.1, x.2)))

/-- The page that a leaf entry maps in an ASID, and its level (R376, R387). -/
def State.leafPage (s : State) (die asid pte : Nat) : Option (Nat × Nat) :=
  let d := s.desc die asid 0
  if bitOf d 0 then State.pageOf 4 s (bits d 56 14 * 2 ^ 14) pte else none

/-- The address of a context's reserve descriptor `i` (R389). -/
def State.rdesc (s : State) (die asid i : Nat) : Nat := bits (s.desc die asid 0x10) 56 5 * 32 + 32 * i

/-- How many reserve descriptors an ASID has. -/
def State.rdescCount (s : State) (die asid : Nat) : Nat := bits (s.desc die asid 0x18) 15 0

/-- Whether view `v` of an ASID is open, and its stamp (R366). -/
def State.viewStamp? (s : State) (die asid v : Nat) : Option Nat :=
  if bitOf (s.desc die asid 0x20) (32 + v) then some (bits (s.desc die asid (0x28 + 8 * (v / 2))) (32 * (v % 2) + 31) (32 * (v % 2)))
  else none

/-- The stamps of the open views of an ASID. -/
def State.openStamps (s : State) (die asid : Nat) : List Nat := (upTo 4).filterMap (s.viewStamp? die asid)

/-- The chain of old copies (R391): the first whose BIRTH is at most `stamp`. -/
def State.chainFrame : Nat → State → Nat → Nat → Nat → Nat → Option Nat
  | 0, _, _, _, _, _ => none
  | n + 1, s, die, asid, d, stamp =>
    if d = 0 then none
    else
      let a := s.rdesc die asid (d - 1)
      if s.devRead (a + 8) 4 ≤ stamp then some (bits (s.devRead a 8) 56 16 * 65536)
      else State.chainFrame n s die asid (bits (s.devRead (a + 8) 8) 47 32) stamp

/-- Resolution of a leaf for an accessor (R373, R391): the frame and the view flag. -/
def State.resolveLeaf (s : State) (die asid : Nat) (l : Leaf) (stamp : Option Nat) : Except Nat (Nat × Bool) :=
  match stamp with
  | none => .ok (l.frame, false)
  | some x =>
    if l.lvl = 4 ∧ l.st = 2 then
      if l.gap ∧ x < l.birth then .error fXLAT
      else if x ≥ l.birth then .ok (l.frame, true)
      else
        match State.chainFrame 65536 s die asid l.twin x with
        | some f => .ok (f, true)
        | none => .error fXLAT
    else if l.lvl = 4 ∧ l.gap ∧ x < l.birth then .error fXLAT
    else .ok (l.frame, true)

/-- A write walk needs a twin (R390). -/
def State.needsTwin (s : State) (die asid : Nat) (l : Leaf) : Bool :=
  l.lvl == 4 && (l.st == 0 || l.st == 2) && (s.openStamps die asid).any (fun x => decide (x ≥ l.birth))

/-- Leaf entry fields changed by compare-and-swap at the entry's home (R370). -/
def State.setPte (s : State) (pte v : Nat) : State := s.devPut pte 8 v

/-- Send a token to an ASID's event target (R366), from the page engine of a die. -/
def State.sendEvt (s : State) (die asid : Nat) (t : Token) : State :=
  let d : Dest := BitVec.ofNat 21 (bits (s.desc die asid 8) 20 0)
  s.send (engineDest die 3 7 0) { t with dest := d }

/-- A twin started by a write walk, or GAP where no reserve frame is free (R390). -/
def State.startTwin (s : State) (die asid va : Nat) (l : Leaf) : State :=
  if s.fills.any (fun f => f.pte == l.pte && f.shoot.isNone) then s
  else
    let epoch := bits (s.desc die asid 0x20) 31 0
    match (upTo (s.rdescCount die asid)).find? (fun i =>
        let w := s.devRead (s.rdesc die asid i) 8
        !bitOf w 0 && tierOf (bits w 56 16 * 65536) == tierOf l.frame) with
    | none =>
      (s.devPut (l.pte + 8192) 8 (putBits (putBits l.ext 31 0 epoch) 32 32 1)).sendEvt die asid
        { Token.zero with
          len := 3, cls := 6, tag := BitVec.ofNat 64 asid,
          lanes := [BitVec.ofNat 32 (sOVERFLOW * 256), BitVec.ofNat 32 va, BitVec.ofNat 32 (va / 2 ^ 32)] }
    | some i =>
      let a := s.rdesc die asid i
      let w := s.devRead a 8
      let s1 := s.devPut a 8 (putBits w 0 0 1)
      let s2 := (s1.setPte l.pte (putBits l.entry 7 4 2)).devPut (l.pte + 8192) 8 (putBits l.ext 31 0 epoch)
      let f : Fill :=
        { id := s2.nextId, die := die, asid := asid, va := va / 65536 * 65536, pte := l.pte, entry := putBits l.entry 7 4 2, old := l.frame,
          new := bits w 56 16 * 65536, desc := i, birth := l.birth, next := l.twin, lines := [], shoot := .none }
      { s2 with fills := s2.fills ++ [f], nextId := s2.nextId + 1 }

/-- A walk for an access (R371, R373, R390): the translation it gives, to be held by `owner`. `both` is set for an atomic, which reads
and writes. -/
def State.walk (s : State) (die owner asid : Nat) (stamp : Option Nat) (va : Nat) (write : Bool) (both : Bool := false) :
    Except Nat Xlation × State :=
  match s.findLeaf die asid va with
  | (.error c, s1) => (.error c, s1)
  | (.ok l, s2) =>
    if ((!write || both) && !l.r) || (write && (!l.w || stamp.isSome)) then (.error fPERM, s2)
    else
      let twin := stamp.isNone && s2.needsTwin die asid l
      let s3 := if write && twin then s2.startTwin die asid va l else s2
      match s3.resolveLeaf die asid l stamp with
      | .error c => (.error c, s3)
      | .ok (f, v) =>
        (.ok { owner := owner, asid := asid, page := va / 65536, stamp := stamp, frame := f, read := l.r,
               write := l.w && !v && (write || !twin), view := v, large := l.lvl == 3 }, s3)

/-- A translation remembered by its owner, which holds at most `n`; the oldest makes room. -/
def State.remember (s : State) (x : Xlation) (n : Nat) : State :=
  let same (y : Xlation) : Bool := y.owner == x.owner && y.asid == x.asid && y.page == x.page && y.stamp == x.stamp
  let mine := s.xlations.filter (fun y => y.owner == x.owner && !same y)
  let rest := s.xlations.filter (fun y => y.owner != x.owner)
  { s with xlations := rest ++ (mine ++ [x]).drop ((mine.length + 1) - n) }

/-- A translation through a sector's second level of 2,048 entries, with a walk on a miss (R232, R372). A write through
a translation that a read walk left without write permission walks again, so that a twin is started where one is due. -/
def State.translate (s : State) (ps asid : Nat) (stamp : Option Nat) (va : Nat) (write : Bool) (both : Bool := false) :
    Except Nat Xlation × State :=
  match s.xlations.find? (fun x => x.owner == ps && x.asid == asid && x.page == va / 65536 && x.stamp == stamp) with
  | some x =>
    if (write && x.write && (!both || x.read)) || (!write && x.read) then (.ok x, s)
    else
      match s.walk (ps / 8) ps asid stamp va write both with
      | (.ok y, s1) => (.ok y, s1.remember y 2048)
      | r => r
  | none =>
    match s.walk (ps / 8) ps asid stamp va write both with
    | (.ok y, s1) => (.ok y, s1.remember y 2048)
    | r => r

/-- The physical address of a VA under a translation. -/
def Xlation.pa (x : Xlation) (va : Nat) : Nat := x.frame + va % 65536

/-- A translation made by an engine of a die for one access of a context, in the ASID its message was taken with (R501): nothing is
held. -/
def State.engineXlate (s : State) (die : Nat) (ctx : BitVec 12) (asid : Option Nat) (va : Nat) (write : Bool) : Except Nat Xlation × State :=
  match asid with
  | none => (.error fXLAT, s)
  | some a => s.walk die 9999 a (s.viewStamps.find? ctx.toNat) va write

/-! ## Shootdown (R374, R249) -/

/-- Whether a shootdown's set covers a translation. -/
def ShootSet.covers : ShootSet → Nat → Nat → Option Nat → Bool
  | .pages a p n, asid, page, _ => asid == a && decide (p ≤ page ∧ page < p + n)
  | .all a, asid, _, _ => asid == a
  | .stamp a x, asid, _, st => asid == a && st == some x

/-- Whether a shootdown clears a shape window of an ASID whose page is `page` (R249). -/
def ShootSet.clears : ShootSet → Nat → Nat → Bool
  | .pages a p n, asid, page => asid == a && decide (p ≤ page ∧ page < p + n)
  | .all a, asid, _ => asid == a
  | .stamp a _, asid, _ => asid == a

/-- Start a shootdown (R374): the receivers are the 32 sectors, the four page engines and the two link engines. -/
def State.shootdown (s : State) (die : Nat) (what : ShootSet) : Nat × State :=
  (s.nextId, { s.bump (pageReg die 0xB0) 1 with
    shoots := s.shoots ++ [{ id := s.nextId, die := die, what := what, waiting := upTo 38 }], nextId := s.nextId + 1 })

/-- A shootdown with this number is still in progress. -/
def State.shooting (s : State) (id : Nat) : Bool := s.shoots.any (fun x => x.id == id)

end Sys2Proof.Machine
end

