-- ==== Sys2Proof/Machine/Remote.lean ====
section
/-! DEFINITION. The domain window from this module's side (R62, R409, R410, R412, R417): which accesses leave the module,
sending a request, and the request that fails. -/

namespace Sys2Proof.Machine

/-- The link die that serves a compute die (R101). -/
def linkOfDie (die : Nat) : Nat := die % 2

/-- Whether the module has its device id on both link dies (R409). -/
def State.devValid (s : State) : Bool := (s.reg (linkReg 0 0 0)).getLsbD 16 && (s.reg (linkReg 1 0 0)).getLsbD 16

/-- The module's own device id (R409). -/
def State.ownDev (s : State) (l : Nat) : Nat := s.regBits (linkReg l 0 0) 10 0

/-- Where a physical address leads (R62): a local address, or a device and its offset. -/
inductive Target where
  | here (pa : Nat)
  | away (dev off : Nat)
deriving DecidableEq, Repr

/-- The target of a physical address of 57 bits, from a die. -/
def State.target (s : State) (die pa : Nat) : Target :=
  if bitOf pa 56 then
    let dev := bits pa 55 45
    let off := bits pa 44 0
    if s.devValid && dev == s.ownDev (linkOfDie die) then .here off else .away dev off
  else .here pa

/-- The home of a physical address, as a number: the die's cache slice for global memory, each on-chip storage by itself,
each device of the domain (R63, R225). -/
def State.homeOf (s : State) (die pa : Nat) : Nat :=
  match s.target die pa with
  | .away dev _ => 0x100000 + dev
  | .here p =>
    match placeOf p with
    | .frame ci _ => 0x1000 + ci
    | .scratch ps _ => 0x4000 + ps
    | .acc ps q _ => 0x4100 + 8 * ps + q
    | .kmem ps _ => 0x4300 + ps
    | .sreg ps u _ => 0x4400 + 16 * ps + u
    | .dreg d u _ => 0x4800 + 16 * d + u
    | .lreg l u _ => 0x4900 + 16 * l + u
    | _ => homeDie p

/-- The frame that now holds the page of a frame: a move's destination once it is sealed, the newer copy once a twin fill is complete
(R381, R390). -/
def State.pageFrame (s : State) (frame : Nat) : Nat :=
  match s.moves.find? (fun v => v.src == frame && (v.phase == .sealed || v.phase == .shooting)) with
  | some v => v.dst
  | none =>
    match s.fills.find? (fun f => f.old == frame && f.shoot.isSome) with
    | some f => f.new
    | none => frame

/-- Whether a sector's requests for two addresses are performed in the order in which they entered its memory port: they are bound for
one home (R225), or they reach one page, whose frame may have changed between them (R375). -/
def State.inTurn (s : State) (die p q : Nat) : Bool :=
  s.homeOf die p == s.homeOf die q ||
    (match s.target die p, s.target die q with
     | .here a, .here b =>
       isGlobal a && isGlobal b && s.pageFrame (a / 65536 * 65536) == s.pageFrame (b / 65536 * 65536)
     | _, _ => false)

/-- Whether a request that an access to an address goes behind stands in a sector's memory port and is still to be performed: what
enters the port now is performed after it (R225, R375). -/
def State.portPending (s : State) (ps pa : Nat) : Bool :=
  s.accesses.any (fun b => sectorOf b.fir.ci == ps && b.port.isSome
    && b.reqs.any (fun q => q.state == 0 && s.inTurn (ps / 8) q.pa pa))

/-- The port that serves a target device: a fixed function of the device id over the ports that are up (R410, R416);
none when no port of the link engine is up. DESIGN CHOICE (log 13): the function is the device id modulo 8, then the next
port that is up. -/
def State.portFor (s : State) (l dev : Nat) : Option Nat :=
  let up := s.regBits (linkReg l 0 0x10) 7 0
  ((upTo 8).map (fun i => (dev + i) % 8)).find? (fun j => bitOf up j)

/-- Send a remote request (R410, R412). A request that cannot leave (no device id, no port up) waits for the step that
reports it failed (R409, R417); it is not counted as sent. -/
def State.remoteSend (s : State) (l : Nat) (r : Remote) : State :=
  match (if s.devValid then s.portFor l r.dev else none) with
  | some p =>
    { s.bump (linkReg l 0 0x80) 1 with
      remotes := s.remotes ++ [{ r with id := s.nextId, die := l, port := p, since := s.timer }], nextId := s.nextId + 1 }
  | none =>
    { s with
      remotes := s.remotes ++ [{ r with id := s.nextId, die := l, port := 8, since := s.timer }], nextId := s.nextId + 1 }

/-- A request with the fields its sender gives. -/
def Remote.make (dev off kind atom size : Nat) (data : List Byte) (arg : Word) (poison : Bool) (who : Requester)
    (source : Nat) : Remote :=
  { id := 0, die := 0, port := 0, dev := dev, off := off, kind := kind, atom := atom, size := size, data := data, arg := arg,
    poison := poison, who := who, source := source, since := 0 }

end Sys2Proof.Machine
end

