-- ==== Sys2Proof/Machine/Keeper.lean ====
section
/-! DEFINITION. The keeper's words that are not hive instructions (R126 to R140): fetch, addresses, integer words, loads and
stores, branches and jumps, CSRs, traps, `wait` and `fence`. Each acts on the keeper `s.cur`. -/

namespace Sys2Proof.Machine

/-- The outcome of every step of this machine. -/
abbrev Out := Host.Outcome State Fault Refusal

/-- A meaning's answer: a next state. -/
abbrev ok (s : State) : Out := .next s

/-! ## Fetch (R126) -/

/-- The fault of a fetch at an address, if it has one: ALIGN, ADDR, PERM, then ECC. -/
def State.fetchFault (s : State) (ps : Nat) (pc : Word) : Option Nat :=
  if pc.extractLsb' 0 2 ≠ 0 then some fALIGN
  else if pc.toNat ≥ 0x40000 then some fADDR
  else if !s.supervisor ps ∧ pc.toNat < (s.reg (csr ps 11)).toNat then some fPERM
  else if s.isPoisoned (kmemAddr ps pc.toNat) 4 then some fECC
  else none

/-- The keeper word at the pc. -/
def State.fetchWord (s : State) (ps : Nat) : BitVec 32 := s.lane (kmemAddr ps (s.keeper ps).pc.toNat)

/-! ## Addresses (R129) -/

/-- A place of the on-chip window that lies in a sector whose boundary holds accesses back (R29, R463, R466). -/
def State.sectorHeld (s : State) (from_ : Nat) (pa : Nat) : Bool :=
  let away (ps : Nat) : Bool := ps != from_ && !(s.reg (frontReg 0x118)).getLsbD ps
  match placeOf pa with
  | .frame ci _ => away (sectorOf ci)
  | .scratch ps _ => away ps
  | .acc ps _ _ => away ps
  | .kmem ps _ => away ps
  | .sreg ps _ _ => away ps
  | _ => false

/-- The physical address an effective address resolves to, or a fault code (R129). -/
def State.keeperResolve (s : State) (ps : Nat) (ea : Word) (write : Bool) : Except Nat Nat × State :=
  let user := !s.supervisor ps
  if ea.toNat < 0x40000 then
    (if user ∧ ea.toNat < (s.reg (csr ps 11)).toNat then .error fPERM else .ok (kmemAddr ps ea.toNat), s)
  else if ea.getLsbD 63 then
    (if user then .error fPERM
     else if ea.extractLsb' 57 6 ≠ 0 then .error fADDR
     else .ok (ea.extractLsb' 0 57).toNat, s)
  else if ea.extractLsb' 56 8 ≠ 0 then (.error fADDR, s)
  else
    match s.translate ps (s.reg (csr ps 8)).toNat none ea.toNat write with
    | (.ok x, s1) => (.ok (x.pa ea.toNat), s1)
    | (.error c, s1) => (.error c, s1)

/-! ## Integer words (R130, R131) -/

/-- kd := v, and the pc moves on. -/
def State.kWrite (s : State) (d : Reg) (v : Word) : State := (s.setK s.cur d v).pcNext s.cur

/-- KEEPER_ADD (R130). -/
def execKeeperAdd (d a b : Reg) (s : State) : Out := ok (s.kWrite d (s.kReg s.cur a + s.kReg s.cur b))
/-- KEEPER_SUB (R130). -/
def execKeeperSub (d a b : Reg) (s : State) : Out := ok (s.kWrite d (s.kReg s.cur a - s.kReg s.cur b))
/-- KEEPER_AND (R130). -/
def execKeeperAnd (d a b : Reg) (s : State) : Out := ok (s.kWrite d (s.kReg s.cur a &&& s.kReg s.cur b))
/-- KEEPER_OR (R130). -/
def execKeeperOr (d a b : Reg) (s : State) : Out := ok (s.kWrite d (s.kReg s.cur a ||| s.kReg s.cur b))
/-- KEEPER_XOR (R130). -/
def execKeeperXor (d a b : Reg) (s : State) : Out := ok (s.kWrite d (s.kReg s.cur a ^^^ s.kReg s.cur b))
/-- KEEPER_SLL (R130): by kb[5:0]. -/
def execKeeperSll (d a b : Reg) (s : State) : Out :=
  ok (s.kWrite d (s.kReg s.cur a <<< ((s.kReg s.cur b).toNat % 64)))
/-- KEEPER_SRL (R130). -/
def execKeeperSrl (d a b : Reg) (s : State) : Out :=
  ok (s.kWrite d (s.kReg s.cur a >>> ((s.kReg s.cur b).toNat % 64)))
/-- KEEPER_SRA (R130). -/
def execKeeperSra (d a b : Reg) (s : State) : Out :=
  ok (s.kWrite d ((s.kReg s.cur a).sshiftRight ((s.kReg s.cur b).toNat % 64)))
/-- KEEPER_MUL (R130): the low 64 bits. -/
def execKeeperMul (d a b : Reg) (s : State) : Out := ok (s.kWrite d (s.kReg s.cur a * s.kReg s.cur b))
/-- KEEPER_MULH (R130): bits [127:64] of the signed product. -/
def execKeeperMulh (d a b : Reg) (s : State) : Out :=
  ok (s.kWrite d (((s.kReg s.cur a).signExtend 128 * (s.kReg s.cur b).signExtend 128).extractLsb' 64 64))
/-- KEEPER_MULHN (R130): bits [127:64] of the unsigned product. -/
def execKeeperMulhn (d a b : Reg) (s : State) : Out :=
  ok (s.kWrite d (((s.kReg s.cur a).zeroExtend 128 * (s.kReg s.cur b).zeroExtend 128).extractLsb' 64 64))
/-- KEEPER_SLT (R130). -/
def execKeeperSlt (d a b : Reg) (s : State) : Out :=
  ok (s.kWrite d (if (s.kReg s.cur a).slt (s.kReg s.cur b) then 1 else 0))
/-- KEEPER_SLTN (R130). -/
def execKeeperSltn (d a b : Reg) (s : State) : Out :=
  ok (s.kWrite d (if (s.kReg s.cur a).ult (s.kReg s.cur b) then 1 else 0))
/-- KEEPER_MIN (R130): signed. -/
def execKeeperMin (d a b : Reg) (s : State) : Out :=
  ok (s.kWrite d (if (s.kReg s.cur a).slt (s.kReg s.cur b) then s.kReg s.cur a else s.kReg s.cur b))
/-- KEEPER_MAX (R130): signed. -/
def execKeeperMax (d a b : Reg) (s : State) : Out :=
  ok (s.kWrite d (if (s.kReg s.cur a).slt (s.kReg s.cur b) then s.kReg s.cur b else s.kReg s.cur a))
/-- KEEPER_ADDI (R131). -/
def execKeeperAddi (d a : Reg) (i : BitVec 15) (s : State) : Out := ok (s.kWrite d (s.kReg s.cur a + i.signExtend 64))
/-- KEEPER_ANDI (R131). -/
def execKeeperAndi (d a : Reg) (i : BitVec 15) (s : State) : Out := ok (s.kWrite d (s.kReg s.cur a &&& i.signExtend 64))
/-- KEEPER_ORI (R131). -/
def execKeeperOri (d a : Reg) (i : BitVec 15) (s : State) : Out := ok (s.kWrite d (s.kReg s.cur a ||| i.signExtend 64))
/-- KEEPER_XORI (R131). -/
def execKeeperXori (d a : Reg) (i : BitVec 15) (s : State) : Out := ok (s.kWrite d (s.kReg s.cur a ^^^ i.signExtend 64))
/-- KEEPER_SLLI (R131). -/
def execKeeperSlli (d a : Reg) (sh : BitVec 6) (s : State) : Out := ok (s.kWrite d (s.kReg s.cur a <<< sh.toNat))
/-- KEEPER_SRLI (R131). -/
def execKeeperSrli (d a : Reg) (sh : BitVec 6) (s : State) : Out := ok (s.kWrite d (s.kReg s.cur a >>> sh.toNat))
/-- KEEPER_SRAI (R131). -/
def execKeeperSrai (d a : Reg) (sh : BitVec 6) (s : State) : Out :=
  ok (s.kWrite d ((s.kReg s.cur a).sshiftRight sh.toNat))
/-- KEEPER_LUI (R131): sign-extended from bit 31. -/
def execKeeperLui (d : Reg) (i : BitVec 20) (s : State) : Out :=
  ok (s.kWrite d ((i ++ (0 : BitVec 12)).signExtend 64))

/-! ## Loads and stores (R132, R155, R412) -/

/-- The `n`-byte value sign-extended to 64 bits. -/
def sext64 (bs : List Byte) : Word :=
  let v := leNat bs
  let n := 8 * bs.length
  if 1 ≤ n ∧ 2 ^ (n - 1) ≤ v then BitVec.ofInt 64 ((v : Int) - (2 ^ n : Nat)) else BitVec.ofNat 64 v

/-- A load's data reach the keeper: an uncorrectable error of local memory is ECC, poison is POISON (R126, R129). -/
def State.loadDone (s : State) (d : Reg) (ea : Word) (pa : Nat) (g : Got) : State :=
  if g.code ≠ 0 then s.keeperFault s.cur g.code ea
  else if g.poison then
    s.keeperFault s.cur (match placeOf pa with | .kmem _ _ => fECC | _ => fPOISON) ea
  else s.kWrite d (sext64 g.data)

/-- A load of `n` bytes at ka + sext(off) (R132). A load from the domain window waits for its reply (R412). -/
def State.keeperLoad (s : State) (n : Nat) (d a : Reg) (i : BitVec 15) : State :=
  let ps := s.cur
  let ea := s.kReg ps a + i.signExtend 64
  if ea.toNat % n ≠ 0 then s.keeperFault ps fALIGN ea
  else
    match s.keeperResolve ps ea false with
    | (.error c, s1) => s1.keeperFault ps c ea
    | (.ok pa, s1) =>
      match s1.target (ps / 8) pa with
      | .here p =>
        if s1.sectorHeld ps p || (decide (0x40000 ≤ ea.toNat) && s1.portPending ps p) then s
        else let (g, s2) := s1.load p n false true (ea.getLsbD 63); s2.loadDone d ea p g
      | .away dev off =>
        let k := s1.keeper ps
        match k.reply with
        | some r =>
          let s2 := s1.setKeeper ps { k with reply := none, pending := none }
          s2.loadDone d ea 0 { data := r.data, poison := r.poison, code := r.code }
        | none =>
          if k.pending.isSome then s
          else
            (s1.setKeeper ps { k with pending := some s1.nextId }).remoteSend (linkOfDie (ps / 8))
              (Remote.make dev off 0 0 n [] 0 false (.keeper ps) ps)

/-- KEEPER_LD8 (R132). -/
def execKeeperLd8 (d a : Reg) (i : BitVec 15) (s : State) : Out := ok (s.keeperLoad 1 d a i)
/-- KEEPER_LD16 (R132). -/
def execKeeperLd16 (d a : Reg) (i : BitVec 15) (s : State) : Out := ok (s.keeperLoad 2 d a i)
/-- KEEPER_LD32 (R132). -/
def execKeeperLd32 (d a : Reg) (i : BitVec 15) (s : State) : Out := ok (s.keeperLoad 4 d a i)
/-- KEEPER_LD64 (R132). -/
def execKeeperLd64 (d a : Reg) (i : BitVec 15) (s : State) : Out := ok (s.keeperLoad 8 d a i)

/-- A store of the low `n` bytes of kb at ka + sext(off) (R132). A store to the domain window is sent and the keeper goes
on (R139, R155). -/
def State.keeperStore (s : State) (n : Nat) (a b : Reg) (o : BitVec 15) : State :=
  let ps := s.cur
  let ea := s.kReg ps a + o.signExtend 64
  let bs := leBytes n (s.kReg ps b).toNat
  if ea.toNat % n ≠ 0 then s.keeperFault ps fALIGN ea
  else
    match s.keeperResolve ps ea true with
    | (.error c, s1) => s1.keeperFault ps c ea
    | (.ok pa, s1) =>
      match s1.target (ps / 8) pa with
      | .here p =>
        if s1.sectorHeld ps p || (decide (0x40000 ≤ ea.toNat) && s1.portPending ps p) then s
        else
          let (c, s2) := s1.store p bs false true (ea.getLsbD 63)
          if c ≠ 0 then s2.keeperFault ps c ea else s2.pcNext ps
      | .away dev off =>
        let k := s1.keeper ps
        ((s1.setKeeper ps { k with domStores := k.domStores ++ [s1.nextId] }).remoteSend (linkOfDie (ps / 8))
          (Remote.make dev off 1 0 n bs 0 false (.keeper ps) ps)).pcNext ps

/-- KEEPER_ST8 (R132). -/
def execKeeperSt8 (a b : Reg) (o : BitVec 15) (s : State) : Out := ok (s.keeperStore 1 a b o)
/-- KEEPER_ST16 (R132). -/
def execKeeperSt16 (a b : Reg) (o : BitVec 15) (s : State) : Out := ok (s.keeperStore 2 a b o)
/-- KEEPER_ST32 (R132). -/
def execKeeperSt32 (a b : Reg) (o : BitVec 15) (s : State) : Out := ok (s.keeperStore 4 a b o)
/-- KEEPER_ST64 (R132). -/
def execKeeperSt64 (a b : Reg) (o : BitVec 15) (s : State) : Out := ok (s.keeperStore 8 a b o)

/-! ## Branches and jumps (R133) -/

/-- The fault of a jump to a target, if it has one (R133). -/
def State.targetFault (s : State) (ps : Nat) (t : Word) : Option Nat :=
  if t.extractLsb' 0 2 ≠ 0 then some fALIGN
  else if t.toNat ≥ 0x40000 then some fADDR
  else if !s.supervisor ps ∧ t.toNat < (s.reg (csr ps 11)).toNat then some fPERM
  else none

/-- A conditional branch: the target is checked only when the condition holds. -/
def State.branch (s : State) (taken : Bool) (o : BitVec 15) : State :=
  let ps := s.cur
  let t := (s.keeper ps).pc + (o.signExtend 64 <<< 2)
  if taken then
    match s.targetFault ps t with
    | some c => s.keeperFault ps c t
    | none => s.setPc ps t
  else s.pcNext ps

/-- A jump that links: kd := pc + 4, pc := t. -/
def State.jump (s : State) (d : Reg) (t : Word) : State :=
  let ps := s.cur
  match s.targetFault ps t with
  | some c => s.keeperFault ps c t
  | none => (s.setK ps d ((s.keeper ps).pc + 4)).setPc ps t

/-- KEEPER_BEQ (R133). -/
def execKeeperBeq (a b : Reg) (o : BitVec 15) (s : State) : Out := ok (s.branch (s.kReg s.cur a == s.kReg s.cur b) o)
/-- KEEPER_BNE (R133). -/
def execKeeperBne (a b : Reg) (o : BitVec 15) (s : State) : Out := ok (s.branch (s.kReg s.cur a != s.kReg s.cur b) o)
/-- KEEPER_BLT (R133). -/
def execKeeperBlt (a b : Reg) (o : BitVec 15) (s : State) : Out := ok (s.branch ((s.kReg s.cur a).slt (s.kReg s.cur b)) o)
/-- KEEPER_BGE (R133). -/
def execKeeperBge (a b : Reg) (o : BitVec 15) (s : State) : Out :=
  ok (s.branch (!(s.kReg s.cur a).slt (s.kReg s.cur b)) o)
/-- KEEPER_BLTN (R133). -/
def execKeeperBltn (a b : Reg) (o : BitVec 15) (s : State) : Out := ok (s.branch ((s.kReg s.cur a).ult (s.kReg s.cur b)) o)
/-- KEEPER_BGEN (R133). -/
def execKeeperBgen (a b : Reg) (o : BitVec 15) (s : State) : Out :=
  ok (s.branch (!(s.kReg s.cur a).ult (s.kReg s.cur b)) o)
/-- KEEPER_JAL (R133). -/
def execKeeperJal (d : Reg) (o : BitVec 20) (s : State) : Out :=
  ok (s.jump d ((s.keeper s.cur).pc + (o.signExtend 64 <<< 2)))
/-- KEEPER_JALR (R133). -/
def execKeeperJalr (d a : Reg) (i : BitVec 15) (s : State) : Out := ok (s.jump d (s.kReg s.cur a + i.signExtend 64))

/-! ## System words (R134 to R140) -/

/-- The CSR numbers of R128. -/
def csrListed (c : Nat) : Bool :=
  [0x000, 0x001, 0x002, 0x003, 0x004, 0x005, 0x008, 0x009, 0x00A, 0x00B, 0x010, 0x011, 0x012, 0x013, 0x018, 0x019,
   0x01A].contains c

/-- The CSRs that user mode may read (R134). -/
def csrUser (c : Nat) : Bool := [0x018, 0x019, 0x012, 0x011, 0x013, 0x01A].contains c

/-- The trap of an illegal word (R112, R140): nothing of it is performed. -/
def State.illegal (s : State) : State := s.keeperFault s.cur fILLEGAL 0

/-- KEEPER_CSRR (R134). -/
def execKeeperCsrr (d : Reg) (c : BitVec 12) (s : State) : Out :=
  ok (if !csrListed c.toNat || (!s.supervisor s.cur && !csrUser c.toNat) then s.illegal
      else s.kWrite d (s.regRead (csr s.cur c.toNat)))

/-- KEEPER_CSRW (R134). -/
def execKeeperCsrw (a : Reg) (c : BitVec 12) (s : State) : Out :=
  ok (if !csrListed c.toNat || !s.supervisor s.cur then s.illegal
      else (s.regWrite (csr s.cur c.toNat) (s.kReg s.cur a)).pcNext s.cur)

/-- KEEPER_TRAP (R135, R137): the saved pc is the next word's. -/
def execKeeperTrap (c : BitVec 15) (s : State) : Out :=
  ok (s.takeTrap s.cur true (c.zeroExtend 16) 0 ((s.keeper s.cur).pc + 4))

/-- KEEPER_TRET (R136, R140). -/
def execKeeperTret (s : State) : Out := ok (if s.supervisor s.cur then s.returnTrap s.cur else s.illegal)

/-- KEEPER_WAIT (R138): at once when the queue holds an entry or the limit is 0; else the keeper waits. -/
def execKeeperWait (d a : Reg) (i : BitVec 15) (s : State) : Out :=
  let ps := s.cur
  let k := s.keeper ps
  let limit := (s.kReg ps a + i.signExtend 64).toNat
  ok (if !k.evq.isEmpty then s.kWrite d 1
      else if limit = 0 then s.kWrite d 0
      else s.setKeeper ps { k with waiting := some (s.clk + limit, d) })

/-- What a `fence` waits for (R139). -/
def State.fenceDone (s : State) (ps : Nat) (sc : BitVec 2) : Bool :=
  let k := s.keeper ps
  k.port.isNone && k.delivery.isNone && k.drainCells.isEmpty && (sc != 3 || k.domStores.isEmpty)

/-- KEEPER_FENCE (R139). -/
def execKeeperFence (sc : BitVec 2) (s : State) : Out :=
  ok (if s.fenceDone s.cur sc then s.pcNext s.cur
      else s.setKeeper s.cur { s.keeper s.cur with fencing := some sc })

/-- ILLEGAL_INSTRUCTION (R112). -/
def execIllegalInstruction (_w : BitVec 32) (s : State) : Out := ok s.illegal

/-- KEEPER_WAIT_RESUME (R138): the queue holds an entry, or the limit has passed. -/
def execKeeperWaitResume (ps : Nat) (s : State) : Out :=
  let k := s.keeper ps
  ok (match k.waiting with
      | some (limit, d) =>
        if !k.evq.isEmpty then ((s.setKeeper ps { k with waiting := none }).setK ps d 1).pcNext ps
        else if limit ≤ s.clk then ((s.setKeeper ps { k with waiting := none }).setK ps d 0).pcNext ps
        else s
      | none => s)

/-- KEEPER_FENCE_COMPLETE (R139). -/
def execKeeperFenceComplete (ps : Nat) (s : State) : Out :=
  let k := s.keeper ps
  ok (match k.fencing with
      | some sc => if s.fenceDone ps sc then (s.setKeeper ps { k with fencing := none }).pcNext ps else s
      | none => s)

end Sys2Proof.Machine
end

