-- ==== Sys2Proof/Machine/QueueOps.lean ====
section
/-! DEFINITION. The front's queues (R437 to R442, R465): accepting a command, the journal, completing a command. -/

namespace Sys2Proof.Machine

/-- Journal states (R465). -/
def jACCEPTED : Nat := 1
/-- LAUNCHED. -/
def jLAUNCHED : Nat := 2
/-- COMPLETED. -/
def jCOMPLETED : Nat := 3
/-- FAILED. -/
def jFAILED : Nat := 4
/-- REFUSED. -/
def jREFUSED : Nat := 5
/-- PREEMPTED. -/
def jPREEMPTED : Nat := 6
/-- RESUMED. -/
def jRESUMED : Nat := 7
/-- RESET. -/
def jRESET : Nat := 8
/-- EXPIRED. -/
def jEXPIRED : Nat := 9

/-- Word `i` of a command. -/
def Cmd.w (c : Cmd) (i : Nat) : Nat := (nth 0 c.body i).toNat

/-- The digest of a body: the XOR of its words (R465). -/
def digestOf (body : List Word) : Word := body.foldl (fun a b => a ^^^ b) 0

/-- The journal's SLOT field of a command (R465). -/
def cmdSlot (line : Nat) (body : List Word) : Nat :=
  if line = 0 then (nth 0 body 5).toNat % 4096 else if line = 3 ∨ line = 4 then (nth 0 body 0).toNat % 4096 else 0

/-- Write a journal entry (R465); nothing while `FRONT.JBASE`.EN is 0. Where no storage lies at its address the entry is lost. -/
def State.journalAt (s : State) (seq queue line : Nat) (digest : Word) (slot state status : Nat) : State :=
  if s.regBits (frontReg 0x100) 0 0 = 1 then
    let jn := s.regBits (frontReg 0x108) 31 0
    let a := s.regBits (frontReg 0x100) 56 21 * 2 ^ 21 + 32 * (jn % 65536)
    let bs := leBytes 4 seq ++ leBytes 4 (queue + line * 2 ^ 10 + state * 2 ^ 16 + status * 2 ^ 24) ++ leBytes 8 digest.toNat
      ++ leBytes 8 s.clk ++ leBytes 4 jn ++ leBytes 4 slot
    (s.store a bs false true true).2.setBits (frontReg 0x108) 31 0 (jn + 1)
  else s

/-- Write a journal entry of a command. -/
def State.journal (s : State) (c : Cmd) (state status : Nat) : State :=
  s.journalAt c.seq c.queue c.line (digestOf c.body) (cmdSlot c.line c.body) state status

/-- A queue's next sequence number and DONE (R468). -/
def State.nextSeq (s : State) (q : Nat) : Nat := s.regBits (queueReg q 0x18) 31 0
/-- The lowest sequence not yet completed. -/
def State.doneSeq (s : State) (q : Nat) : Nat := s.regBits (queueReg q 0x18) 63 32

/-- DONE advanced over every sequence number completed out of order. -/
def State.advanceDone : Nat → State → Nat → State
  | 0, s, _ => s
  | n + 1, s, q =>
    let k := s.queue q
    let d := s.doneSeq q
    if k.done.contains d then
      State.advanceDone n ((s.setQueue q { k with done := k.done.filter (fun x => x != d) }).setBits (queueReg q 0x18) 63 32 (d + 1)) q
    else s

/-- A sequence number of a queue completes (R444, R468). -/
def State.completeSeq (s : State) (q seq : Nat) : State :=
  let k := s.queue q
  State.advanceDone (k.done.length + 1) (s.setQueue q { k with done := k.done ++ [seq] }) q

/-- The completion of a `kp.launch` (R151), posted by the front. -/
def State.launchAnswer (s : State) (c : Cmd) (status : Nat) : State :=
  match c.keeper with
  | some (ps, ctx, ticket) =>
    let t : Token :=
      { dest := keeperDest ps, ctx := ctx, len := 3, width := 0, poison := false, fault := false, empty := false, cls := 6,
        aux := 0, tag := 0,
        lanes := [BitVec.ofNat 32 (0x28 + status * 256), ticket, BitVec.ofNat 32 (cmdSlot 0 c.body)] }
    s.send (frontSrc c.queue) t
  | none => s

/-- A command completes: its final journal entry and its sequence number. -/
def State.finishCmd (s : State) (c : Cmd) (state status : Nat) : State :=
  (s.journal c state status).completeSeq c.queue c.seq

/-- A command is refused at acceptance (R438 to R441). DESIGN CHOICE (log 12): a `kp.launch` refused there is answered
with the refusal's status. -/
def State.refuseCmd (s : State) (c : Cmd) (status : Nat) : State := (s.finishCmd c jREFUSED status).launchAnswer c status

/-- The bytes of a command's body. -/
def bodyBytes (body : List Word) : List Byte := body.foldr (fun w l => leBytes 8 w.toNat ++ l) []

/-- An accepted command brings the package back to P0 (R483), as the next step. -/
def State.wakeUp (s : State) : State :=
  if !s.awake || s.cust.pwrEntry.isSome then { s with inputs := .event .powerWake :: s.inputs } else s

/-- The bytes of a line's staged command, those missing as zero. -/
def stagedBody (bs : List (Option Byte)) : List Word := (chunks 8 8 (bs.map (fun b => b.getD 0))).map (fun c => BitVec.ofNat 64 (leNat c))

/-- A partial command ended as it stands (R438): it is journaled ACCEPTED and completes at once as REFUSED with BADARG. -/
def State.endPartial (s : State) (q line : Nat) (bs : List (Option Byte)) : State :=
  let c : Cmd := { queue := q, seq := s.nextSeq q, line := line, body := stagedBody bs, keeper := none }
  let s1 := ((s.journal c jACCEPTED 0).setBits (queueReg q 0x18) 31 0 (s.nextSeq q + 1)).wakeUp
  (s1.setBits (queueReg q 0x20) 33 33 1).refuseCmd c sBADARG

/-- What a line of a queue has staged ends as a partial command (R438). -/
def State.clearStaged (s : State) (q line : Nat) : State :=
  match (s.queue q).staging.find? line with
  | some bs =>
    let t := s.endPartial q line bs
    t.setQueue q { t.queue q with staging := (t.queue q).staging.erase line }
  | none => s

/-- A command is accepted (R438 to R441): it takes the next sequence number and is journaled; then it is refused, or it
takes an on-chip slot, or it enters the overflow area. A command of line 7 completes by its own step. -/
def State.acceptCmd (s : State) (q line : Nat) (body : List Word) (keeper : Option (Nat × BitVec 12 × Lane)) : State :=
  let c : Cmd := { queue := q, seq := s.nextSeq q, line := line, body := body, keeper := keeper }
  let s1 := ((s.journal c jACCEPTED 0).setBits (queueReg q 0x18) 31 0 (s.nextSeq q + 1)).wakeUp
  let k := s1.queue q
  if s1.regBits (queueReg q 0) 0 0 = 0 then s1.refuseCmd c sBADARG
  else if line = 7 then { s1 with inputs := .event (.commandReserved c) :: s1.inputs }
  else if k.onchip.length < 64 ∧ k.overflow.isEmpty then s1.setQueue q { k with onchip := k.onchip ++ [c] }
  else if k.overflow.length < s1.regBits (queueReg q 0x10) 23 0 then
    let size := s1.regBits (queueReg q 0x10) 23 0
    let a := s1.regBits (queueReg q 0x08) 56 12 * 4096 + 64 * ((k.ovfHead + k.overflow.length) % size)
    (s1.store a (bodyBytes body) false true true).2.setQueue q { k with overflow := k.overflow ++ [c] }
  else (s1.setBits (queueReg q 0x20) 32 32 1).refuseCmd c sOVERFLOW

/-- The launch events not yet popped at a sector (R153): those in its event queue and in its event reserve, and those on
their way. -/
def isLaunchEvent (t : Token) : Bool := t.cls == 6 && t.runLen == 2 && nth 0 t.lanes 0 == 0x00010028

/-- Launch events a sector holds that are not yet popped. -/
def State.launchEvents (s : State) (ps : Nat) : Nat :=
  ((s.keeper ps).evq.filter isLaunchEvent).length + ((s.spill ps).evReserve.filter isLaunchEvent).length
    + (s.net.filter (fun f => f.tok.dest == keeperDest ps && isLaunchEvent f.tok)).length

end Sys2Proof.Machine
end

