-- ==== Sys2Proof/Machine/Numeric.lean ====
section
/-! DEFINITION. Numbers (R73 to R94): formats, exact values, rounding with its flags, sums, conversions, minimum and
maximum, comparisons, and the special functions. -/

namespace Sys2Proof.Machine

/-- The element formats (R100). -/
inductive Fmt where
  | f32 | f16 | bf16 | e5m2 | e4m3 | e3m2 | e2m1 | e8m0
  | i32 | n32 | i16 | n16 | i8 | n8 | i4 | n4
deriving DecidableEq, Repr

/-- The format of a format code (R100). -/
def fmtOfCode (c : Nat) : Fmt :=
  nth .i32 [.i32, .n32, .f32, .i16, .n16, .f16, .bf16, .i8, .n8, .e5m2, .e4m3, .e8m0, .e3m2, .i4, .n4, .e2m1] c

/-- Width of a format in bits (R73, R76, R77). -/
def Fmt.width : Fmt → Nat
  | .f32 => 32 | .i32 => 32 | .n32 => 32
  | .f16 => 16 | .bf16 => 16 | .i16 => 16 | .n16 => 16
  | .e5m2 => 8 | .e4m3 => 8 | .e8m0 => 8 | .i8 => 8 | .n8 => 8
  | .e3m2 => 6
  | .e2m1 => 4 | .i4 => 4 | .n4 => 4

/-- The width code a format travels under (R79). -/
def Fmt.code (f : Fmt) : Nat :=
  match f.width with
  | 32 => 0 | 16 => 1 | 8 => 2 | 6 => 3 | _ => 4

/-- Mantissa bits m (R76). -/
def Fmt.mant : Fmt → Nat
  | .f32 => 23 | .f16 => 10 | .bf16 => 7 | .e5m2 => 2 | .e4m3 => 3 | .e3m2 => 2 | .e2m1 => 1 | _ => 0

/-- Exponent bias (R76, R77). -/
def Fmt.bias : Fmt → Nat
  | .f32 => 127 | .bf16 => 127 | .e8m0 => 127 | .f16 => 15 | .e5m2 => 15 | .e4m3 => 7 | .e3m2 => 3 | .e2m1 => 1 | _ => 0

/-- The code of the greatest finite value M_f, without a sign (R76). -/
def Fmt.maxCode : Fmt → Nat
  | .f32 => 0x7F7FFFFF | .f16 => 0x7BFF | .bf16 => 0x7F7F | .e5m2 => 0x7B | .e4m3 => 0x7E | .e3m2 => 0x1F | .e2m1 => 0x7
  | _ => 0

/-- Formats with infinities. -/
def Fmt.hasInf : Fmt → Bool
  | .f32 => true | .f16 => true | .bf16 => true | .e5m2 => true | _ => false

/-- The canonical NaN (R78), where the format has one. -/
def Fmt.qnan : Fmt → Option Nat
  | .f32 => some 0x7FC00000 | .f16 => some 0x7E00 | .bf16 => some 0x7FC0 | .e5m2 => some 0x7F | .e4m3 => some 0x7F
  | _ => none

/-- Integer formats. -/
def Fmt.isInt : Fmt → Bool
  | .i32 => true | .n32 => true | .i16 => true | .n16 => true | .i8 => true | .n8 => true | .i4 => true | .n4 => true
  | _ => false

/-- Signed integer formats. -/
def Fmt.signed : Fmt → Bool
  | .i32 => true | .i16 => true | .i8 => true | .i4 => true | _ => false

/-- The least integer of an integer format (R73). -/
def Fmt.lo (f : Fmt) : Int := if f.signed then -(2 ^ (f.width - 1) : Nat) else 0

/-- The greatest integer of an integer format (R73). -/
def Fmt.hi (f : Fmt) : Int := if f.signed then (2 ^ (f.width - 1) : Nat) - 1 else (2 ^ f.width : Nat) - 1

/-- The float format of a width code and ALT (R99). -/
def floatFmt (width : Nat) (alt : Bool) : Fmt :=
  match width with
  | 0 => .f32
  | 1 => if alt then .bf16 else .f16
  | 2 => if alt then .e5m2 else .e4m3
  | 3 => .e3m2
  | _ => .e2m1

/-- The sub-element width of a width code (R23). -/
def subWidth (width : Nat) : Nat := nth 32 [32, 16, 8, 6, 4] width

/-- The sub-elements per lane, k (R23). -/
def subCount (width : Nat) : Nat := nth 1 [1, 2, 4, 5, 8] width

/-! ## Flags (R90) as bits of a number: NV 1, DZ 2, OF 4, UF 8, NX 16 -/

/-- Invalid. -/
def fNV : Nat := 1
/-- Divide-by-zero. -/
def fDZ : Nat := 2
/-- Overflow. -/
def fOF : Nat := 4
/-- Underflow. -/
def fUF : Nat := 8
/-- Inexact. -/
def fNX : Nat := 16

/-! ## Exact values -/

/-- An exact value: NaN (signalling or not), an infinity, or the real ±(n/d), or ±√(n/d) when `root`; n = 0 is a zero
with its sign. -/
inductive Num where
  | nan (sig : Bool)
  | inf (neg : Bool)
  | real (neg : Bool) (n d : Nat) (root : Bool)
deriving DecidableEq, Repr

/-- ±m·2^e. -/
def Num.dyadic (neg : Bool) (m : Nat) (e : Int) : Num :=
  match e with
  | .ofNat k => .real neg (m * 2 ^ k) 1 false
  | .negSucc k => .real neg m (2 ^ (k + 1)) false

/-- An integer as an exact value. -/
def Num.ofInt (i : Int) : Num := .real (i < 0) i.natAbs 1 false

/-- Zero with a sign. -/
def Num.zero (neg : Bool) : Num := .real neg 0 1 false

/-- The integer an integer code stands for (R73). -/
def intValue (f : Fmt) (c : Nat) : Int :=
  let c := c % 2 ^ f.width
  if f.signed ∧ c ≥ 2 ^ (f.width - 1) then (c : Int) - (2 ^ f.width : Nat) else c

/-- The value of a code (R73, R76 to R78). -/
def value (f : Fmt) (c : Nat) : Num :=
  if f.isInt then .ofInt (intValue f c)
  else if f = .e8m0 then (if c % 256 = 255 then .nan false else .dyadic false 1 (((c % 256 : Nat) : Int) - 127))
  else
    let neg := bitOf c (f.width - 1)
    let mag := c % 2 ^ (f.width - 1)
    let e := mag / 2 ^ f.mant
    let m := mag % 2 ^ f.mant
    if mag > f.maxCode then
      (if f.hasInf ∧ mag = f.maxCode + 1 then .inf neg
       else .nan (f.hasInf && f != .e5m2 && !bitOf m (f.mant - 1)))
    else if e = 0 then .dyadic neg m (1 - (f.bias : Int) - (f.mant : Int))
    else .dyadic neg (2 ^ f.mant + m) ((e : Int) - (f.bias : Int) - (f.mant : Int))

/-- Whether a code is NaN. -/
def isNaN (f : Fmt) (c : Nat) : Bool :=
  match value f c with
  | .nan _ => true
  | _ => false

/-! ## Rounding (R81 to R85) -/

/-- floor(log2 (n/d)) of a positive quotient. -/
def floorLog2 (n d : Nat) : Int :=
  let l : Int := (Nat.log2 n : Int) - (Nat.log2 d : Int)
  match l with
  | .ofNat k => if d * 2 ^ k ≤ n then l else l - 1
  | .negSucc k => if d ≤ n * 2 ^ (k + 1) then l else l - 1

/-- n·2^k / d, rounded down, and whether anything is left. -/
def scaleDiv (n d : Nat) (k : Int) : Nat × Bool :=
  match k with
  | .ofNat j => ((n * 2 ^ j) / d, (n * 2 ^ j) % d != 0)
  | .negSucc j => (n / (d * 2 ^ (j + 1)), n % (d * 2 ^ (j + 1)) != 0)

/-- The integer square root by binary digits, from bit `k` down. -/
def isqrtFrom : Nat → Nat → Nat → Nat
  | 0, _, r => r
  | k + 1, n, r => if (r + 2 ^ k) * (r + 2 ^ k) ≤ n then isqrtFrom k n (r + 2 ^ k) else isqrtFrom k n r

/-- The integer square root. -/
def isqrt (n : Nat) : Nat := isqrtFrom (Nat.log2 n / 2 + 1) n 0

/-- |x|·2^k rounded down, and whether anything is left, of n/d or √(n/d). -/
def scaled (n d : Nat) (root : Bool) (k : Int) : Nat × Bool :=
  if root then
    let (m, st) := scaleDiv n d (2 * k)
    let r := isqrt m
    (r, st || r * r != m)
  else scaleDiv n d k

/-- floor(log2 |x|) of n/d or √(n/d). -/
def magLog2 (n d : Nat) (root : Bool) : Int := if root then (floorLog2 n d) / 2 else floorLog2 n d

/-- Round up by the mode (R82): t odd, the fraction as 26 bits and what is left, the sign, and the draw D. -/
def roundUp (mode : Nat) (neg todd : Bool) (frac : Nat) (left : Bool) (draw : Nat) : Bool :=
  match mode with
  | 0 => decide (frac > 2 ^ 25) || (frac == 2 ^ 25 && (left || todd))
  | 1 => false
  | 2 => (decide (frac > 0) || left) && !neg
  | 3 => (decide (frac > 0) || left) && neg
  | 4 => decide (frac ≥ 2 ^ 25)
  | _ => decide (draw < frac / 4)

/-- The result of overflow (R83), as a code without its sign. -/
def overflowCode (f : Fmt) (mode : Nat) (neg : Bool) : Nat :=
  if f.hasInf then
    (match mode with
     | 0 => f.maxCode + 1
     | 4 => f.maxCode + 1
     | 2 => if neg then f.maxCode else f.maxCode + 1
     | 3 => if neg then f.maxCode + 1 else f.maxCode
     | _ => f.maxCode)
  else f.maxCode

/-- A code of an integer. -/
def intCode (f : Fmt) (i : Int) : Nat := (i % (2 ^ f.width : Nat)).toNat

/-- sat(x, type) of an exact integer (R84). -/
def satInt (f : Fmt) (i : Int) : Int := if i < f.lo then f.lo else if i > f.hi then f.hi else i

/-- The sign bit of a code. -/
def signCode (f : Fmt) (neg : Bool) (mag : Nat) : Nat := if neg then 2 ^ (f.width - 1) + mag else mag

/-- round(x, fmt, mode) with the draw D: the code and the flags it raises (R82). -/
def round (f : Fmt) (mode draw : Nat) : Num → Nat × Nat
  | .nan sig =>
    (match f.qnan with
     | some q => (q, if sig then fNV else 0)
     | none => (0, fNV))
  | .inf neg =>
    if f.isInt then (intCode f (if neg then f.lo else f.hi), fNV)
    else if f.hasInf then (signCode f neg (f.maxCode + 1), 0) else (signCode f neg f.maxCode, fNV)
  | .real neg n d root =>
    if n = 0 then (if f.isInt then 0 else signCode f neg 0, 0)
    else if f.isInt then
      let (v, left) := scaled n d root 26
      let t : Nat := v / 2 ^ 26
      let frac : Nat := v % 2 ^ 26
      let t' : Nat := if roundUp mode neg (t % 2 == 1) frac left draw then t + 1 else t
      let y : Int := if neg then -(t' : Int) else t'
      if y < f.lo ∨ y > f.hi then (intCode f (satInt f y), fNV)
      else (intCode f y, if frac > 0 ∨ left then fNX else 0)
    else
      let emin : Int := 1 - (f.bias : Int)
      let l := magLog2 n d root
      let e : Int := (if l < emin then emin else l) - (f.mant : Int)
      let (v, left) := scaled n d root (26 - e)
      let t : Nat := v / 2 ^ 26
      let frac : Nat := v % 2 ^ 26
      let t' : Nat := if roundUp mode neg (t % 2 == 1) frac left draw then t + 1 else t
      let mag : Nat := (((e + (f.mant : Int) - emin).toNat) * 2 ^ f.mant) + t'
      if mag > f.maxCode then (signCode f neg (overflowCode f mode neg), fOF + fNX)
      else
        (signCode f neg mag,
          if frac > 0 ∨ left then fNX + (if l < emin then fUF else 0) else 0)

/-- sat(x, fmt) of a value: the clamp to the finite range (R84), as a code. -/
def satFloat (f : Fmt) (c : Nat) : Nat :=
  match value f c with
  | .nan _ => (f.qnan).getD 0
  | .inf neg => signCode f neg f.maxCode
  | .real _ _ _ _ => c

/-- One draw of the LFSR (R85): the draw and the next state. -/
def lfsrDraw (s : BitVec 32) : Nat × BitVec 32 :=
  let b := (s.getLsbD 31 ^^ s.getLsbD 21) ^^ (s.getLsbD 1 ^^ s.getLsbD 0)
  let s' : BitVec 32 := (s.extractLsb' 0 31) ++ BitVec.ofBool b
  ((s'.extractLsb' 0 24).toNat, s')

/-! ## Exact arithmetic (R90, R171) -/

/-- −x. -/
def Num.neg : Num → Num
  | .nan s => .nan s
  | .inf b => .inf !b
  | .real b n d r => .real (!b) n d r

/-- The exact product; 0·∞ is an invalid NaN. -/
def Num.mul : Num → Num → Num
  | .nan a, .nan b => .nan (a || b)
  | .nan a, _ => .nan a
  | _, .nan b => .nan b
  | .inf a, .inf b => .inf (a ^^ b)
  | .inf a, .real b n _ _ => if n = 0 then .nan true else .inf (a ^^ b)
  | .real a n _ _, .inf b => if n = 0 then .nan true else .inf (a ^^ b)
  | .real a n d _, .real b m e _ => .real (a ^^ b) (n * m) (d * e) false

/-- The exact sum of a list (R90, R171): any NaN gives NaN, ∞ − ∞ an invalid one; an exact zero of terms that are not all
zeros of one sign is −0 under `rdn` and +0 otherwise. -/
def sumNum (mode : Nat) (xs : List Num) : Num :=
  if xs.any (fun x => match x with | .nan _ => true | _ => false) then
    .nan (xs.any (fun x => match x with | .nan s => s | _ => false))
  else
    let pos := xs.any (fun x => match x with | .inf b => !b | _ => false)
    let neg := xs.any (fun x => match x with | .inf b => b | _ => false)
    if pos && neg then .nan true
    else if pos then .inf false
    else if neg then .inf true
    else
      let (n, d) := xs.foldl (fun (acc : Int × Nat) x =>
        match x with
        | .real b m e _ => (acc.1 * (e : Int) + (if b then -(m : Int) else m) * (acc.2 : Int), acc.2 * e)
        | _ => acc) ((0 : Int), 1)
      if n = 0 then
        let allNeg := !xs.isEmpty && xs.all (fun x => match x with | .real b m _ _ => b && m == 0 | _ => false)
        let allPos := xs.all (fun x => match x with | .real b m _ _ => !b && m == 0 | _ => false)
        .zero (if allNeg then true else if allPos then false else mode == 3)
      else .real (n < 0) n.natAbs d false

/-- round(x + y, fmt, mode). -/
def roundAdd (f : Fmt) (mode draw : Nat) (x y : Num) : Nat × Nat := round f mode draw (sumNum mode [x, y])

/-- One level of tree_sum: adjacent pairs added and rounded; the flags they raise. -/
def treePairs (f : Fmt) (mode : Nat) : List Nat → List Nat × Nat
  | a :: b :: t =>
    let (r, fl) := roundAdd f mode 0 (value f a) (value f b)
    let (rs, gl) := treePairs f mode t
    (r :: rs, fl ||| gl)
  | l => (l, 0)

/-- tree_sum with fuel (R93). -/
def treeSumGo (f : Fmt) (mode : Nat) : Nat → List Nat → Nat → Nat × Nat
  | 0, l, fl => (l.headD 0, fl)
  | n + 1, l, fl =>
    match l with
    | [] => (0, fl)
    | [a] => (a, fl)
    | _ => let (l', gl) := treePairs f mode l; treeSumGo f mode n l' (fl ||| gl)

/-- tree_sum of codes of a format (R93): the code and the flags. -/
def treeSum (f : Fmt) (mode : Nat) (l : List Nat) : Nat × Nat := treeSumGo f mode 64 l 0

/-- f32 addition and multiplication with `rne` and no flags: pools, stack engines, collectives, homes (R86, R90). -/
def addF32 (a b : Nat) : Nat := (roundAdd .f32 0 0 (value .f32 a) (value .f32 b)).1
/-- f32 product of two codes of a format, rounded `rne`. -/
def mulToF32 (f g : Fmt) (a b : Nat) : Nat := (round .f32 0 0 ((value f a).mul (value g b))).1
/-- tree_sum in `f32`, `rne`. -/
def treeF32 (l : List Nat) : Nat := (treeSum .f32 0 l).1

/-! ## Minimum, maximum, comparison (R88, R89) -/

/-- Exact order of two numbers that are not NaN: −1, 0, 1; −0 and +0 equal. -/
def Num.cmp : Num → Num → Int
  | .inf a, .inf b => if a = b then 0 else if a then -1 else 1
  | .inf a, _ => if a then -1 else 1
  | _, .inf b => if b then 1 else -1
  | .real a n d _, .real b m e _ =>
    let x : Int := (if a then -(n : Int) else n) * (e : Int)
    let y : Int := (if b then -(m : Int) else m) * (d : Int)
    if x < y then -1 else if x = y then 0 else 1
  | _, _ => 0

/-- Whether a number is negative, zeros by their sign. -/
def Num.isNeg : Num → Bool
  | .nan _ => false
  | .inf b => b
  | .real b _ _ _ => b

/-- minimumNumber, maximumNumber and the propagating forms (R88): the code and the flags. -/
def minMax (f : Fmt) (isMax prop : Bool) (a b : Nat) : Nat × Nat :=
  match value f a, value f b with
  | .nan s, .nan t => ((f.qnan).getD 0, if s || t then fNV else 0)
  | .nan s, _ => (if prop then (f.qnan).getD 0 else b, if s then fNV else 0)
  | _, .nan t => (if prop then (f.qnan).getD 0 else a, if t then fNV else 0)
  | x, y =>
    let c := x.cmp y
    let aLess := c < 0 || (c == 0 && x.isNeg && !y.isNeg)
    (if isMax then (if aLess then b else a) else (if aLess || (c == 0 && x.isNeg == y.isNeg) then a else b), 0)

/-- The four float comparisons (R89): 0 equal, 1 less, 2 less or equal, 3 unordered; the truth and the flags. -/
def floatCmp (f : Fmt) (rel a b : Nat) : Bool × Nat :=
  match value f a, value f b with
  | .nan s, y =>
    let sg := s || (match y with | .nan t => t | _ => false)
    (rel == 3, if rel == 1 || rel == 2 || sg then fNV else 0)
  | _, .nan t => (rel == 3, if rel == 1 || rel == 2 || t then fNV else 0)
  | x, y =>
    let c := x.cmp y
    (match rel with | 0 => c == 0 | 1 => decide (c < 0) | 2 => decide (c ≤ 0) | _ => false, 0)

/-! ## The special functions (R173) -/

/-- Fraction bits of the fixed-point evaluations. -/
def fixBits : Nat := 640

/-- 1 in fixed point. -/
def fixOne : Nat := 2 ^ 640

/-- π with 1,024 fraction bits, rounded down. -/
def piFix : Nat := 0x3243f6a8885a308d313198a2e03707344a4093822299f31d0082efa98ec4e6c89452821e638d01377be5466cf34e90c6cc0ac29b7c97c50dd3f84d5b5b54709179216d5d98979fb1bd1310ba698dfb5ac2ffd72dbd01adfb7b8e1afed6a267e96ba7c9045f12c7f9924a19947b3916cf70801f2e2858efc16636920d871574e69

/-- Σ z^i/i! from i on, with the term z^(i−1)/(i−1)! given: e^z in fixed point. -/
def expTerms : Nat → Nat → Nat → Nat → Nat
  | 0, _, _, _ => 0
  | n + 1, i, z, term => let t := term * z / (fixOne * i); t + expTerms n (i + 1) z t

/-- Σ z^(2i+1)/(2i+1) from i on: atanh z in fixed point, `z2` the square and `p` the power. -/
def atanhTerms : Nat → Nat → Nat → Nat → Nat
  | 0, _, _, _ => 0
  | n + 1, i, z2, p => p / (2 * i + 1) + atanhTerms n (i + 1) z2 (p * z2 / fixOne)

/-- ln 2 = 2·atanh(1/3), in fixed point. -/
def ln2Fix : Nat := 2 * atanhTerms 210 0 (fixOne / 9) (fixOne / 3)

/-- 2^(n/d) for 0 ≤ n/d < 1, in fixed point. -/
def exp2Fix (n d : Nat) : Nat :=
  let z := n * ln2Fix / d
  fixOne + expTerms 140 1 z fixOne

/-- log2 of n/d in [1, 2), in fixed point: 2·atanh((n − d)/(n + d))/ln 2. -/
def log2Fix (n d : Nat) : Nat :=
  let z := (n - d) * fixOne / (n + d)
  2 * atanhTerms 210 0 (z * z / fixOne) z * fixOne / ln2Fix

/-- The alternating series of sine and cosine from index i: the terms z^i/i! with their sign, in fixed point. -/
def trigTerms : Nat → Nat → Bool → Nat → Nat → Int
  | 0, _, _, _, _ => 0
  | n + 1, i, sub, z2, term =>
    let t := term * z2 / (fixOne * ((i + 1) * (i + 2)))
    (if sub then -(t : Int) else t) + trigTerms n (i + 2) (!sub) z2 t

/-- sin of z in [0, π/4], in fixed point. -/
def sinFix (z : Nat) : Nat := ((z : Int) + trigTerms 70 1 true (z * z / fixOne) z).toNat

/-- cos of z in [0, π/4], in fixed point. -/
def cosFix (z : Nat) : Nat := ((fixOne : Int) + trigTerms 70 0 true (z * z / fixOne) fixOne).toNat

/-- sin or cos of n/d ≥ 0: sign and magnitude in fixed point. The argument is reduced by π/2. -/
def trigFix (isCos : Bool) (n d : Nat) : Bool × Nat :=
  -- n/d in units of 2^-1024
  let x := n * 2 ^ 1024 / d
  let half := piFix / 2
  let q0 := x / half
  let r0 := x % half
  -- to the nearest quarter: r in [-π/4, π/4]
  let (q, rneg, r) := if 2 * r0 > half then (q0 + 1, true, half - r0) else (q0, false, r0)
  let z := r / 2 ^ 384
  let k := (q + (if isCos then 1 else 0)) % 4
  match k with
  | 0 => (rneg, sinFix z)
  | 1 => (false, cosFix z)
  | 2 => (!rneg, sinFix z)
  | _ => (true, cosFix z)

/-- A fixed-point magnitude that is not exact, as a value: something is always left below its last bit. -/
def fixNum (neg : Bool) (v : Nat) : Num := .real neg (2 * v + 1) (2 * fixOne) false

/-- The exact 2^x of a real operand that is not an integer, or of an integer. -/
def exp2Num (neg : Bool) (n d : Nat) : Num :=
  if n > d * 400 then (if neg then .real false 1 (2 ^ 400) false else .real false (2 ^ 400) 1 false)
  else
    let fl := n / d
    let r := n % d
    if r = 0 then .dyadic false 1 (if neg then -(fl : Int) else fl)
    else if neg then
      -- 2^-(fl + r/d) = 2^(1 - r/d) / 2^(fl + 1)
      .real false (2 * exp2Fix (d - r) d + 1) (2 * fixOne * 2 ^ (fl + 1)) false
    else .real false ((2 * exp2Fix r d + 1) * 2 ^ fl) (2 * fixOne) false

/-- The exact log2 of a positive real operand: exact for powers of two. -/
def log2Num (n d : Nat) : Num :=
  let l := floorLog2 n d
  let (m, e) : Nat × Nat := match l with
    | .ofNat k => (n, d * 2 ^ k)
    | .negSucc k => (n * 2 ^ (k + 1), d)
  if m = e then (if l = 0 then .zero false else .ofInt l)
  else
    let v : Int := l * (fixOne : Int) + (log2Fix m e : Int)
    if v < 0 then fixNum true (v.natAbs - 1) else fixNum false v.toNat

/-- Whether an `f32` code lies within `k` units in the last place of an exact real, or within 2^-22 of it when `far`. -/
def withinUlp (x : Num) (k : Nat) (far : Bool) (c : Nat) : Bool :=
  match x, value .f32 c with
  | .real a n d _, .real b m e _ =>
    -- |x - c| = |±n·e ∓ m·d| / (d·e)
    let diff : Nat := ((if a then -((n * e : Nat) : Int) else ((n * e : Nat) : Int)) - (if b then -((m * d : Nat) : Int) else ((m * d : Nat) : Int))).natAbs
    let l := floorLog2 n d
    let q : Int := (if l < -126 then -126 else l) - 23
    let bound : Nat × Nat := if far then (1, 2 ^ 22) else
      (match q with | .ofNat j => (k * 2 ^ j, 1) | .negSucc j => (k, 2 ^ (j + 1)))
    decide (diff * bound.2 ≤ bound.1 * (d * e))
  | _, _ => false

/-- A result whose bits R173 leaves open within a bound: the machine's own bits where they meet the bound. They raise
NX, and UF where they are below 2^emin and not zero; a result that rounds to zero raises UF only at `fexp2`. -/
def openResult (x : Num) (k : Nat) (far zeroUf : Bool) (own : BitVec 32) : Nat × Nat :=
  let c := if withinUlp x k far own.toNat then own.toNat else (round .f32 0 0 x).1
  (c, fNX + (if c % 2 ^ 31 < 0x800000 ∧ (zeroUf = true ∨ c % 2 ^ 31 ≠ 0) then fUF else 0))

/-- `frcp` and `frsq` (R173): the exact value and DZ. -/
def rcpNum (root : Bool) : Num → Num × Nat
  | .nan s => (.nan s, 0)
  | .inf neg => (if root then (if neg then .nan true else .zero false) else .zero neg, 0)
  | .real neg n d _ =>
    if n = 0 then (.inf neg, fDZ)
    else if root then (if neg then .nan true else .real false d n true, 0)
    else (.real neg d n false, 0)

/-- `fexp2`, `flog2`, `fsin`, `fcos` (0 to 3) of a code (R173): the code and the flags. -/
def special (fn : Nat) (f : Fmt) (c : Nat) : Nat × Nat :=
  let own : BitVec 32 := match fn with
    | 0 => Config.fexp2 (BitVec.ofNat 32 c)
    | 1 => Config.flog2 (BitVec.ofNat 32 c)
    | 2 => Config.fsin (BitVec.ofNat 32 c)
    | _ => Config.fcos (BitVec.ofNat 32 c)
  match fn, value f c with
  | _, .nan s => round f 0 0 (.nan s)
  | 0, .inf neg => round f 0 0 (if neg then .zero false else .inf false)
  | 0, .real neg n d _ =>
    if n = 0 then round f 0 0 (.ofInt 1)
    else
      let x := exp2Num neg n d
      if f ≠ .f32 then round f 0 0 x
      else if n % d = 0 ∧ (neg = false ∨ n / d ≤ 149) then round f 0 0 x
      else if !neg && decide (n ≥ 128 * d) then (0x7F800000, fOF + fNX)
      else openResult x 1 false true own
  | 1, .inf neg => round f 0 0 (if neg then .nan true else .inf false)
  | 1, .real neg n d _ =>
    if n = 0 then (signCode f true (f.maxCode + 1), fDZ)
    else if neg then round f 0 0 (.nan true)
    else
      let x := log2Num n d
      let (m, e) : Nat × Nat := match floorLog2 n d with
        | .ofNat k => (n, d * 2 ^ k)
        | .negSucc k => (n * 2 ^ (k + 1), d)
      if f ≠ .f32 ∨ m = e then round f 0 0 x else openResult x 1 false false own
  | _, .inf _ => round f 0 0 (.nan true)
  | _, .real neg n d _ =>
    let isCos := fn == 3
    if n = 0 then round f 0 0 (if isCos then .ofInt 1 else .zero neg)
    else
      let (sg, v) := trigFix isCos n d
      let x := fixNum (sg ^^ (neg && !isCos)) v
      if f ≠ .f32 then round f 0 0 x else openResult x 2 (decide (n > 2 ^ 16 * d)) false own

end Sys2Proof.Machine
end

