-- ==== Sys2Proof/Machine/Records.lean ====
section
/-! DEFINITION. What a node record must be to be configured (R31, R35, R79, R98, R99, R166, R167, R174, R189, R194, R201,
R224, R227, R228, R233): the checks that refuse a configuration with CONFIG. -/

namespace Sys2Proof.Machine

/-- The types a worker row takes (R166): int, float, `f32`/`f16`/`bf16`, any (int or float by F), int or float without a
type modifier, `n32`, or the conversion's own pair. -/
inductive RowType where
  | int | float | wide | any | all | n32 | cvt
deriving DecidableEq, Repr

/-- The use a worker row makes of its literal (R166). -/
inductive RowLit where
  | dash | y | cvt | fu | sh | full | slots
deriving DecidableEq, Repr

/-- A row of R166: the opcodes, their arities, types, whether SAT, ALT and RM are named, the literal. -/
structure WorkerRow where
  lo : Nat
  hi : Nat
  arities : List Nat
  types : RowType
  sat : Bool
  alt : Bool
  rm : Bool
  lit : RowLit
deriving DecidableEq, Repr

/-- The table of R166. -/
def workerRows : List WorkerRow :=
  [⟨0x000, 0x002, [1, 2], .int, true, false, false, .y⟩, ⟨0x003, 0x004, [1, 2], .int, false, false, false, .y⟩,
   ⟨0x005, 0x006, [0], .int, true, false, false, .dash⟩, ⟨0x007, 0x011, [1, 2], .int, false, false, false, .y⟩,
   ⟨0x012, 0x014, [0], .int, false, false, false, .dash⟩, ⟨0x020, 0x025, [1, 2], .int, false, false, false, .y⟩,
   ⟨0x030, 0x032, [1, 2], .float, false, true, true, .y⟩, ⟨0x033, 0x033, [3], .float, false, true, true, .y⟩,
   ⟨0x034, 0x035, [0], .float, false, true, false, .dash⟩, ⟨0x036, 0x03D, [1, 2], .float, false, true, false, .y⟩] ++
  [⟨0x040, 0x041, [0], .wide, false, true, true, .dash⟩, ⟨0x042, 0x045, [0], .wide, false, true, false, .dash⟩,
   ⟨0x050, 0x052, [0], .cvt, false, false, true, .cvt⟩, ⟨0x053, 0x054, [0], .all, false, false, false, .dash⟩,
   ⟨0x060, 0x061, [1], .any, true, true, true, .fu⟩, ⟨0x062, 0x062, [1, 3], .any, true, true, true, .fu⟩,
   ⟨0x063, 0x063, [1], .any, false, true, false, .fu⟩, ⟨0x070, 0x070, [0], .any, true, true, true, .fu⟩,
   ⟨0x071, 0x072, [0], .any, false, true, false, .fu⟩, ⟨0x073, 0x073, [0], .any, true, true, true, .fu⟩] ++
  [⟨0x074, 0x074, [0], .all, false, false, false, .sh⟩, ⟨0x080, 0x081, [1], .n32, false, false, false, .dash⟩,
   ⟨0x082, 0x082, [0, 1], .n32, false, false, false, .full⟩, ⟨0x083, 0x083, [0], .n32, false, false, false, .full⟩,
   ⟨0x084, 0x084, [3], .n32, false, false, false, .y⟩, ⟨0x090, 0x090, [0], .all, false, false, false, .slots⟩,
   ⟨0x091, 0x091, [1], .all, false, false, false, .slots⟩, ⟨0x0A0, 0x0A0, [0], .all, false, false, false, .full⟩]

/-- The worker opcodes that have a row. -/
def workerRow (op : Nat) : Option WorkerRow := workerRows.find? (fun r => decide (r.lo ≤ op ∧ op ≤ r.hi))

/-- The kind of cell an opcode belongs to (R113 to R115, R117). -/
def kindOfOpcode (op : Nat) : Option CellKind :=
  if (workerRow op).isSome then some .worker
  else if (0x100 ≤ op ∧ op ≤ 0x107) ∨ (0x110 ≤ op ∧ op ≤ 0x113) ∨ (0x118 ≤ op ∧ op ≤ 0x11C) ∨ (0x120 ≤ op ∧ op ≤ 0x121)
      ∨ (0x128 ≤ op ∧ op ≤ 0x129) ∨ (0x130 ≤ op ∧ op ≤ 0x135) ∨ (0x138 ≤ op ∧ op ≤ 0x139) then some .guard
  else if (0x180 ≤ op ∧ op ≤ 0x185) ∨ (0x190 ≤ op ∧ op ≤ 0x19B) ∨ (0x1A0 ≤ op ∧ op ≤ 0x1A3) ∨ (0x1B0 ≤ op ∧ op ≤ 0x1B1)
      then some .forager
  else none

/-- A slot lies in the named or the rotating region (R35). -/
def slotOk (p q n : Nat) : Bool := decide (n < p ∨ (192 ≤ n ∧ n < 192 + q))

/-- The regions of a plane are legal (R35). -/
def regionsOk (p q : Nat) : Bool := decide (p ≤ 192 ∧ q ≤ 64 ∧ p + q ≤ 224)

/-- Tag operation 0b100 uses literal [15:0] (R192), which no row that uses those bits may carry; every bit of the literal
outside `used` is zero (R167, R189). -/
def literalOk (r : NodeRec) (used : Nat) : Bool :=
  let set := r.tagop == 4
  (!set || used % 65536 == 0) && (r.lit.toNat &&& (0xFFFFFFFF ^^^ (used ||| (if set then 0xFFFF else 0)))) == 0

/-- The worker rows' modifier field: [77] is SAT or ALT, [76:74] is RM (R99, R166, R167). -/
def modifierOk (r : NodeRec) (top rm : Bool) : Bool :=
  (top || !r.mod.getLsbD 3) && (if rm then decide (r.mod.toNat % 8 ≤ 5) else r.mod.toNat % 8 == 0)

/-- A record of a worker (R166, R167, R174, R185). -/
def workerOk (op : Nat) (r : NodeRec) (p q : Nat) : Bool :=
  match workerRow op with
  | none => false
  | some w =>
    let lit := r.lit.toNat
    let ar := r.arity.toNat
    let fbit := bitOf lit 31
    let isFloat := w.types == .float || w.types == .wide || (w.types == .any && fbit)
    let isInt := w.types == .int || (w.types == .any && !fbit)
    let width := r.width.toNat
    w.arities.contains ar
      && modifierOk r ((isFloat && w.alt) || (isInt && w.sat)) (w.rm && (isFloat || w.types == .cvt))
      && !(w.types == .any && fbit && bitOf lit 30)
      && (!isInt || width != 3)
      && (w.types != .wide || decide (width ≤ 1))
      && (w.types != .n32 || width == 0)
      && !(isFloat && r.mod.getLsbD 3 && width != 1 && width != 2)
      && !(op == 0x070 && fbit && r.mod.toNat % 8 == 5)
      && (ar != 3 || slotOk p q (lit % 256))
      && (w.lit != .slots || decide (lit % 256 < p))
      && (w.types != .cvt ||
          (let src := bits lit 7 4
           let tgt := bits lit 3 0
           let floats := [2, 5, 6, 9, 0xA, 0xC, 0xF]
           let ints := [0, 1, 3, 4, 7, 8, 0xD, 0xE]
           let ks := subCount width
           let kt := subCount (fmtOfCode tgt).code
           (if op = 0x050 then (floats.contains src || src == 0xB) && floats.contains tgt
            else if op = 0x051 then floats.contains src && ints.contains tgt
            else ints.contains src && floats.contains tgt)
             && (fmtOfCode src).code == width
             && decide (bits lit 11 8 < (if ks ≥ kt then (ks + kt - 1) / kt else kt / ks))))
      && (if op = 0x083 ∨ op = 0x084 then r.tagop == 2 else if op = 0x053 ∨ op = 0x054 then r.tagop == 0 else true)
      && literalOk r
          (match w.lit with
           | .dash => 0
           | .y => if ar = 2 then 0xFFFFFFFF else if ar = 3 then 0xFF else 0
           | .cvt => 0xFFF
           | .fu => 0xC0000000 + (if ar = 3 then 0xFF else 0)
           | .sh => 0x3F
           | .full => 0xFFFFFFFF
           | .slots => 0x1FFF)

/-- A destination is one of R194's data kinds: none, a cell, a keeper, or a `steer` inbox. -/
def dataDest (d : Dest) : Bool := dKind d != 2 || (decide (dEng d ≤ 4) && dInbox d == 4)

/-- A record of a guard at a level (R189, R194); `shape` is the tag shape it is checked against, if there is one. -/
def guardOk (op : Nat) (r : NodeRec) (level p q : Nat) (shape : Option Word) : Bool :=
  let lit := r.lit.toNat
  let ar := r.arity.toNat
  let tag := r.tagop.toNat
  let isData := dataDest r.dstA && dataDest r.dstB
  let none2 := dKind r.dstA == 0 && dKind r.dstB == 0
  let inner : Option Nat := shape.map (fun s => if level + 1 < fieldCount s then fieldWidth s (level + 1) else 0)
  r.mod == 0 && (r.width == 0 || op == 0x104) &&
    (match op with
     | 0x100 => ar == 1 && isData && literalOk r 0
     | 0x101 => ar == 1 && isData && literalOk r 0
     | 0x102 => ar == 1 && isData && literalOk r 0
     | 0x103 => ar == 0 && isData && literalOk r 0
     | 0x104 => ar == 0 && isData && literalOk r 0x1F
     | 0x105 => ar == 0 && tag == 0 && none2 && literalOk r 0
     | 0x106 => ar == 3 && isData && literalOk r 0xFF && slotOk p q (lit % 256)
     | 0x107 => ar == 1 && isData && literalOk r 0
     | 0x110 =>
       let k := bits lit 22 16
       ar == 0 && tag == 2 && isData && literalOk r 0x7F000F && decide (1 ≤ k ∧ k ≤ 64)
         && (match inner with | some w => decide (1 ≤ w ∧ k ≤ 2 ^ (w - 1)) | none => true)
     | 0x111 => ar == 0 && tag == 1 && isData && literalOk r 0xF
     | 0x112 => ar == 0 && tag == 3 && isData && literalOk r 0xF
     | 0x113 => ar == 0 && tag == 3 && isData && literalOk r 0xF
     | 0x118 => ar == 0 && tag == 2 && isData && literalOk r 0
     | 0x119 => ar == 0 && tag == 3 && isData && literalOk r 0
     | 0x11A => ((ar == 0 && tag == 4) || (ar == 1 && tag == 5)) && isData && literalOk r 0
     | 0x11B =>
       ar == 0 && isData && literalOk r 0xF
         && (match shape with | some s => decide (lit % 8 < fieldCount s) | none => true)
     | 0x11C => ar == 0 && tag == 1 && isData && literalOk r 0
     | 0x120 =>
       (ar == 0 || ar == 1) && tag == 0 && isData && literalOk r 0xFFFF && level != 7
         && (match inner with | some w => decide (lit % 65536 < 2 ^ w) | none => true)
     | 0x121 => ar == 1 && tag == 0 && dataDest r.dstA && dKind r.dstB == 0 && literalOk r 0 && level != 0
     | 0x128 => ar == 0 && isData && literalOk r 0x1FFFF && lit % 65536 != 0
     | 0x129 => ar == 0 && isData && literalOk r 0xFFFF
     | 0x130 => ar == 0 && dKind r.dstA == 2 && dataDest r.dstB && literalOk r 0x1FFFFF
     | 0x131 => ar == 0 && dKind r.dstA != 2 && dKind r.dstB != 2 && literalOk r 0xFFFFFFFF
     | 0x132 => ar == 0 && tag == 0 && none2 && literalOk r 0x7FFF
     | 0x133 => ar == 0 && tag == 0 && literalOk r 0
     | 0x134 => ar == 0 && isData && literalOk r 0
     | 0x135 =>
       let d : Dest := r.lit.extractLsb' 0 21
       ar == 0 && isData && literalOk r 0xFF1FFFFF && dKind d == 2 && destForm d && dInbox d == 0 && bits lit 31 24 != 0
     | 0x138 => ar == 0 && isData && literalOk r 0xFF && decide (192 ≤ lit % 256) && slotOk p q (lit % 256)
     | 0x139 => ar == 0 && isData && literalOk r 0xFF && decide (192 ≤ lit % 256) && slotOk p q (lit % 256)
     | _ => false)

/-- The wave fields (R228): P, S, N. -/
def waveP (lit : Nat) : Nat := bits lit 29 20
/-- The node's own wave number S. -/
def waveS (lit : Nat) : Nat := bits lit 19 10
/-- The successor N. -/
def waveN (lit : Nat) : Nat := bits lit 9 0

/-- Legal wave fields (R228). -/
def waveOk (lit : Nat) : Bool :=
  waveS lit != 0x3FF &&
    (if waveS lit = 0 then waveP lit == 0 && waveN lit == 0 else waveP lit != waveS lit && waveN lit != waveS lit)

/-- A record of a forager (R227, R228, R233). -/
def foragerOk (op : Nat) (r : NodeRec) (p q : Nat) : Bool :=
  let lit := r.lit.toNat
  let ar := r.arity.toNat
  let w := r.width.toNat
  let m77 := r.mod.getLsbD 3
  let m76 := r.mod.getLsbD 2
  let scope := r.mod.toNat % 4
  let noSet := r.tagop != 4
  match op with
  | 0x180 => ar == 0 && !m76 && noSet && waveOk lit
  | 0x181 => ar == 1 && !m76 && noSet && waveOk lit
  | 0x182 => ar == 0 && decide (w ≤ 2) && !m76 && noSet && r.tagop == 2 && waveOk lit
  | 0x183 => ar == 0 && decide (w ≤ 2) && !m76 && noSet && waveOk lit
  | 0x184 => ar == 0 && decide (w ≤ 2) && !m76 && noSet && waveOk lit
  | 0x185 => ar == 1 && decide (w ≤ 2) && !m76 && noSet && waveOk lit
  | 0x191 => ar == 1 && w == 0 && !m77 && noSet && waveOk lit
  | 0x19A => ar == 3 && w == 0 && noSet && literalOk r 0xC00000FF && slotOk p q (lit % 256)
  | 0x19B => (ar == 0 || ar == 1) && w == 0 && noSet && waveOk lit
  | 0x1A0 => ar == 0 && w == 0 && !m77 && !m76 && scope == 0 && noSet && literalOk r 0x3FFFFFFF && waveOk lit
  | 0x1B0 => ar == 0 && w == 0 && !m76 && scope == 0 && literalOk r 0
  | 0x1B1 =>
    ar == 0 && w == 0 && !m77 && !m76 && scope == 0 && noSet && literalOk r 0x3F && !(bitOf lit 5 && bits lit 4 2 != 0)
  | _ =>
    if 0x190 ≤ op ∧ op ≤ 0x199 then ar == 1 && w == 0 && noSet && waveOk lit
    else if 0x1A1 ≤ op ∧ op ≤ 0x1A3 then ar == 0 && w == 0 && !m77 && !m76 && noSet && literalOk r 0x3FFFFFFF && waveOk lit
    else false

/-- A destination a record may carry (R27, R98). -/
def recordDestOk (d : Dest) : Bool :=
  destForm d && !(dKind d == 1 && dPort d == 3 && kindOf (dCell d) != .forager)

/-- A record that a cell of a kind may be configured with, at a level, under regions P and Q and a tag shape if there is
one (R31, R98, R117). -/
def recordOk (kind : CellKind) (op : Nat) (r : NodeRec) (level p q : Nat) (shape : Option Word) : Bool :=
  kindOfOpcode op == some kind
    && decide (r.tagop.toNat ≤ 5) && decide (r.width.toNat ≤ 4)
    && recordDestOk r.dstA && recordDestOk r.dstB
    && (r.tagop != 5 || r.arity == 1 || r.arity == 3)
    && !(r.tagop == 2 && level == 7) && !(r.tagop == 3 && level == 0) && decide (level ≤ 7)
    && (match shape with | some s => decide (level < fieldCount s) | none => true)
    && (match kind with
        | .worker => workerOk op r p q
        | .guard => guardOk op r level p q shape
        | .forager => foragerOk op r p q)

/-- The loops of one guard cell (R201): every λ of a `loop.next`, `.exit` or `.close` has an enter, at most one close,
and one K. -/
def loopsOk (ns : List Node) : Bool :=
  (upTo 16).all (fun lam =>
    let mine := ns.filter (fun n => decide (0x110 ≤ n.opcode ∧ n.opcode ≤ 0x113) && n.fields.lit.toNat % 16 == lam)
    let enters := mine.filter (fun n => n.opcode == 0x110)
    let ks := enters.map (fun n => bits n.fields.lit.toNat 22 16)
    (mine.isEmpty || !enters.isEmpty)
      && decide ((mine.filter (fun n => n.opcode == 0x113)).length ≤ 1)
      && ks.all (fun k => k == ks.headD 0))

/-- Whether a node carries a wave number (R228). -/
def hasWave (op : Nat) : Bool :=
  decide ((0x180 ≤ op ∧ op ≤ 0x185) ∨ (0x190 ≤ op ∧ op ≤ 0x199) ∨ op = 0x19B ∨ (0x1A0 ≤ op ∧ op ≤ 0x1A3))

/-- The nodes of one forager (R224, R228): at most four `xlat`, and no two ordered nodes of a level that share S. -/
def foragerPlaneOk (ns : List Node) : Bool :=
  decide ((ns.filter (fun n => n.opcode == 0x1B0)).length ≤ 4) &&
    (let ws := (ns.filter (fun n => hasWave n.opcode && waveS n.fields.lit.toNat != 0)).map
        (fun n => waveS n.fields.lit.toNat * 8 + n.level)
     decide (ws.eraseDups.length = ws.length))

/-- The nodes of a plane of a kind of cell are legal together. -/
def planeOk (kind : CellKind) (ns : List Node) : Bool :=
  match kind with
  | .worker => true
  | .guard => loopsOk ns
  | .forager => foragerPlaneOk ns

/-! ## Records as words (R97, R98) -/

/-- The 96 bits of a record. -/
def recordBits (op : Nat) (r : NodeRec) : BitVec 96 :=
  (BitVec.ofNat 9 op ++ r.arity ++ r.tagop ++ BitVec.ofBool r.urg ++ r.width ++ r.mod ++ r.dstA ++ r.dstB ++ r.lit)

/-- The opcode field of a record. -/
def recordOp (b : BitVec 96) : Nat := (b.extractLsb' 87 9).toNat

/-- The other fields of a record. -/
def recordOf (b : BitVec 96) : NodeRec :=
  { arity := b.extractLsb' 85 2, tagop := b.extractLsb' 82 3, urg := b.getLsbD 81, width := b.extractLsb' 78 3,
    mod := b.extractLsb' 74 4, dstA := b.extractLsb' 53 21, dstB := b.extractLsb' 32 21, lit := b.extractLsb' 0 32 }

end Sys2Proof.Machine
end

