-- ==== Sys2Proof/Machine/Switch.lean ====
section
/-! DEFINITION. The stream switch: the dies and their UCIe edges (R12), the links and routes (R17, R18), a token's beats (R22)
and how they move (R17, R20), and the output slots of a cell (R39, R157, R165, R224). -/

namespace Sys2Proof.Machine

/-! ## Dies and edges (R12) -/

/-- The sides of a switch, a comb and a die. -/
inductive Dir where
  | east
  | west
  | north
  | south
deriving DecidableEq, Repr

/-- The UCIe edge from one compute die to another (R12): the side it lies on; none where the table joins no such pair. -/
def dieEdge (a b : Nat) : Option Dir :=
  match a, b with
  | 0, 1 => some .east
  | 0, 2 => some .south
  | 1, 0 => some .west
  | 1, 3 => some .south
  | 2, 3 => some .east
  | 2, 0 => some .north
  | 3, 2 => some .west
  | 3, 1 => some .north
  | _, _ => none

/-- The dies a token visits after die `a` on its way to die `b`: the east–west edge first, then the north–south edge (R12). -/
def diesTo (a b : Nat) : List Nat :=
  let across := a / 2 * 2 + b % 2
  (if a % 2 = b % 2 then [] else [across]) ++ (if a / 2 = b / 2 then [] else [b])

/-! ## Links and routes (R17, R18) -/

/-- A place that holds one beat on its way (R17, R20): a link out of a cell's switch, to its neighbour or, at the comb's edge, to
the port there; a stage of a UCIe crossing between dies on a row or column; the entry from a sector's south edge into its column;
a stage of a die's engine ring, and of the crossing to its link die, at a column. -/
inductive Hop where
  | out (ci : Nat) (side : Dir)
  | cross (src dst lane stage : Nat)
  | enter (die col : Nat)
  | ring (die col stage : Nat) (inward : Bool)
  | toLink (die stage : Nat) (inward : Bool)
deriving DecidableEq, Repr

/-- The cell of a die at a column and a row (R13, R59). -/
def cellAt (d x y : Nat) : Nat := 2048 * d + 64 * y + x

/-- The links along a row from one column to another (R18). -/
def alongRow (d y x x' : Nat) : List Hop :=
  if x ≤ x' then (upTo (x' - x)).map (fun i => .out (cellAt d (x + i) y) .east)
  else (upTo (x - x')).map (fun i => .out (cellAt d (x - i) y) .west)

/-- The links along a column from one row to another (R18). -/
def alongCol (d x y y' : Nat) : List Hop :=
  if y ≤ y' then (upTo (y' - y)).map (fun i => .out (cellAt d x (y + i)) .south)
  else (upTo (y - y')).map (fun i => .out (cellAt d x (y - i)) .north)

/-- The stages of a UCIe crossing: 18 clk (R20). -/
def crossHops (a b lane : Nat) : List Hop := (upTo 18).map (.cross a b lane)

/-- The links from a switch across the edge to the next die, and the switch at which the token enters it: on the same row for an
east–west edge, in the same column for a north–south edge (R18). -/
def crossing (a b x y : Nat) : List Hop × Nat × Nat :=
  match dieEdge a b with
  | some .east => (alongRow a y x 63 ++ [.out (cellAt a 63 y) .east] ++ crossHops a b y, 0, y)
  | some .west => (alongRow a y x 0 ++ [.out (cellAt a 0 y) .west] ++ crossHops a b y, 63, y)
  | some .south => (alongCol a x y 31 ++ [.out (cellAt a x 31) .south] ++ crossHops a b x, x, 0)
  | some .north => (alongCol a x y 0 ++ [.out (cellAt a x 0) .north] ++ crossHops a b x, x, 31)
  | none => ([], x, y)

/-- The crossings to the dies of a list in turn, and the switch at which the last is left. -/
def crossAll : Nat → List Nat → Nat → Nat → List Hop × Nat × Nat
  | _, [], x, y => ([], x, y)
  | a, b :: t, x, y =>
    let (h, x1, y1) := crossing a b x y
    let (h2, x2, y2) := crossAll b t x1 y1
    (h ++ h2, x2, y2)

/-- The way from the south edge of a die at a column to an engine (R18, R20): none for an engine or a keeper of the sector; the
engine ring for a stack or page engine; the ring and the edge to the link die for the link engine. -/
def ringHops (d col : Nat) (inward : Bool) (e : Option Engine) : List Hop :=
  match e with
  | some (.stack _) => (upTo 8).map (fun i => .ring d col i inward)
  | some (.page _) => (upTo 8).map (fun i => .ring d col i inward)
  | some (.link _ _) =>
    let ring : List Hop := (upTo 8).map (fun i => .ring d col i inward)
    let link : List Hop := (upTo 18).map (fun i => .toLink d i inward)
    if inward then ring ++ link else link ++ ring
  | _ => []

/-- Where a sender's tokens enter the switches: the links before the first switch, its die, column and row. The manual gives the
way to an engine or keeper; its own tokens take the same way back (log 68). The front, on link die A, enters die 0. -/
def entryOf (src : Dest) : List Hop × Nat × Nat × Nat :=
  match dKind src with
  | 1 => ([], dDie src, bits src.toNat 16 11, bits src.toNat 10 6)
  | 2 =>
    (ringHops (dDie src) (8 * dSec src) false (engineOf src) ++ [.enter (dDie src) (8 * dSec src)], dDie src, 8 * dSec src, 31)
  | 3 => ([.enter (dDie src) (8 * dSec src)], dDie src, 8 * dSec src, 31)
  | _ => (ringHops 0 0 false (some (.link 0 0)) ++ [.enter 0 0], 0, 0, 31)

/-- The route of a token (R18): every place its beats pass, in order. -/
def routeOf (src dst : Dest) : List Hop :=
  let (pre, a, x, y) := entryOf src
  let d := dDie dst
  let (mid, x1, y1) := crossAll a (diesTo a d) x y
  let tail :=
    if dKind dst = 1 then
      let tx := bits dst.toNat 16 11
      alongRow d y1 x1 tx ++ alongCol d tx y1 (bits dst.toNat 10 6)
    else
      let tx := 8 * dSec dst
      alongRow d y1 x1 tx ++ alongCol d tx y1 31 ++ [.out (cellAt d tx 31) .south]
        ++ (if dKind dst = 2 then ringHops d tx true (engineOf dst) else [])
  pre ++ mid ++ tail

/-- The sector whose cells a link leads into, if it leads to a cell. -/
def Hop.sector : Hop → Option Nat
  | .out ci side =>
    let x := ci % 64
    let y := ci % 2048 / 64
    match side with
    | .east => if x < 63 then some (sectorOf (ci + 1)) else none
    | .west => if 0 < x then some (sectorOf (ci - 1)) else none
    | .south => if y < 31 then some (sectorOf (ci + 64)) else none
    | .north => if 0 < y then some (sectorOf (ci - 64)) else none
  | .cross _ dst lane _ => if lane < 64 then some (8 * dst + lane / 8) else none
  | .enter die col => some (8 * die + col / 8)
  | _ => none

/-! ## Units as the ends of channels (R19) -/

/-- A unit as an end of a channel (R19): a cell, an inbox or engine port, or a keeper. -/
def unitKey (d : Dest) : Nat := if dKind d = 1 then dCell d else if dKind d = 0 then 2 ^ 21 else 2 ^ 21 + d.toNat

/-- The sector whose power and readiness decide whether a destination can be reached; die and link engines have none. -/
def destSector (d : Dest) : Option Nat :=
  match dKind d with
  | 1 => some (sectorOf (dCell d))
  | 2 => if dEng d = 7 then none else some (dSector d)
  | 3 => some (dSector d)
  | _ => none

/-! ## Beats (R22) -/

end Sys2Proof.Machine

namespace Sys2Proof

/-- How many beats carry a token (R22): the header beat and one for each eight payload lanes. -/
def Token.beats (t : Token) : Nat := 1 + (t.payload + 7) / 8

/-- Beat `i` of a token (R22): the header in [127:0] of beat 0; lane j in beat 1 + j div 8, at bits 32·(j mod 8). -/
def Token.beat (t : Token) (i : Nat) : BitVec 256 :=
  if i = 0 then t.header.zeroExtend 256
  else
    BitVec.ofNat 256 ((Machine.upTo 8).foldl (fun acc b =>
      let j := 8 * (i - 1) + b
      acc + (if j < t.payload then (Machine.nth 0 t.lanes j).toNat else 0) * 2 ^ (32 * b)) 0)

end Sys2Proof

namespace Sys2Proof.Machine

/-! ## Movement (R17, R20) -/

/-- A token of `kp.drain`, which the configuration network carries (R152). -/
def Flight.onConfig (f : Flight) : Bool := dKind f.src == 3 && dKind f.tok.dest == 1 && f.tok.cls == 2

/-- The route of a flight. -/
def Flight.route (f : Flight) : List Hop := if f.onConfig then [] else routeOf f.src f.tok.dest

/-- Every beat of a flight has left its source (R39). -/
def Flight.gone (f : Flight) : Bool := decide (f.tok.beats ≤ f.pos)

/-- The receiver has accepted a beat of the flight (R53). -/
def Flight.begun (f : Flight) : Bool := decide (f.route.length < f.pos)

/-- The receiver has accepted every beat of the flight. -/
def Flight.arrived (f : Flight) : Bool := decide (f.route.length + f.tok.beats ≤ f.pos)

/-- A flight's channel has been closed by a drain (R52). -/
def State.channelClosed (s : State) (f : Flight) : Bool :=
  dKind f.tok.dest == 1 && (s.cell (dCell f.tok.dest)).drainsIn.contains (unitKey f.src)

/-- The places that a flight's beats stand in. A token that its receiver has not taken in keeps the last one, so that what comes
behind it on that link waits (R44, R57); one that R52 holds back for its channel alone does not (log 68). -/
def State.holdsOn (s : State) (f : Flight) : List Hop :=
  let r := f.route
  if f.arrived then (if s.channelClosed f then [] else r.drop (r.length - 1)) else (r.take f.pos).drop (f.pos - f.tok.beats)

/-- A flight of a cell that is in an output slot, or waits for one (R39, R165). -/
def Flight.inCell (f : Flight) (ci : Nat) : Bool := dKind f.src == 1 && dCell f.src == ci && !f.gone

/-- The output tokens of a cell that have not wholly left it, oldest first: the first four stand in its output slots; further ones
hold the datapath until a slot is free (R39, R165). -/
def State.outTokens (s : State) (ci : Nat) : List Flight := s.net.filter (fun f => f.inCell ci)

/-- Whether a cell can give `n` output tokens a slot each (R39, R40, R165). -/
def State.slotsFor (s : State) (ci n : Nat) : Bool := decide ((s.outTokens ci).length + n ≤ 4)

/-- A sector is ready to take what is bound for it (R466). -/
def State.sectorReady (s : State) (d : Dest) : Bool :=
  match destSector d with
  | some ps => (s.reg (frontReg 0x118)).getLsbD ps
  | none => true

/-- A flight stands at the boundary of the sector it is bound for (R29, R466): the next link leads into that sector, or it is
already at its last link. -/
def Flight.atBoundary (f : Flight) : Bool :=
  match f.route[f.pos]? with
  | some h => (destSector f.tok.dest).isSome && h.sector == destSector f.tok.dest
  | none => true

/-- Whether flight `k` moves on by a beat in this clk: a beat that its source may send or that stands on a link moves to the next
place if no other token stands there; a token bound for a sector that is not ready waits at its boundary (R17, R20, R39, R466). -/
def State.mayMove (s : State) (k : Nat) : Bool :=
  match s.net[k]? with
  | none => false
  | some f =>
    !f.arrived
      && (decide (0 < f.pos)
          || (!((s.net.take k).any (fun g => unitKey g.src == unitKey f.src && unitKey g.tok.dest == unitKey f.tok.dest && g.pos == 0))
              && (dKind f.src != 1
                  || decide (((s.net.take k).filter (fun g => g.inCell (dCell f.src))).length < 4))))
      && (match f.route[f.pos]? with
          | some h =>
            (s.sectorReady f.tok.dest || h.sector != destSector f.tok.dest)
              && !((indexed 0 s.net).any (fun e => e.1 != k && (s.holdsOn e.2).contains h))
          | none => s.sectorReady f.tok.dest || f.begun)

/-- Flight `k` moved on by a beat. -/
def State.moveFlight (s : State) (k : Nat) : State :=
  if s.mayMove k then
    match s.net[k]? with
    | some f => { s with net := setNth { f with pos := f.pos + 1 } s.net k }
    | none => s
  else s

/-- One clk of the switch: every token that can move does, from one that is chosen freely on (log 68). -/
def State.switchClk (s : State) : State :=
  let n := s.net.length
  let first := if n ≤ 1 then 0 else Config.choice s.free % n
  let s1 := if n ≤ 1 then s else s.useFree
  (upTo n).foldl (fun t i => t.moveFlight ((first + i) % n)) s1

/-- The beats that still have to move before every token has reached its receiver. -/
def State.toMove (s : State) : Nat := s.net.foldl (fun a f => a + (f.route.length + f.tok.beats - f.pos)) 0

/-- The switch run for `n` clk. -/
def State.switchRun : Nat → State → State
  | 0, s => s
  | n + 1, s => State.switchRun n s.switchClk

/-- `n` clk of the switch (R17, R20). Once nothing more can move, further clk change nothing. -/
def State.switchFor (s : State) (n : Nat) : State :=
  if s.awake then State.switchRun (Nat.min n s.toMove) s else s

end Sys2Proof.Machine
end

