-- ==== Sys2Proof/Machine/KeeperHive.lean ====
section
/-! DEFINITION. The hive instructions (R141 to R153): event queues, patterns and their delivery, token images, schedules,
launches and drains. -/

namespace Sys2Proof.Machine

/-! ## Event queues (R57) -/

/-- Bytes the event reserve of a sector holds. -/
def reserveUsed (u : SpillUnit) : Nat := u.evReserve.foldl (fun n t => n + t.imageSize) 0

/-- Whether a token for a keeper's event queue can be taken now. -/
def State.eventRoom (s : State) (ps : Nat) (t : Token) : Bool :=
  decide ((s.keeper ps).evq.length < 256 ∧ (s.spill ps).evReserve = []) ||
    decide (reserveUsed (s.spill ps) + t.imageSize ≤ 65536)

/-- A token enters a keeper's event queue, or its event reserve when the queue is full. -/
def State.pushEvent (s : State) (ps : Nat) (t : Token) : State :=
  if (s.keeper ps).evq.length < 256 ∧ (s.spill ps).evReserve = [] then
    s.setKeeper ps { s.keeper ps with evq := (s.keeper ps).evq ++ [t] }
  else s.setSpill ps { s.spill ps with evReserve := (s.spill ps).evReserve ++ [t] }

/-- A token the keeper posts to its own event queue: with no room it travels as any token does. -/
def State.postOwn (s : State) (ps : Nat) (t : Token) : State :=
  if s.eventRoom ps t then s.pushEvent ps t else s.send (keeperDest ps) t

/-- Held tokens move up into the event queue. -/
def State.refillEvents (s : State) (ps : Nat) : State :=
  let k := s.keeper ps
  let u := s.spill ps
  let n := 256 - k.evq.length
  (s.setKeeper ps { k with evq := k.evq ++ u.evReserve.take n }).setSpill ps { u with evReserve := u.evReserve.drop n }

/-- A class-6 token of a unit to a keeper. -/
def eventToken (ps : Nat) (ctx : BitVec 12) (lanes : List Lane) : Token :=
  { dest := keeperDest ps, ctx := ctx, len := lenField lanes.length, width := 0, poison := false, fault := false,
    empty := false, cls := 6, aux := 0, tag := 0, lanes := lanes }

/-! ## The end of a tile-task (R67, R152, R455) -/

/-- A context after one of its sectors has ended a tile-task: at a boundary the count rises and the watchdog's mark
moves. -/
def Context.sectorEnded (c : Context) (ps timer : Nat) : Context :=
  if c.sections.contains ps then
    let e := insertNat ps c.ended
    if c.sections.all (fun x => e.contains x) then { c with ended := [], bounds := c.bounds + 1, mark := timer }
    else { c with ended := e }
  else c

/-- The propolis overlay of a sector's cells active, where it is still staged once the drain has passed (R72, R454). -/
def State.overlaysIn (s : State) (ps : Nat) : State :=
  { s with cells := s.cells.map (fun e =>
      if sectorOf e.1 = ps ∧ e.2.stagedValid ∧ e.2.staged.overlay then
        (e.1, { e.2 with active := e.2.staged, staged := .none, stagedValid := false })
      else e) }

/-- The overlay active in the sectors of a drained context's partition that hold no section, once every sector with one has ended its
tile-task. -/
def State.overlaysRest (s : State) : State :=
  s.fdrains.foldl (fun t f =>
    match s.contexts.find? f.slot with
    | some x =>
      if f.sectors.isEmpty then
        ((upTo 32).filter (fun ps => bitOf x.part ps && !x.sections.contains ps)).foldl (fun u ps => u.overlaysIn ps) t
      else t
    | none => t) s

/-- The tile-task of a sector ends when a drain is outstanding and CNT equals a non-zero EXP (R152, R454). A context that meets a
boundary may end there (R452), unless the front drains it; that is the machine's next step. -/
def State.tileEnd (s : State) (ps : Nat) : State :=
  let k := s.keeper ps
  let exp := s.regBits (secReg ps 0 0x40) 15 0
  if k.draining ∧ exp ≠ 0 ∧ s.regBits (secReg ps 0 0x48) 15 0 = exp then
    let ctx := k.drainCtx
    let s1 := (s.setKeeper ps { k with draining := false }).setBits (secReg ps 0 0x48) 16 16 1
    let s2 := s1.postOwn ps (eventToken ps ctx [0x2F, BitVec.ofNat 32 ctx.toNat])
    let at_ (e : Nat × Context) : Bool :=
      e.2.live && decide ((e.2.sectorEnded ps s2.timer).bounds ≠ e.2.bounds) && !s2.fdrains.any (fun f => f.slot == e.1)
    let s3 := if s2.fdrains.any (fun f => f.sectors.contains ps) then s2.overlaysIn ps else s2
    State.overlaysRest { s3 with
      contexts := s2.contexts.map (fun e =>
        (e.1, if e.2.live then { e.2.sectorEnded ps s2.timer with closing := at_ e || e.2.closing } else e.2)),
      fdrains := s2.fdrains.map (fun f => { f with sectors := f.sectors.filter (fun x => x != ps) }),
      inputs := (s2.contexts.filter at_).map (fun e => .event (.contextEnd e.1)) ++ s3.inputs }
  else s

/-- A drain token of a sector's tile-task for a cell (R152). -/
def drainToken (ps : Nat) (dest : Dest) : Token :=
  { dest := dest, ctx := 0, len := 1, width := 0, poison := false, fault := false, empty := false, cls := 2,
    aux := BitVec.ofNat 16 ps, tag := 0, lanes := [0] }

/-- A drain is started in a sector for a context (R152): it becomes outstanding and enters every cell whose fan-in is zero. Drains of
an earlier start that have not yet been delivered stand before it (R139). -/
def State.startDrain (s : State) (ps : Nat) (ctx : BitVec 12) : State :=
  let cells := (cellsOf ps).filter (fun ci => (s.cell ci).active.fanin == 0)
  let s0 := if s.regBits (secReg ps 0 0x48) 16 16 = 1 then s.setReg (secReg ps 0 0x48) 0 else s
  let s1 := s0.setKeeper ps { s0.keeper ps with draining := true, drainCtx := ctx, drainCells := (s0.keeper ps).drainCells ++ cells }
  (cells.foldl (fun t ci => t.send (keeperDest ps) (drainToken ps (cellDest ci 0 0))) s1).tileEnd ps

/-! ## Patterns (R142 to R145) -/

/-- A pattern as read (R142). -/
structure Pattern where
  head : List Nat
  nrec : Nat
  nrect : Nat
  nconst : Nat
  named : Nat
  rotating : Nat
  fanin : Nat
  kbase : Nat
  levels : Nat
  recs : List (BitVec 96)
  words : List Lane
  rects : List Nat
deriving DecidableEq, Repr

/-- `n` rounded up to a multiple of 32. -/
def up32 (n : Nat) : Nat := (n + 31) / 32 * 32

/-- The bytes a pattern occupies, from its first four bytes (R142). -/
def patternSize (w0 : Nat) : Nat := 32 + up32 (12 * bits w0 4 0 + 4 * bits w0 22 16) + 4 * bits w0 14 8

/-- A 32-bit word of a byte list. -/
def wordAt (bs : List Byte) (i : Nat) : Nat := leNat ((bs.drop (4 * i)).take 4)

/-- The pattern in a list of bytes. -/
def patternOf (bs : List Byte) : Pattern :=
  let w0 := wordAt bs 0
  let w1 := wordAt bs 1
  let nrec := bits w0 4 0
  let nconst := bits w0 22 16
  let body := bs.drop 32
  let rectAt := 8 + up32 (12 * nrec + 4 * nconst) / 4
  { head := (upTo 8).map (wordAt bs), nrec := nrec, nrect := bits w0 14 8, nconst := nconst, named := bits w1 7 0,
    rotating := bits w1 14 8, fanin := bits w1 21 16, kbase := bits w1 30 24, levels := wordAt bs 2 + wordAt bs 3 * 2 ^ 32,
    recs := (chunks 12 nrec body).map (fun c => BitVec.ofNat 96 (leNat c)),
    words := (chunks 4 nconst body).map (fun c => BitVec.ofNat 32 (leNat c)),
    rects := (upTo (bits w0 14 8)).map (fun i => wordAt bs (rectAt + i)) }

/-- The level of node `n` in LEVEL. -/
def Pattern.level (p : Pattern) (n : Nat) : Nat := bits p.levels (3 * n + 2) (3 * n)

/-- A rectangle word is legal (R143). -/
def rectOk (r : Nat) : Bool :=
  decide (r < 2 ^ 21) && bits r 7 6 == 0 && bits r 15 13 == 0 && decide (bits r 2 0 ≤ bits r 5 3)
    && decide (bits r 12 8 ≤ bits r 20 16)

/-- The cells a rectangle covers in a sector (R143), row by row. -/
def rectCells (ps r : Nat) : List Nat :=
  (upTo (bits r 20 16 + 1 - bits r 12 8)).flatMap (fun j =>
    (upTo (bits r 5 3 + 1 - bits r 2 0)).map (fun i =>
      2048 * (ps / 8) + 64 * (bits r 12 8 + j) + 8 * (ps % 8) + bits r 2 0 + i))

/-- Every cell a pattern covers, in delivery order. -/
def Pattern.cells (p : Pattern) (ps : Nat) : List Nat := p.rects.flatMap (rectCells ps)

/-- The nodes of a pattern. -/
def Pattern.nodes (p : Pattern) : List Node :=
  (indexed 0 p.recs).map (fun e => { opcode := recordOp e.2, fields := recordOf e.2, level := p.level e.1 })

/-- Every bit of the header that R142 does not name is zero, and the counts and rectangles are legal. A rectangle word with x0 > x1 or
y0 > y1, which R143 forbids and which R144's list of CONFIG cases does not name, is refused with CONFIG: DESIGN CHOICE (log 70). -/
def Pattern.headOk (p : Pattern) : Bool :=
  let h (i : Nat) := nth 0 p.head i
  bits (h 0) 7 5 == 0 && bits (h 0) 15 15 == 0 && bits (h 0) 31 23 == 0 && bits (h 1) 15 15 == 0 && bits (h 1) 23 22 == 0
    && bits (h 1) 31 31 == 0 && bits (h 3) 31 16 == 0 && (p.head.drop 4).all (fun x => x == 0)
    && decide (1 ≤ p.nrect ∧ p.nrect ≤ 64) && decide (p.kbase ≤ 96) && p.rects.all rectOk

/-- A pattern that `kp.cfgp` delivers (R144), against a tag shape if there is one. -/
def Pattern.cfgpOk (p : Pattern) (ps : Nat) (shape : Option Word) : Bool :=
  let cells := p.cells ps
  p.headOk && decide (1 ≤ p.nrec ∧ p.nrec ≤ 16) && p.nconst == 0 && p.kbase == 0
    && p.levels / 2 ^ (3 * p.nrec) == 0 && regionsOk p.named p.rotating
    && [CellKind.worker, .guard, .forager].all (fun kd =>
        !cells.any (fun ci => kindOf ci == kd) ||
          (p.nodes.all (fun n => recordOk kd n.opcode n.fields n.level p.named p.rotating shape) && planeOk kd p.nodes))

/-- A pattern that `kp.cfgk` delivers (R144). -/
def Pattern.cfgkOk (p : Pattern) (ps : Nat) : Bool :=
  p.headOk && p.nrec == 0 && decide (1 ≤ p.nconst ∧ p.nconst ≤ 97) && p.named == 0 && p.rotating == 0 && p.fanin == 0
    && p.levels == 0 && decide (p.kbase + p.nconst ≤ 97)
    && !(decide (p.kbase < 96 ∧ 32 < p.kbase + p.nconst) && (p.cells ps).any (fun ci => kindOf ci != .forager))

/-- The plane a pattern writes, for a context. -/
def Pattern.plane (p : Pattern) (ctx : Option Nat) : Plane :=
  { nodes := indexed 0 p.nodes, named := p.named, rotating := p.rotating, fanin := p.fanin, ctx := ctx, overlay := false }

/-- The delivery of a pattern. -/
def Pattern.delivery (p : Pattern) (ps : Nat) (cfgk ntf maint : Bool) (ctx : BitVec 12) (asid : Nat) : Delivery :=
  { cfgk := cfgk, cells := p.cells ps, plane := p.plane (some ctx.toNat), kbase := p.kbase, words := p.words, ntf := ntf,
    maint := maint, ctx := ctx, asid := asid }

/-- A cell is busy-locked (R53): its matching store holds an entry, an output slot holds a token, or it has accepted a beat of a
token of a live context for one of its node ports and not yet admitted the token. -/
def State.busyLocked (s : State) (ci : Nat) : Bool :=
  let c := s.cell ci
  !c.entries.isEmpty || !c.ctrl.isEmpty ||
    !(s.outTokens ci).isEmpty ||
    s.net.any (fun f => dKind f.tok.dest == 1 && dCell f.tok.dest == ci && (s.live? f.tok.ctx).isSome && f.begun && !f.onConfig)

/-- A configuration write refused by the busy lock (R48, R53). -/
def State.rejectCfg (s : State) (ci : Nat) : State :=
  let r := secReg (sectorOf ci) 0 0x38
  let s1 := if s.regBits r 15 0 = 0 then s.setBits r 31 16 (ci % 64 + ((ci % 2048) / 64) * 256) else s
  s1.bumpBits r 15 0 1

/-- Constants-plane words of a cell written (R50), with the window's ASID where word 1 or 3 of a shape record is written
(R230). -/
def State.writeConsts (s : State) (ci kbase : Nat) (ws : List Lane) (asid : Nat) : State :=
  let c := s.cell ci
  let c1 := (indexed kbase ws).foldl (fun (a : Cell) e =>
    let a1 := { a with consts := Tab.set a.consts e.1 e.2 }
    if 32 ≤ e.1 ∧ e.1 < 96 ∧ ((e.1 - 32) % 16 = 1 ∨ (e.1 - 32) % 16 = 3) then
      { a1 with shapeAsid := Tab.set a1.shapeAsid ((e.1 - 32) / 16) asid } else a1) c
  s.setCell ci c1

/-- One cell of a delivery written (R145): the state and whether the busy lock refused it. -/
def State.deliverCell (s : State) (d : Delivery) (ci : Nat) : State × Bool :=
  if d.cfgk then (s.writeConsts ci d.kbase d.words d.asid, false)
  else if d.maint then
    (if s.busyLocked ci then (s.rejectCfg ci, true) else (s.setCell ci { s.cell ci with active := d.plane }, false))
  else (s.setCell ci { s.cell ci with staged := d.plane, stagedValid := true }, false)

/-- A whole delivery written: the state and the number of refusals. -/
def State.deliver (s : State) (d : Delivery) : State × Nat :=
  d.cells.foldl (fun (acc : State × Nat) ci =>
    let (t, r) := acc.1.deliverCell d ci
    (t, if r then acc.2 + 1 else acc.2)) (s, 0)

/-- CONFIG_DELIVERY_COMPLETE (R145): the delivery of a keeper ends. -/
def execConfigDeliveryComplete (ps : Nat) (s : State) : Out :=
  ok (match (s.keeper ps).delivery with
      | some d =>
        let (s1, n) := s.deliver d
        let refused := Nat.min n 65535
        let s2 := (s1.setKeeper ps { s1.keeper ps with delivery := none }).setReg (csr ps 0x10) (BitVec.ofNat 64 (refused * 65536))
        if d.ntf then
          s2.postOwn ps (eventToken ps d.ctx [BitVec.ofNat 32 ((if d.cfgk then 0x2A else 0x29) + refused * 65536)])
        else s2
      | none => s)

/-! ## Address operands (R141) -/

/-- The fault of an address operand of a hive instruction, if it has one: ADDR, ALIGN, then PERM in user mode. -/
def State.operandFault (s : State) (ps : Nat) (a : Word) (align : Nat) : Option Nat :=
  if a.toNat ≥ 0x40000 then some fADDR
  else if a.toNat % align ≠ 0 then some fALIGN
  else if !s.supervisor ps ∧ a.toNat < (s.reg (csr ps 11)).toNat then some fPERM
  else none

/-- Whether bytes of local memory hold an uncorrectable error (R126). -/
def State.localBad (s : State) (ps a n : Nat) : Bool := s.isPoisoned (kmemAddr ps a) n

/-- A restore or an overlay load holds the configuration network of a sector (R145). -/
def State.cfgHeld (s : State) (ps : Nat) : Bool := s.restores.any (fun r => r.pairs.any (fun e => e.2 == ps))

/-- `kp.cfgp` and `kp.cfgk` (R144, R145). The mode that decides where a delivery writes is `SEC.MODE` as it stands when the word
issues: DESIGN CHOICE (log 70), the manual does not say which moment counts. -/
def State.kpCfg (s : State) (a : Reg) (ntf cfgk : Bool) : State :=
  let ps := s.cur
  let ka := s.kReg ps a
  if !s.supervisor ps then s.illegal
  else
    match s.operandFault ps ka 32 with
    | some c => s.keeperFault ps c ka
    | none =>
      if (s.keeper ps).delivery.isSome || s.cfgHeld ps then s
      else
        let at_ := kmemAddr ps ka.toNat
        let size := patternSize (s.readLE at_ 4)
        if ka.toNat + size > 0x40000 then s.keeperFault ps fADDR ka
        else if s.localBad ps ka.toNat size then s.keeperFault ps fECC ka
        else
          let p := patternOf (s.bytes at_ size)
          let ctx : BitVec 12 := (s.reg (csr ps 9)).extractLsb' 0 12
          let shape := (s.live? ctx).map (fun x => x.shape)
          if (if cfgk then p.cfgkOk ps else p.cfgpOk ps shape) then
            let maint := (s.reg (secReg ps 0 0)).getLsbD 0
            let d := p.delivery ps cfgk ntf maint ctx (s.reg (csr ps 8)).toNat
            ((s.setKeeper ps { s.keeper ps with delivery := some d }).setReg (csr ps 0x10) 1).pcNext ps
          else s.keeperFault ps fCONFIG ka

/-- KP_CFGP (R144, R145). -/
def execKpCfgp (a : Reg) (ntf : Bool) (s : State) : Out := ok (s.kpCfg a ntf false)
/-- KP_CFGK (R144, R145). -/
def execKpCfgk (a : Reg) (ntf : Bool) (s : State) : Out := ok (s.kpCfg a ntf true)

/-! ## Tokens (R147, R148) -/

/-- The token image rules both instructions share (R147). -/
def imageOk (t : Token) : Bool := decide (t.width.toNat ≤ 4) && !t.fault && destForm t.dest

/-- The rules of `kp.inject` (R147). -/
def injectOk (t : Token) : Bool :=
  imageOk t && t.cls == 0 && dKind t.dest != 0 && !(dKind t.dest == 2 && !(decide (dEng t.dest ≤ 4) && dInbox t.dest == 4))

/-- The rules of `kp.send` (R147). -/
def sendOk (t : Token) : Bool := imageOk t && t.cls == 5 && dKind t.dest == 2 && t.width == 0 && !t.empty

/-- `kp.send` and `kp.inject` (R147, R148): the image enters the injection port. -/
def State.kpToken (s : State) (a : Reg) (fine : Token → Bool) : State :=
  let ps := s.cur
  let ka := s.kReg ps a
  match s.operandFault ps ka 32 with
  | some c => s.keeperFault ps c ka
  | none =>
    if (s.keeper ps).port.isSome then s
    else
      let at_ := kmemAddr ps ka.toNat
      let h := tokenOf (BitVec.ofNat 128 (s.readLE at_ 16)) []
      let size := 16 + 4 * h.payload
      if ka.toNat + size > 0x40000 then s.keeperFault ps fADDR ka
      else if s.localBad ps ka.toNat size then s.keeperFault ps fECC ka
      else
        let t := tokenOfImage (s.bytes at_ size)
        if fine t then
          let t1 := if s.supervisor ps then t else { t with ctx := (s.reg (csr ps 9)).extractLsb' 0 12 }
          (s.setKeeper ps { s.keeper ps with port := some t1 }).pcNext ps
        else s.keeperFault ps fSTREAM ka

/-- KP_SEND (R147). -/
def execKpSend (a : Reg) (s : State) : Out := ok (s.kpToken a sendOk)
/-- KP_INJECT (R147). -/
def execKpInject (a : Reg) (s : State) : Out := ok (s.kpToken a injectOk)

/-! ## Events, schedules, launches, drains -/

/-- KP_EVQ (R149). -/
def execKpEvq (d a : Reg) (peek : Bool) (s : State) : Out :=
  let ps := s.cur
  let ka := s.kReg ps a
  ok (match s.operandFault ps ka 32 with
      | some c => s.keeperFault ps c ka
      | none =>
        match (s.keeper ps).evq with
        | [] => s.kWrite d 0
        | t :: rest =>
          if ka.toNat + t.imageSize > 0x40000 then s.keeperFault ps fADDR ka
          else
            let s1 := s.rawStore (kmemAddr ps ka.toNat) t.image false
            let s2 := if peek then s1 else (s1.setKeeper ps { s1.keeper ps with evq := rest }).refillEvents ps
            s2.kWrite d (BitVec.ofNat 64 t.imageSize))

/-- KP_SCHED (R150). -/
def execKpSched (d : Reg) (rew : Bool) (s : State) : Out :=
  let ps := s.cur
  let s1 := if rew then s.setReg (csr ps 0x12) 0 else s
  let cur := (s1.reg (csr ps 0x12)).toNat
  ok (if cur ≥ (s1.reg (csr ps 0x11)).toNat then s1.kWrite d 0
      else
        (s1.setReg (csr ps 0x12) (BitVec.ofNat 64 ((cur + 1) % 2 ^ 32))).kWrite d
          (BitVec.ofNat 64 (0x20040 + cur * 2 ^ (s1.reg (csr ps 0x13)).toNat)))

/-- KP_LAUNCH (R151, R437): the record enters line 0 of the queue `KQUEUE` as a LAUNCH, after what was staged there; the ticket is `LSEQ`. -/
def execKpLaunch (d a : Reg) (s : State) : Out :=
  let ps := s.cur
  let ka := s.kReg ps a
  ok (if !s.supervisor ps then s.illegal
      else
        match s.operandFault ps ka 64 with
        | some c => s.keeperFault ps c ka
        | none =>
          if s.localBad ps ka.toNat 64 then s.keeperFault ps fECC ka
          else
            let at_ := kmemAddr ps ka.toNat
            let body := (upTo 8).map (fun i => s.word (at_ + 8 * i))
            let ticket := (s.reg (csr ps 0x1A)).toNat
            let ctx : BitVec 12 := (s.reg (csr ps 9)).extractLsb' 0 12
            (((s.clearStaged (s.reg (csr ps 10)).toNat 0).acceptCmd (s.reg (csr ps 10)).toNat 0 body (some (ps, ctx, BitVec.ofNat 32 ticket))).setReg (csr ps 0x1A)
              (BitVec.ofNat 64 ((ticket + 1) % 2 ^ 32))).kWrite d (BitVec.ofNat 64 ticket))

/-- KP_DRAIN (R152). -/
def execKpDrain (d : Reg) (s : State) : Out :=
  let ps := s.cur
  ok (if !s.supervisor ps then s.illegal
      else if (s.keeper ps).draining then s.kWrite d 1
      else if s.regBits (secReg ps 0 0x40) 15 0 = 0 then s.kWrite d 2
      else (s.kWrite d 0).startDrain ps ((s.reg (csr ps 9)).extractLsb' 0 12))

end Sys2Proof.Machine
end

