-- ==== Sys2Proof/Machine/Operands.lean ====
section
/-! DEFINITION. The operands of a firing and the tokens it emits: runs and their pieces (R22, R36, R37), elements of lanes
(R23, R80), slot lines (R35, R186), tag operations (R192) and emission (R160, R161). -/

namespace Sys2Proof.Machine

/-! ## Runs -/

/-- The tag of lane `j` of a run at a level (R22). -/
def laneTag (shape : Word) (level : Nat) (t : Word) (j : Nat) : Word := addField shape t level j

/-- Lanes [i, i + n) of a token as a run of its own (R37). -/
def pieceOf (shape : Word) (level : Nat) (t : Token) (i n : Nat) : Token :=
  { t with len := lenField n, tag := laneTag shape level t.tag i,
           lanes := if t.empty then [0] else padTo 0 n (t.lanes.drop i) }

/-- Where two runs of one node overlap (R34, R37): every field but the innermost equal, and values modulo its width. The
offsets in each run and the count. -/
def overlapOf (shape : Word) (level : Nat) (t u : Token) : Option (Nat × Nat × Nat) :=
  if setField shape t.tag level 0 = setField shape u.tag level 0 then
    let m := 2 ^ fieldWidth shape level
    let a := tagField shape t.tag level
    let b := tagField shape u.tag level
    let d := (b + m - a) % m
    let e := (a + m - b) % m
    if d < t.runLen then some (d, 0, Nat.min (t.runLen - d) u.runLen)
    else if e < u.runLen then some (0, e, Nat.min t.runLen (u.runLen - e))
    else none
  else none

/-- The maximal pieces of a run whose lanes have one value of `p`: (first lane, count, value). -/
def piecesBy {α : Type} [DecidableEq α] (p : Nat → α) (n : Nat) : List (Nat × Nat × α) :=
  ((upTo n).foldl (fun (acc : List (Nat × Nat × α)) j =>
    match acc with
    | (i, k, b) :: t => if p j = b then (i, k + 1, b) :: t else (j, 1, p j) :: (i, k, b) :: t
    | [] => [(j, 1, p j)]) []).reverse

/-- The lane of a run's innermost value `v_j`, modulo 32 (R158). -/
def slotLane (shape : Word) (level : Nat) (t : Word) (j : Nat) : Nat :=
  tagField shape (laneTag shape level t j) level % 32

/-! ## Elements (R23, R80) -/

/-- Sub-element `i` of a lane. -/
def elemOf (width : Nat) (l : Lane) (i : Nat) : Nat := (l.toNat / 2 ^ (subWidth width * i)) % 2 ^ subWidth width

/-- The sub-elements of a lane. -/
def elemsOf (width : Nat) (l : Lane) : List Nat := (upTo (subCount width)).map (elemOf width l)

/-- A lane of sub-elements, the first lowest. -/
def laneOf (width : Nat) (es : List Nat) : Lane :=
  BitVec.ofNat 32 ((indexed 0 es).foldl (fun acc e => acc + (e.2 % 2 ^ subWidth width) * 2 ^ (subWidth width * e.1)) 0)

/-! ## Firings -/

/-- Whether an operand of a firing is an empty run (R26). -/
def Firing.isEmpty (f : Firing) : Bool := f.a.empty || (match f.b with | some b => b.empty | none => false)

/-- The OR of the operands' poison flags. -/
def Firing.poisoned (f : Firing) : Bool := f.a.poison || (match f.b with | some b => b.poison | none => false)

/-- The fault code an operand carries, if one has the fault flag (R26), and that operand. Where both have it, operand a's: DESIGN
CHOICE (log 14), the manual names no order. -/
def Firing.faultOf (f : Firing) : Option Token :=
  if f.a.fault then some f.a else match f.b with | some b => if b.fault then some b else none | none => none

/-- The node's literal. -/
def Firing.lit (f : Firing) : Nat := f.cfg.fields.lit.toNat
/-- The node's width code. -/
def Firing.width (f : Firing) : Nat := f.cfg.fields.width.toNat
/-- The node's arity. -/
def Firing.arity (f : Firing) : Nat := f.cfg.fields.arity.toNat
/-- Modifier bit [77]. -/
def Firing.m77 (f : Firing) : Bool := f.cfg.fields.mod.getLsbD 3
/-- Modifier bits [76:74]. -/
def Firing.rm (f : Firing) : Nat := f.cfg.fields.mod.toNat % 8
/-- The level of the node. -/
def Firing.level (f : Firing) : Nat := f.cfg.level
/-- Lane `j` of operand b. -/
def Firing.bLane (f : Firing) (j : Nat) : Lane := match f.b with | some b => nth 0 b.lanes j | none => 0
/-- Lane `j` of operand a. -/
def Firing.aLane (f : Firing) (j : Nat) : Lane := nth 0 f.a.lanes j
/-- How many destinations of a firing's node are not none: the output slots that a token of it claims (R39). -/
def Firing.outputs (f : Firing) : Nat :=
  (if dKind f.cfg.fields.dstA = 0 then 0 else 1) + (if dKind f.cfg.fields.dstB = 0 then 0 else 1)
/-- The source word of a firing's tokens (R29). -/
def Firing.src (f : Firing) : Dest := cellDest f.ci f.node 0

/-- A token of a firing over its fired run, before its tag operation (R160). -/
def Firing.out (f : Firing) (width : Nat) (poison empty : Bool) (lanes : List Lane) : Token :=
  { dest := 0, ctx := f.ctx, len := lenField f.len, width := BitVec.ofNat 3 width, poison := poison, fault := false,
    empty := empty, cls := 0, aux := 0, tag := f.tag, lanes := if empty then [0] else lanes }

/-- A token of a firing with a run length and tag of its own. -/
def Firing.outRun (f : Firing) (n : Nat) (tag : Word) (width : Nat) (poison empty : Bool) (lanes : List Lane) : Token :=
  { f.out width poison empty lanes with len := lenField n, tag := tag }

/-! ## Tag operations (R192) -/

/-- A token's field L + 1 set to zero, as push leaves it. -/
def pushTag (shape : Word) (level : Nat) (t : Token) : Token := { t with tag := setField shape t.tag (level + 1) 0 }

/-- The tokens that a tag operation makes of one token of a node: its code, the level, literal[15:0] and lane 0 of operand
b. -/
def tagOutputs (shape : Word) (level op lit b0 : Nat) (t : Token) : List Token :=
  match op with
  | 1 => [{ t with tag := addField shape t.tag level 1 }]
  | 2 =>
    if t.runLen ≤ 1 then [pushTag shape level t]
    else (upTo t.runLen).map (fun j => pushTag shape level (pieceOf shape level t j 1))
  | 3 => [{ t with tag := setField shape t.tag level 0 }]
  | 4 => [{ t with tag := setField shape t.tag level lit }]
  | 5 => [{ t with tag := setField shape t.tag level b0 }]
  | _ => [t]

/-- Lane 0 of operand b as "set from b" reads it (R192). For a firing of one operand, which has no b (a `merge` or a monadic node),
the manual states no value: a free one (log 55). -/
def Firing.tagB (f : Firing) : Nat :=
  match f.b with
  | some b => (nth 0 b.lanes 0).toNat
  | none => (Config.tagWithoutB f.tag).toNat

/-- The tag operation of a firing's node applied to one of its tokens. -/
def State.tagged (s : State) (f : Firing) (t : Token) : List Token :=
  tagOutputs (s.shape f.ctx) f.level f.cfg.fields.tagop.toNat (f.lit % 65536) f.tagB t

/-! ## Emission (R160, R161) -/

/-- A token of a firing sent to a destination; a destination of kind none sends nothing. -/
def State.sendFrom (s : State) (f : Firing) (d : Dest) (t : Token) : State := s.send f.src { t with dest := d }

/-- A finished token sent to destination A, then to destination B. -/
def State.sendBoth (s : State) (f : Firing) (t : Token) : State :=
  (s.sendFrom f f.cfg.fields.dstA t).sendFrom f f.cfg.fields.dstB t

/-- A list of finished tokens, each to A and then to B. -/
def State.sendAll (s : State) (f : Firing) (ts : List Token) : State := ts.foldl (fun t x => t.sendBoth f x) s

/-- A token of a firing emitted with the node's tag operation. -/
def State.emit (s : State) (f : Firing) (t : Token) : State := s.sendAll f (s.tagged f t)

/-- A token of a firing emitted to one destination with the node's tag operation. -/
def State.emitTo (s : State) (f : Firing) (d : Dest) (t : Token) : State :=
  (s.tagged f t).foldl (fun u x => u.sendFrom f d x) s

/-! ## Frame lines (R35, R186) -/

/-- The line a slot number names: a named line, or one of the rotating region at the base of constants word 96. -/
def Cell.slotLine (c : Cell) (n : Nat) : Nat :=
  if n < 192 then n
  else c.active.named + (((Tab.get 0 c.consts 96).toNat + (n - 192)) % c.active.rotating)

/-- A lane of a frame line. -/
def State.frameLane (s : State) (ci line l : Nat) : Lane := s.lane (frameAddr ci line + 4 * l)

/-- The first `n` lanes of a frame line. -/
def State.frameLanes (s : State) (ci line n : Nat) : List Lane := lanesOf (s.bytes (frameAddr ci line) (4 * n))

/-- Lanes written to a frame line, each at its place; one write. -/
def State.setFrame (s : State) (ci line : Nat) (ls : List (Nat × Lane)) : State :=
  ls.foldl (fun t e => t.putLE (frameAddr ci line + 4 * e.1) 4 e.2.toNat) s

/-- The slot operand z of a firing: lane (v_j mod 32) of the slot for each fired lane, and the line's poison bit (R158). -/
def State.slotRead (s : State) (f : Firing) (slot : Nat) : List Lane × Bool :=
  let c := s.cell f.ci
  let line := c.slotLine slot
  ((upTo f.len).map (fun j => s.frameLane f.ci line (slotLane (s.shape f.ctx) f.level f.tag j)), c.linePoison.contains line)

/-- Lanes written to a slot line at (v_j mod 32): poison sets the line's poison bit, and only a write of all 32 lanes
unpoisoned clears it (R186, R221). -/
def State.slotWrite (s : State) (ci slot level : Nat) (ctx : BitVec 12) (tag : Word) (lanes : List Lane) (poison : Bool) :
    State :=
  let line := (s.cell ci).slotLine slot
  let shape := s.shape ctx
  let at_ := (indexed 0 lanes).map (fun e => (slotLane shape level tag e.1, e.2))
  let s1 := s.setFrame ci line at_
  if poison then s1.setLinePoison ci line true
  else if (at_.map (fun e => e.1)).eraseDups.length = 32 then s1.setLinePoison ci line false else s1

end Sys2Proof.Machine
end

