-- ==== Sys2Proof/Machine/Store.lean ====
section
/-! DEFINITION. The matching store and the spill unit (R34, R41 to R46, R208), and parking an activation (R69, R70, R223,
R255). -/

namespace Sys2Proof.Machine

/-! ## Launch record fields that the fabric reads (R107) -/

/-- Word `i` of a context's launch record. -/
def Context.recWord (c : Context) (i : Nat) : Nat := (nth 0 c.record i).toNat
/-- Bytes of the context's spill area in each sector. -/
def Context.areaSize (c : Context) : Nat := bits (c.recWord 0) 63 56 * 32768
/-- The base of the overflow region. -/
def Context.ovfBase (c : Context) : Nat := bits (c.recWord 5) 55 12 * 4096
/-- The chunks of 4 KiB of the overflow region (R43). -/
def Context.ovfChunks (c : Context) : Nat :=
  let l := bits (c.recWord 5) 63 56
  if l < 12 then 0 else 2 ^ (l - 12)

/-! ## Spill storage (R42, R43) -/

/-- The lowest gap of `size` bytes below `limit` between the extents of a list sorted by address, from `pos` on. -/
def firstGap (size limit : Nat) : Nat → List (Nat × Nat) → Option Nat
  | pos, [] => if pos + size ≤ limit then some pos else none
  | pos, (a, n) :: t => if pos + size ≤ a then some pos else firstGap size limit (Nat.max pos (a + n)) t

/-- The extents that records take in storage, sorted by address. -/
def extentsOf (rs : List Spilled) : List (Nat × Nat) :=
  sortBy (fun x y => decide (x.1 < y.1)) ((rs.filter (fun r => r.placed)).map (fun r => (r.addr, r.tok.imageSize)))

/-- Every record of a spill unit, stored or on its way to storage. -/
def SpillUnit.all (u : SpillUnit) : List Spilled := u.records ++ u.arriving

/-- Every record that a sector's spill unit holds for a context. -/
def State.recordsOf (s : State) (ps : Nat) (ctx : BitVec 12) : List Spilled :=
  (s.spill ps).all.filter (fun r => r.tok.ctx == ctx)

/-- The chunks of a context's overflow region that any sector holds (R43). -/
def State.chunksOf (s : State) (ctx : BitVec 12) : List Nat :=
  (upTo 32).foldl (fun l ps => (s.recordsOf ps ctx).foldl (fun l r =>
    match r.chunk with | some c => insertNat c l | none => l) l) []

/-- Where a record of `size` bytes of a context fits in its spill area of a sector: the lowest gap. -/
def State.areaPlace (s : State) (ps : Nat) (ctx : BitVec 12) (size : Nat) : Option Nat :=
  match s.contexts.find? ctx.toNat with
  | none => none
  | some c =>
    if (c.spill.find? ps).isSome then
      firstGap size c.areaSize 0 (extentsOf ((s.recordsOf ps ctx).filter (fun r => r.chunk.isNone)))
    else none

/-- Where a record of `size` bytes of a context fits in a sector (R43): the lowest gap of the spill area; else of a chunk
the unit holds; else the lowest free chunk. DESIGN CHOICE (log 14): the manual does not give the places. -/
def State.spillPlace (s : State) (ps : Nat) (ctx : BitVec 12) (size : Nat) : Option (Option Nat × Nat) :=
  match s.contexts.find? ctx.toNat with
  | none => none
  | some c =>
    let mine := s.recordsOf ps ctx
    match s.areaPlace ps ctx size with
    | some a => some (none, a)
    | none =>
      let held := mine.foldl (fun l r => match r.chunk with | some k => insertNat k l | none => l) []
      match held.filterMap (fun k =>
          (firstGap size 4096 0 (extentsOf (mine.filter (fun r => r.chunk == some k)))).map (fun a => (some k, a))) with
      | p :: _ => some p
      | [] =>
        let used := s.chunksOf ctx
        match (upTo (used.length + 1)).find? (fun k => !used.contains k) with
        | some k => if k < c.ovfChunks ∧ size ≤ 4096 then some (some k, 0) else none
        | none => none

/-- A token on its way to a spill unit, with the place it is to have, if any. -/
def State.toUnit (s : State) (ps ci : Nat) (tok : Token) (how : HeldAs) (place : Option (Option Nat × Nat)) : State :=
  let u := s.spill ps
  let r : Spilled :=
    { tok := tok, ci := ci, how := how, order := u.counter, placed := place.isSome, chunk := place.bind (fun p => p.1),
      addr := (place.map (fun p => p.2)).getD 0 }
  s.setSpill ps { u with arriving := u.arriving ++ [r], counter := u.counter + 1 }

/-- A token sent from a cell to the spill unit of its sector as a class-3 token (R42), and counted (R48); none where no storage
has room for it. -/
def State.spillPut (s : State) (ps ci : Nat) (tok : Token) : Option State :=
  match s.spillPlace ps tok.ctx tok.imageSize with
  | none => none
  | some p => some ((s.toUnit ps ci { tok with cls := 3 } .spilled (some p)).bump (secReg ps 0 0x18) 1)

/-- A parked operand without an entry, kept as a parked spill record (R69); where no storage has room, by the unit (log 14). -/
def State.spillParked (s : State) (ps ci : Nat) (tok : Token) : State :=
  s.toUnit ps ci { tok with cls := 3 } .parked (s.spillPlace ps tok.ctx tok.imageSize)

/-- A token held in the spill area of a sector with its header unchanged (R28, R29); where the area has no room, by the unit
(log 14). -/
def State.spillHeld (s : State) (ps : Nat) (tok : Token) (how : HeldAs) : State :=
  s.toUnit ps 0 tok how ((s.areaPlace ps tok.ctx tok.imageSize).map (fun a => (none, a)))

/-- The bytes of a stored record, at its place in the scratchpad or in the overflow region (R42, R43). A chunk whose page
does not translate is not written; the unit keeps the record itself. -/
def State.writeRecord (s : State) (ps : Nat) (r : Spilled) : State :=
  match (if r.placed then s.contexts.find? r.tok.ctx.toNat else none) with
  | none => s
  | some c =>
    match r.chunk with
    | none => s.putBytes (scratchAddr ps (Tab.get 0 c.spill ps + r.addr)) r.tok.image
    | some k =>
      match s.walk (ps / 8) 9999 c.asid none (c.ovfBase + 4096 * k + r.addr) true with
      | (.ok x, s1) => s1.storeParts 4 (x.pa (c.ovfBase + 4096 * k + r.addr)) r.tok.image false
      | (.error _, s1) => s1

/-- `SEC.SPILLHWM` follows the occupancy (R48). -/
def State.noteHigh (s : State) (ps : Nat) : State :=
  let r := secReg ps 0 0x30
  let a := s.spillUsed ps
  let n := (s.chunksHeld ps).length
  let s1 := if s.regBits r 31 0 < a then s.setBits r 31 0 a else s
  if s.regBits r 63 32 < n then s1.setBits r 63 32 n else s1

/-- Whether the spill unit holds any token for a cell (R41). -/
def State.spillHolds (s : State) (ci : Nat) : Bool :=
  (s.spill (sectorOf ci)).all.any (fun r => r.ci == ci && (r.how == .spilled || r.how == .parked))

/-! ## The matching store (R34, R35, R41) -/

/-- Entries in use: waiting, parked and control entries (R70, R207). -/
def Cell.occupancy (c : Cell) : Nat := c.entries.length + c.ctrl.length

/-- The effective capacity C (R41, R460). -/
def State.capacity (s : State) (ci : Nat) : Nat :=
  let c := s.cell ci
  Nat.min (s.regBits (secReg (sectorOf ci) 0 0x08) 8 0) (256 - c.retired.length - c.active.named - c.active.rotating)

/-- The lowest free waiting line (R35, R46). A cell with U usable lines numbers them 0 to U − 1 (R460). -/
def Cell.freeLine (c : Cell) : Option Nat :=
  ((upTo (256 - c.retired.length)).drop (c.active.named + c.active.rotating)).find? (fun l =>
    !c.entries.any (fun e => e.line == l) && !c.ctrl.any (fun e => e.line == l))

/-- The run that an entry holds: its lanes stand in its slot line. -/
def State.entryToken (s : State) (ci : Nat) (e : Entry) : Token :=
  { e.tok with lanes := s.frameLanes ci e.line e.tok.payload,
               poison := e.tok.poison || (s.cell ci).linePoison.contains e.line }

/-- A slot line taken: its presence bit set, its poison bit as the token's, its lanes written from lane 0 (log 14). -/
def State.takeLine (s : State) (ci line : Nat) (tok : Token) : State :=
  if line < 256 then
    let s1 := (s.setFrame ci line (indexed 0 tok.lanes)).setLinePoison ci line tok.poison
    s1.setCell ci { s1.cell ci with present := insertNat line (s1.cell ci).present }
  else s

/-- A slot line given back. -/
def State.freeSlot (s : State) (ci line : Nat) : State :=
  if line < 256 then
    let s1 := s.setLinePoison ci line false
    s1.setCell ci { s1.cell ci with present := (s1.cell ci).present.filter (fun l => l != line) }
  else s

/-- The plane whose nodes receive a token: the staged one for a context that is staged and not yet active (R38). -/
def Cell.planeFor (c : Cell) (ctx : BitVec 12) : Plane :=
  if c.stagedValid && c.staged.ctx == some ctx.toNat && c.active.ctx != some ctx.toNat then c.staged else c.active

/-- The level of a node of a context at a cell; 0 where the node is not configured. -/
def Cell.levelOf (c : Cell) (ctx : BitVec 12) (node : Nat) : Nat :=
  match (c.planeFor ctx).nodes.find? node with
  | some n => n.level
  | none => 0

/-- Whether two tags agree in fields 0 to a level: they name one activation there (R33). -/
def sameAct (shape : Word) (level : Nat) (a b : Word) : Bool :=
  (upTo (level + 1)).all (fun k => tagField shape a k == tagField shape b k)

/-- The frame of a token's activation at a cell (R34, R35): that of an entry of the same activation, else the lowest number that
no entry uses. DESIGN CHOICE (log 14): the manual does not give the numbers. -/
def State.frameFor (s : State) (ci : Nat) (tok : Token) (node : Nat) : Nat :=
  let c := s.cell ci
  let l := c.levelOf tok.ctx node
  match c.entries.find? (fun e => e.tok.ctx == tok.ctx && c.levelOf e.tok.ctx e.node == l &&
      sameAct (s.shape tok.ctx) l e.tok.tag tok.tag) with
  | some e => e.frame
  | none => ((upTo 256).find? (fun n => !c.entries.any (fun e => e.frame == n))).getD 0

/-- An entry made for a token in a line. -/
def State.addEntry (s : State) (ci line : Nat) (tok : Token) (node port order : Nat) (parked : Bool) : State :=
  let s1 := s.takeLine ci line tok
  let c := s1.cell ci
  s1.setCell ci { c with entries := c.entries ++
    [{ tok := { tok with lanes := [] }, node := node, port := port, frame := s.frameFor ci tok node, line := line, parked := parked,
       order := order }] }

/-- The next arrival number of a cell. -/
def State.nextOrder (s : State) (ci : Nat) : Nat × State :=
  let c := s.cell ci
  (c.arrivals, s.setCell ci { c with arrivals := c.arrivals + 1 })

/-- An entry removed; its line is free. -/
def State.dropEntry (s : State) (ci : Nat) (e : Entry) : State :=
  let s1 := s.freeSlot ci e.line
  let c := s1.cell ci
  s1.setCell ci { c with entries := c.entries.filter (fun x => !(x.order == e.order && x.line == e.line)) }

/-- Entry `a` is younger than entry `b` (R41). -/
def State.entryYounger (s : State) (a b : Entry) : Bool :=
  if a.tok.ctx = b.tok.ctx then
    let sh := s.shape a.tok.ctx
    tagOlder sh b.tok.tag a.tok.tag || (!tagOlder sh a.tok.tag b.tok.tag && decide (b.order < a.order))
  else if s.prio a.tok.ctx = s.prio b.tok.ctx then decide (b.order < a.order)
  else decide (s.prio a.tok.ctx < s.prio b.tok.ctx)

/-- V: the youngest unparked waiting entry (R41). -/
def State.youngest (s : State) (ci : Nat) : Option Entry :=
  leastBy s.entryYounger ((s.cell ci).entries.filter (fun e => !e.parked))

/-- A token that arrives now is older than an entry (R41, R163). -/
def State.olderThan (s : State) (tok : Token) (v : Entry) : Bool :=
  if tok.ctx = v.tok.ctx then tagOlder (s.shape tok.ctx) tok.tag v.tok.tag
  else decide (s.prio v.tok.ctx < s.prio tok.ctx)

/-- How R41 places what needs an entry: a line for it, the spill unit, or no room anywhere (R44). -/
inductive Placed where
  | entry (line : Nat)
  | diverted
  | stuck (v : Bool)
deriving DecidableEq, Repr

/-- Room for a new entry (R41, R46): a free entry with a line; else V is evicted for an older token; else the token is
diverted. `reinj` is set for a token that the spill unit re-injected. -/
def State.makeRoom (s : State) (ci : Nat) (tok : Token) (reinj : Bool) : Placed × State :=
  let ps := sectorOf ci
  let c := s.cell ci
  let cap := s.capacity ci
  let limit := if s.spillHolds ci && !reinj then cap - 1 else cap
  match (if c.occupancy < limit then c.freeLine else none) with
  | some l => (.entry l, s)
  | none =>
    match (match s.youngest ci with | some v => if s.olderThan tok v then some v else none | none => none) with
    | some v =>
      match s.spillPut ps ci (s.entryToken ci v) with
      | some s1 => (.entry v.line, (s1.bump (secReg ps 0 0x28) 1).dropEntry ci v)
      | none => (.stuck true, s)
    | none =>
      match s.spillPut ps ci tok with
      | some s1 => (.diverted, s1)
      | none => (.stuck false, s)

/-- Bytes of the record that did not fit (R44): that of the entry to be evicted for an older token, else the token's own. -/
def State.unfit (s : State) (ci : Nat) (tok : Token) : Nat :=
  match s.youngest ci with
  | some v => if s.olderThan tok v then v.tok.imageSize else tok.imageSize
  | none => tok.imageSize

/-- The opcode and level of the node that a destination word names, as a record's lane 5 shows them (R106); 0 for other words. -/
def State.nodeAt (s : State) (d : Dest) (ctx : BitVec 12) : Nat × Nat :=
  if dKind d = 1 then
    match ((s.cell (dCell d)).planeFor ctx).nodes.find? (dNode d) with
    | some n => (n.opcode, n.level)
    | none => (0, 0)
  else (0, 0)

/-- The OVERFLOW trap (R44): one fault record for a context's trap; the front answers it as an expired watchdog. -/
def State.overflowTrap (s : State) (ci : Nat) (tok : Token) (node port : Nat) : State :=
  let ps := sectorOf ci
  let u := s.spill ps
  if u.trapped.contains tok.ctx.toNat then s
  else
    let base := match s.contexts.find? tok.ctx.toNat with | some c => c.ovfBase | none => 0
    let s1 := s.setSpill ps { u with trapped := insertNat tok.ctx.toNat u.trapped }
    s1.faultRecord (keeperDest ps) ps tok.ctx tok.tag fOVERFLOW
      [BitVec.ofNat 32 base, BitVec.ofNat 32 (base / 2 ^ 32), BitVec.ofNat 32 (s.unfit ci tok), 0]
      (cellDest ci node port).toNat (s.nodeAt (cellDest ci node port) tok.ctx).1 (s.nodeAt (cellDest ci node port) tok.ctx).2 []

/-- Tokens that found no room at a cell wait at its input (R44). What waits there came from the cell itself, or from its spill
unit, and stands on a channel of its own. -/
def State.waitAtInput (s : State) (ci : Nat) (ts : List Token) : State :=
  { s with net := s.net ++ ts.map (fun t => { src := cellDest ci 0 0, tok := t, pos := t.beats }) }

/-- Whether a cell holds an entry whose run cannot leave a trap: the state of a token that waits at the input. -/
def State.isTrapped (s : State) (ps : Nat) (ctx : BitVec 12) : Bool := (s.spill ps).trapped.contains ctx.toNat

/-! ## Parking (R69, R70) -/

/-- Whether a tag lies in a parked activation (R69, R188). -/
def Parked.holds (p : Parked) (shape : Word) (ctx : BitVec 12) (tag : Word) : Bool :=
  p.ctx == ctx && (upTo p.level).all (fun k => tagField shape p.tag k == tagField shape tag k)
    && decide ((tagField shape tag p.level + 2 ^ fieldWidth shape p.level - tagField shape p.tag p.level)
        % 2 ^ fieldWidth shape p.level < p.len)

/-- Whether a tag of a context lies in any parked activation of a cell. -/
def State.isParked (s : State) (ci : Nat) (ctx : BitVec 12) (tag : Word) : Bool :=
  (s.cell ci).parkedActs.any (fun p => p.holds (s.shape ctx) ctx tag)

/-- The parked unit of a cell that a tag of a context lies in, by its place in the list. -/
def State.unitOf (s : State) (ci : Nat) (ctx : BitVec 12) (tag : Word) : Option Nat :=
  let us := (s.cell ci).parkedActs
  (upTo us.length).find? (fun i => match us[i]? with | some p => p.holds (s.shape ctx) ctx tag | none => false)

/-- The pieces of a token at a node by the parked units that its lanes lie in: a run that crosses from one activation to another
is a parked entry only in those that are parked (R69, R188). -/
def State.parkPieces (s : State) (ci node : Nat) (tok : Token) : List (Token × Bool) :=
  let sh := s.shape tok.ctx
  let l := (s.cell ci).levelOf tok.ctx node
  (piecesBy (fun j => s.unitOf ci tok.ctx (laneTag sh l tok.tag j)) tok.runLen).map (fun x =>
    (if x.2.1 = tok.runLen then tok else pieceOf sh l tok x.1 x.2.1, x.2.2.isSome))

/-- A withdrawn operand, or a faulted token, kept as a parked entry (R28, R69): it takes an entry as a re-injected token
would; with none it is a parked spill record. -/
def State.parkToken (s : State) (ci : Nat) (tok : Token) (node port : Nat) : State :=
  let ps := sectorOf ci
  let c := s.cell ci
  let (n, s0) := s.nextOrder ci
  match (if c.occupancy < s.capacity ci then c.freeLine else none) with
  | some l => s0.addEntry ci l tok node port n true
  | none =>
    match (match s0.youngest ci with | some v => if s0.olderThan tok v then some v else none | none => none) with
    | some v =>
      match s0.spillPut ps ci (s0.entryToken ci v) with
      | some s1 => ((s1.bump (secReg ps 0 0x28) 1).dropEntry ci v).addEntry ci v.line tok node port n true
      | none => s0.spillParked ps ci tok
    | none => s0.spillParked ps ci tok

/-- A run that is not parked put into the store under R41, as a re-injected token is; with no room anywhere it waits at the input. -/
def State.placeRun (s : State) (ci : Nat) (tok : Token) (node port order : Nat) (reinj : Bool) : State :=
  match s.makeRoom ci tok reinj with
  | (.entry l, s1) => s1.addEntry ci l tok node port order false
  | (.diverted, s1) => s1
  | (.stuck _, _) => (s.overflowTrap ci tok node port).waitAtInput ci [tok]

/-- A waiting entry of a cell in which an activation has just been parked (R69): its lanes of the activation are parked, and its
other lanes go on waiting. The first piece keeps the entry and its line. -/
def State.parkEntry (s : State) (ci : Nat) (e : Entry) : State :=
  match s.parkPieces ci e.node (s.entryToken ci e) with
  | [] => s
  | [(_, b)] =>
    let c := s.cell ci
    s.setCell ci { c with entries := c.entries.map (fun x =>
      if x.order = e.order ∧ x.line = e.line then { x with parked := b } else x) }
  | (t, b) :: rest =>
    rest.foldl (fun u x =>
      if x.2 then u.parkToken ci x.1 e.node e.port else u.placeRun ci x.1 e.node e.port e.order true)
      ((s.dropEntry ci e).addEntry ci e.line t e.node e.port e.order b)

/-- An activation parked in a cell, with its waiting entries (R69). -/
def State.parkAct (s : State) (ci : Nat) (p : Parked) : State :=
  let c := s.cell ci
  (c.entries.filter (fun e => !e.parked && e.tok.ctx == p.ctx)).foldl (fun t e =>
      if (t.cell ci).entries.any (fun x => x.order == e.order && x.line == e.line && !x.parked) then t.parkEntry ci e else t)
    (s.setCell ci { c with parkedActs := c.parkedActs ++ [p] })

/-- The fault record of a firing (R106). -/
def State.fireRecord (s : State) (f : Firing) (tag : Word) (code : Nat) (detail : List Lane) : State :=
  s.faultRecord f.src (sectorOf f.ci) f.ctx tag code detail (cellDest f.ci f.node f.port).toNat f.cfg.opcode f.level []

/-- A firing's operands kept as parked entries (R69): the operands of a dyadic firing take an entry each. -/
def State.parkOperands (s : State) (f : Firing) : State :=
  match f.b with
  | none => s.parkToken f.ci { f.a with dest := cellDest f.ci f.node f.port } f.node f.port
  | some b =>
    (s.parkToken f.ci { f.a with dest := cellDest f.ci f.node 0 } f.node 0).parkToken f.ci
      { b with dest := cellDest f.ci f.node 1 } f.node 1

/-- A firing's operands withdrawn and its activation parked (R69). -/
def State.withdraw (s : State) (f : Firing) : State :=
  (s.parkAct f.ci { ctx := f.ctx, level := f.level, tag := f.tag, len := f.len }).parkOperands f

/-- fault(code): the firing's activation parks and a fault record goes to the sector keeper (R69, R188). -/
def State.faultFiring (s : State) (f : Firing) (code : Nat) (detail : List Lane) : State :=
  (s.withdraw f).fireRecord f f.tag code detail

/-- The firing of lanes [i, i + n) of a fired run. -/
def State.subFiring (s : State) (f : Firing) (i n : Nat) : Firing :=
  let sh := s.shape f.ctx
  { f with tag := laneTag sh f.level f.tag i, len := n, a := pieceOf sh f.level f.a i n,
           b := f.b.map (fun b => pieceOf sh f.level b i n) }

/-! ## Control entries (R207, R208) -/

/-- A control entry of a guard node's key. -/
def Cell.findCtrl (c : Cell) (kind : CtrlKind) (ctx : BitVec 12) (node key : Nat) (tag : Word) : Option Ctrl :=
  c.ctrl.find? (fun e => e.kind == kind && e.ctx == ctx && e.node == node && e.key == key && e.tag == tag)

/-- A control entry replaced, by its arrival number. -/
def State.putCtrl (s : State) (ci : Nat) (e : Ctrl) : State :=
  let c := s.cell ci
  s.setCell ci { c with ctrl := c.ctrl.map (fun x => if x.order = e.order then e else x) }

/-- A control entry freed. -/
def State.dropCtrl (s : State) (ci : Nat) (e : Ctrl) : State :=
  let s1 := s.freeSlot ci e.line
  let c := s1.cell ci
  s1.setCell ci { c with ctrl := c.ctrl.filter (fun x => x.order != e.order) }

/-- A held token of a control entry, with its lanes from its slot line. -/
def State.ctrlToken (s : State) (ci : Nat) (e : Ctrl) : Token :=
  let t := e.held.headD Token.zero
  if e.line < 256 then { t with lanes := s.frameLanes ci e.line t.payload } else t

/-- A control entry created for a firing under R41, with the firing's operand standing for the token (R208): the entry and
the state, or what became of the operand. `lined` entries take a slot line. -/
def State.makeCtrl (s : State) (f : Firing) (e : Ctrl) (lined : Bool) : Option Ctrl × Placed × State :=
  match s.makeRoom f.ci { f.a with dest := cellDest f.ci f.node f.port } f.reinj with
  | (.entry l, s1) =>
    let (n, s2) := s1.nextOrder f.ci
    let line := if lined then l else 256
    let e1 := { e with order := n, line := line,
                       held := if lined then e.held.map (fun t => { t with lanes := [] }) else e.held }
    let s3 := if lined then s2.takeLine f.ci l (e.held.headD Token.zero) else s2
    let c := s3.cell f.ci
    (some e1, .entry l, s3.setCell f.ci { c with ctrl := c.ctrl ++ [e1] })
  | (p, s1) => (none, p, s1)

end Sys2Proof.Machine
end

