-- ==== Sys2Proof/Machine/Fabric.lean ====
section
/-! DEFINITION. The fabric: matching (R36 to R38), faults at a receiver (R28) and on the way (R29), spill records and
their return (R42 to R46), drains (R51, R52, R67, R217, R218), event queues (R57, R152), and the disposal of parked
activations (R71). -/

namespace Sys2Proof.Machine

/-! ## Admission (R36, R37, R38) -/

/-- Whether a firing's plane is active: a firing of a context that is only staged waits (R38). -/
def Cell.mayFire (c : Cell) (f : Firing) : Bool :=
  !(c.stagedValid && c.staged.ctx == some f.ctx.toNat && c.active.ctx != some f.ctx.toNat)

/-- A token made ready (R36): a firing over its whole run, or over an overlap. -/
def State.makeReady (s : State) (ci node : Nat) (cfg : Node) (a : Token) (b : Option Token) (port : Nat) (reinj : Bool) :
    State :=
  let (n, s1) := s.nextOrder ci
  let c := s1.cell ci
  let f : Firing :=
    { ci := ci, node := node, cfg := cfg, ctx := a.ctx, tag := a.tag, len := a.runLen, a := a, b := b, port := port,
      reinj := reinj, held := false, since := s.clk, order := n }
  s1.setCell ci { c with ready := c.ready ++ [f] }

/-- A stream fault at a cell (R28): the token is held as a parked entry and a record is sent. -/
def State.cellStream (s : State) (ci : Nat) (tok : Token) : State :=
  let node := dNode tok.dest
  let port := dPort tok.dest
  let at_ := s.nodeAt (cellDest ci node port) tok.ctx
  (s.parkToken ci tok node port).faultRecord (cellDest ci node 0) (sectorOf ci) tok.ctx tok.tag fSTREAM []
    (cellDest ci node port).toNat at_.1 at_.2 []

/-- Whether a token at a cell is a stream fault (R24, R28, R36, R145, R233). -/
def streamBad (kind : CellKind) (n : Option Node) (t : Token) : Bool :=
  match n with
  | none => true
  | some x =>
    decide (4 < t.width.toNat) || !destForm t.dest || !(t.cls == 0 || t.cls == 1 || t.cls == 6)
      || (if dPort t.dest = 3 then kind != .forager || x.opcode != 0x1B1
          else if dPort t.dest = 2 then x.fields.arity != 3
          else x.opcode == 0x1B1)

/-- The oldest unparked waiting run of (context, node, port) that a token overlaps (R34, R36, R37). -/
def State.waiting (s : State) (ci : Nat) (tok : Token) (node port level : Nat) : Option Entry :=
  let sh := s.shape tok.ctx
  leastBy (fun a b => tagOlder sh a.tok.tag b.tok.tag || (a.tok.tag == b.tok.tag && decide (a.order < b.order)))
    ((s.cell ci).entries.filter (fun e =>
      !e.parked && e.tok.ctx == tok.ctx && e.node == node && e.port == port && (overlapOf sh level e.tok tok).isSome))

/-- COLLIDE at admission (R36, R188): the activation parks with the arriving token in it. -/
def State.collide (s : State) (ci : Nat) (tok : Token) (node port : Nat) (cfg : Node) (e : Entry) : State :=
  let sh := s.shape tok.ctx
  (((s.parkAct ci { ctx := tok.ctx, level := cfg.level, tag := tok.tag, len := tok.runLen })).parkToken ci tok node
    port).faultRecord (cellDest ci node 0) (sectorOf ci) tok.ctx tok.tag fCOLLIDE
      [BitVec.ofNat 32 tok.runLen, BitVec.ofNat 32 (tagField sh e.tok.tag cfg.level)] (cellDest ci node port).toNat
      cfg.opcode cfg.level []

/-- A match (R36, R37): the overlap of W and T is made ready, and of the pieces outside it, which are two at most, the one with the
older tag keeps W's entry and line. A piece of W waits on in an entry: that of W, or a new one under R41. The pieces of T come back,
each with the line of W's entry and whether it may reuse it, to be looked up again; so does, as the first list, what found no room. -/
def State.matchRun (s : State) (ci : Nat) (tok : Token) (node port : Nat) (cfg : Node) (w : Entry) (reinj : Bool) :
    List Token × List (Token × Option Nat) × State :=
  let sh := s.shape tok.ctx
  let l := cfg.level
  let wt := s.entryToken ci w
  match overlapOf sh l wt tok with
  | none => ([], [], s)
  | some (wo, tofs, n) =>
    let wp := pieceOf sh l wt wo n
    let tp := pieceOf sh l tok tofs n
    let (a, b) := if port = 0 then (tp, wp) else (wp, tp)
    let s1 := (s.dropEntry ci w).makeReady ci node cfg a (some b) port reinj
    -- each piece with whether it is one of W
    let head : List (Token × Bool) :=
      if 0 < wo then [(pieceOf sh l wt 0 wo, true)] else if 0 < tofs then [(pieceOf sh l tok 0 tofs, false)] else []
    let tail : List (Token × Bool) :=
      if wo + n < wt.runLen then [(pieceOf sh l wt (wo + n) (wt.runLen - (wo + n)), true)]
      else if tofs + n < tok.runLen then [(pieceOf sh l tok (tofs + n) (tok.runLen - (tofs + n)), false)] else []
    let place (acc : List Token × List (Token × Option Nat) × State) (x : Token × Bool) (keep : Bool) :
        List Token × List (Token × Option Nat) × State :=
      if !x.2 then (acc.1, acc.2.1 ++ [(x.1, if keep then some w.line else none)], acc.2.2)
      else if keep then (acc.1, acc.2.1, acc.2.2.addEntry ci w.line x.1 node w.port w.order false)
      else
        match acc.2.2.makeRoom ci x.1 reinj with
        | (.entry l2, u) => (acc.1, acc.2.1, u.addEntry ci l2 x.1 node w.port w.order false)
        | (.diverted, u) => (acc.1, acc.2.1, u)
        | (.stuck _, _) => (acc.1 ++ [x.1], acc.2.1, acc.2.2.overflowTrap ci x.1 node w.port)
    match head ++ tail with
    | [p] => place ([], [], s1) p true
    | [p, q] =>
      if tagOlder sh q.1.tag p.1.tag then place (place ([], [], s1) q true) p false
      else place (place ([], [], s1) p true) q false
    | _ => ([], [], s1)

/-- Whether the drain of a context has passed in a sector; where the sector has no section of it, in every one that has. -/
def State.drainPassed (s : State) (slot : Nat) (x : Context) (ps : Nat) : Bool :=
  s.fdrains.any (fun f => f.slot == slot && (if x.sections.contains ps then !f.sectors.contains ps else f.sectors.isEmpty))

/-- A cell's overlay holds back the tokens of a context (R72, R454): a configured cell's active plane is the overlay; in a cell of the
partition that is not configured it is active once the drain has passed. -/
def State.overlaid (s : State) (ci : Nat) (ctx : BitVec 12) : Bool :=
  match s.contexts.find? ctx.toNat with
  | some x =>
    x.overlaid && (let p := (s.cell ci).active
                   p.overlay || (p.nodes.isEmpty && bitOf x.part (sectorOf ci) && s.drainPassed ctx.toNat x (sectorOf ci)))
  | none => false

/-- A token that arrives under the overlay: a waiting entry, which never fires (R454). -/
def State.admitWaiting (s : State) (ci : Nat) (tok : Token) (reinj : Bool) : List Token × State :=
  let (n, s0) := s.nextOrder ci
  match s0.makeRoom ci tok reinj with
  | (.entry l, s1) => ([], s1.addEntry ci l tok (dNode tok.dest) (dPort tok.dest) n false)
  | (.diverted, s1) => ([], s1)
  | (.stuck _, _) => ([tok], s.overflowTrap ci tok (dNode tok.dest) (dPort tok.dest))

/-- A waiting line of a cell that no entry uses. -/
def Cell.lineFree (c : Cell) (l : Nat) : Bool := !c.entries.any (fun e => e.line == l) && !c.ctrl.any (fun e => e.line == l)

/-- A token admitted at a cell (R36). What could not be placed, and waits at the input (R44), comes back. `keep` is the line of the
entry that a piece of a matched run may take over (R37). -/
def State.receiveAs : Nat → State → Nat → Token → Bool → Option Nat → List Token × State
  | 0, s, _, tok, _, _ => ([tok], s)
  | fuel + 1, s, ci, tok, reinj, keep =>
    let c := s.cell ci
    let node := dNode tok.dest
    let port := dPort tok.dest
    let found := (c.planeFor tok.ctx).nodes.find? node
    if s.overlaid ci tok.ctx then s.admitWaiting ci tok reinj
    else if streamBad (kindOf ci) found tok then ([], s.cellStream ci tok)
    else
      match found with
      | none => ([], s.cellStream ci tok)
      | some cfg =>
        if port = 2 then
          (if tok.empty then ([], s)
           else ([], s.slotWrite ci (cfg.fields.lit.toNat % 256) cfg.level tok.ctx tok.tag tok.lanes tok.poison))
        else
          match s.parkPieces ci node tok with
          | [(_, true)] => ([], s.parkToken ci tok node port)
          | p :: q :: ps =>
            (p :: q :: ps).foldl (fun (acc : List Token × State) x =>
              if x.2 then (acc.1, acc.2.parkToken ci x.1 node port)
              else let (r, u) := State.receiveAs fuel acc.2 ci x.1 reinj keep; (acc.1 ++ r, u)) ([], s)
          | _ =>
            if cfg.fields.arity = 0 ∨ cfg.fields.arity = 2 ∨ cfg.opcode = 0x102 then
              ([], s.makeReady ci node cfg tok none port reinj)
            else
              match s.waiting ci tok node (1 - port) cfg.level with
              | some w =>
                let (stuck, more, s1) := s.matchRun ci tok node port cfg w reinj
                more.foldl (fun (acc : List Token × State) x =>
                  let (r, u) := State.receiveAs fuel acc.2 ci x.1 reinj x.2; (acc.1 ++ r, u)) (stuck, s1)
              | none =>
                match s.waiting ci tok node port cfg.level with
                | some e => ([], s.collide ci tok node port cfg e)
                | none =>
                  let (n, s0) := s.nextOrder ci
                  match keep.filter (fun l => (s0.cell ci).lineFree l) with
                  | some l => ([], s0.addEntry ci l tok node port n false)
                  | none =>
                    match s0.makeRoom ci tok reinj with
                    | (.entry l, s1) => ([], s1.addEntry ci l tok node port n false)
                    | (.diverted, s1) => ([], s1)
                    | (.stuck _, _) => ([tok], s.overflowTrap ci tok node port)

/-- A token admitted at a cell (R36). -/
def State.receive (fuel : Nat) (s : State) (ci : Nat) (tok : Token) (reinj : Bool) : List Token × State :=
  s.receiveAs fuel ci tok reinj none

/-- A token presented again at a cell (R45, R71): what finds no room waits at the input. -/
def State.present (s : State) (ci : Nat) (tok : Token) (reinj : Bool) : State :=
  let (rest, s1) := State.receive 40 s ci tok reinj
  if rest.isEmpty then s1 else s1.waitAtInput ci rest

/-! ## Arrivals (R19, R24, R28, R29, R52) -/

/-- The lowest sector that is not gated, of a mask if any, else of the package (R29). -/
def State.lowestUngated (s : State) (mask : Nat) : Nat :=
  let up (ps : Nat) : Bool := !(s.reg (frontReg 0x110)).getLsbD ps
  match (upTo 32).find? (fun ps => bitOf mask ps && up ps) with
  | some ps => ps
  | none => ((upTo 32).find? up).getD 0

/-- The sending sector of a source word (R29). A token of the front is charged to the partition of the queue that carried
its command. -/
def State.sendingSector (s : State) (src : Dest) : Nat :=
  match dKind src with
  | 1 => sectorOf (dCell src)
  | 2 => engineSector src
  | 3 => dSector src
  | _ =>
    s.lowestUngated (s.regBits (frontReg (8 * s.regBits (queueReg (src.toNat - 1) 0) 5 1)) 31 0)

/-- A token names an engine or inbox that does not exist, a sector that is power-gated, or a retired pool (R29, R101, R486). -/
def State.unroutable (s : State) (d : Dest) : Bool :=
  (match destSector d with | some ps => (s.reg (frontReg 0x110)).getLsbD ps | none => false) ||
    (dKind d == 2 && (match engineOf d with
      | some (.pool pl) => decide (5 ≤ dInbox d) || (s.pool pl).retired
      | some e => decide (inboxCount e ≤ dInbox d)
      | none => true))

/-- An inbox has no room for another message (R55): those of the copy and stack engines hold eight (R322, R345). The manual gives
no size for the others. A drain row that a pool has handed over (R340) is no message of the stream switch. -/
def State.inboxFull (s : State) (d : Dest) : Bool :=
  match engineOf d with
  | some (.copy _) => decide (8 ≤ ((s.inbox (inboxKey d)).filter (fun e => e.2.cls != 4)).length)
  | some (.stack _) => decide (8 ≤ (s.inbox (inboxKey d)).length)
  | _ => false

/-- A flight may be taken at its end: all its beats have come, or it stands at the boundary of a sector that is gated (R29); no
earlier flight of its channel is on its way, its cell has not closed the channel after a drain (R52), its inbox has room (R55), and its
sector is ready (R466). -/
def State.mayArrive (s : State) (k : Nat) : Bool :=
  match s.net[k]? with
  | none => false
  | some f =>
    let d := f.tok.dest
    (f.arrived || (s.unroutable d && f.atBoundary))
      && !(s.net.take k).any (fun g => unitKey g.src == unitKey f.src && unitKey g.tok.dest == unitKey d)
      && !(dKind d == 1 && (s.cell (dCell d)).drainsIn.contains (unitKey f.src))
      && !(dKind d == 2 && s.inboxFull d)
      && (s.unroutable d || s.sectorReady d)

/-- The flight leaves the switch. -/
def State.landed (s : State) (k : Nat) : State := { s with net := dropNth s.net k }

/-- The address of a record's payload, behind its header, in the spill area of its sector; 0 where it has no place there. -/
def State.payloadAddr (s : State) (ps : Nat) (r : Spilled) : Nat :=
  match (if r.placed then s.contexts.find? r.tok.ctx.toNat else none) with
  | some c => scratchAddr ps (Tab.get 0 c.spill ps + r.addr) + 16
  | none => 0

/-- A token returned to its sending sector (R29): its payload is kept by the spill unit, marked unroutable, and its header
travels in a ROUTE record. -/
def State.returnToken (s : State) (src : Dest) (t : Token) : State :=
  let ps := s.sendingSector src
  let s1 := s.spillHeld ps t .unroutable
  let addr := match (s1.spill ps).arriving.getLast? with | some r => s1.payloadAddr ps r | none => 0
  let at_ := s.nodeAt src t.ctx
  s1.faultRecord (keeperDest ps) ps t.ctx t.tag fROUTE t.headerLanes (if dKind src = 0 then 0 else src.toNat) at_.1 at_.2
    [BitVec.ofNat 32 addr, BitVec.ofNat 32 (addr / 2 ^ 32)]

/-- Classes that an engine inbox takes (R24, R102, R220). -/
def inboxClassOk (d : Dest) (t : Token) : Bool :=
  decide (t.width.toNat ≤ 4) && destForm d &&
    (if t.cls = 5 then true
     else if t.cls = 2 then nth 0 t.lanes 0 == 0 || nth 0 t.lanes 0 == 1
     else if t.cls = 0 then decide (dEng d ≤ 4 ∧ dInbox d = 4) else false)

/-- Classes that a keeper event queue takes (R24, R28); a drain is counted (R152). -/
def keeperClassOk (t : Token) : Bool :=
  decide (t.width.toNat ≤ 4) && destForm t.dest &&
    (t.cls == 0 || t.cls == 1 || t.cls == 6 || t.cls == 7 || (t.cls == 2 && nth 0 t.lanes 0 == 0))

/-- A stream-faulted token of an engine or a keeper held in the spill area of a sector, and its record (R28). -/
def State.holdStream (s : State) (ps : Nat) (t : Token) : State :=
  (s.spillHeld ps t .stream).faultRecord (keeperDest ps) ps t.ctx t.tag fSTREAM [] t.dest.toNat 0 0 []

/-- A drain arrives at a cell on a channel (R36, R52). -/
def State.drainArrives (s : State) (ci : Nat) (src : Dest) (t : Token) : State :=
  let c := s.cell ci
  let s1 := s.setCell ci { c with drainsIn := insertNat (unitKey src) c.drainsIn, drainOrder := c.arrivals }
  if dKind src = 3 then
    let ps := t.aux.toNat % 32
    s1.setKeeper ps { s1.keeper ps with drainCells := (s1.keeper ps).drainCells.erase ci }
  else s1

/-- TOKEN_ARRIVAL (R29, R36): flight `k` reaches a cell's node port or an engine's inbox, or is returned to its sender. -/
def execTokenArrival (k : Nat) (s : State) : Out :=
  ok (if s.mayArrive k then
        match s.net[k]? with
        | none => s
        | some f =>
          let d := f.tok.dest
          if s.unroutable d then
            (if f.tok.cls = 7 ∧ destSector d = some (s.sendingSector f.src) then s
             else (s.landed k).returnToken f.src f.tok)
          else
            match dKind d with
            | 1 =>
              let ci := dCell d
              if f.tok.cls = 2 ∧ nth 0 f.tok.lanes 0 = 0 then (s.landed k).drainArrives ci f.src f.tok
              else
                match State.receive 40 (s.landed k) ci f.tok false with
                | ([], s1) => s1
                | (rest, s1) =>
                  -- what R44 leaves at the input keeps its place on its channel
                  { s1 with net := s1.net.take k ++ rest.map (fun t => { f with tok := t }) ++ s1.net.drop k }
            | 2 => if inboxClassOk d f.tok then (s.landed k).pushInbox (inboxKey d) f.tok else s
            | _ => s
      else s)

/-- ENGINE_INBOX_STREAM_FAULT (R28, R102). -/
def execEngineInboxStreamFault (k : Nat) (s : State) : Out :=
  ok (if s.mayArrive k then
        match s.net[k]? with
        | none => s
        | some f =>
          let d := f.tok.dest
          if dKind d = 2 ∧ !s.unroutable d ∧ !inboxClassOk d f.tok then
            (s.landed k).holdStream (engineSector d) f.tok
          else s
      else s)

/-- EVENT_QUEUE_ARRIVAL (R57): a token other than a drain for a keeper; one of a class not permitted there is held (R28).
It waits where neither the queue nor the reserve has room. -/
def execEventQueueArrival (k : Nat) (s : State) : Out :=
  ok (if s.mayArrive k then
        match s.net[k]? with
        | none => s
        | some f =>
          let d := f.tok.dest
          let ps := dSector d
          if dKind d = 3 ∧ !s.unroutable d ∧ !(f.tok.cls == 2 && nth 0 f.tok.lanes 0 == 0) then
            (if keeperClassOk f.tok then
               (if s.eventRoom ps f.tok then (s.landed k).pushEvent ps f.tok else s)
             else (s.landed k).holdStream ps f.tok)
          else s
      else s)

/-- DRAIN_COUNT (R152): a drain reaches a keeper and is counted for the running tile-task. -/
def execDrainCount (k : Nat) (s : State) : Out :=
  ok (if s.mayArrive k then
        match s.net[k]? with
        | none => s
        | some f =>
          let ps := dSector f.tok.dest
          if dKind f.tok.dest = 3 ∧ !s.unroutable f.tok.dest ∧ f.tok.cls = 2 ∧ nth 0 f.tok.lanes 0 = 0 then
            let r := secReg ps 0 0x48
            let s1 := s.landed k
            let s2 := if s1.regBits r 16 16 = 1 then s1.setReg r 0 else s1
            (s2.bumpBits r 15 0 1).tileEnd ps
          else s
      else s)

/-! ## Spill records (R42 to R46) -/

/-- SPILL_RECORD_STORE (R42): the unit stores the record of the oldest class-3 token that has come. -/
def execSpillRecordStore (ps : Nat) (s : State) : Out :=
  let u := s.spill ps
  ok (match u.arriving with
      | [] => s
      | r :: rest =>
        ((s.setSpill ps { u with arriving := rest, records := u.records ++ [r] }).writeRecord ps r).noteHigh ps)

/-- Whether record `a` is older than record `b` of one cell (R45): by tag within a context, else by arrival. -/
def State.recordOlder (s : State) (a b : Spilled) : Bool :=
  if a.tok.ctx = b.tok.ctx then
    let sh := s.shape a.tok.ctx
    tagOlder sh a.tok.tag b.tok.tag || (!tagOlder sh b.tok.tag a.tok.tag && decide (a.order < b.order))
  else decide (a.order < b.order)

/-- Whether record `a` of a cell comes before record `b` in the turns of the probes (R45): contexts by slot, whose tags are never
compared (log 14), within one the oldest tag first, and runs of one tag by node and port. -/
def State.probeBefore (s : State) (a b : Spilled) : Bool :=
  if a.tok.ctx = b.tok.ctx then
    let sh := s.shape a.tok.ctx
    tagOlder sh a.tok.tag b.tok.tag || (a.tok.tag == b.tok.tag && decide (a.tok.dest.toNat < b.tok.dest.toNat))
  else decide (a.tok.ctx.toNat < b.tok.ctx.toNat)

/-- A record leaves its spill unit. -/
def State.takeRecord (s : State) (ps : Nat) (r : Spilled) : State :=
  let u := s.spill ps
  s.setSpill ps { u with records := u.records.filter (fun x => x.order != r.order) }

/-- A record presented to its cell again (R45) as a class-0 token, counted in `SEC.SPILLIN`. What neither matches nor obtains an entry
returns to the unit; what finds no room anywhere waits at the cell's input (R44). -/
def State.reinject (s : State) (ps : Nat) (r : Spilled) : State :=
  let u := s.spill ps
  (((s.setSpill ps { u with next := r.ci + 1 }).takeRecord ps r).bump (secReg ps 0 0x20) 1).present r.ci { r.tok with cls := 0 } true

/-- The low mark (R45, R48): min(`SEC.MSLOW`, C − 1). -/
def State.lowMark (s : State) (ci : Nat) : Nat :=
  Nat.min (s.regBits (secReg (sectorOf ci) 0 0x10) 8 0) (s.capacity ci - 1)

/-- The record that the spill unit presents next to a cell below its low mark: the oldest of the spill area (R45). -/
def State.lowRecord (s : State) (ps ci : Nat) : Option Spilled :=
  if (s.cell ci).occupancy < s.lowMark ci then
    leastBy s.recordOlder ((s.spill ps).records.filter (fun r => r.ci == ci && r.how == .spilled && r.chunk.isNone))
  else none

/-- The record that the spill unit probes next for a cell at or above its low mark: the records in turn, oldest first, wrapping
round (R45). -/
def State.probeRecord (s : State) (ps ci : Nat) : Option Spilled :=
  if s.lowMark ci ≤ (s.cell ci).occupancy then
    let mine := (s.spill ps).records.filter (fun r => r.ci == ci && r.how == .spilled)
    match (s.spill ps).probe.find? ci with
    | none => leastBy s.probeBefore mine
    | some p =>
      match leastBy s.probeBefore (mine.filter (fun r => s.probeBefore p r)) with
      | some r => some r
      | none => leastBy s.probeBefore mine
  else none

/-- Whether a sector's spill unit has a record to present to a cell. -/
def State.dueFor (s : State) (ps ci : Nat) : Bool := (s.lowRecord ps ci).isSome || (s.probeRecord ps ci).isSome

/-- It is a cell's turn at its sector's spill unit, which serves its cells round-robin (R45): of the cells with a record due, it is
the first at or after the unit's pointer. -/
def State.spillTurn (s : State) (ps ci : Nat) : Bool :=
  let cs := ((s.spill ps).records.map (fun r => r.ci)).filter (fun c => s.dueFor ps c)
  let ahead (c : Nat) : Nat := (c + 2 ^ 13 - (s.spill ps).next) % 2 ^ 13
  decide (sectorOf ci = ps) && cs.contains ci && cs.all (fun c => decide (ahead ci ≤ ahead c))

/-- SPILL_REINJECT (R45): below the low mark, the oldest record of the spill area for the cell. -/
def execSpillReinject (ps ci : Nat) (s : State) : Out :=
  ok (if s.spillTurn ps ci then (match s.lowRecord ps ci with | some r => s.reinject ps r | none => s) else s)

/-- SPILL_PROBE (R45): at or above the low mark, the cell's records in turn, oldest first, wrapping round. -/
def execSpillProbe (ps ci : Nat) (s : State) : Out :=
  ok (if s.spillTurn ps ci then
        match s.probeRecord ps ci with
        | some r => (s.setSpill ps { s.spill ps with probe := Tab.set (s.spill ps).probe ci r }).reinject ps r
        | none => s
      else s)

/-- OVERFLOW_CHUNK_RETURN (R43): of the records of a context that stand in chunks, the one that left the spill area first comes back
when the area has room, before any other; a chunk without records is free. -/
def execOverflowChunkReturn (ps : Nat) (s : State) : Out :=
  let u := s.spill ps
  let out := u.records.filter (fun r => r.chunk.isSome)
  let first := out.filter (fun r => out.all (fun x => x.tok.ctx != r.tok.ctx || decide (r.order ≤ x.order)))
  let fits (r : Spilled) : Option Nat := s.areaPlace ps r.tok.ctx r.tok.imageSize
  ok (match leastBy (fun a b : Spilled => decide (a.order < b.order)) (first.filter (fun r => (fits r).isSome)) with
      | some r =>
        let r1 := { r with chunk := none, addr := (fits r).getD 0 }
        ((s.setSpill ps { u with records := u.records.map (fun x => if x.order = r.order then r1 else x) }).writeRecord ps
          r1).noteHigh ps
      | none => s)

/-- OVERFLOW_ROOM_FREED (R44): for a context that is trapped, the first token that waits at a cell of the sector and now
finds room is taken. The trap itself goes on: the front answers it (R462). -/
def execOverflowRoomFreed (ps : Nat) (s : State) : Out :=
  let u := s.spill ps
  let mine (f : Flight) : Bool :=
    dKind f.tok.dest == 1 && sectorOf (dCell f.tok.dest) == ps && u.trapped.contains f.tok.ctx.toNat && f.tok.cls != 2
  ok (match ((indexed 0 s.net).filter (fun e => mine e.2 && s.mayArrive e.1)).find? (fun e =>
        decide ((State.receive 40 (s.landed e.1) (dCell e.2.tok.dest) e.2.tok false).1 = [])) with
      | some (k, f) => (State.receive 40 (s.landed k) (dCell f.tok.dest) f.tok false).2
      | none => s)

/-! ## Drains (R51, R52, R67, R217, R218) -/

/-- The destinations of a plane's records, each with its node. -/
def Plane.dests (p : Plane) : List Dest :=
  (p.nodes.flatMap (fun e => [e.2.fields.dstA, e.2.fields.dstB])).filter (fun d => dKind d != 0)

/-- The output channels of a plane (R19, R67): one destination for each unit, other than the cell itself. -/
def Plane.channels (p : Plane) (ci : Nat) : List Dest :=
  p.dests.foldl (fun acc d =>
    if unitKey d == ci && dKind d == 1 then acc
    else if acc.any (fun x => unitKey x == unitKey d) then acc else acc ++ [d]) []

/-- Whether every access that holds a cell's drain back is done (R67): a member whose lanes are withdrawn by a fault does
not hold it. -/
def State.accessesDone (s : State) (ci : Nat) : Bool := s.accesses.all (fun a => a.fir.ci != ci || a.faulted)

/-- A cell may forward its drain (R51, R67): a drain on every fan-in channel, every firing from earlier tokens issued,
every access performed and answered, and no delivery into it. -/
def State.mayForward (s : State) (ci : Nat) : Bool :=
  let c := s.cell ci
  !c.drainsIn.isEmpty && decide (c.active.fanin ≤ c.drainsIn.length)
    && !c.ready.any (fun f => c.mayFire f && decide (f.order < c.drainOrder))
    && s.accessesDone ci
    && (match (s.keeper (sectorOf ci)).delivery with | some d => !d.cells.contains ci | none => true)

/-- The staged plane made active where it is valid (R51). -/
def Cell.switch (c : Cell) : Cell :=
  if c.stagedValid then { c with active := c.staged, staged := .none, stagedValid := false } else c

/-- DRAIN_FORWARD (R51, R67, R217, R218): drains leave on every channel that has none yet, the staged plane becomes active,
and the tokens that `wait.drain` holds leave after them. A plane that reaches only the cell itself, or nothing, drains to
the sector keeper (log 15). -/
def execDrainForward (ci : Nat) (s : State) : Out :=
  ok (if s.mayForward ci then
        let c := s.cell ci
        let ps := sectorOf ci
        let chans := c.active.channels ci
        let outs := if chans.isEmpty then [keeperDest ps] else chans.filter (fun d => !c.drained.contains (unitKey d))
        let s1 := outs.foldl (fun t d => t.send (cellDest ci 0 0) (drainToken ps d)) s
        let held := c.ctrl.filter (fun e => e.kind == .waitDrain)
        let ts := held.map (fun e => (e, s1.ctrlToken ci e))
        let s2 := held.foldl (fun t e => t.dropCtrl ci e) s1
        let c2 := s2.cell ci
        let s3 := s2.setCell ci { c2.switch with drainsIn := [], drained := [] }
        ts.foldl (fun t e =>
          match c.active.nodes.find? e.1.node with
          | some n =>
            let sh := t.shape e.1.ctx
            (tagOutputs sh n.level n.fields.tagop.toNat (n.fields.lit.toNat % 65536) 0 e.2).foldl (fun u x =>
              (u.send (cellDest ci e.1.node 0) { x with dest := n.fields.dstA }).send (cellDest ci e.1.node 0)
                { x with dest := n.fields.dstB }) t
          | none => t) s3
      else s)

/-- The head of an inbox is a class-2 token with this lane 0, and every message ahead of it has completed. -/
def State.headMark (s : State) (d : Dest) (v : Lane) : Option Token :=
  match s.inbox (inboxKey d) with
  | (n, m) :: _ => if m.cls = 2 ∧ nth 0 m.lanes 0 = v ∧ !s.stillOpen (inboxKey d) n then some m else none
  | [] => none

/-- ENGINE_DRAIN_RETURN (R67): every earlier message of the inbox has completed; the drain goes to the keeper of the
package sector that its auxiliary field names. -/
def execEngineDrainReturn (d : Dest) (s : State) : Out :=
  ok (match s.headMark d 0 with
      | some m =>
        (s.popInbox (inboxKey d)).send (portOf m.dest) { m with dest := keeperDest (m.aux.toNat % 32) }
      | none => s)

/-- FENCE_MARKER_RETURN (R220): the marker goes back as a class-6 token to the destination in its lane 1. -/
def execFenceMarkerReturn (d : Dest) (s : State) : Out :=
  ok (match s.headMark d 1 with
      | some m =>
        (s.popInbox (inboxKey d)).send (portOf m.dest)
          { m with dest := (nth 0 m.lanes 1).extractLsb' 0 21, cls := 6, len := 1, aux := 0, lanes := [0] }
      | none => s)

/-! ## Disposal of parked activations (R71) -/

/-- What is parked in a cell under a unit whose base tag the write names, or is held there under no unit and has itself the tag that
the write names (R71, R188). -/
def State.disposedAt (s : State) (ci level : Nat) (ctx : BitVec 12) (tag : Word) (t : Token) : Bool :=
  let sh := s.shape ctx
  let us := (s.cell ci).parkedActs
  t.ctx == ctx &&
    (us.any (fun p => p.ctx == ctx && sameAct sh level p.tag tag && p.holds sh ctx t.tag)
      || (!us.any (fun p => p.holds sh ctx t.tag) && sameAct sh level t.tag tag))

/-- The activation that a write of `SEC.PARK` names, disposed of in one cell (R71, R188, R207). A control entry whose key has fewer
fields than the level is matched with zero in the fields that its key lacks: DESIGN CHOICE (log 14), the manual does not say. -/
def State.disposeCell (s : State) (ci level : Nat) (ctx : BitVec 12) (tag : Word) (discard : Bool) : State :=
  let sh := s.shape ctx
  let c := s.cell ci
  let es := sortBy (fun a b : Entry => decide (a.order < b.order))
    (c.entries.filter (fun e => e.parked && s.disposedAt ci level ctx tag e.tok))
  let toks := es.map (fun e => s.entryToken ci e)
  let s1 := es.foldl (fun t e => t.dropEntry ci e) s
  let c1 := s1.cell ci
  let s2 := s1.setCell ci { c1 with parkedActs := c1.parkedActs.filter (fun p => !(p.ctx == ctx && sameAct sh level p.tag tag)) }
  if discard then
    let ctl := (s2.cell ci).ctrl.filter (fun e => e.ctx == ctx && sameAct sh level e.tag tag)
    ctl.foldl (fun t e => t.dropCtrl ci e) s2
  else
    toks.foldl (fun t k => t.present ci { k with cls := if k.cls = 3 then 0 else k.cls } false) s2

/-- The full tag of the first lane that an access covers. -/
def State.accessTag (s : State) (a : Access) : Word := laneTag (s.shape a.fir.ctx) a.fir.level a.fir.tag a.first

/-- The store-buffer entries of a discarded activation are freed (R256): its unsent stores are never performed, and its
chains are gone. What has entered the port goes on. -/
def State.discardAccesses (s : State) (ps : Nat) (ctx : BitVec 12) (level : Nat) (tag : Word) : State :=
  let sh := s.shape ctx
  let mine (a : Access) : Bool :=
    sectorOf a.fir.ci == ps && a.fir.ctx == ctx && a.ordered && sameAct sh level (s.accessTag a) tag
  { s with
    accesses := s.accesses.filter (fun a => !(mine a && (a.faulted || a.port.isNone))),
    chains := s.chains.map (fun e =>
      if sectorOf e.1 = ps then (e.1, e.2.filter (fun c => !(c.ctx == ctx && sameAct sh level c.tag tag))) else e) }

/-- Disposal of the activation in every cell and in the spill unit of a sector (R28, R71, R256). -/
def State.dispose (s : State) (ps : Nat) (v : Word) (discard : Bool) : State :=
  let ctx : BitVec 12 := v.extractLsb' 0 12
  let level := bits v.toNat 14 12
  let tag := s.reg (secReg ps 0 0x50)
  let recs := (s.spill ps).all.filter (fun r =>
    (r.how == .parked && s.disposedAt r.ci level ctx tag r.tok)
      || (r.how == .stream && r.tok.ctx == ctx && sameAct (s.shape ctx) level r.tok.tag tag))
  let u := s.spill ps
  let out (r : Spilled) : Bool := recs.any (fun x => x.order == r.order)
  let s1 := s.setSpill ps { u with records := u.records.filter (fun r => !out r), arriving := u.arriving.filter (fun r => !out r) }
  let s2 := (cellsOf ps).foldl (fun t ci =>
    if (s.cell ci).entries.isEmpty ∧ (s.cell ci).parkedActs.isEmpty ∧ (s.cell ci).ctrl.isEmpty then t
    else t.disposeCell ci level ctx tag discard) s1
  if discard then s2.discardAccesses ps ctx level tag
  else
    recs.foldl (fun t r =>
      match r.how with
      | .parked => t.present r.ci { r.tok with cls := 0 } false
      | _ => t.send (keeperDest ps) r.tok) s2

/-- SEC_PARK_RESUME (R71). -/
def execSecParkResume (ps : Nat) (v : Word) (s : State) : Out := ok (s.dispose ps v false)
/-- SEC_PARK_DISCARD (R71). -/
def execSecParkDiscard (ps : Nat) (v : Word) (s : State) : Out := ok (s.dispose ps v true)

/-- REGISTER_WRITE (R6, R7). -/
def execRegisterWrite (pa : Nat) (v : Word) (s : State) : Out := ok (s.regWrite pa v)

/-! ## Issue (R39, R40) -/

/-- A firing is urgent (R40): the urgency bit, or ready for 64 clk. -/
def Firing.urgent (f : Firing) (clk : Nat) : Bool := f.cfg.fields.urg || decide (f.since + 64 ≤ clk)

/-- Firing `a` comes before firing `b` in the choice of R40. -/
def State.firesBefore (s : State) (a b : Firing) : Bool :=
  let ua := a.urgent s.clk
  let ub := b.urgent s.clk
  if ua != ub then ua
  else if a.ctx = b.ctx then
    let sh := s.shape a.ctx
    tagOlder sh a.tag b.tag || (!tagOlder sh b.tag a.tag && decide (a.order < b.order))
  else if s.prio a.ctx = s.prio b.ctx then decide (a.order < b.order)
  else decide (s.prio b.ctx < s.prio a.ctx)

/-- The head firing of a cell among those that satisfy `p` (R40, R226). -/
def State.headFiring (s : State) (ci : Nat) (p : Firing → Bool) : Option Firing :=
  let c := s.cell ci
  leastBy s.firesBefore (c.ready.filter (fun f => c.mayFire f && p f))

/-- A firing leaves the ready set and is on the datapath. Lanes of one run that were set aside one by one have one arrival order and
differ in their tags. -/
def State.issueFiring (s : State) (f : Firing) : State :=
  let c := s.cell f.ci
  { s.setCell f.ci { c with ready := c.ready.filter (fun x => !(x.order == f.order && x.tag == f.tag)) } with issue := some f }

/-- A firing put back among the ready ones, keeping its place (R208, R226). -/
def State.setAside (s : State) (f : Firing) : State :=
  let c := s.cell f.ci
  s.setCell f.ci { c with ready := c.ready ++ [f] }

/-! ## Watchpoints (R480) -/

/-- The first of some values that a watchpoint of a kind matches, for a firing, if it matches. -/
def State.watchMatch (s : State) (w kind : Nat) (f : Firing) (vals : List (Word × Word)) : Option (Word × Word) :=
  let c := (s.reg (custReg (0x100 + 32 * w))).toNat
  let v := s.reg (custReg (0x108 + 32 * w))
  let m := s.reg (custReg (0x110 + 32 * w))
  let node := bits c 36 16
  if bitOf c 0 && decide ((if bitOf c 1 then 2 else 1) ≤ s.regBits (custReg 0x18) 3 2) && bits c 2 2 == kind
      && (bitOf c 15 || bits c 14 3 == f.ctx.toNat) && (node == 0 || node / 4 == f.src.toNat / 4) then
    vals.find? (fun x => (x.1 ^^^ v) &&& m == 0)
  else none

/-- Every watchpoint of a kind tried on a firing (R480), whose values stand each beside its full tag: hits are counted; a
record is traced for ACT = 0; the answer is whether a watchpoint with ACT = 1 matches. -/
def State.watch (s : State) (kind : Nat) (f : Firing) (vals : List (Word × Word)) : Bool × State :=
  (upTo 16).foldl (fun (acc : Bool × State) w =>
    match acc.2.watchMatch w kind f vals with
    | none => acc
    | some (x, tag) =>
      let s1 := acc.2.bumpBits (custReg (0x118 + 32 * w)) 31 0 1
      if (s1.reg (custReg (0x100 + 32 * w))).getLsbD 1 then (true, s1)
      else
        (acc.1, s1.trace (f.src.toNat + f.ctx.toNat * 2 ^ 21 + (f.cfg.opcode % 512) * 2 ^ 33 + w * 2 ^ 42) tag.toNat
          (if kind = 1 then x.toNat else 0))) (false, s)

/-- The tags of a firing's lanes, each as a value to watch and as the tag of its record. -/
def State.watchTags (s : State) (f : Firing) : List (Word × Word) :=
  (upTo f.len).map (fun j => let t := laneTag (s.shape f.ctx) f.level f.tag j; (t, t))

/-- A node's firing (R26, R480): the firing on the datapath is taken; a watchpoint with ACT = 1 faults it with WATCH; a
fault-flagged operand raises the code it carries; else `g` acts. `bad` is how the node faults, by the code and the operand's lanes.
With no firing on the datapath nothing happens. -/
def State.fireOr (s : State) (bad : Firing → Nat → List Lane → State → State) (g : Firing → State → State) : State :=
  match s.issue with
  | none => s
  | some f =>
    let (hit, s1) := { s with issue := none }.watch 0 f (s.watchTags f)
    if hit then bad f fWATCH [] s1
    else
      match f.faultOf with
      | some t => bad f t.aux.toNat (t.lanes.take 4) s1
      | none => g f s1

/-- The firing of a worker or guard node: it faults whole, with no detail of its operand (R188, R223). -/
def State.fire (s : State) (g : Firing → State → State) : State := s.fireOr (fun f code _ t => t.faultFiring f code []) g

end Sys2Proof.Machine
end

