-- ==== Sys2Proof/Machine/Flags.lean ====
section
/-! DEFINITION. Status flags, traps and stochastic draws of a worker firing (R85, R90 to R92), and the shapes of worker
results: element by element, and the tokens they leave in. -/

namespace Sys2Proof.Machine

/-! ## Draws (R85) -/

/-- `n` draws of an LFSR, in order, and its state after them. -/
def draws : Nat → BitVec 32 → List Nat × BitVec 32
  | 0, l => ([], l)
  | n + 1, l =>
    let (d, l1) := lfsrDraw l
    let (ds, l2) := draws n l1
    (d :: ds, l2)

/-- The draws of a firing that rounds `n` values under a mode: one each under `rsr`, none otherwise. -/
def State.drawFor (s : State) (ci mode n : Nat) : List Nat × State :=
  if mode = 5 then
    let (ds, l) := draws n (s.cell ci).lfsr
    (ds, s.setCell ci { s.cell ci with lfsr := l })
  else ([], s)

/-! ## Flags (R91, R92) -/

/-- Flags ORed into `DIE.CTXFLAGS` of a context. -/
def State.raiseFlags (s : State) (ctx : BitVec 12) (fl : Nat) : State :=
  let r := ctxFlags ctx.toNat
  s.setReg r (s.reg r ||| BitVec.ofNat 64 (fl % 32))

/-- The flags of a firing that its context traps on. -/
def State.trapped (s : State) (ctx : BitVec 12) (fl : Nat) : Nat := fl &&& s.regBits (ctxFlags ctx.toNat) 12 8

/-- The lowest element index whose flags meet a mask. -/
def lowestFlag (mask : Nat) : Nat → List Nat → Nat
  | _, [] => 0
  | i, x :: xs => if x &&& mask ≠ 0 then i else lowestFlag mask (i + 1) xs

/-- The end of a worker firing that raises flags (R90, R92): a poisoned one raises none; the flags are ORed; an enabled one
faults the firing with FPX before it delivers anything; else `k` delivers. -/
def State.withFlags (s : State) (f : Firing) (poison : Bool) (fl : List Nat) (k : State → State) : State :=
  let all := if poison then 0 else fl.foldl (fun a b => a ||| b) 0
  let s1 := if all = 0 then s else s.raiseFlags f.ctx all
  let t := s1.trapped f.ctx all
  if t ≠ 0 then s1.faultFiring f fFPX [BitVec.ofNat 32 all, BitVec.ofNat 32 (lowestFlag t 0 fl)] else k s1

/-! ## Elements of a firing (R158, R80) -/

/-- The elements of operand x, in element order: sub-elements 0 to k − 1 of each lane in turn. -/
def Firing.xs (f : Firing) : List Nat := (upTo f.len).flatMap (fun j => elemsOf f.width (f.aLane j))

/-- The elements of operand y: the literal at arity 0b10, else operand b. -/
def Firing.ys (f : Firing) : List Nat :=
  if f.arity = 2 then List.replicate (f.len * subCount f.width) (f.lit % 2 ^ subWidth f.width)
  else (upTo f.len).flatMap (fun j => elemsOf f.width (f.bLane j))

/-- Elements back in lanes of a width code, `n` lanes. -/
def lanesBack (width n : Nat) (es : List Nat) : List Lane := (chunks (subCount width) n es).map (laneOf width)

/-- An empty run in the place of a result (R26, R162). -/
def State.emitEmpty (s : State) (f : Firing) (width : Nat) : State := s.emit f (f.out width f.poisoned true [])

/-- A result of the fired run in the node's type, element by element, that raises no flag (R168). -/
def State.elementwise (s : State) (f : Firing) (op : Nat → Nat → Nat) : State :=
  if f.isEmpty then s.emitEmpty f f.width
  else s.emit f (f.out f.width f.poisoned false (lanesBack f.width f.len (List.zipWith op f.xs f.ys)))

/-- A result of one operand, element by element, that raises no flag. -/
def State.elementwise1 (s : State) (f : Firing) (op : Nat → Nat) : State :=
  if f.isEmpty then s.emitEmpty f f.width
  else s.emit f (f.out f.width f.poisoned false (lanesBack f.width f.len (f.xs.map op)))

/-- Combine draws with a list; without draws every element gets 0. -/
def withDraws {α : Type} (ds : List Nat) (xs : List α) : List (Nat × α) :=
  (indexed 0 xs).map (fun e => (nth 0 ds e.1, e.2))

/-- A result of one operand rounded under a mode, with flags (R171, R173, R174). -/
def State.rounded1 (s : State) (f : Firing) (mode : Nat) (op : Nat → Nat → Nat × Nat) : State :=
  if f.isEmpty then s.emitEmpty f f.width
  else
    let (ds, s1) := s.drawFor f.ci mode (f.len * subCount f.width)
    let rs := (withDraws ds f.xs).map (fun e => op e.1 e.2)
    s1.withFlags f f.poisoned (rs.map (fun r => r.2)) (fun t =>
      t.emit f (f.out f.width f.poisoned false (lanesBack f.width f.len (rs.map (fun r => r.1)))))

/-- A result of two operands rounded under a mode, with flags. -/
def State.rounded2 (s : State) (f : Firing) (mode : Nat) (op : Nat → Nat → Nat → Nat × Nat) : State :=
  if f.isEmpty then s.emitEmpty f f.width
  else
    let (ds, s1) := s.drawFor f.ci mode (f.len * subCount f.width)
    let rs := (withDraws ds (f.xs.zip f.ys)).map (fun e => op e.1 e.2.1 e.2.2)
    s1.withFlags f f.poisoned (rs.map (fun r => r.2)) (fun t =>
      t.emit f (f.out f.width f.poisoned false (lanesBack f.width f.len (rs.map (fun r => r.1)))))

/-! ## Delivery of integers (R75, R167, R168) -/

/-- A code of `w` bits as a signed integer (R73). -/
def sgn (w x : Nat) : Int := if 2 ^ (w - 1) ≤ x then (x : Int) - (2 ^ w : Nat) else x

/-- A code as the integer its signedness gives. -/
def intOf (uns : Bool) (w x : Nat) : Int := if uns then x else sgn w x

/-- An exact integer delivered to `w` bits: saturated to the signed or unsigned range, or its low bits. -/
def deliverInt (w : Nat) (sat uns : Bool) (e : Int) : Nat :=
  if sat then
    let lo : Int := if uns then 0 else -(2 ^ (w - 1) : Nat)
    let hi : Int := if uns then (2 ^ w : Nat) - 1 else (2 ^ (w - 1) : Nat) - 1
    ((if e < lo then lo else if hi < e then hi else e) % (2 ^ w : Nat)).toNat
  else (e % (2 ^ w : Nat)).toNat

/-- The mask of a compare (R170). -/
def maskOf (w : Nat) (b : Bool) : Nat := if b then 2 ^ w - 1 else 0

end Sys2Proof.Machine
end

