-- ==== Sys2Proof/Machine/Guard.lean ====
section
/-! DEFINITION. Guard nodes that route tokens, change tags and call (R190 to R200, R210, R211), and rotating slots
(R221). -/

namespace Sys2Proof.Machine

/-- A pass-through token of operand a's lanes (R190): a's width, the operands' poison, the empty-run flag. -/
def Firing.pass (f : Firing) : Token :=
  f.out f.a.width.toNat f.poisoned f.isEmpty ((upTo f.len).map f.aLane)

/-- A STREAM fault of a guard that is no loop node (R223). -/
def State.guardStream (s : State) (f : Firing) : State := s.faultFiring f fSTREAM [0, 0, 0, 0xFFFFFFFF]

/-! ## Routing (R195 to R198) -/

/-- `steer.t` and `steer.f` (R195): maximal pieces of lanes, those selected to A and the others to B. -/
def State.steer (s : State) (f : Firing) (want : Bool) : State :=
  if f.isEmpty then s.emit f f.pass
  else
    let sh := s.shape f.ctx
    (piecesBy (fun j => (f.bLane j).getLsbD 0 == want) f.len).foldl (fun t p =>
      let (i, n, b) := p
      t.emitTo f (if b then f.cfg.fields.dstA else f.cfg.fields.dstB) (pieceOf sh f.level f.pass i n)) s

/-- STEER_T (R195). -/
def execSteerT (s : State) : Out := ok (s.fire (fun f t => t.steer f true))
/-- STEER_F (R195). -/
def execSteerF (s : State) : Out := ok (s.fire (fun f t => t.steer f false))
/-- MERGE (R196). -/
def execMerge (s : State) : Out := ok (s.fire (fun f t => t.emit f f.pass))
/-- COPY (R196). -/
def execCopy (s : State) : Out := ok (s.fire (fun f t => t.emit f f.pass))
/-- GATE (R196): the lanes of a; the values of b are not read. -/
def execGate (s : State) : Out := ok (s.fire (fun f t => t.emit f f.pass))
/-- SINK (R196). -/
def execSink (s : State) : Out := ok (s.fire (fun _ t => t))

/-- CONST (R198): constants-plane word literal[4:0], in every lane. -/
def execConst (s : State) : Out :=
  ok (s.fire (fun f t =>
    t.emit f (f.out f.width f.poisoned f.isEmpty
      (List.replicate f.len (Tab.get 0 (t.cell f.ci).consts (f.lit % 32))))))

/-- SEL (R197): b where the predicate in a is true, else the slot; b's width code. -/
def execSel (s : State) : Out :=
  ok (s.fire (fun f t =>
    let width := match f.b with | some b => b.width.toNat | none => 0
    let (zl, zp) := t.slotRead f (f.lit % 256)
    t.emit f (f.out width (f.poisoned || (!f.isEmpty && zp)) f.isEmpty ((upTo f.len).map (fun j =>
      if (f.aLane j).getLsbD 0 then f.bLane j else nth 0 zl j)))))

/-! ## Tags (R199, R200) -/

/-- TAG_PUSH (R199). -/
def execTagPush (s : State) : Out := ok (s.fire (fun f t => t.emit f f.pass))
/-- TAG_POP (R199). -/
def execTagPop (s : State) : Out := ok (s.fire (fun f t => t.emit f f.pass))
/-- TAG_SET (R199). -/
def execTagSet (s : State) : Out := ok (s.fire (fun f t => t.emit f f.pass))
/-- TAG_INC (R199). -/
def execTagInc (s : State) : Out := ok (s.fire (fun f t => t.emit f f.pass))

/-- TAG_GET (R200): a field of each lane's tag, its low or high word. -/
def execTagGet (s : State) : Out :=
  ok (s.fire (fun f t =>
    let sh := t.shape f.ctx
    let v (j : Nat) : Nat := tagField sh (laneTag sh f.level f.tag j) (f.lit % 8)
    t.emit f (f.out 0 f.poisoned f.isEmpty ((upTo f.len).map (fun j =>
      BitVec.ofNat 32 (if bitOf f.lit 3 then v j / 2 ^ 32 else v j))))))

/-! ## Calls (R210, R211) -/

/-- CALL_ENTER (R210): field L + 1 set to the site; a to A, and b, or a again, to B. -/
def execCallEnter (s : State) : Out :=
  ok (s.fire (fun f t =>
    let tag := setField (t.shape f.ctx) f.tag (f.level + 1) (f.lit % 65536)
    let a := { f.pass with tag := tag }
    let b : Token :=
      match f.b with
      | some _ => { f.out f.a.width.toNat f.poisoned f.isEmpty ((upTo f.len).map f.bLane) with tag := tag }
      | none => a
    (t.sendFrom f f.cfg.fields.dstA a).sendFrom f f.cfg.fields.dstB b))

/-- CALL_RET (R211): the result to the linkage's destination and to A; a malformed linkage is a STREAM fault, an empty one
names no destination. -/
def execCallRet (s : State) : Out :=
  ok (s.fire (fun f t =>
    let out := { f.pass with tag := setField (t.shape f.ctx) f.tag f.level 0 }
    let link := f.bLane 0
    let d : Dest := link.extractLsb' 0 21
    if (match f.b with | some b => b.empty | none => true) then t.sendFrom f f.cfg.fields.dstA out
    else if link.toNat ≥ 2 ^ 21 ∨ dKind d = 0 ∨ dKind d = 2 then t.guardStream f
    else (t.sendFrom f d out).sendFrom f f.cfg.fields.dstA out))

/-! ## Rotating slots (R221) -/

/-- ROT_LD (R221). The manual names no width code for its token: it has the record's, which R189 makes 0. DEDUCED (log 55). -/
def execRotLd (s : State) : Out :=
  ok (s.fire (fun f t =>
    let (zl, zp) := t.slotRead f (f.lit % 256)
    t.emit f (f.out f.width (f.poisoned || (!f.isEmpty && zp)) f.isEmpty zl)))

/-- ROT_ST (R221): the write, then a unchanged; an empty run writes nothing. -/
def execRotSt (s : State) : Out :=
  ok (s.fire (fun f t =>
    let t1 :=
      if f.isEmpty then t
      else t.slotWrite f.ci (f.lit % 256) f.level f.ctx f.tag ((upTo f.len).map f.aLane) f.a.poison
    t1.emit f f.pass))

end Sys2Proof.Machine
end

