-- ==== Sys2Proof/Machine/Atomic.lean ====
section
/-! DEFINITION. What an atomic does at a home (R239 to R241): the new bytes of the location and the bytes it returns. The
operation is named by its forager opcode (R115). -/

namespace Sys2Proof.Machine

/-- The new value of a location of `n` bytes: the old value and the operand (R239). -/
def atomValue (op n old v : Nat) : Nat :=
  let m := 2 ^ (8 * n)
  let s (x : Nat) : Int := if 2 ^ (8 * n - 1) ≤ x then (x : Int) - (m : Nat) else x
  match op with
  | 0x190 => (old + v) % m
  | 0x191 => addF32 old v
  | 0x192 => if s v < s old then v else old
  | 0x193 => if s old < s v then v else old
  | 0x194 => if v < old then v else old
  | 0x195 => if old < v then v else old
  | 0x196 => old &&& v
  | 0x197 => old ||| v
  | 0x198 => old ^^^ v
  | _ => v

/-- An atomic on the bytes of its location, as a number of `n` bytes: the new number, if it is written, and the value
returned. `atom.finc` takes a counter and the bound above it (R241); `atom.cas` writes `v` where the old value is `z`
(R240). -/
def atomAct (op n v z old : Nat) : Option Nat × Nat :=
  if op = 0x19B then
    let h := 2 ^ (8 * (n / 2))
    let counter := old % h
    let bound := old / h
    if counter + v ≤ bound then (some (counter + v + bound * h), counter) else (none, h - 1)
  else if op = 0x19A then (if old = z then some v else none, old)
  else (some (atomValue op n old v), old)

/-- The bytes that an atomic returns, of a location of `n` bytes. -/
def atomReply (op n : Nat) : Nat := if op = 0x19B then n / 2 else n

end Sys2Proof.Machine
end

