-- ==== Sys2Proof/Machine/ForagerMem.lean ====
section
/-! DEFINITION. The forager's shape records and addresses (R230 to R232), its chains (R243), the order of its accesses
(R245, R250, R251), and the faults of its lanes (R255, R256). -/

namespace Sys2Proof.Machine

/-! ## Shape records (R230) -/

/-- Word `i` of shape record `k` of a cell. -/
def Cell.shapeWord (c : Cell) (k i : Nat) : Nat := (Tab.get 0 c.consts (32 + 16 * k + i)).toNat
/-- BASE0. -/
def Cell.base0 (c : Cell) (k : Nat) : Nat := c.shapeWord k 0 + bits (c.shapeWord k 1) 23 0 * 2 ^ 32
/-- How many dimensions the record has. -/
def Cell.dims (c : Cell) (k : Nat) : Nat := bits (c.shapeWord k 1) 25 24 + 1
/-- EXT_d. -/
def Cell.ext (c : Cell) (k d : Nat) : Nat := c.shapeWord k (4 + 3 * d)
/-- STR_d. -/
def Cell.stride (c : Cell) (k d : Nat) : Int := sgn 32 (c.shapeWord k (5 + 3 * d))
/-- BASE_d for d ≥ 1. -/
def Cell.baseOff (c : Cell) (k d : Nat) : Int := sgn 32 (c.shapeWord k (6 + 3 * d))
/-- The window's physical address. -/
def Cell.wpa (c : Cell) (k : Nat) : Nat := bits (c.shapeWord k 2) 31 16 * 65536 + bits (c.shapeWord k 3) 24 0 * 2 ^ 32
/-- The number of elements of the record's shape: the product of its extents. -/
def Cell.elements (c : Cell) (k : Nat) : Nat := (upTo (c.dims k)).foldl (fun n d => n * c.ext k d) 1

/-- The bytes of a window's page (R230): 64 KiB, or 64 MiB with LG. -/
def Cell.windowSize (c : Cell) (k : Nat) : Nat := if bitOf (c.shapeWord k 1) 27 then 2 ^ 26 else 65536

/-- The shape record of a firing's node. -/
def Firing.shapeRec (f : Firing) : Nat := bits f.lit 31 30
/-- The scope of a firing's node (R99). -/
def Firing.scope (f : Firing) : Nat := f.cfg.fields.mod.toNat % 4

/-- Whether a firing's lanes form pairs (R239). -/
def Firing.paired (f : Firing) : Bool := decide (f.cfg.opcode ≥ 0x190) && f.m77

/-! ## Addresses (R231) -/

/-- An address that R231 forms for a lane, or the fault that stands in its place with the address that was formed. -/
structure Formed where
  lane : Nat
  va : Nat
  code : Nat
deriving DecidableEq, Repr

/-- An exact address checked: its limit, the 56-bit range, its alignment. -/
def formAddr (lane : Nat) (a : Int) (size align : Nat) (inLimit : Bool) : Formed :=
  let low := (a % (2 ^ 64 : Nat)).toNat
  if !inLimit ∨ a < 0 ∨ (2 ^ 56 : Nat) < a + size then { lane := lane, va := low, code := fADDR }
  else if low % align ≠ 0 then { lane := lane, va := low, code := fALIGN }
  else { lane := lane, va := low, code := 0 }

/-- The address of element `e` of a shape record (R231). -/
def Cell.elementAddr (c : Cell) (k e : Nat) : Int :=
  ((upTo (c.dims k)).foldl (fun (acc : Int × Nat) d =>
    let i : Nat := if c.ext k d = 0 then 0 else (e / acc.2) % c.ext k d
    (acc.1 + (if d = 0 then 0 else c.baseOff k d) + (i : Int) * c.stride k d, acc.2 * c.ext k d)) ((c.base0 k : Nat), 1)).1

/-- The element size of a width code at `.x` and `.s` nodes. -/
def elemSize (width : Nat) : Nat := subWidth width / 8

/-- The addresses of a firing, one for each fired lane or element (R231). -/
def Cell.addresses (c : Cell) (f : Firing) (shape : Word) : List Formed :=
  let k := f.shapeRec
  let a0 := (f.aLane 0).toNat
  let op := f.cfg.opcode
  if op = 0x180 ∨ op = 0x181 then
    (upTo f.len).map (fun j =>
      formAddr j ((c.base0 k + a0 + 4 * j : Nat) : Int) 4 4
        (decide (a0 + 4 * (j + 1) ≤ c.ext k 0 * (c.stride k 0).natAbs)))
  else if op = 0x182 then
    let n := c.elements k
    let per := subCount f.width
    if 2 ^ fieldWidth shape (f.level + 1) < (n + per - 1) / per ∨ n = 0 then
      (upTo f.len).map (fun j => { lane := j, va := 0, code := fADDR })
    else
      (upTo f.len).flatMap (fun j => (upTo n).map (fun e =>
        formAddr j (c.elementAddr k e) (elemSize f.width) (elemSize f.width) true))
  else if op = 0x183 then
    (upTo f.len).flatMap (fun j => (upTo (subCount f.width)).map (fun i =>
      let e := subCount f.width * tagField shape (laneTag shape f.level f.tag j) f.level + i
      formAddr j (c.elementAddr k e) (elemSize f.width) (elemSize f.width) (decide (e < c.elements k))))
  else
    let x := op = 0x184 ∨ op = 0x185
    let n := if x then elemSize f.width else if f.m77 then 8 else 4
    let size := if op = 0x19B then 2 * n else n
    let step := if !x && f.m77 then 2 else 1
    (upTo (f.len / step)).map (fun i =>
      let j := step * i
      let a := (f.aLane j).toNat
      formAddr j ((c.base0 k : Nat) + (a : Int) * c.stride k 0) size size (decide (a < c.ext k 0)))

/-! ## Translation and homes (R232, R225) -/

/-- The physical address of a virtual one under a firing's record (R232), and whether the access is a view's. -/
def State.foragerXlate (s : State) (f : Firing) (va : Nat) (write : Bool) (both : Bool := false) : Except Nat (Nat × Bool) × State :=
  let c := s.cell f.ci
  let k := f.shapeRec
  match s.asid? f.ctx with
  | none => (.error fXLAT, s)
  | some asid =>
    let stamp := s.viewStamps.find? f.ctx.toNat
    let size := c.windowSize k
    if bitOf (c.shapeWord k 1) 26 ∧ c.shapeAsid.find? k = some asid ∧ va / size = c.base0 k / size then
      if write ∧ !bitOf (c.shapeWord k 3) 25 then (.error fPERM, s)
      else (.ok (c.wpa k / size * size + va % size, stamp.isSome), s)
    else
      match s.translate (sectorOf f.ci) asid stamp va write both with
      | (.ok x, s1) => (.ok (x.pa va, x.view), s1)
      | (.error e, s1) => (.error e, s1)

/-- One address of a firing resolved (R232, R480): its physical address and view flag, or its fault. -/
def State.resolveLane (s : State) (f : Firing) (x : Formed) (size : Nat) (write atomic : Bool) :
    Except Nat (Nat × Bool) × State :=
  if x.code ≠ 0 then (.error x.code, s)
  else
    let (hit, s1) := s.watch 1 f [(BitVec.ofNat 64 x.va, laneTag (s.shape f.ctx) f.level f.tag x.lane)]
    if hit then (.error fWATCH, s1)
    else
      match s1.foragerXlate f x.va write atomic with
      | (.error e, s2) => (.error e, s2)
      | (.ok (pa, view), s2) =>
        match s2.target (f.ci / 2048) pa with
        | .here p => (if s2.physOk p size atomic then .ok (pa, view) else .error fADDR, s2)
        | .away _ _ => (.ok (pa, view), s2)

/-- Every address of a firing resolved, in order. -/
def State.resolveAll (s : State) (f : Firing) (size : Nat) (write atomic : Bool) :
    List Formed → List (Formed × Except Nat (Nat × Bool)) × State
  | [] => ([], s)
  | x :: xs =>
    let (r, s1) := s.resolveLane f x size write atomic
    let (rs, s2) := State.resolveAll s1 f size write atomic xs
    ((x, r) :: rs, s2)

/-! ## Chains (R243) -/

/-- Whether a firing's node is ordered (R228); `atom.cas` never is. -/
def Firing.isOrdered (f : Firing) : Bool := f.cfg.opcode != 0x19A && hasWave f.cfg.opcode && waveS f.lit != 0

/-- The node's S as its replies carry it (R234). -/
def Firing.wave (f : Firing) : Nat := if f.isOrdered then waveS f.lit else 0

/-- Whether each fired lane of the node is a member of its own (R243). -/
def Firing.perLane (f : Firing) : Bool := decide (f.cfg.opcode ≥ 0x184)

/-- The chain of an activation at a forager. -/
def State.chainOf (s : State) (ci : Nat) (ctx : BitVec 12) (level : Nat) (tag : Word) : Option Chain :=
  (Tab.get [] s.chains ci).find? (fun c => c.ctx == ctx && c.level == level && c.tag == tag)

/-- A chain replaced, or begun. -/
def State.putChain (s : State) (ci : Nat) (c : Chain) : State :=
  let cs := Tab.get [] s.chains ci
  let same (x : Chain) : Bool := x.ctx == c.ctx && x.level == c.level && x.tag == c.tag
  { s with chains := Tab.set s.chains ci (if cs.any same then cs.map (fun x => if same x then c else x) else cs ++ [c]) }

/-- The tag that names the activation of an access. -/
def State.accessAct (s : State) (a : Access) : Word := actTag (s.shape a.fir.ctx) (s.accessTag a) a.fir.level

/-- Two accesses belong to one chain. -/
def State.sameChain (s : State) (a b : Access) : Bool :=
  a.ordered && b.ordered && a.fir.ci == b.fir.ci && a.fir.ctx == b.fir.ctx && a.fir.level == b.fir.level
    && s.accessAct a == s.accessAct b

/-- A wave number that names a node: neither 0 nor unknown. -/
def waveNames (w : Nat) : Bool := w != 0 && w != 0x3FF

/-- How a member stands to its chain (R243). -/
inductive LinkCase where
  | links
  | waits
  | clashes
deriving DecidableEq, Repr

/-- Whether a member with these wave fields follows the last linked member. DEDUCED (log 17): it follows in different ways
when one of the two counts holds and the other names a different node. -/
def linkCase (last : Option (Nat × Nat)) (p s_ : Nat) : LinkCase :=
  match last with
  | none => if p = 0 then .links else .waits
  | some (xs, xn) =>
    let byN := waveNames xn && xn == s_
    let byP := waveNames p && p == xs
    if (byN && waveNames p && p != xs) || (byP && waveNames xn && xn != s_) then .clashes
    else if byN || byP then .links
    else .waits

/-- The link case of an ordered access. -/
def State.linkCaseOf (s : State) (a : Access) : LinkCase :=
  let last := match s.chainOf a.fir.ci a.fir.ctx a.fir.level (s.accessAct a) with | some c => c.last | none => none
  linkCase last (waveP a.fir.lit) (waveS a.fir.lit)

/-- A chain that already holds the wave number of a node (R243). -/
def State.waveHeld (s : State) (ci : Nat) (ctx : BitVec 12) (level : Nat) (tag : Word) (w : Nat) : Bool :=
  match s.chainOf ci ctx level tag with
  | some c => c.waves.contains w
  | none => false

/-- The place that a faulted member of the same lanes keeps in its chain (R256). -/
def State.heldPlace (s : State) (f : Firing) (first : Nat) : Option Access :=
  let t := laneTag (s.shape f.ctx) f.level f.tag first
  s.accesses.find? (fun a => a.faulted && a.fir.ci == f.ci && a.fir.ctx == f.ctx && a.fir.node == f.node
    && s.accessTag a == t)

/-! ## Performed and sent (R245, R250, R251) -/

/-- Every request of an access is performed or has failed. -/
def Access.allDone (a : Access) : Bool := a.reqs.all (fun r => r.state == 1 || r.state == 2)

/-- Whether an access counts as performed in its chain: what it accesses is performed; an `mnop` is, once linked; a fence
is when it has emitted (it is then gone). -/
def Access.performed (a : Access) : Bool :=
  !a.faulted &&
    (match a.kind with
     | .load => (a.port.isSome || a.reqs.isEmpty) && a.allDone && (!a.ordered || a.link.isSome)
     | .store => (a.port.isSome || a.reqs.isEmpty) && a.allDone && (!a.ordered || a.link.isSome)
     | .atomic => (a.port.isSome || a.reqs.isEmpty) && a.allDone && (!a.ordered || a.link.isSome)
     | .mnop => a.link.isSome || !a.ordered
     | _ => false)

/-- A write performed at a scope (R250): at sector scope when it has entered the port, for a location of this module. -/
def Access.performedAt (a : Access) (scope : Nat) : Bool :=
  a.performed || (scope == 0 && a.port.isSome && !a.faulted && a.reqs.all (fun r => r.state == 1 || r.state == 2 || !r.away))

/-- An access that writes. -/
def Access.writes (a : Access) : Bool := a.kind == .store || a.kind == .atomic

/-- Two requests reach overlapping bytes. -/
def LaneReq.overlaps (r q : LaneReq) : Bool := decide (r.pa < q.pa + q.size ∧ q.pa < r.pa + r.size)

/-- Two accesses reach overlapping bytes. -/
def Access.overlaps (a b : Access) : Bool := a.reqs.any (fun r => b.reqs.any (fun q => r.overlaps q))

/-- The older linked members of an access's chain. -/
def State.olderMembers (s : State) (a : Access) : List Access :=
  match a.link with
  | none => []
  | some n => s.accesses.filter (fun b => s.sameChain a b && (match b.link with | some m => decide (m < n) | none => false))

/-- The conditions of R245 on a member of a chain. -/
def State.chainOk (s : State) (a : Access) : Bool :=
  !a.ordered ||
    (a.link.isSome && (s.olderMembers a).all (fun b =>
      match a.kind with
      | .load => b.faulted || b.performed || !(b.kind == .load && b.acq || b.kind == .atomic && a.overlaps b)
      | _ => b.performed || (b.writes && !b.faulted && b.port.isSome)))

/-- Two accesses are of one firing. -/
def Access.sameFiring (a b : Access) : Bool :=
  b.fir.ci == a.fir.ci && b.fir.order == a.fir.order && b.fir.node == a.fir.node && b.fir.tag == a.fir.tag

/-- The accesses of one firing. -/
def State.groupOf (s : State) (a : Access) : List Access := s.accesses.filter a.sameFiring

/-- The accesses that the same cell issued in an earlier clk for the same context (R251): a cell issues one firing in a clk, so the
lanes of one firing are not earlier than each other. -/
def State.earlier (s : State) (a : Access) : List Access :=
  s.accesses.filter (fun b => b.fir.ci == a.fir.ci && b.fir.ctx == a.fir.ctx && decide (b.id < a.id) && !a.sameFiring b)

/-- The lanes of one `st.x` that name one address are written in increasing order (R235): a lane waits until the lower ones that
reach its bytes have entered the port. -/
def State.lanesOk (s : State) (a : Access) : Bool :=
  a.kind != .store || (s.groupOf a).all (fun b => decide (a.first ≤ b.first) || b.faulted || b.port.isSome || !a.overlaps b)

/-- The conditions of R251 on an access. -/
def State.cellOk (s : State) (a : Access) : Bool :=
  (s.earlier a).all (fun b =>
    (match b.kind with
     | .fenceRel => !a.writes
     | .fenceAcq => false
     | .fenceFull => false
     | _ => b.faulted || b.performed || !b.acq)
    && !(a.rel && b.writes && !b.performedAt a.scope))

/-- An access may enter the memory port: nothing holds it back (R225, R235, R245, R251). -/
def State.mayEnter (s : State) (a : Access) : Bool :=
  (a.kind == .load || a.writes) && a.port.isNone && !a.faulted && s.chainOk a && s.cellOk a && s.lanesOk a

/-- The bytes that older unsent stores of the chain supply to a load's request (R245): the youngest such store gives each
byte. -/
def State.forwardReq (s : State) (a : Access) (r : LaneReq) : LaneReq :=
  let older := sortBy (fun x y : Access => decide (x.link.getD 0 < y.link.getD 0))
    ((s.olderMembers a).filter (fun b => b.kind == .store && b.port.isNone && !b.faulted))
  older.foldl (fun q b => b.reqs.foldl (fun q w =>
    if w.overlaps q then
      { q with fwd := (upTo q.size).map (fun i =>
                 if w.pa ≤ q.pa + i ∧ q.pa + i < w.pa + w.size then some (nth 0 w.wdata (q.pa + i - w.pa)) else nth none q.fwd i),
               fwdPoison := q.fwdPoison || w.poison }
    else q) q) r

/-- An access replaced, by its number. -/
def State.putAccess (s : State) (a : Access) : State :=
  { s with accesses := s.accesses.map (fun x => if x.id = a.id then a else x) }

/-- An access, by its number. -/
def State.access? (s : State) (id : Nat) : Option Access := s.accesses.find? (fun a => a.id == id)

/-- Request `j` of an access replaced. -/
def State.putReqOf (s : State) (id j : Nat) (r : LaneReq) : State :=
  match s.access? id with
  | some a => s.putAccess { a with reqs := setNth r a.reqs j }
  | none => s

/-- An access enters the memory port of its sector (R225). A load takes what is forwarded to it at that moment. -/
def State.enter (s : State) (a : Access) : State :=
  let a1 := if a.kind = .load ∧ a.ordered then { a with reqs := a.reqs.map (s.forwardReq a) } else a
  { s with nextId := s.nextId + 1 }.putAccess { a1 with port := some s.nextId }

/-- A fence's condition (R251): the accesses it waits for, of its cell and context and of its chain, are performed. -/
def State.fenceReady (s : State) (a : Access) : Bool :=
  let before := s.earlier a ++ s.olderMembers a
  (!a.ordered || a.link.isSome) &&
    before.all (fun b =>
      let wr := !(b.writes && !b.performedAt a.scope)
      let rd := !((b.kind == .load || b.kind == .atomic) && !b.faulted && !b.performed)
      match a.kind with
      | .fenceRel => wr
      | .fenceAcq => rd
      | _ => wr && rd)

/-! ## Entries (R226, R237, R245, R246) -/

/-- The tokens that a walk of `ld.s` emits for each lane (R235). -/
def Access.walkTokens (a : Access) : Nat :=
  ((a.reqs.length / a.fir.len + subCount a.fir.width - 1) / subCount a.fir.width + 31) / 32

/-- The request-table entries that an unordered access still holds (R237): one for each lane whose reply or acknowledgement is not
emitted. A `pf` holds its entries until it is performed. -/
def Access.tableLanes (a : Access) : Nat :=
  if a.silent then a.count
  else if a.fir.cfg.opcode = 0x182 then
    ((upTo a.count).filter (fun j => !(upTo a.walkTokens).all (fun k => a.emitted.contains (j * a.walkTokens + k)))).length
  else if a.emitted.isEmpty then a.count else 0

/-- Request-table entries in use at a forager (R237). -/
def State.tableUsed (s : State) (ci : Nat) : Nat :=
  (s.accesses.filter (fun a => a.fir.ci == ci && !a.ordered && (a.kind == .load || a.writes))).foldl (fun n a => n + a.tableLanes) 0

/-- Store-buffer entries in use: members neither performed nor sent. -/
def State.bufferUsed (s : State) (ci : Nat) : Nat :=
  (s.accesses.filter (fun a => a.fir.ci == ci && a.ordered && !a.performed && !(a.kind == .store && a.port.isSome))).length

/-- The lanes at which a firing's members begin. -/
def Firing.memberLanes (f : Firing) : List Nat :=
  if f.perLane then
    (if 0x190 ≤ f.cfg.opcode ∧ f.cfg.opcode ≤ 0x19B ∧ f.m77 then (upTo (f.len / 2)).map (fun m => 2 * m) else upTo f.len)
  else [0]

/-- Whether a firing can obtain the entries it needs (R226, R246); else it is set aside. -/
def State.hasEntries (s : State) (f : Firing) : Bool :=
  let op := f.cfg.opcode
  if f.isOrdered then
    ((f.memberLanes).foldl (fun (acc : Bool × Nat) j =>
      match s.heldPlace f j with
      | some _ => acc
      | none =>
        let tag := actTag (s.shape f.ctx) (laneTag (s.shape f.ctx) f.level f.tag j) f.level
        let last := match s.chainOf f.ci f.ctx f.level tag with | some c => c.last | none => none
        let now := linkCase last (waveP f.lit) (waveS f.lit) == .links
        (acc.1 && (if now then decide (acc.2 < 64) else decide (acc.2 < 56)), acc.2 + 1)) (true, s.bufferUsed f.ci)).1
  else if (0x180 ≤ op ∧ op ≤ 0x185) ∨ (0x190 ≤ op ∧ op ≤ 0x19B) then
    f.isEmpty || decide (s.tableUsed f.ci + f.len ≤ 256)
  else true

/-- The members of a firing that clash with their chains (R243): each faults with STREAM. -/
def State.clashes (s : State) (f : Firing) : List Nat :=
  if f.isOrdered then
    f.memberLanes.filter (fun j =>
      let tag := actTag (s.shape f.ctx) (laneTag (s.shape f.ctx) f.level f.tag j) f.level
      let last := match s.chainOf f.ci f.ctx f.level tag with | some c => c.last | none => none
      (s.heldPlace f j).isNone
        && (s.waveHeld f.ci f.ctx f.level tag (waveS f.lit) || linkCase last (waveP f.lit) (waveS f.lit) == .clashes))
  else []

/-! ## Faults (R255, R256) -/

/-- The codes of a list of faulting lanes, each once, in the order of its lowest lane. -/
def codesOf (bad : List Formed) : List Nat := (bad.map (fun x => x.code)).eraseDups

/-- The fault records of a firing (R255): one for each distinct code. `pair` counts both lanes of a pair. -/
def State.laneRecords (s : State) (f : Firing) (bad : List Formed) (pair : Bool) : State :=
  (codesOf bad).foldl (fun t code =>
    let mine := bad.filter (fun x => x.code == code)
    let lanes := (mine.flatMap (fun x => if pair then [x.lane, x.lane + 1] else [x.lane])).eraseDups
    match mine with
    | [] => t
    | x :: _ =>
      let mask := lanes.foldl (fun m j => m ||| 2 ^ j) 0
      let va := if code = fPOISON ∨ code = fSTREAM then 0 else x.va
      t.fireRecord f (laneTag (s.shape f.ctx) f.level f.tag x.lane) code
        [BitVec.ofNat 32 va, BitVec.ofNat 32 (va / 2 ^ 32),
         BitVec.ofNat 32 (x.lane % 32 + lanes.length * 256 + f.wave * 65536),
         BitVec.ofNat 32 (if code = fSTREAM then 0 else mask)]) s

/-- A fault of a whole firing, at every lane. -/
def Firing.allLanes (f : Firing) (code : Nat) : List Formed := (upTo f.len).map (fun j => { lane := j, va := 0, code := code })

/-- A firing as an access without requests. -/
def Access.make (f : Firing) (id first count : Nat) (kind : AccessKind) : Access :=
  { id := id, fir := f, kind := kind, first := first, count := count, reqs := [], ordered := f.isOrdered, link := none,
    port := none, scope := f.scope, acq := f.m77 && kind == .load || (kind == .atomic && f.rm / 4 == 1),
    rel := f.m77 && kind == .store || (kind == .atomic && f.rm / 4 == 1), emitted := [], silent := false, faulted := false }

/-- A member enters its chain (R243): it links at once if it follows, else it waits. A member that fires anew takes the
place that its fault kept (R256). -/
def State.joinChain (s : State) (a : Access) : State :=
  if !a.ordered then { s with accesses := s.accesses ++ [a] }
  else
    match s.heldPlace a.fir a.first with
    | some h =>
      let s1 := { s with accesses := s.accesses.filter (fun x => x.id != h.id) }
      { s1 with accesses := s1.accesses ++ [{ a with link := h.link }] }
    | none =>
      let tag := actTag (s.shape a.fir.ctx) (laneTag (s.shape a.fir.ctx) a.fir.level a.fir.tag a.first) a.fir.level
      let c := match s.chainOf a.fir.ci a.fir.ctx a.fir.level tag with
        | some c => c
        | none => { ctx := a.fir.ctx, level := a.fir.level, tag := tag, last := none, waves := [] }
      let w := waveS a.fir.lit
      match linkCase c.last (waveP a.fir.lit) w with
      | .links =>
        let s1 := s.putChain a.fir.ci { c with last := some (w, waveN a.fir.lit), waves := insertNat w c.waves }
        { s1 with accesses := s1.accesses ++ [{ a with link := some s1.nextId }], nextId := s1.nextId + 1 }
      | _ =>
        let s1 := s.putChain a.fir.ci { c with waves := insertNat w c.waves }
        { s1 with accesses := s1.accesses ++ [a] }

/-- An access is issued: it takes its number, joins its chain, and enters the port where nothing holds it back. Ordered
stores and atomics leave by their own step (R245). -/
def State.addAccess (s : State) (a : Access) : State :=
  let id := s.nextId
  let s1 := { s with nextId := s.nextId + 1 }.joinChain { a with id := id }
  match s1.access? id with
  | some b => if s1.mayEnter b ∧ (!b.ordered ∨ b.kind = .load) then s1.enter b else s1
  | none => s1

/-- The place of a faulted member kept in its chain (R256). -/
def State.keepPlace (s : State) (f : Firing) (first count : Nat) (kind : AccessKind) : State :=
  if f.isOrdered then
    { s with nextId := s.nextId + 1 }.joinChain { Access.make f s.nextId first count kind with faulted := true, silent := true }
  else s

/-- The faulting lanes of a firing withdrawn (R255): each is parked as an entry of its own under its own tag, with its own activation;
with D = 1 a pair of lanes is (R239). -/
def State.parkLanes (s : State) (f : Firing) (bad : List Formed) : State :=
  let n := if f.paired then 2 else 1
  (((bad.map (fun x => x.lane)).filter (fun j => j % n == 0)).eraseDups).foldl
    (fun t j => t.withdraw (t.subFiring f j (Nat.min n (f.len - j)))) s

/-- The lanes that do not fault of a firing of which nothing is performed: withdrawn with the others, as parked entries whose
activations go on. DESIGN CHOICE (log 77): the manual does not say where they are kept. -/
def State.parkRest (s : State) (f : Firing) (bad : List Formed) : State :=
  ((piecesBy (fun j => bad.any (fun x => x.lane == j)) f.len).filter (fun x => !x.2.2)).foldl
    (fun t x => t.parkOperands (t.subFiring f x.1 x.2.1)) s

/-- Faulting lanes of a node whose lanes stand alone (R255): each is withdrawn and parked by itself, and keeps its place in its chain,
but for a second member with its S, which has none (R243, R256); then the records. -/
def State.faultLanes (s : State) (f : Firing) (kind : AccessKind) (bad : List Formed) (pair : Bool) : State :=
  let clash := s.clashes f
  let s1 := ((bad.map (fun x => x.lane)).filter (fun j => !clash.contains j)).foldl
    (fun t j => t.keepPlace f j (if pair then 2 else 1) kind) (s.parkLanes f bad)
  s1.laneRecords f bad pair

/-- The operands of a firing of which nothing is performed (R255): its faulting lanes and the others are withdrawn, and its members
keep their places (R256). -/
def State.withdrawWhole (s : State) (f : Firing) (kind : AccessKind) (bad : List Formed) : State :=
  let clash := s.clashes f
  ((if f.perLane then f.memberLanes else [0]).filter (fun j => !clash.contains j)).foldl (fun t j =>
    t.keepPlace f j (if f.perLane then f.len / f.memberLanes.length else f.len) kind) ((s.parkLanes f bad).parkRest f bad)

/-- A firing of which nothing is performed (R255), with its records. -/
def State.faultWhole (s : State) (f : Firing) (kind : AccessKind) (bad : List Formed) : State :=
  (s.withdrawWhole f kind bad).laneRecords f bad false

/-- The kind of a forager's access, by its opcode (R115). -/
def Firing.memKind (f : Firing) : AccessKind :=
  let op := f.cfg.opcode
  if op = 0x180 ∨ op = 0x182 ∨ op = 0x184 then .load
  else if op = 0x181 ∨ op = 0x183 ∨ op = 0x185 then .store
  else if op ≤ 0x19B then .atomic
  else if op = 0x1A0 then .mnop
  else if op = 0x1A1 then .fenceRel
  else if op = 0x1A2 then .fenceAcq
  else if op = 0x1A3 then .fenceFull
  else if op = 0x1B0 then .xlat
  else .shapeSet

/-- A forager's firing that a fault-flagged operand or a watchpoint stops (R26, R255, R480): every lane of it faults with one code,
and the record shows the operand's lanes. -/
def State.faultForager (f : Firing) (code : Nat) (detail : List Lane) (s : State) : State :=
  (s.withdrawWhole f f.memKind (f.allLanes code)).fireRecord f f.tag code detail

/-- The firing of a forager node: its faulting lanes park one by one, and its members keep their places (R255, R256). -/
def State.fireMem (s : State) (g : Firing → State → State) : State := s.fireOr State.faultForager g

/-- Chains whose last member has linked and whose members are all performed are freed (R243); finished accesses leave. -/
def State.sweep (s : State) (ci : Nat) : State :=
  let pieces (a : Access) : Nat := if a.fir.cfg.opcode = 0x182 then a.fir.len * a.walkTokens else 1
  let beyond (a : Access) : Bool :=
    a.fir.ci == ci && !a.faulted && (a.silent || decide (pieces a ≤ a.emitted.length)) &&
      (match a.kind with
       | .load => a.performed
       | .store => a.performed
       | .atomic => a.performed
       | .mnop => a.performed
       | _ => !a.emitted.isEmpty)
  let s1 := { s with accesses := s.accesses.filter (fun a => !beyond a) }
  let live (c : Chain) : Bool :=
    s1.accesses.any (fun a => a.fir.ci == ci && a.ordered && a.fir.ctx == c.ctx && a.fir.level == c.level
      && s1.accessAct a == c.tag && !a.performed)
  { s1 with chains := Tab.set s1.chains ci ((Tab.get [] s1.chains ci).filter (fun c =>
      !((match c.last with | some (_, n) => n == 0 | none => false) && !live c))) }

end Sys2Proof.Machine
end

