-- ==== Sys2Proof/Machine/Hold.lean ====
section
/-! DEFINITION. Holds on frames (R377), the checks that every engine command begins with (R54, R103, R501), waits, and
fences of inboxes (R66). -/

namespace Sys2Proof.Machine

/-! ## Commands -/

/-- The state an engine keeps for the message at the head of its inbox, if it has begun. -/
def State.busyOf (s : State) (m : Token) : Option Busy := s.busy.find? (inboxKey m.dest)

/-- The ASID that a message was taken with: that of its context slot at the moment its engine took it (R501). -/
def State.takenAsid (s : State) (m : Token) : Option Nat :=
  match s.busyOf m with
  | some b => b.asid
  | none => s.asid? m.ctx

/-- The state an engine keeps for the message at the head of its inbox, set; the ASID it was taken with stays. -/
def State.setBusy (s : State) (m : Token) (b : Busy) : State :=
  { s with busy := Tab.set s.busy (inboxKey m.dest) { b with asid := s.takenAsid m } }

/-- A wait of the message at the head of its inbox, in a phase, with numbers and holds. -/
def State.waitBusy (s : State) (m : Token) (phase : Nat) (nums holds : List Nat) : State :=
  s.setBusy m { msg := m, phase := phase, nums := nums, holds := holds, data := [], copy := (s.busyOf m).bind (fun b => b.copy) }

/-- An operand bit that the chapter does not name is set: the bits of `n` outside a mask. -/
def extraBits (n mask : Nat) : Bool := (n &&& (mask ^^^ (2 ^ 64 - 1))) != 0

/-- A fence of inboxes (R288, R342, R356, R404, R432): it completes OK once every earlier message of the named inboxes, its
own included, has completed. -/
def State.fenceCmd (s : State) (m : Token) (mask n : Nat) : State :=
  if s.inboxesClear m mask n then s.finish m sOK 0 [] else s

/-- ENGINE_UNASSIGNED_OPCODE (R7, R103, R118). -/
def execEngineUnassignedOpcode (m : Token) (s : State) : Out := ok (s.command m false 0 0 (fun t => t))

/-! ## Holds (R377, R382) -/

/-- The frame on which a hold on a page's frame is taken: after a seal, the destination. -/
def State.holdFrame (s : State) (frame : Nat) : Nat :=
  match s.moves.find? (fun v => v.src == frame && (v.phase == .sealed || v.phase == .shooting)) with
  | some v => v.dst
  | none => frame

/-- HOLD of a frame. -/
def State.holdCount (s : State) (frame : Nat) : Nat := bits (s.side0 frame) 19 12

/-- Whether a move is held back at its first step (R379): a hold on its frame, or an open view of its ASID. -/
def State.moveHeld (s : State) (v : Move) : Bool :=
  decide (0 < s.holdCount v.src) || !(s.openStamps v.die v.asid).isEmpty

/-- Since when each move that has not begun is held back at its first step (R379). -/
def State.markHeld (s : State) : State :=
  { s with moves := s.moves.map (fun v =>
      if v.phase = .waiting then { v with heldAt := if s.moveHeld v then some (v.heldAt.getD s.timer) else none } else v) }

/-- One hold added to a frame, which has fewer than 255: a move of the page that copies pauses, from its first hold on (R382). -/
def State.addHold (s : State) (frame : Nat) : State :=
  let s1 := s.setSide0 frame (putBits (s.side0 frame) 19 12 (s.holdCount frame + 1))
  let s2 : State := { s1 with moves := s1.moves.map (fun v =>
    if v.src = frame ∧ v.phase = .copying ∧ (v.paused.isNone ∨ s.holdCount frame = 0) then { v with paused := some s1.timer } else v) }
  s2.markHeld

/-- One hold removed from a frame. -/
def State.dropHold (s : State) (frame : Nat) : State :=
  let h := s.holdCount frame
  if h = 0 then s else (s.setSide0 frame (putBits (s.side0 frame) 19 12 (h - 1))).markHeld

/-- Holds taken in order on a list of frames, until one finds its count at 255: those taken, those still to take. -/
def State.takeHolds (s : State) : List Nat → List Nat → List Nat × List Nat × State
  | taken, [] => (taken, [], s)
  | taken, f :: fs =>
    let g := s.holdFrame f
    if s.holdCount g = 255 then (taken, f :: fs, s) else State.takeHolds (s.addHold g) (taken ++ [g]) fs

/-- Holds removed from a list of frames. -/
def State.dropHolds (s : State) (fs : List Nat) : State := fs.foldl (fun t f => t.dropHold f) s

/-- Where a command goes on from: none while it waits on a hold, else the numbers it kept and the holds it has. Phase 98 waits on
a page hold, 99 on a ladder hold, 97 may go on. -/
def State.resumed (s : State) (m : Token) : Option (List Nat × List Nat) :=
  match s.busyOf m with
  | none => some ([], [])
  | some b => if b.phase = 97 then some (b.nums, b.holds) else none

/-- A command waits for a hold on a frame whose count is 255 (R377), keeping numbers and the holds it has. -/
def State.waitHold (s : State) (m : Token) (frame : Nat) (nums holds : List Nat) : State :=
  s.waitBusy m 98 (frame :: nums) holds

/-- A command waits for a ladder hold on `n` bytes of a scratchpad (R313), keeping numbers and the holds it has. -/
def State.waitLad (s : State) (m : Token) (pa n : Nat) (nums holds : List Nat) : State :=
  s.waitBusy m 99 (pa :: n :: nums) holds

/-- A command's wait is over. -/
def State.clearBusy (s : State) (m : Token) : State := { s with busy := s.busy.erase (inboxKey m.dest) }

/-- HOLD_GRANT (R377): the message at the head of inbox `id` waits on a hold; once the count is below 255 the hold is
taken. -/
def execHoldGrant (id : Nat) (s : State) : Out :=
  ok (match s.inbox id, s.busy.find? id with
      | (_, m) :: _, some b =>
        (match b.nums with
         | f :: rest =>
           let g := s.holdFrame f
           if b.phase = 98 ∧ s.holdCount g < 255 then (s.addHold g).waitBusy m 97 rest (b.holds ++ [g]) else s
         | [] => s)
      | _, _ => s)

end Sys2Proof.Machine
end

