-- ==== Sys2Proof/Machine/Forager.lean ====
section
/-! DEFINITION. The forager's nodes (R227 to R249) and the steps of its accesses: linking, entering the memory port, being
performed at the home, and replying (R234, R235, R243 to R253). -/

namespace Sys2Proof.Machine

/-! ## Issue (R231 to R238) -/

/-- `pf` (R236): `ld` with both destinations none. -/
def Firing.isPf (f : Firing) : Bool := f.cfg.opcode == 0x180 && dKind f.cfg.fields.dstA == 0 && dKind f.cfg.fields.dstB == 0

/-- Bytes that one request of a firing reaches (R231, R241). -/
def Firing.reqSize (f : Firing) : Nat :=
  let op := f.cfg.opcode
  if op = 0x180 ∨ op = 0x181 then 4
  else if op ≤ 0x185 then elemSize f.width
  else (if f.m77 then 8 else 4) * (if op = 0x19B then 2 else 1)

/-- The 32-bit or 64-bit operand of an atomic's lane: of b, or 1 for `atom.finc` without b. -/
def Firing.atomOperand (f : Firing) (j : Nat) : Nat :=
  match f.b with
  | none => 1
  | some _ => if f.m77 then (pair64 (f.bLane j) (f.bLane (j + 1))).toNat else (f.bLane j).toNat

/-- The bytes that a request of a firing writes, or the operand of its atomic, for its lane and the index of the element
within the lane. -/
def Firing.writeBytes (f : Firing) (lane i : Nat) : List Byte :=
  let op := f.cfg.opcode
  if op = 0x181 then leBytes 4 (f.bLane lane).toNat
  else if op = 0x185 then leBytes (elemSize f.width) (elemOf f.width (f.bLane lane) 0)
  else if op = 0x183 then leBytes (elemSize f.width) (elemOf f.width (f.aLane lane) i)
  else if 0x190 ≤ op then leBytes (if f.m77 then 8 else 4) (f.atomOperand lane)
  else []

/-- Whether what a firing stores is poisoned (R238). -/
def Firing.dataPoison (f : Firing) : Bool :=
  if f.cfg.opcode = 0x183 then f.a.poison else match f.b with | some b => b.poison | none => false

/-- A request of a firing for a resolved address. -/
def Firing.request (f : Firing) (x : Formed) (i pa : Nat) (view : Bool) (cmp : Nat) (poison hot : Bool) : LaneReq :=
  { lane := x.lane, va := x.va, pa := pa, size := f.reqSize, wdata := f.writeBytes x.lane i, cmp := cmp, fwd := [],
    fwdPoison := false, state := 0, rdata := [], poison := poison, code := 0, view := view, away := bitOf pa 56,
    hot := hot }

/-- A firing that accesses nothing: an empty run, or a `pf` that would fail. An ordered one still takes its place in its
chain (log 18). -/
def State.joinOnly (s : State) (f : Firing) (kind : AccessKind) : State :=
  if f.isOrdered then
    (f.memberLanes.foldl (fun t j => t.addAccess { Access.make f 0 j (f.len / f.memberLanes.length) kind with silent := true })
      s).sweep f.ci
  else s

/-- Whether an address is the first of a list of resolved addresses, by its index, in its frame (R385). -/
def firstInFrame (rs : List (Formed × Except Nat (Nat × Bool))) (i pa : Nat) : Bool :=
  !(rs.take i).any (fun e => match e.2 with | .ok (q, _) => q / 65536 == pa / 65536 | .error _ => false)

/-- The requests of a list of resolved addresses, which all succeeded. -/
def Firing.requests (f : Firing) (rs : List (Formed × Except Nat (Nat × Bool))) (per : Nat) (cmp : Nat → Nat)
    (poison : Bool) : List LaneReq :=
  (indexed 0 rs).filterMap (fun e =>
    match e.2.2 with
    | .ok (pa, view) => some (f.request e.2.1 (e.1 % per) pa view (cmp e.2.1.lane) poison (firstInFrame rs e.1 pa))
    | .error _ => none)

/-- The faults among a list of resolved addresses. -/
def faultsOf (rs : List (Formed × Except Nat (Nat × Bool))) : List Formed :=
  rs.filterMap (fun e => match e.2 with | .ok _ => none | .error c => some { e.1 with code := c })

/-- A load or store whose firing is performed whole or not at all (R235, R255). A `pf` raises no fault of its address (R236), but a
watchpoint still stops it (R480). -/
def State.issueWhole (s : State) (f : Firing) (kind : AccessKind) : State :=
  if !(s.clashes f).isEmpty then s.faultWhole f kind (f.allLanes fSTREAM)
  else
    let (rs, s1) := s.resolveAll f f.reqSize (kind == .store) false ((s.cell f.ci).addresses f (s.shape f.ctx))
    match faultsOf rs with
    | [] =>
      s1.addAccess { Access.make f 0 0 f.len kind with
        reqs := f.requests rs (subCount f.width) (fun _ => 0) f.dataPoison, silent := f.isPf }
    | bad =>
      let left := if f.isPf then bad.filter (fun x => x.code == fWATCH) else bad
      if left.isEmpty then s1.joinOnly f kind else s1.faultWhole f kind left

/-- A node whose lanes are accesses of their own (R235, R239, R255): those that do not fault go on. -/
def State.issueLanes (s : State) (f : Firing) (kind : AccessKind) : State :=
  let step := if f.paired then 2 else 1
  let clash := s.clashes f
  let (zl, zp) := if f.cfg.opcode = 0x19A then s.slotRead f (f.lit % 256) else ([], false)
  let cmp (j : Nat) : Nat :=
    if f.m77 then (pair64 (nth 0 zl j) (nth 0 zl (j + 1))).toNat else (nth 0 zl j).toNat
  let xs := ((s.cell f.ci).addresses f (s.shape f.ctx)).filter (fun x => !clash.contains x.lane)
  let (rs, s1) := s.resolveAll f f.reqSize (kind != .load) (kind == .atomic) xs
  let s2 := (indexed 0 rs).foldl (fun t ie =>
    let e := ie.2
    match e.2 with
    | .ok (pa, view) =>
      t.addAccess { Access.make f 0 e.1.lane step kind with
        reqs := [f.request e.1 0 pa view (cmp e.1.lane) (f.dataPoison || zp) (firstInFrame rs ie.1 pa)] }
    | .error _ => t) s1
  let bad := sortBy (fun x y : Formed => decide (x.lane < y.lane))
    (clash.map (fun j => { lane := j, va := 0, code := fSTREAM }) ++ faultsOf rs)
  if bad.isEmpty then s2 else s2.faultLanes f kind bad f.paired

/-- The issue of a load, store or atomic. -/
def State.issueMem (s : State) (f : Firing) (kind : AccessKind) : State :=
  let op := f.cfg.opcode
  if f.isEmpty then
    (s.emit f { f.out f.width f.poisoned true [] with cls := 1, aux := BitVec.ofNat 16 f.wave }).joinOnly f kind
  else if f.paired ∧ f.len % 2 = 1 then s.faultWhole f kind (f.allLanes fSTREAM)
  else if f.a.poison ∧ op ≠ 0x182 ∧ op ≠ 0x183 then
    (if f.perLane then
       s.faultLanes f kind (f.memberLanes.map (fun j => { lane := j, va := 0, code := fPOISON })) f.paired
     else s.faultWhole f kind (f.allLanes fPOISON))
  else if f.perLane then s.issueLanes f kind else s.issueWhole f kind

/-- LD (R235). -/
def execLd (s : State) : Out := ok (s.fireMem (fun f t => t.issueMem f .load))
/-- ST (R235). -/
def execSt (s : State) : Out := ok (s.fireMem (fun f t => t.issueMem f .store))
/-- LD_S (R235). -/
def execLdS (s : State) : Out := ok (s.fireMem (fun f t => t.issueMem f .load))
/-- ST_S (R235). -/
def execStS (s : State) : Out := ok (s.fireMem (fun f t => t.issueMem f .store))
/-- LD_X (R235). -/
def execLdX (s : State) : Out := ok (s.fireMem (fun f t => t.issueMem f .load))
/-- ST_X (R235). -/
def execStX (s : State) : Out := ok (s.fireMem (fun f t => t.issueMem f .store))
/-- ATOM_ADD (R239). -/
def execAtomAdd (s : State) : Out := ok (s.fireMem (fun f t => t.issueMem f .atomic))
/-- ATOM_FADD (R239). -/
def execAtomFadd (s : State) : Out := ok (s.fireMem (fun f t => t.issueMem f .atomic))
/-- ATOM_MIN (R239). -/
def execAtomMin (s : State) : Out := ok (s.fireMem (fun f t => t.issueMem f .atomic))
/-- ATOM_MAX (R239). -/
def execAtomMax (s : State) : Out := ok (s.fireMem (fun f t => t.issueMem f .atomic))
/-- ATOM_MINN (R239). -/
def execAtomMinn (s : State) : Out := ok (s.fireMem (fun f t => t.issueMem f .atomic))
/-- ATOM_MAXN (R239). -/
def execAtomMaxn (s : State) : Out := ok (s.fireMem (fun f t => t.issueMem f .atomic))
/-- ATOM_AND (R239). -/
def execAtomAnd (s : State) : Out := ok (s.fireMem (fun f t => t.issueMem f .atomic))
/-- ATOM_OR (R239). -/
def execAtomOr (s : State) : Out := ok (s.fireMem (fun f t => t.issueMem f .atomic))
/-- ATOM_XOR (R239). -/
def execAtomXor (s : State) : Out := ok (s.fireMem (fun f t => t.issueMem f .atomic))
/-- ATOM_SWAP (R239). -/
def execAtomSwap (s : State) : Out := ok (s.fireMem (fun f t => t.issueMem f .atomic))
/-- ATOM_CAS (R240). -/
def execAtomCas (s : State) : Out := ok (s.fireMem (fun f t => t.issueMem f .atomic))
/-- ATOM_FINC (R241). -/
def execAtomFinc (s : State) : Out := ok (s.fireMem (fun f t => t.issueMem f .atomic))

/-- An `mnop` or a fence (R244, R251): a member of its chain for each fired lane, or, unordered, one entry for the firing;
it emits a by its reply step. -/
def State.issueMark (s : State) (f : Firing) (kind : AccessKind) : State :=
  let clash := s.clashes f
  if !clash.isEmpty then s.faultWhole f kind (clash.map (fun j => { lane := j, va := 0, code := fSTREAM }))
  else if f.isOrdered then f.memberLanes.foldl (fun t j => t.addAccess (Access.make f 0 j 1 kind)) s
  else s.addAccess (Access.make f 0 0 f.len kind)

/-- MNOP (R244). -/
def execMnop (s : State) : Out := ok (s.fireMem (fun f t => t.issueMark f .mnop))
/-- FENCE_REL (R251). -/
def execFenceRel (s : State) : Out := ok (s.fireMem (fun f t => t.issueMark f .fenceRel))
/-- FENCE_ACQ (R251). -/
def execFenceAcq (s : State) : Out := ok (s.fireMem (fun f t => t.issueMark f .fenceAcq))
/-- FENCE_FULL (R251). -/
def execFenceFull (s : State) : Out := ok (s.fireMem (fun f t => t.issueMark f .fenceFull))

/-- XLAT (R247): the translation returns by the reply step. -/
def execXlat (s : State) : Out :=
  ok (s.fireMem (fun f t =>
    if f.isEmpty then t.emit f { f.out f.width f.poisoned true [] with cls := 1 }
    else if f.len ≠ 2 then t.faultWhole f .xlat (f.allLanes fSTREAM)
    else if f.a.poison then t.faultWhole f .xlat (f.allLanes fPOISON)
    else t.addAccess (Access.make f 0 0 f.len .xlat)))

/-! ## `shape.set` (R233) -/

/-- A word of a shape record written. -/
def State.setShapeWord (s : State) (ci k i v : Nat) : State :=
  let c := s.cell ci
  s.setCell ci { c with consts := Tab.set c.consts (32 + 16 * k + i) (BitVec.ofNat 32 v) }

/-- BASE0 := a 56-bit address, and T := 0. -/
def State.setBase0 (s : State) (ci k va : Nat) : State :=
  (s.setShapeWord ci k 0 (va % 2 ^ 32)).setShapeWord ci k 1
    (putBits (putBits ((s.cell ci).shapeWord k 1) 23 0 (bits va 55 32)) 26 26 0)

/-- T := 0: the record has no window. -/
def State.clearWindow (s : State) (ci k : Nat) : State := s.setShapeWord ci k 1 (putBits ((s.cell ci).shapeWord k 1) 26 26 0)

/-- The record of `shape.set`. -/
def Firing.setRec (f : Firing) : Nat := f.lit % 4

/-- SHAPE_SET (R233): a field of the record; or, with XL, a fresh translation that returns by the reply step. -/
def execShapeSet (s : State) : Out :=
  ok (s.fireMem (fun f t =>
    let k := f.setRec
    let fld := bits f.lit 4 2
    let want := if bitOf f.lit 5 then 4 else if fld = 0 then 2 else 1
    let va := if bitOf f.lit 5 then (pair64 (f.aLane 2) (f.aLane 3)).toNat else (pair64 (f.aLane 0) (f.aLane 1)).toNat
    if f.isEmpty then t.emit f f.pass
    else if f.len ≠ want then t.faultWhole f .shapeSet (f.allLanes fSTREAM)
    else if f.a.poison then t.faultWhole f .shapeSet (f.allLanes fPOISON)
    else if bitOf f.lit 5 ∨ fld = 0 then
      (if 2 ^ 56 ≤ va then
         (if bitOf f.lit 5 then t.clearWindow f.ci k else t).faultWhole f .shapeSet
           ((f.allLanes fADDR).map (fun x => { x with va := va }))
       else if bitOf f.lit 5 then t.addAccess (Access.make f 0 0 f.len .shapeSet)
       else (t.setBase0 f.ci k va).emit f f.pass)
    else
      (t.setShapeWord f.ci k (if fld ≤ 3 then 6 + 3 * fld else 4 + 3 * (fld - 4)) (f.aLane 0).toNat).emit f f.pass))

/-! ## Replies of `xlat` and `shape.set` (R233, R247, R248) -/

/-- A token of `xlat`, with its tag operation; push leaves it whole. -/
def State.emitXlat (s : State) (f : Firing) (t : Token) : State :=
  if f.cfg.fields.tagop = 2 then s.sendBoth f (pushTag (s.shape f.ctx) f.level t) else s.emit f t

/-- An `xlat` resolves its address: its own cache of 32 entries, the sector's second level, a walk (R247, R248). -/
def State.resolveXlat (s : State) (f : Firing) : State :=
  let va := (pair64 (f.aLane 0) (f.aLane 1)).toNat
  let wr := f.m77
  let owner := 32 + 16 * f.ci + f.node
  let done (t : State) (x : Xlation) : State :=
    let pa := x.pa va
    t.emitXlat f { f.outRun 4 f.tag 0 false false
      [BitVec.ofNat 32 pa,
       BitVec.ofNat 32 (bits pa 56 32 + (if x.large then 2 ^ 25 else 0) + (if x.write then 2 ^ 26 else 0)),
       f.aLane 0, f.aLane 1] with cls := 1 }
  let fail (t : State) (code : Nat) : State :=
    t.emitXlat f { f.outRun 4 f.tag 0 false false [0, 0, f.aLane 0, f.aLane 1] with
      cls := 1, fault := true, aux := BitVec.ofNat 16 code }
  match s.asid? f.ctx with
  | none => fail s fXLAT
  | some asid =>
    let stamp := s.viewStamps.find? f.ctx.toNat
    match s.xlations.find? (fun x => x.owner == owner && x.asid == asid && x.page == va / 65536 && x.stamp == stamp
        && (if wr then x.write else x.read)) with
    | some x => done (s.remember x 32) x
    | none =>
      if 2 ^ 56 ≤ va then fail s fXLAT
      else
        match s.translate (sectorOf f.ci) asid stamp va wr with
        | (.ok x, s1) => done (s1.remember { x with owner := owner } 32) { x with owner := owner }
        | (.error c, s1) => fail s1 c

/-- A `shape.set` with XL resolves its address and installs the window, or fails and leaves T zero (R233). -/
def State.resolveShapeSet (s : State) (f : Firing) : State :=
  let va := (pair64 (f.aLane 2) (f.aLane 3)).toNat
  let k := f.setRec
  let s1 := s.setBase0 f.ci k va
  let fail (t : State) (code : Nat) : State :=
    t.faultWhole f .shapeSet ((f.allLanes code).map (fun x => { x with va := va }))
  match s1.asid? f.ctx with
  | none => fail s1 fXLAT
  | some asid =>
    match s1.translate (sectorOf f.ci) asid (s1.viewStamps.find? f.ctx.toNat) va false with
    | (.error c, s2) => fail s2 c
    | (.ok x, s2) =>
      let page := if x.large then x.frame / 2 ^ 26 * 2 ^ 26 else x.frame
      let w1 := (s2.cell f.ci).shapeWord k 1
      let s3 := (((s2.setShapeWord f.ci k 1 (putBits (putBits w1 26 26 1) 27 27 (if x.large then 1 else 0))).setShapeWord
        f.ci k 2 (bits page 31 16 * 65536)).setShapeWord f.ci k 3 (bits page 56 32 + (if x.write then 2 ^ 25 else 0)))
      let c := s3.cell f.ci
      (s3.setCell f.ci { c with shapeAsid := Tab.set c.shapeAsid k asid }).emit f f.pass

/-! ## Replies of accesses (R234, R235) -/

/-- The header of a memory reply (R234). -/
def Firing.replyToken (f : Firing) (n : Nat) (tag : Word) (poison : Bool) (lanes : List Lane) : Token :=
  { f.outRun n tag f.width poison false lanes with cls := 1, aux := BitVec.ofNat 16 f.wave }

/-- The result of a loaded element, in sub-element 0 of a lane. -/
def LaneReq.lane0 (r : LaneReq) : Lane := BitVec.ofNat 32 (leNat (r.rdata.take 4))

/-- The lanes that a member of a per-lane node returns. -/
def Access.lanesOut (a : Access) : List Lane :=
  match a.kind with
  | .store => (upTo a.count).map (fun i => a.fir.bLane (a.first + i))
  | _ =>
    match a.reqs with
    | r :: _ => padTo 0 a.count ([r.lane0] ++ (if 2 ≤ a.count then [BitVec.ofNat 32 (leNat (r.rdata.drop 4))] else []))
    | [] => []

/-- The poison that a member of a per-lane node returns. -/
def Access.poisonOut (a : Access) : Bool := a.reqs.any (fun r => r.poison)

/-- A member whose reply may be emitted: a load or atomic performed, a store performed at its scope. -/
def Access.replyReady (a : Access) : Bool :=
  !a.silent && !a.faulted && a.reqs.all (fun r => r.state != 2) &&
    (match a.kind with
     | .store => a.performedAt a.scope
     | .load => a.performed
     | .atomic => a.performed
     | _ => false)

/-- The members of a firing's group that follow `j` without a gap, ready and not yet emitted (R235). -/
def adjacent (g : List Access) : Nat → Nat → List Access
  | 0, _ => []
  | n + 1, j =>
    match g.find? (fun a => a.first == j && a.replyReady && a.emitted.isEmpty) with
    | some a => a :: adjacent g n (j + a.count)
    | none => []

/-- Emission marked on accesses. -/
def State.markEmitted (s : State) (ids : List Nat) (j : Nat) : State :=
  { s with accesses := s.accesses.map (fun a => if ids.contains a.id then { a with emitted := j :: a.emitted } else a) }

/-- Requests of piece `j` of a `ld.s` access: its lane, its first output lane, and the elements of up to 32 lanes. -/
def Access.pieceOfWalk (a : Access) (j : Nat) : Nat × Nat × List LaneReq :=
  let per := a.reqs.length / a.fir.len
  let k := subCount a.fir.width
  let toks := a.walkTokens
  let lane := j / toks
  let m0 := 32 * (j % toks)
  (lane, m0, ((a.reqs.drop (per * lane)).take per).drop (k * m0) |>.take (k * 32))

/-- A reply of an access that has one: MEMORY_REPLY for piece `j` (R234, R235, R244, R251). -/
def State.replyOf (s : State) (a : Access) (j : Nat) : State :=
  let f := a.fir
  let op := f.cfg.opcode
  match a.kind with
  | .xlat => ({ s with accesses := s.accesses.filter (fun x => x.id != a.id) }).resolveXlat f
  | .shapeSet => ({ s with accesses := s.accesses.filter (fun x => x.id != a.id) }).resolveShapeSet f
  | .mnop =>
    let g := s.groupOf a
    if g.all (fun b => b.performed) then ((s.markEmitted (g.map (fun b => b.id)) 0).emit f f.pass).sweep f.ci else s
  | .fenceRel =>
    let g := s.groupOf a
    if g.all s.fenceReady then ((s.markEmitted (g.map (fun b => b.id)) 0).emit f f.pass).sweep f.ci else s
  | .fenceAcq =>
    let g := s.groupOf a
    if g.all s.fenceReady then ((s.markEmitted (g.map (fun b => b.id)) 0).emit f f.pass).sweep f.ci else s
  | .fenceFull =>
    let g := s.groupOf a
    if g.all s.fenceReady then ((s.markEmitted (g.map (fun b => b.id)) 0).emit f f.pass).sweep f.ci else s
  | _ =>
    if op = 0x182 then
      let (lane, m0, rs) := a.pieceOfWalk j
      let sh := s.shape f.ctx
      let k := subCount f.width
      let n := (rs.length + k - 1) / k
      if rs.isEmpty ∨ a.emitted.contains j ∨ a.silent ∨ !rs.all (fun r => r.state == 1) then s
      else
        let tag := setField sh (laneTag sh f.level f.tag lane) (f.level + 1) m0
        let ls := lanesBack f.width n (rs.map (fun r => leNat r.rdata))
        ((s.markEmitted [a.id] j).sendBoth f
          (f.replyToken n tag (f.a.poison || rs.any (fun r => r.poison)) ls)).sweep f.ci
    else if !a.emitted.isEmpty ∨ !a.replyReady then s
    else if f.perLane then
      let g := adjacent (s.groupOf a) 32 a.first
      let ls := g.flatMap (fun b => b.lanesOut)
      ((s.markEmitted (g.map (fun b => b.id)) 0).emit f
        (f.replyToken ls.length (laneTag (s.shape f.ctx) f.level f.tag a.first) (g.any (fun b => b.poisonOut)) ls)).sweep f.ci
    else
      let ls := if op = 0x180 then a.reqs.map (fun r => r.lane0) else if op = 0x181 then (upTo f.len).map f.bLane
        else (upTo f.len).map f.aLane
      ((s.markEmitted [a.id] 0).emit f (f.replyToken f.len f.tag (a.poisonOut || f.dataPoison) ls)).sweep f.ci

/-- MEMORY_REPLY (R234, R235): a reply claims its output slots as it is formed (R39, R224). -/
def execMemoryReply (id j : Nat) (s : State) : Out :=
  ok (match s.access? id with
      | some a => if s.slotsFor a.fir.ci a.fir.outputs then s.replyOf a j else s
      | none => s)

/-! ## Linking, the port and the home (R225, R243, R245, R253) -/

/-- CHAIN_MEMBER_LINK (R243): a waiting member that follows the last linked one links; one that would follow it in two
different ways faults with STREAM. -/
def execChainMemberLink (id : Nat) (s : State) : Out :=
  ok (match s.access? id with
      | some a =>
        if a.ordered ∧ a.link.isNone then
          match s.linkCaseOf a, s.chainOf a.fir.ci a.fir.ctx a.fir.level (s.accessAct a) with
          | .links, some c =>
            let s1 := s.putChain a.fir.ci { c with last := some (waveS a.fir.lit, waveN a.fir.lit) }
            let a1 := { a with link := some s1.nextId }
            let s2 := { s1 with nextId := s1.nextId + 1 }.putAccess a1
            (if a1.kind = .load ∧ s2.mayEnter a1 then s2.enter a1 else s2).sweep a.fir.ci
          | .clashes, _ =>
            let s1 := { s with accesses := s.accesses.filter (fun x => x.id != a.id) }
            if a.faulted then s1
            else if a.fir.perLane then
              s1.faultLanes a.fir a.kind [{ lane := a.first, va := 0, code := fSTREAM }] a.fir.paired
            else s1.faultWhole a.fir a.kind (a.fir.allLanes fSTREAM)
          | _, _ => s
        else s
      | none => s)

/-- STORE_BUFFER_SEND (R245): an access that waited enters the memory port. -/
def execStoreBufferSend (id : Nat) (s : State) : Out :=
  ok (match s.access? id with
      | some a => if s.mayEnter a then (s.enter a).sweep a.fir.ci else s
      | none => s)

/-- Whether a request may be performed now: its access is in the port, and no request for the same home, or of the same page, that
entered the sector's port before it is still to be performed (R225, R375). -/
def State.requestFirst (s : State) (a : Access) (j : Nat) (r : LaneReq) : Bool :=
  match a.port with
  | none => false
  | some n =>
    let same (q : LaneReq) : Bool := q.state == 0 && s.inTurn (a.fir.ci / 2048) q.pa r.pa
    !(a.reqs.take j).any same
      && s.accesses.all (fun b =>
        match b.port with
        | some m => decide (n ≤ m) || sectorOf b.fir.ci != sectorOf a.fir.ci || !b.reqs.any same
        | none => true)

/-- The sources that present an atomic to the atomic unit of a home (R242): the memory ports of sectors, 0 to 31, and the link
engines, 32 and 33. The manual gives the host port no atomic. -/
def State.atomicSources (s : State) (home : Nat) : List Nat :=
  let here (die pa : Nat) : Bool := match s.target die pa with | .here _ => s.homeOf die pa == home | .away _ _ => false
  let cells := (s.accesses.filter (fun a => a.kind == .atomic && (indexed 0 a.reqs).any (fun e =>
    e.2.state == 0 && here (a.fir.ci / 2048) e.2.pa && s.requestFirst a e.1 e.2 && !s.sectorHeld (sectorOf a.fir.ci) e.2.pa))).map
      (fun a => sectorOf a.fir.ci)
  let links := (s.inboundWait.filter (fun x => decide (2 ≤ x.2.kind) && here 0 x.2.off &&
    decide (s.holdCount (s.holdFrame (x.2.off / 65536 * 65536)) < 255))).map (fun x => 32 + x.1)
  (cells ++ links).eraseDups

/-- It is a source's turn at the atomic unit of a home, which serves its sources round-robin (R242): of the sources that present an
atomic, it is the first at or after the unit's pointer. -/
def State.atomicTurn (s : State) (home src : Nat) : Bool :=
  let ahead (x : Nat) : Nat := (x + 34 - Tab.get 0 s.atomicNext home) % 34
  (s.atomicSources home).all (fun x => decide (ahead src ≤ ahead x))

/-- The atomic unit of a home has served a source. -/
def State.atomicServed (s : State) (home src : Nat) : State :=
  { s with atomicNext := Tab.set s.atomicNext home ((src + 1) % 34) }

/-- A request of an access replaced. -/
def State.putReq (s : State) (a : Access) (j : Nat) (r : LaneReq) : State := s.putAccess { a with reqs := setNth r a.reqs j }

/-- When every access of a firing is settled, the lanes that failed fault (R255): one record for each code. -/
def State.settle (s : State) (a : Access) : State :=
  let g := s.groupOf a
  let bad := g.filter (fun b => b.reqs.any (fun r => r.state == 2))
  if bad.isEmpty ∨ !g.all (fun b => b.faulted || b.allDone) then s.sweep a.fir.ci
  else
    let s1 := { s with accesses := s.accesses.filter (fun x => !bad.any (fun b => b.id == x.id)) }
    let fs := bad.flatMap (fun b => (b.reqs.filter (fun r => r.state == 2)).map (fun r =>
      { lane := r.lane, va := (if r.code = fLINK then r.pa else r.va), code := r.code : Formed }))
    let keep (t : State) (b : Access) : State :=
      if b.ordered then
        { t with accesses := t.accesses ++ [{ b with reqs := [], port := none, faulted := true, silent := true }] }
      else t
    let f := a.fir
    let s2 := (bad.foldl keep s1).parkLanes f fs
    let s3 := if f.perLane then s2 else s2.parkRest f fs
    (s3.laneRecords f fs f.paired).sweep f.ci

/-- A request answered: its bytes and poison, or a fault code. -/
def State.answerReq (s : State) (a : Access) (j : Nat) (r : LaneReq) (code : Nat) (data : List Byte) (poison : Bool) :
    State :=
  let r1 := if code ≠ 0 then { r with state := 2, code := code }
    else { r with state := 1, rdata := data, poison := r.poison || poison }
  (s.putReq a j r1).settle a

/-- A loaded request's bytes, with what was forwarded to it (R245). -/
def LaneReq.merge (r : LaneReq) (data : List Byte) : List Byte :=
  if r.fwd.isEmpty then data
  else (upTo r.size).map (fun i => match nth none r.fwd i with | some b => b | none => nth 0 data i)

/-- Whether forwarding supplies every byte of a request. -/
def LaneReq.covered (r : LaneReq) : Bool := !r.fwd.isEmpty && r.fwd.all (fun b => b.isSome)

/-- A request performed at a local home (R253): a load, a store, or an atomic. -/
def State.performReq (s : State) (a : Access) (j : Nat) (r : LaneReq) (p : Nat) : State :=
  match a.kind with
  | .load =>
    let (g, s1) := s.load p r.size r.view r.hot
    s1.answerReq a j r g.code (r.merge g.data) (g.poison || r.fwdPoison)
  | .store =>
    let (c, s1) := s.store p r.wdata r.poison r.hot
    s1.answerReq a j r c [] false
  | _ =>
    let op := a.fir.cfg.opcode
    let v := leNat r.wdata
    let (g, s1) := s.atomic p r.size (fun old => if r.poison then none else (atomAct op r.size v r.cmp old).1) r.hot
    s1.answerReq a j r g.code
      (leBytes (atomReply op r.size) (atomAct op r.size v r.cmp (leNat g.data)).2) g.poison

/-- HOME_ACCESS (R242, R253): the home performs request `j` of an access, an atomic when it is its source's turn; a request for another
module leaves through the link engine (R62, R410). -/
def execHomeAccess (id j : Nat) (s : State) : Out :=
  ok (match s.access? id with
      | none => s
      | some a =>
        match a.reqs[j]? with
        | none => s
        | some r =>
          if r.state ≠ 0 ∨ !s.requestFirst a j r then s
          else if a.kind = .load ∧ r.covered then s.answerReq a j r 0 (r.merge []) r.fwdPoison
          else
            match s.target (a.fir.ci / 2048) r.pa with
            | .here p =>
              let ps := sectorOf a.fir.ci
              let home := s.homeOf (a.fir.ci / 2048) r.pa
              if s.sectorHeld ps p then s
              else if a.kind ≠ .atomic then s.performReq a j r p
              else if s.atomicTurn home ps then (s.atomicServed home ps).performReq a j r p
              else s
            | .away dev off =>
              (s.putReq a j { r with state := 3 }).remoteSend (linkOfDie (a.fir.ci / 2048))
                (Remote.make dev off (match a.kind with | .load => 0 | .store => 1 | _ => 2) a.fir.cfg.opcode r.size
                  r.wdata (BitVec.ofNat 64 r.cmp) r.poison (.access id j) (sectorOf a.fir.ci)))

/-- The reply of another module to request `j` of an access (R412, R417). -/
def State.accessReplied (s : State) (id j : Nat) (d : RemoteData) : State :=
  match s.access? id with
  | none => s
  | some a =>
    match a.reqs[j]? with
    | none => s
    | some r =>
      if r.state = 3 then
        s.answerReq a j r d.code (if a.kind = .load then r.merge d.data else d.data) (d.poison || r.fwdPoison)
      else s

/-- WALK (R371): a walker resolves an address for a sector and its second level keeps the translation (R372). -/
def execWalk (ps asid ctx va : Nat) (wr : Bool) (s : State) : Out :=
  ok (s.translate ps asid (s.viewStamps.find? ctx) va wr).2

end Sys2Proof.Machine
end

