-- ==== Sys2Proof/Machine/PageMove.lean ====
section
/-! DEFINITION. Moving pages between tiers (R378 to R387, R397): the steps of a move, its abort, automatic moves and the
halving of hotness; and shootdowns (R374). -/

namespace Sys2Proof.Machine

/-! ## Moves -/

/-- A move, by its number. -/
def State.move? (s : State) (id : Nat) : Option Move := s.moves.find? (fun v => v.id == id)

/-- A move replaced, by its number. -/
def State.putMove (s : State) (v : Move) : State := { s with moves := s.moves.map (fun x => if x.id = v.id then v else x) }

/-- A move recorded under the next number, and whether it is held back. -/
def State.newMove (s : State) (v : Move) : State :=
  State.markHeld { s with moves := s.moves ++ [{ v with id := s.nextId }], nextId := s.nextId + 1 }

/-- A move of a page to a tier of a die, as its walk has found it (R379). -/
def Move.make (die asid va : Nat) (msg : Option Token) (arr tier toDie : Nat) (l : Leaf) (retire : Bool) : Move :=
  { id := 0, arr := arr, die := die, asid := asid, va := va, msg := msg, tier := tier, toDie := toDie, pte := l.pte, entry := l.entry,
    src := l.frame, dst := 0, phase := .waiting, copied := 0, queue := [], heldAt := none, paused := none, taken := none, cause := 0,
    shoot := 0, retire := retire }

/-- A move that has ended is gone; a message that still heads its inbox leaves it. -/
def State.dropMove (s : State) (v : Move) : State :=
  let s1 := { s with moves := s.moves.filter (fun x => x.id != v.id), muted := s.muted.filter (fun k => k != 2 ^ 22 + v.id) }
  match v.msg with
  | some m => if v.phase = .waiting then s1.popInbox (inboxKey m.dest) else s1
  | none => s1

/-- A move whose completion is discarded, because its partition was reset meanwhile (R463). -/
def State.mutedMove (s : State) (v : Move) : Bool := s.muted.contains (2 ^ 22 + v.id)

/-- The leaf entry of a move in a state: as the walk found it, but for ST. -/
def Move.entryIn (v : Move) (st : Nat) : Nat := putBits v.entry 7 4 st

/-- Whether the 8 bytes of a move's leaf entry stand as the move left them in a state (R370). -/
def State.leafIs (s : State) (v : Move) (st : Nat) : Bool := s.devRead v.pte 8 == v.entryIn st

/-- A leaf's state changed by compare-and-swap (R370): the 8 bytes must stand as the move left them. -/
def State.swapLeaf (s : State) (v : Move) (frm nxt : Nat) : State := if s.leafIs v frm then s.setPte v.pte (v.entryIn nxt) else s

/-- The side entry of a frame that the custodian retires stays held (R486). -/
def State.holdRetired (s : State) (frame : Nat) : State :=
  s.setSide0 frame (putBits (s.side0 frame) 19 12 (Nat.min 255 (bits (s.side0 frame) 19 12 + 1)))

/-- A frame that the custodian retires (R486) after its page's move has ended: its side entry stays held. Where the page was not
moved, its leaf is POISONED (R378) and its translations are shot down. -/
def State.retired (s : State) (v : Move) (moved : Bool) : State :=
  let s1 := s.holdRetired v.src
  if moved then s1 else ((s1.swapLeaf v 0 4).shootdown v.die (.pages v.asid (v.va / 65536) 1)).2

/-- The completion of an automatic move, sent to the ASID's event target under context 0 and a tag equal to the ASID (R387, R397). -/
def State.autoAnswer (s : State) (die asid st : Nat) (lanes : List Lane) : State :=
  s.sendEvt die asid { Token.zero with
    len := 4, cls := 6, tag := BitVec.ofNat 64 asid, lanes := BitVec.ofNat 32 (1 + st * 256) :: padTo 0 3 lanes }

/-- A move ends with a status and lanes 1 to 3: to the reply destination of its message, or to the ASID's event target. A move of the
custodian's own (R486) has no completion. -/
def State.moveEnds (s : State) (v : Move) (st : Nat) (lanes : List Lane) : State :=
  let s1 := s.dropMove v
  if v.retire then s1.retired v (st == sOK)
  else
    match v.msg with
    | some m => if s.mutedMove v then s1 else s1.answer m st 0 lanes
    | none => s1.autoAnswer v.die v.asid st lanes

/-- Lanes 1 to 3 of a move's completion: a frame, and what lane 3 holds, with the bit of an automatic move (R397). -/
def Move.lanes (v : Move) (frame lane3 : Nat) : List Lane :=
  [BitVec.ofNat 32 frame, BitVec.ofNat 32 (frame / 2 ^ 32), BitVec.ofNat 32 (lane3 + (if v.msg.isNone then 2 ^ 17 else 0))]

/-- The completion of a move that ran, or waited, until a cause (R397). -/
def State.moveDone (s : State) (v : Move) (st : Nat) (frame cause : Nat) : State :=
  s.moveEnds v st (v.lanes frame (cause + v.copied * 256))

/-- A move that ends as its second walk found, before anything of it is performed: the frame it took, and the state found (R379). -/
def State.moveRefused (s : State) (v : Move) (st frame stFound : Nat) : State := s.moveEnds v st (v.lanes frame stFound)

/-- The `MIGABORT` record of a move, sent to the ASID's event target (R383). -/
def State.migAbort (s : State) (v : Move) (cause : Nat) : State :=
  let port := engineDest v.die 3 7 0
  let tag : Word := match v.msg with | some m => m.tag | none => BitVec.ofNat 64 v.asid
  let ctx : BitVec 12 := match v.msg with | some m => m.ctx | none => 0
  let s1 := s.sendEvt v.die v.asid
    { Token.zero with
      ctx := ctx, len := 8, cls := 7, aux := BitVec.ofNat 16 fMIGABORT, tag := tag,
      lanes := [BitVec.ofNat 32 v.va, BitVec.ofNat 32 (v.va / 2 ^ 32), BitVec.ofNat 32 (cause + v.copied * 256),
        BitVec.ofNat 32 v.asid, BitVec.ofNat 32 port.toNat, 1, 0, 0] }
  if bits (s.desc v.die v.asid 8) 20 19 = 0 then s
  else s1.trace (port.toNat + ctx.toNat * 2 ^ 21 + 2 ^ 33 + 2 ^ 46) tag.toNat fMIGABORT

/-- Moves in progress at a page engine. -/
def State.movesOf (s : State) (die : Nat) : List Move := s.moves.filter (fun v => v.die == die && v.phase != .waiting)

/-- `PAGE.CTL`.MOVETO in µs (R406). -/
def State.moveTo (s : State) (die : Nat) : Nat := Nat.max 1 (s.regBits (pageReg die 0x10) 15 0)

/-- The next frame of a ring of a page engine (R379, R406): none where the ring is empty or the entry names no frame of
the tier homed on the die; a wrong entry is consumed. -/
def State.takeFrame (s : State) (die tier : Nat) : Option Nat × State :=
  let base := (s.reg (pageReg die (0x20 + 0x20 * tier))).toNat
  let size := s.regBits (pageReg die (0x28 + 0x20 * tier)) 23 0
  let head := s.regBits (pageReg die (0x30 + 0x20 * tier)) 23 0
  let tail := s.regBits (pageReg die (0x38 + 0x20 * tier)) 23 0
  if head = tail then (none, s)
  else
    let f := s.devRead (base + 8 * head) 8
    let s1 := s.setBits (pageReg die (0x30 + 0x20 * tier)) 23 0 (if size ≤ head + 1 then 0 else head + 1)
    (if f % 65536 = 0 ∧ tierOf f = tier ∧ homeDie f = die then some f else none, s1)


/-- A move aborts before its seal (R383): copying stops and ST goes to ABORTING. -/
def State.startAbort (s : State) (v : Move) (cause : Nat) : State :=
  (s.swapLeaf v 1 3).putMove { v with phase := .aborting, cause := cause }

/-- Whether a frame is already where a move would bring it. -/
def movePlaced (frame tier die : Nat) : Bool := tierOf frame == tier && homeDie frame == die

/-- MOVE_BEGIN (R379): a waiting move that nothing holds back takes its frame and sets ST to MOVING; an entry that has
changed since the walk is walked again. -/
def execMoveBegin (id : Nat) (s : State) : Out :=
  ok (match s.move? id with
      | none => s
      | some v =>
        if v.phase ≠ .waiting then s
        else if s.moveHeld v ∨ 8 ≤ (s.movesOf v.die).length then s.markHeld
        else
          let (got, s1) :=
            match v.taken with
            | some f => (some f, s)
            | none => s.takeFrame v.toDie v.tier
          match got with
          | none =>
            ((s1.bump (pageReg v.die 0x90) 1).migAbort v 2).moveDone v sABORTED 0 2
          | some f =>
            if s1.leafIs v 0 then
              let s2 := s1.swapLeaf v 0 1
              let s3 := match v.msg with | some m => s2.popInbox (inboxKey m.dest) | none => s2
              s3.putMove { v with phase := .copying, dst := f, taken := some f }
            else
              match s1.findLeaf v.die v.asid v.va with
              | (.error c, s2) => s2.moveRefused v (statusOfCode c) f 0
              | (.ok l, s2) =>
                if l.lvl ≠ 4 ∨ l.st ≠ 0 then s2.moveRefused v sBADARG f l.st
                else if movePlaced l.frame v.tier v.toDie then s2.moveRefused v sOK f 0
                else (s2.putMove { v with pte := l.pte, entry := l.entry, src := l.frame, taken := some f, heldAt := none }).markHeld)

/-- The fields of a side entry that go with the page (R384): word 0 [20:0] and [45:32], and word 1. -/
def State.moveSide (s : State) (src dst : Nat) : State :=
  let w := s.side0 src
  (((s.setSide0 dst (bits w 20 0 + bits w 45 32 * 2 ^ 32)).setSide1 dst (s.side1 src)).setSide0 src 0).setSide1 src 0

/-- MOVE_LINE_COPY (R380, R381): the next line is read at the source and becomes the first entry of its forwarding queue;
the last one seals the move. A poisoned line, or an entry that software rewrote, aborts it (R383). -/
def execMoveLineCopy (id : Nat) (s : State) : Out :=
  ok (match s.move? id with
      | none => s
      | some v =>
        if v.phase ≠ .copying ∨ v.paused.isSome then s
        else if !s.leafIs v 1 then s.startAbort v 7
        else
          let s1 := (s.meet (v.src + 256 * v.copied) 256).mscCount (v.src + 256 * v.copied)
          let g := s1.rawLoad (v.src + 256 * v.copied) 256
          if g.poison then s1.startAbort v 4
          else
            let v1 := { v with copied := v.copied + 1, queue := v.queue ++ [(256 * v.copied, g.data, false)] }
            if v.copied = 255 then (s1.moveSide v.src v.dst).putMove { v1 with phase := .sealed } else s1.putMove v1)

/-- FORWARD_APPLY (R380): the destination applies the oldest entry of a line's queue. -/
def execForwardApply (id line : Nat) (s : State) : Out :=
  ok (match s.move? id with
      | none => s
      | some v =>
        if v.phase = .aborting then s
        else
          match v.queue.find? (fun e => e.1 / 256 == line) with
          | none => s
          | some e =>
            let k := (v.queue.takeWhile (fun x => x.1 / 256 != line)).length
            ((s.rawStore (v.dst + e.1) e.2.1 e.2.2).mscCount (v.dst + e.1)).putMove { v with queue := dropNth v.queue k })

/-- MOVE_CUTOVER (R381, R370): the queues are empty; the leaf is swapped to the destination, and a shootdown begins. An
entry that software rewrote stays as it is. -/
def execMoveCutover (id : Nat) (s : State) : Out :=
  ok (match s.move? id with
      | none => s
      | some v =>
        if v.phase ≠ .sealed ∨ !v.queue.isEmpty then s
        else
          let fine := s.leafIs v 1
          let s1 := if fine then (s.setPte v.pte (putBits (v.entryIn 0) 56 16 (v.dst / 65536))).bump (pageReg v.die 0x88) 1 else s
          let (n, s2) := s1.shootdown v.die (.pages v.asid (v.va / 65536) 1)
          s2.putMove { v with phase := .shooting, shoot := n, cause := if fine then 0 else 7 })

/-- MOVE_COPY_RESUME (R382): a paused move copies on once its frame's HOLD is zero. -/
def execMoveCopyResume (id : Nat) (s : State) : Out :=
  ok (match s.move? id with
      | some v => if v.paused.isSome ∧ s.holdCount v.src = 0 then s.putMove { v with paused := none } else s
      | none => s)

/-- MOVE_TIMEOUT (R379, R382): a wait or a pause that reaches `MOVETO`. -/
def execMoveTimeout (id : Nat) (s : State) : Out :=
  ok (match s.move? id with
      | none => s
      | some v =>
        match (if v.phase = .waiting then v.heldAt else v.paused) with
        | none => s
        | some t =>
          if s.usSince t < s.moveTo v.die then s
          else if v.phase = .waiting ∧ s.moveHeld v then s.moveDone v sHELD (v.taken.getD 0) 3
          else if v.phase = .copying ∧ 0 < s.holdCount v.src then s.startAbort v 3
          else s)

/-- MOVE_ABORT (R383): an uncorrectable error writing the destination (cause 1), which the environment reports, or a leaf
entry that software rewrote (cause 7). The other causes act in the steps that meet them. -/
def execMoveAbort (id cause : Nat) (s : State) : Out :=
  ok (match s.move? id with
      | some v =>
        if v.phase = .copying ∧ (cause = 1 ∨ (cause = 7 ∧ !s.leafIs v 1)) then s.startAbort v cause else s
      | none => s)

/-- MOVE_ABORT_FINISH (R383): what is queued is discarded, the entry returns to HOME unless software rewrote it, the record
is sent and the move completes. -/
def execMoveAbortFinish (id : Nat) (s : State) : Out :=
  ok (match s.move? id with
      | some v =>
        if v.phase = .aborting then
          (((s.swapLeaf v 3 0).bump (pageReg v.die 0x90) 1).migAbort v v.cause).moveDone { v with queue := [] }
            (if v.cause = 3 then sHELD else sABORTED) v.dst v.cause
        else s
      | none => s)

/-! ## Shootdowns (R374, R249) -/

/-- Whether a context's accesses are covered by a shootdown, at a page. -/
def State.covered (s : State) (w : ShootSet) (ctx : BitVec 12) (page : Nat) : Bool :=
  match s.asid? ctx with
  | some a => w.covers a page (s.viewStamps.find? ctx.toNat)
  | none => false

/-- What a sector invalidates (R249): its second level, its `xlat` caches, and the windows of its shape records. -/
def State.invalidateSector (s : State) (ps : Nat) (w : ShootSet) : State :=
  let own (o : Nat) : Bool := o == ps || (decide (32 ≤ o) && o != 9999 && sectorOf ((o - 32) / 16) == ps)
  let s1 := { s with xlations := s.xlations.filter (fun x => !(own x.owner && w.covers x.asid x.page x.stamp)) }
  let clear (ci : Nat) (c : Cell) : Cell :=
    (upTo 4).foldl (fun c k =>
      let w1 := c.shapeWord k 1
      let n := c.windowSize k / 65536
      let first := c.base0 k / c.windowSize k * n
      match c.shapeAsid.find? k with
      | some a =>
        if bitOf w1 26 && sectorOf ci == ps && (upTo n).any (fun i => w.clears a (first + i)) then
          { c with consts := Tab.set c.consts (32 + 16 * k + 1) (BitVec.ofNat 32 (putBits w1 26 26 0)) }
        else c
      | none => c) c
  { s1 with cells := s1.cells.map (fun e =>
      if sectorOf e.1 = ps ∧ kindOf e.1 = .forager ∧ !e.2.shapeAsid.isEmpty then (e.1, clear e.1 e.2) else e) }

/-- Requests that a sector has not yet sent through an invalidated translation translate again (R374). -/
def State.retranslate (s : State) (ps : Nat) (w : ShootSet) : State :=
  s.accesses.foldl (fun t a =>
    if sectorOf a.fir.ci = ps ∧ a.port.isNone then
      (indexed 0 a.reqs).foldl (fun u e =>
        if e.2.state = 0 ∧ u.covered w a.fir.ctx (e.2.va / 65536) then
          match u.foragerXlate a.fir e.2.va a.writes with
          | (.ok (pa, view), u1) => u1.putReqOf a.id e.1 { e.2 with pa := pa, view := view, away := bitOf pa 56 }
          | (.error c, u1) => u1.putReqOf a.id e.1 { e.2 with state := 2, code := c }
        else u) t
    else t) s

/-- A request that a sector sent through an invalidated translation has not been performed (R374): one that stands in its memory port or
has left for another module, or one of its keeper's for another module. -/
def State.sectorOut (s : State) (ps : Nat) (w : ShootSet) : Bool :=
  s.accesses.any (fun a => sectorOf a.fir.ci == ps && a.port.isSome
    && a.reqs.any (fun r => (r.state == 0 || r.state == 3) && s.covered w a.fir.ctx (r.va / 65536)))
  || s.remotes.any (fun r => r.who == .keeper ps)

/-- Whether a shootdown covers a page that a message of a link engine's goes through, in the ASID it was taken with. -/
def State.coversFor (s : State) (w : ShootSet) (m : Token) (asid : Option Nat) (page : Nat) : Bool :=
  match asid with
  | some a => w.covers a page (s.viewStamps.find? m.ctx.toNat)
  | none => false

/-- Whether an inbox is one of link engine `l`'s. -/
def atLink (l : Nat) (d : Dest) : Bool :=
  match engineOf d with
  | some (.link k _) => k == l
  | _ => false

/-- A remote request that a command of link engine `l` sent through an invalidated translation has not been performed (R374): a chunk of
`ln.put` or `ln.get`, at the offset it carries, or the add of `ln.signal`. -/
def State.linkOut (s : State) (l : Nat) (w : ShootSet) : Bool :=
  s.remotes.any (fun r =>
    match r.who with
    | .command key =>
      (match s.busy.find? key with
       | some b =>
         let va := if b.phase = 50 then (if r.kind = 1 then qOp b.msg 1 else qOp b.msg 2) + r.arg.toNat else qOp b.msg 1
         atLink l b.msg.dest && decide (r.kind ≤ 2) && s.coversFor w b.msg b.asid (va / 65536)
       | none => false)
    | _ => false)

/-- A link engine's commands in flight lose the pages that a shootdown covers; they translate them again before their next access
(R374). -/
def State.invalidateLink (s : State) (l : Nat) (w : ShootSet) : State :=
  let left (m : Token) (asid : Option Nat) (t : Tab (Nat × Bool)) : Tab (Nat × Bool) := t.filter (fun e => !s.coversFor w m asid e.1)
  { s with
    busy := s.busy.map (fun e =>
      if atLink l e.2.msg.dest then (e.1, { e.2 with src := left e.2.msg e.2.asid e.2.src, dst := left e.2.msg e.2.asid e.2.dst }) else e),
    colls := s.colls.map (fun c =>
      if atLink l c.msg.dest then { c with src := left c.msg c.asid c.src, dst := left c.msg c.asid c.dst } else c) }

/-- SHOOTDOWN_INVALIDATE (R374): receiver `rc` (a sector; 32 and a die for a page engine; 36 and a link die for a link engine)
invalidates, and acknowledges once nothing it sent through an invalidated translation is still to be performed. -/
def execShootdownInvalidate (id rc : Nat) (s : State) : Out :=
  ok (match s.shoots.find? (fun x => x.id == id) with
      | none => s
      | some x =>
        if !x.waiting.contains rc then s
        else
          let ack (t : State) : State :=
            { t with shoots := t.shoots.map (fun y => if y.id = id then { y with waiting := y.waiting.filter (fun r => r != rc) } else y) }
          if 36 ≤ rc then (if s.linkOut (rc - 36) x.what then s else ack (s.invalidateLink (rc - 36) x.what))
          else if 32 ≤ rc then
            let hit (e : WalkEntry) : Bool := e.die == rc - 32 &&
              (match x.what with
               | .pages a p n => e.asid == a && (upTo n).any (fun i => walkPrefix ((p + i) * 65536) e.level == e.pre)
               | .all a => e.asid == a
               | .stamp a _ => e.asid == a)
            ack { s with walkCache := s.walkCache.filter (fun e => !hit e) }
          else
            if s.sectorOut rc x.what then s else ack ((s.invalidateSector rc x.what).retranslate rc x.what))

/-- SHOOTDOWN_COMPLETE (R374): every receiver has acknowledged. A move whose cut-over it was completes (R381, R370); a twin
fill is over (R390). -/
def execShootdownComplete (id : Nat) (s : State) : Out :=
  ok (match s.shoots.find? (fun x => x.id == id) with
      | none => s
      | some x =>
        if !x.waiting.isEmpty then s
        else
          let s1 := { s with shoots := s.shoots.filter (fun y => y.id != id),
                             fills := s.fills.filter (fun f => f.shoot != some id) }
          match s1.moves.find? (fun v => v.phase == .shooting && v.shoot == id) with
          | none => s1
          | some v =>
            if v.cause = 0 then s1.moveDone v sOK v.src 0
            else ((s1.bump (pageReg v.die 0x90) 1).migAbort v 7).moveDone v sABORTED v.src 7)

/-! ## Commands and automatic moves (R387, R397, R398) -/

/-- A page command (R394): its checks and its flags. -/
def State.pageCmd (s : State) (m : Token) (lanes flags : Nat) (f : Nat → State → State) : State :=
  match engineOf m.dest with
  | some (.page die) => s.command m true lanes flags (fun t => f die t)
  | _ => s

/-- A page command goes on in the ASID it was taken with; where its slot was not live it completes XLAT (R501). -/
def State.inAsid (s : State) (m : Token) (f : Nat → State) : State :=
  match s.takenAsid m with
  | none => s.finish m sXLAT 0 []
  | some a => f a

/-- A VA operand that is in range and aligned (R394). -/
def vaOk (q : Nat) : Bool := decide (q < 2 ^ 56) && q % 65536 == 0

/-- What the walk of a `pg.move` finds (R397): a leaf to move, or the status and lanes that end the command. -/
def State.moveCheck (s : State) (die asid va tier toDie : Nat) : Except (Nat × List Lane) Leaf × State :=
  match s.findLeaf die asid va with
  | (.error c, t) => (.error (statusOfCode c, []), t)
  | (.ok l, t) =>
    if l.lvl ≠ 4 ∨ l.st ≠ 0 then (.error (sBADARG, [BitVec.ofNat 32 l.st]), t)
    else if tierOf l.frame = 3 then (.error (sBADARG, [BitVec.ofNat 32 (l.st + 2 ^ 31)]), t)
    else if movePlaced l.frame tier toDie then (.error (sOK, []), t)
    else (.ok l, t)

/-- PG_MOVE (R397): refused, nothing to do, or a move that waits to begin while its message heads the inbox (R405). -/
def execPgMove (m : Token) (s : State) : Out :=
  ok (s.pageCmd m 4 0xF00 (fun die t =>
    let va := qOp m 1
    let tier := bits (lane0 m) 9 8
    let toDie := bits (lane0 m) 11 10
    if t.moves.any (fun v => v.msg.isSome && v.phase == .waiting && v.arr == t.headArrival (inboxKey m.dest)) then t
    else if tier = 3 ∨ !vaOk va then t.finish m sBADARG 0 []
    else
      t.inAsid m (fun asid =>
        match t.moveCheck die asid va tier toDie with
        | (.error (st, lanes), t1) => t1.finish m st 0 lanes
        | (.ok l, t1) =>
          t1.newMove (Move.make die asid va (some m) (t1.headArrival (inboxKey m.dest)) tier toDie l false))))

/-- PG_ABORT (R398): the move of VA, before its seal, aborts with cause SOFTWARE; it completes when the page is back. -/
def execPgAbort (m : Token) (s : State) : Out :=
  ok (s.pageCmd m 4 0 (fun die t =>
    let va := qOp m 1
    match t.busyOf m with
    | some b =>
      if t.moves.any (fun v => v.id == nth 0 b.nums 0) then t
      else t.finish m sOK 0 [BitVec.ofNat 32 (nth 0 b.nums 1)]
    | none =>
      if !vaOk va then t.finish m sBADARG 0 []
      else
        t.inAsid m (fun asid =>
          match t.moves.find? (fun v => v.asid == asid && v.va == va && v.phase == .copying) with
          | some v => (t.startAbort v 6).waitBusy m 1 [v.id, v.copied] []
          | none =>
            match t.findLeaf die asid va with
            | (.error c, t1) => t1.finish m (statusOfCode c) 0 []
            | (.ok l, t1) => t1.finish m sBADARG 0 [BitVec.ofNat 32 l.st])))

/-- AUTO_MOVE_START (R387): the oldest candidate of a page engine runs as `pg.move` of the page that its leaf entry maps; one whose page
is not HOME is dropped. -/
def execAutoMoveStart (die : Nat) (s : State) : Out :=
  ok (match Tab.get [] s.autoQ die with
      | [] => s
      | (_, asid, pte, tier) :: rest =>
        let s1 := { s with autoQ := Tab.set s.autoQ die rest }
        match s1.leafPage die asid pte with
        | none => s1
        | some (va, lvl) =>
          if lvl = 4 ∧ bits (s1.devRead pte 8) 7 4 ≠ 0 then s1
          else
            match s1.moveCheck die asid va tier die with
            | (.error (st, lanes), t) => t.autoAnswer die asid st lanes
            | (.ok l, t) => t.newMove (Move.make die asid va none 0 tier die l false))

/-- The indices of the side entries of a die that hold anything. -/
def State.sideEntries (s : State) (die : Nat) : List Nat :=
  let base := (s.reg (pageReg die 8)).toNat
  ((s.mem.filter (fun e => decide (base ≤ e.1 ∧ e.1 < base + 16 * 0x2900000))).map (fun e => (e.1 - base) / 16)).eraseDups

/-- The frame of a side entry of a die (R376). -/
def sideFrame (die i : Nat) : Nat :=
  if i < 0x300000 then (3 * die + i / 0x100000) * 2 ^ 36 + i % 0x100000 * 65536
  else if i < 0x900000 then 0x10000000000 + die * 0x6000000000 + (i - 0x300000) * 65536
  else 0x100000000000 + nth 0 [0, 2, 1, 3] die * 2 ^ 41 + (i - 0x900000) * 65536

/-- HOT_HALVE (R386, R387): at each multiple of 2^20 clk HOT is halved in every side entry of a die while HALVE is 1, and
cold frames of HBM4E are queued for demotion. -/
def execHotHalve (die : Nat) (s : State) : Out :=
  let epoch := s.clk / 2 ^ 20
  ok (if epoch ≤ Tab.get 0 s.halved die then s
      else
        let s1 := { s with halved := Tab.set s.halved die (Tab.get 0 s.halved die + 1) }
        if s1.regBits (pageReg die 0x10) 16 16 = 0 then s1
        else
          (s1.sideEntries die).foldl (fun t i =>
            let f := sideFrame die i
            let w := t.side0 f
            let hot := bits w 7 0 / 2
            let t1 := t.setSide0 f (putBits w 7 0 hot)
            let d := t1.desc die (bits w 45 32) 8
            if t1.regBits (pageReg die 0x10) 17 17 = 1 ∧ bits w 20 20 = 1 ∧ tierOf f = 0 ∧ bits d 49 48 ≠ 0
                ∧ hot ≤ bits d 47 40 then
              t1.autoPush die f (bits w 45 32) (t1.side1 f) (bits d 49 48)
            else t1) s1)

end Sys2Proof.Machine
end

