-- ==== Sys2Proof/Machine/PageView.lean ====
section
/-! DEFINITION. Pins, hotness, snapshot views, invalidation, probes and twin fills of the page engine (R388 to R393, R399
to R404). -/

namespace Sys2Proof.Machine

/-! ## Pins and hotness (R377, R399, R400) -/

/-- The leaf of a page of a command's range; a page beyond the address space does not translate. -/
def State.pageLeaf (s : State) (die asid va : Nat) : Except Nat Leaf × State :=
  if va < 2 ^ 56 then s.findLeaf die asid va else (.error fXLAT, s)

/-- The pages of a pin still to do, `n` of them, after the frames held (R399). -/
def State.pinPages (m : Token) (die asid : Nat) : Nat → List Nat → State → State
  | 0, held, s => s.finish m sOK 0 [BitVec.ofNat 32 held.length]
  | n + 1, held, s =>
    match s.pageLeaf die asid (qOp m 1 + 65536 * held.length) with
    | (.error c, s1) => s1.finish m (statusOfCode c) 0 [BitVec.ofNat 32 held.length]
    | (.ok l, s1) =>
      let f := s1.holdFrame l.frame
      if s1.holdCount f = 255 then s1.waitHold m f [] held
      else State.pinPages m die asid n (held ++ [f]) (s1.addHold f)

/-- PG_PIN (R399): one hold on each of NP pages; at 255 it waits (R377). -/
def execPgPin (m : Token) (s : State) : Out :=
  ok (s.pageCmd m 6 0 (fun die t =>
    if !vaOk (qOp m 1) ∨ 65536 ≤ qOp m 2 then t.finish m sBADARG 0 []
    else
      match t.resumed m with
      | none => t
      | some (_, held) => t.inAsid m (fun asid => State.pinPages m die asid (qOp m 2 + 1 - held.length) held t)))

/-- The pages of an unpin still to do, after `k` of them (R399). -/
def State.unpinPages (m : Token) (die asid : Nat) : Nat → Nat → State → State
  | 0, k, s => s.finish m sOK 0 [BitVec.ofNat 32 k]
  | n + 1, k, s =>
    match s.pageLeaf die asid (qOp m 1 + 65536 * k) with
    | (.error c, s1) => s1.finish m (statusOfCode c) 0 [BitVec.ofNat 32 k]
    | (.ok l, s1) =>
      let f := s1.holdFrame l.frame
      if s1.holdCount f = 0 then s1.finish m sBADARG 0 [BitVec.ofNat 32 k]
      else State.unpinPages m die asid n (k + 1) (s1.dropHold f)

/-- PG_UNPIN (R399). -/
def execPgUnpin (m : Token) (s : State) : Out :=
  ok (s.pageCmd m 6 0 (fun die t =>
    if !vaOk (qOp m 1) ∨ 65536 ≤ qOp m 2 then t.finish m sBADARG 0 []
    else t.inAsid m (fun asid => State.unpinPages m die asid (qOp m 2 + 1) 0 t)))

/-- HOT of the pages of a `pg.hot`: lane 1 and the bytes of the lanes after it, as numbers, from page `k` (R400). -/
def State.hotPages (m : Token) (die asid : Nat) (clear : Bool) : Nat → Nat → Nat → Nat → State → Nat × Nat × State
  | 0, _, ok, hots, s => (ok, hots, s)
  | n + 1, k, ok, hots, s =>
    match s.pageLeaf die asid (qOp m 1 + 65536 * k) with
    | (.error _, s1) => State.hotPages m die asid clear n (k + 1) ok hots s1
    | (.ok l, s1) =>
      let f := s1.holdFrame l.frame
      let w := s1.side0 f
      State.hotPages m die asid clear n (k + 1) (ok + 2 ^ k) (hots + bits w 7 0 * 2 ^ (8 * k))
        (if clear then s1.setSide0 f (putBits (putBits w 7 0 0) 11 8 0) else s1)

/-- PG_HOT (R400). -/
def execPgHot (m : Token) (s : State) : Out :=
  ok (s.pageCmd m 6 0x100 (fun die t =>
    if !vaOk (qOp m 1) ∨ 32 ≤ qOp m 2 then t.finish m sBADARG 0 []
    else
      t.inAsid m (fun asid =>
        let (good, hots, t1) := State.hotPages m die asid (bitOf (lane0 m) 8) (qOp m 2 + 1) 0 0 0 t
        t1.finish m sOK 0 (BitVec.ofNat 32 good :: (upTo 8).map (fun i => BitVec.ofNat 32 (hots / 2 ^ (32 * i)))))))

/-! ## The chains of old copies and their sweep (R389 to R392) -/

/-- A descriptor's words. -/
def State.rdescWord (s : State) (die asid i w : Nat) : Nat := s.devRead (s.rdesc die asid i + 8 * w) 8

/-- A descriptor's frame. -/
def State.rdescFrame (s : State) (die asid i : Nat) : Nat := bits (s.rdescWord die asid i 0) 56 16 * 65536

/-- A fill that has not yet linked its old copy. -/
def Fill.filling (f : Fill) : Bool := f.shoot.isNone

/-- The descriptors of a chain, newest first, from the field `d` (index + 1, 0 for none). -/
def State.chain (die asid : Nat) : Nat → State → Nat → List Nat
  | 0, _, _ => []
  | n + 1, s, d =>
    if d = 0 then [] else (d - 1) :: State.chain die asid n s (bits (s.rdescWord die asid (d - 1) 1) 47 32)

/-- A descriptor freed: USED is 0, and the frame is no longer an old copy. -/
def State.freeDesc (s : State) (die asid i : Nat) : State :=
  let f := s.rdescFrame die asid i
  (s.devPut (s.rdesc die asid i) 8 (putBits (s.rdescWord die asid i 0) 0 0 0)).setSide0 f (putBits (s.side0 f) 21 21 0)

/-- The copies of one chain that a sweep keeps and frees: a copy is freed when no open view has a stamp from its BIRTH up
to, not including, the BIRTH of the next newer copy (R392). -/
def State.sweepSplit (s : State) (die asid : Nat) (stamps : List Nat) : Nat → List Nat → List Nat × List Nat
  | _, [] => ([], [])
  | newer, d :: ds =>
    let b := bits (s.rdescWord die asid d 1) 31 0
    let (keep, free) := State.sweepSplit s die asid stamps b ds
    if stamps.any (fun x => decide (b ≤ x ∧ x < newer)) then (d :: keep, free) else (keep, d :: free)

/-- The kept copies of a chain linked together: each names the next older one, and its frame the next newer one's. -/
def State.linkChain (die asid : Nat) : State → Nat → List Nat → State
  | s, _, [] => s
  | s, newer, d :: ds =>
    let next := match ds with | e :: _ => e + 1 | [] => 0
    let f := s.rdescFrame die asid d
    State.linkChain die asid
      ((s.devPut (s.rdesc die asid d + 8) 8 (putBits (s.rdescWord die asid d 1) 47 32 next)).setSide1 f newer) f ds

/-- The sweep of one leaf's chain (R392): how many copies it freed. -/
def State.sweepLeaf (s : State) (die asid pte : Nat) : Nat × State :=
  let e := s.devRead pte 8
  let ext := s.devRead (pte + 8192) 8
  let fill := s.fills.find? (fun f => f.pte == pte && f.filling)
  let head := match fill with | some f => f.next | none => bits ext 63 48
  let birth := match fill with | some f => f.birth | none => bits ext 31 0
  let ds := State.chain die asid (s.rdescCount die asid) s head
  let (keep, free) := s.sweepSplit die asid (s.openStamps die asid) birth ds
  let s1 := free.foldl (fun t d => t.freeDesc die asid d) s
  let s2 := State.linkChain die asid s1 (bits e 56 16 * 65536) keep
  let next := match keep with | d :: _ => d + 1 | [] => 0
  let s3 := s2.devPut (pte + 8192) 8 (putBits ext 63 48 (if fill.isSome then bits ext 63 48 else next))
  let s4 := { s3 with fills := s3.fills.map (fun f => if f.pte = pte ∧ f.filling then { f with next := next } else f) }
  (free.length,
    if fill.isNone ∧ keep.isEmpty ∧ !free.isEmpty ∧ bits e 7 4 = 2 then s4.setPte pte (putBits e 7 4 0) else s4)

/-- The sweep of an ASID's descriptors (R392, R370): the copies freed. What no chain reaches is freed too; the descriptors
of fills in progress are not swept. -/
def State.sweepViews (s : State) (die asid : Nat) : Nat × State :=
  let inUse := (s.fills.filter (fun f => f.asid == asid && f.filling)).map (fun f => f.desc)
  let used (t : State) : List Nat :=
    (upTo (t.rdescCount die asid)).filter (fun i => bitOf (t.rdescWord die asid i 0) 0 && !inUse.contains i)
  let ptes := ((used s).map (fun i => bits (s.rdescWord die asid i 2) 56 3 * 8)).eraseDups
  let (n, s1) := ptes.foldl (fun (r : Nat × State) p =>
    let (k, t) := r.2.sweepLeaf die asid p
    (r.1 + k, t)) (0, s)
  let reached := ptes.flatMap (fun p =>
    let head := match s1.fills.find? (fun f => f.pte == p && f.filling) with
      | some f => f.next
      | none => bits (s1.devRead (p + 8192) 8) 63 48
    State.chain die asid (s1.rdescCount die asid) s1 head)
  let lost := (used s1).filter (fun i => !reached.contains i)
  (n + lost.length, lost.foldl (fun t i => t.freeDesc die asid i) s1)

/-! ## Views (R388, R392, R401) -/

/-- The view that a context holds, if it holds one: its index. -/
def State.viewOf (s : State) (die asid : Nat) (ctx : BitVec 12) : Option Nat :=
  (upTo 4).find? (fun v => (s.viewStamp? die asid v).isSome && bits (s.desc die asid 0x38) (12 * v + 11) (12 * v) == ctx.toNat)

/-- A field of an ASID's descriptor written by the page engine. -/
def State.setDesc (s : State) (die asid off hi lo v : Nat) : State :=
  s.devPut (s.descAddr die asid + off) 8 (putBits (s.desc die asid off) hi lo v)

/-- A view's OPEN bit, stamp and context cleared (R392). -/
def State.clearView (s : State) (die asid v : Nat) : State :=
  let ctx := bits (s.desc die asid 0x38) (12 * v + 11) (12 * v)
  let s1 := { s with viewStamps := s.viewStamps.erase ctx }
  (((s1.setDesc die asid 0x20 (32 + v) (32 + v) 0).setDesc die asid (0x28 + 8 * (v / 2)) (32 * (v % 2) + 31) (32 * (v % 2)) 0).setDesc
    die asid 0x38 (12 * v + 11) (12 * v) 0).markHeld

/-- The view of a context closed as its slot ends or its partition is reset (R392). Nothing of the context translates any
more, so the sweep does not wait for the shootdown. -/
def State.closeView (s : State) (die asid : Nat) (ctx : BitVec 12) : State :=
  match s.viewOf die asid ctx with
  | none => { s with viewStamps := s.viewStamps.erase ctx.toNat }
  | some v =>
    match s.viewStamp? die asid v with
    | none => s
    | some x =>
      let (_, s1) := s.shootdown die (.stamp asid x)
      ((s1.clearView die asid v).sweepViews die asid).2

/-- A move of an ASID that has begun, or a twin fill of it, is in progress. -/
def State.pagesBusy (s : State) (asid : Nat) : Bool :=
  s.moves.any (fun v => v.asid == asid && v.phase != .waiting) || s.fills.any (fun f => f.asid == asid)

/-- PG_VIEW_OPEN (R388, R401): it waits for the moves and fills of the ASID, takes a view index and a stamp, and completes
after a shootdown of the whole ASID. -/
def execPgViewOpen (m : Token) (s : State) : Out :=
  ok (s.pageCmd m 2 0 (fun die t => t.inAsid m (fun asid =>
    match (t.busyOf m).bind (fun b => if b.phase = 1 then some b else none) with
    | some b =>
      if t.shooting (nth 0 b.nums 0) then t
      else t.finish m sOK (nth 0 b.nums 1) [BitVec.ofNat 32 (nth 0 b.nums 2)]
    | none =>
      let stamp := bits (t.desc die asid 0x20) 31 0
      if (t.viewOf die asid m.ctx).isSome then t.finish m sBADARG 0 []
      else
        match (upTo 4).find? (fun v => (t.viewStamp? die asid v).isNone) with
        | none => t.finish m sOVERFLOW 0 []
        | some v =>
          if stamp = 0xFFFFFFFF then t.finish m sOVERFLOW 0 []
          else if t.pagesBusy asid then t.waitBusy m 0 [] []
          else
            let t1 := (((t.setDesc die asid 0x20 31 0 (stamp + 1)).setDesc die asid (0x28 + 8 * (v / 2))
              (32 * (v % 2) + 31) (32 * (v % 2)) stamp).setDesc die asid 0x38 (12 * v + 11) (12 * v) m.ctx.toNat).setDesc
              die asid 0x20 (32 + v) (32 + v) 1
            let t2 := State.markHeld { t1 with viewStamps := Tab.set t1.viewStamps m.ctx.toNat stamp }
            let (n, t3) := t2.shootdown die (.all asid)
            t3.waitBusy m 1 [n, v, stamp] [])))

/-- PG_VIEW_CLOSE (R392, R401): after a shootdown of the view's stamp the view is cleared and the old copies swept. -/
def execPgViewClose (m : Token) (s : State) : Out :=
  ok (s.pageCmd m 2 0 (fun die t => t.inAsid m (fun asid =>
    match t.busyOf m with
    | some b =>
      if t.shooting (nth 0 b.nums 0) then t
      else
        let (k, t1) := (t.clearView die asid (nth 0 b.nums 1)).sweepViews die asid
        t1.finish m sOK 0 [BitVec.ofNat 32 k]
    | none =>
      match t.viewOf die asid m.ctx with
      | none => t.finish m sBADARG 0 []
      | some v =>
        let (n, t1) := t.shootdown die (.stamp asid ((t.viewStamp? die asid v).getD 0))
        t1.waitBusy m 1 [n, v] [])))

/-! ## Invalidation, probes and fences (R402 to R404) -/

/-- The moves of an ASID aborted with cause TEARDOWN (R383, R402): one that has not begun ends at once. -/
def State.tearMoves (s : State) (asid : Nat) : State :=
  (s.moves.filter (fun v => v.asid == asid)).foldl (fun t v =>
    if v.phase = .copying then t.startAbort v 5
    else if v.phase = .waiting then
      ((t.bump (pageReg v.die 0x90) 1).migAbort v 5).moveDone v sABORTED (v.taken.getD 0) 5
    else t) s

/-- PG_INVAL (R402): a shootdown of pages or of the whole ASID; TEAR first aborts the ASID's moves, waits for its fills,
closes its views, frees its descriptors and zeroes what the engine owns of the ASID's descriptor. -/
def execPgInval (m : Token) (s : State) : Out :=
  ok (s.pageCmd m 6 0x300 (fun die t =>
    let all := bitOf (lane0 m) 8
    let tear := bitOf (lane0 m) 9
    let start (asid : Nat) (u : State) : State :=
      let (n, u1) := u.shootdown die (if all then .all asid else .pages asid (qOp m 1 / 65536) (qOp m 2 + 1))
      u1.waitBusy m 3 [n] []
    if (t.busyOf m).isNone ∧ ((tear ∧ !all) ∨ (all ∧ (qOp m 1 ≠ 0 ∨ qOp m 2 ≠ 0)) ∨ !vaOk (qOp m 1) ∨ 65536 ≤ qOp m 2) then
      t.finish m sBADARG 0 []
    else t.inAsid m (fun asid =>
    match t.busyOf m with
    | some b =>
      if b.phase = 3 then
        if b.nums.any t.shooting then t else t.finish m sOK 0 []
      else if t.pagesBusy asid ∨ b.nums.any t.shooting then t
      else if b.phase = 1 then
        let (ns, t1) := (t.openStamps die asid).foldl (fun (r : List Nat × State) x =>
          let (n, u) := r.2.shootdown die (.stamp asid x)
          (r.1 ++ [n], u)) ([], t)
        t1.waitBusy m 2 ns []
      else
        let t1 := (upTo 4).foldl (fun u v => if (u.viewStamp? die asid v).isSome then u.clearView die asid v else u) t
        let t2 := (t1.sweepViews die asid).2
        start asid (t2.devPutBytes (t2.descAddr die asid + 0x20) (List.replicate 32 0))
    | none => if tear then (t.tearMoves asid).waitBusy m 1 [] [] else start asid t)))

/-- PG_PROBE (R403). -/
def execPgProbe (m : Token) (s : State) : Out :=
  ok (s.pageCmd m 4 0 (fun die t =>
    if !vaOk (qOp m 1) then t.finish m sBADARG 0 []
    else t.inAsid m (fun asid =>
      match t.findLeaf die asid (qOp m 1) with
      | (.error c, t1) => t1.finish m (statusOfCode c) 0 []
      | (.ok l, t1) =>
        let w := t1.side0 l.frame
        let mv := if l.st = 1 then t1.moves.find? (fun v => v.src == l.frame && v.phase != .waiting) else none
        let n := match mv with | some v => v.copied | none => 0
        let sealed : Bool := match mv with | some v => v.phase == .sealed || v.phase == .shooting | none => false
        t1.finish m sOK 0
          [BitVec.ofNat 32 l.entry, BitVec.ofNat 32 (l.entry / 2 ^ 32), BitVec.ofNat 32 l.ext, BitVec.ofNat 32 (l.ext / 2 ^ 32),
            BitVec.ofNat 32 w, BitVec.ofNat 32 (w / 2 ^ 32),
            BitVec.ofNat 32 (n + l.lvl * 512 + (if sealed then 4096 else 0))])))

/-- PG_FENCE (R404, R66). -/
def execPgFence (m : Token) (s : State) : Out :=
  ok (s.pageCmd m 2 0xF00 (fun _ t => t.fenceCmd m (bits (lane0 m) 11 8) 4))

/-! ## Twin fills (R390) -/

/-- TWIN_LINE_COPY: the lowest line not yet copied goes to the new frame. -/
def execTwinLineCopy (id : Nat) (s : State) : Out :=
  ok (match s.fills.find? (fun f => f.id == id && f.filling) with
      | some f =>
        match (upTo 256).find? (fun l => !f.lines.contains l) with
        | some l => s.copyFillLine f l
        | none => s
      | none => s)

/-- TWIN_FILL_COMPLETE: with every line copied, the leaf takes the new frame and the old one joins the page's chain; a
shootdown begins. An entry that software rewrote stays as it is (R370), and its descriptor is left to the next sweep. -/
def execTwinFillComplete (id : Nat) (s : State) : Out :=
  ok (match s.fills.find? (fun f => f.id == id && f.filling) with
      | some f =>
        if f.lines.length < 256 then s
        else
          let e := s.devRead f.pte 8
          let ext := s.devRead (f.pte + 8192) 8
          let a := s.rdesc f.die f.asid f.desc
          if e = f.entry then
            let w := s.side0 f.old
            let s1 := (s.setPte f.pte (putBits e 56 16 (f.new / 65536))).devPut (f.pte + 8192) 8 (putBits ext 63 48 (f.desc + 1))
            let s2 := ((s1.devPut a 8 (1 + f.old)).devPut (a + 8) 8 (f.birth + f.next * 2 ^ 32)).devPut (a + 16) 8 f.pte
            let s3 := (s2.setSide0 f.new (putBits (putBits (s2.side0 f.new) 20 20 (bits w 20 20)) 45 32 (bits w 45 32))).setSide1
              f.new (s2.side1 f.old)
            let s4 := (s3.setSide0 f.old (putBits (putBits (putBits w 20 20 0) 45 32 0) 21 21 1)).setSide1 f.old f.new
            let (n, s5) := (s4.bump (pageReg f.die 0x98) 1).shootdown f.die (.pages f.asid (f.va / 65536) 1)
            { s5 with fills := s5.fills.map (fun x => if x.id = f.id then { x with shoot := some n } else x) }
          else { s with fills := s.fills.filter (fun x => x.id != f.id) }
      | none => s)

end Sys2Proof.Machine
end

