-- ==== Sys2Proof/Machine/Ladder.lean ====
section
/-! DEFINITION. The ladder controller (R303, R304, R310, R312 to R319): profile sets, holds on wide operands, its counters
and its commands. -/

namespace Sys2Proof.Machine

/-! ## Profile sets (R303 to R305, R310) -/

/-- A set with every profile at its defaults and no forced format. -/
def LadSet.fresh (ctx : BitVec 12) : LadSet := { ctx := ctx, saved := none, profs := List.replicate 8 .default, forced := 0 }

/-- The set of a context, if one is bound. -/
def State.ladSet? (s : State) (ps : Nat) (ctx : BitVec 12) : Option LadSet :=
  (s.ladder ps).sets.find? (fun x => x.ctx == ctx && x.saved.isNone)

/-- A profile of a context; the defaults where no set is bound (R304). -/
def State.profile (s : State) (ps : Nat) (ctx : BitVec 12) (n : Nat) : Profile :=
  match s.ladSet? ps ctx with
  | some x => nth .default x.profs n
  | none => .default

/-- The format forced for a context's profile passes; 0: none (R310). -/
def State.forced (s : State) (ps : Nat) (ctx : BitVec 12) : Nat :=
  match s.ladSet? ps ctx with
  | some x => x.forced
  | none => 0

/-- The set of a context replaced; bound first where none was. -/
def State.putSet (s : State) (ps : Nat) (x : LadSet) : State :=
  let l := s.ladder ps
  s.setLadder ps { l with
    sets := if l.sets.any (fun y => y.ctx == x.ctx && y.saved.isNone) then
        l.sets.map (fun y => if y.ctx = x.ctx ∧ y.saved.isNone then x else y)
      else l.sets ++ [x] }

/-- Whether a command of a context has a set to act on, or one is free (R304). -/
def State.canBind (s : State) (ps : Nat) (ctx : BitVec 12) : Bool :=
  (s.ladSet? ps ctx).isSome || decide ((s.ladder ps).sets.length < 4)

/-- The set a command of a context acts on. -/
def State.theSet (s : State) (ps : Nat) (ctx : BitVec 12) : LadSet := (s.ladSet? ps ctx).getD (.fresh ctx)

/-- A context's set and explicit holds, freed as it ends or its partition is reset (R304, R312). -/
def State.freeLadder (s : State) (ctx : BitVec 12) : State :=
  { s with ladders := s.ladders.map (fun e =>
      (e.1, { e.2 with sets := e.2.sets.filter (fun x => x.ctx != ctx || x.saved.isSome),
                       holds := e.2.holds.filter (fun h => h.auto || h.ctx != ctx || h.saved.isSome) })) }

/-- The sets and explicit holds of a context as it is saved out into an image: they stay bound to it, not to its slot (R304, R456). -/
def State.saveLadder (s : State) (ctx : BitVec 12) (image part : Nat) : State :=
  { s with ladders := s.ladders.map (fun e =>
      (e.1, { e.2 with
        sets := e.2.sets.map (fun x => if x.ctx = ctx ∧ x.saved.isNone then { x with saved := some (image, part) } else x),
        holds := e.2.holds.map (fun h => if !h.auto ∧ h.ctx = ctx ∧ h.saved.isNone then { h with saved := some (image, part) } else h) })) }

/-- They pass to the slot that the image is restored into. -/
def State.restoreLadder (s : State) (image : Nat) (ctx : BitVec 12) : State :=
  { s with ladders := s.ladders.map (fun e =>
      (e.1, { e.2 with
        sets := e.2.sets.map (fun x => if x.saved.map (fun p => p.1) = some image then { x with ctx := ctx, saved := none } else x),
        holds := e.2.holds.map (fun h => if h.saved.map (fun p => p.1) = some image then { h with ctx := ctx, saved := none } else h) })) }

/-- The sets and explicit holds of the contexts saved out of a partition that is reset (R304, R463). -/
def State.freeSavedLadder (s : State) (mask : Nat) : State :=
  let stays (x : Option (Nat × Nat)) : Bool := match x with | some p => p.2 &&& mask == 0 | none => true
  { s with ladders := s.ladders.map (fun e =>
      (e.1, { e.2 with sets := e.2.sets.filter (fun x => stays x.saved), holds := e.2.holds.filter (fun h => stays h.saved) })) }

/-! ## Holds (R312 to R314) -/

/-- The automatic entries in use. -/
def Ladder.autoUsed (l : Ladder) : Nat := (l.holds.filter (fun h => h.auto)).length

/-- Automatic holds of a pass on its extents, where the controller has the entries free. -/
def State.takeAuto (s : State) (pl seq : Nat) (ctx : BitVec 12) (extents : List (Nat × Nat)) : Option State :=
  let l := s.ladder (pl / 5)
  if l.autoUsed + extents.length ≤ 64 then
    some (s.setLadder (pl / 5) { l with holds := l.holds ++ extents.map (fun e =>
      { saved := none, auto := true, pool := pl, seq := seq, ctx := ctx, lo := e.1, hi := e.2, released := false, lifted := false }) })
  else none

/-- The automatic holds of a pass that commits or ends in a fault. -/
def State.dropAuto (s : State) (pl seq : Nat) : State :=
  let l := s.ladder (pl / 5)
  s.setLadder (pl / 5) { l with holds := l.holds.filter (fun h => !(h.auto && h.pool == pl && h.seq == seq)) }

/-- An extent of a pass has been released (R306). -/
def State.autoReleased (s : State) (pl seq : Nat) : Bool :=
  (s.ladder (pl / 5)).holds.any (fun h => h.auto && h.pool == pl && h.seq == seq && h.released)

/-- The stream of a pass has ended: its released extents stop delaying writes (R313). -/
def State.liftReleased (s : State) (pl seq : Nat) : State :=
  let l := s.ladder (pl / 5)
  s.setLadder (pl / 5) { l with holds := l.holds.map (fun h =>
    if h.auto ∧ h.pool = pl ∧ h.seq = seq ∧ h.released then { h with lifted := true } else h) }

/-- Whether a pass is streaming: from its start to the end of its stream, which the decision follows. -/
def State.passStreams (s : State) (pl seq : Nat) : Bool :=
  (s.pool pl).passes.any (fun p => p.seq == seq && (p.phase == .streamed || p.phase == .span))

/-! ## Counters (R318, R319) -/

/-- A counter of a pool in its sector's ladder controller, by its offset within the pool's block. -/
def ladReg (pl off : Nat) : Nat := secReg (pl / 5) 8 (0x80 * (pl % 5) + off)
/-- `LAD.PASS` of a format code. -/
def ladPass (pl f : Nat) : Nat := ladReg pl (8 * (f - 1))
/-- `LAD.REPLAY` of a step. -/
def ladReplay (pl st : Nat) : Nat := ladReg pl (0x30 + 8 * (st - 1))
/-- `LAD.SQUASH`. -/
def ladSquash (pl : Nat) : Nat := ladReg pl 0x48
/-- `LAD.NOSRC`. -/
def ladNosrc (pl : Nat) : Nat := ladReg pl 0x50

/-! ## Commands (R315, R316) -/

/-- A ladder command: the checks, the bits that Q1 may have, and its effect, given the sector and Q1. -/
def State.ladCmd (s : State) (m : Token) (mask : Nat) (f : Nat → Nat → State → State) : State :=
  match engineOf m.dest with
  | some (.ladder ps) =>
    s.command m true 4 0 (fun t => if extraBits (qOp m 1) mask then t.finish m sBADARG 0 [] else f ps (qOp m 1) t)
  | _ => s

/-- A command that acts on its context's set: OVERFLOW where none can be bound. -/
def State.withSet (s : State) (m : Token) (ps : Nat) (f : LadSet → State) : State :=
  if s.canBind ps m.ctx then f (s.theSet ps m.ctx) else s.finish m sOVERFLOW 0 []

/-- LAD_BUDGET: the thresholds of a profile at the steps named. -/
def execLadBudget (m : Token) (s : State) : Out :=
  ok (s.ladCmd m 0x070FFFFFFFFFFFFF (fun ps q t =>
    if bits q 51 48 = 0 then t.finish m sBADARG 0 []
    else
      t.withSet m ps (fun x =>
        let n := bits q 58 56
        let p := nth .default x.profs n
        let upd (old : List Nat) (v : Nat) : List Nat := (upTo 4).map (fun i => if bitOf q (48 + i) then v else nth 0 old i)
        let p1 := { p with sat := upd p.sat (bits q 15 0), und := upd p.und (bits q 31 16), can := upd p.can (bits q 47 32) }
        (t.putSet ps { x with profs := setNth p1 x.profs n }).finish m sOK 0 [])))

/-- LAD_START: START of a profile, not above its CAP. -/
def execLadStart (m : Token) (s : State) : Out :=
  ok (s.ladCmd m 0x703 (fun ps q t =>
    t.withSet m ps (fun x =>
      let p := nth .default x.profs (bits q 10 8)
      if p.cap < bits q 1 0 then t.finish m sBADARG 0 []
      else (t.putSet ps { x with profs := setNth { p with start := bits q 1 0 } x.profs (bits q 10 8) }).finish m sOK 0 [])))

/-- LAD_CAP: CAP of a profile, not below its START. -/
def execLadCap (m : Token) (s : State) : Out :=
  ok (s.ladCmd m 0x703 (fun ps q t =>
    t.withSet m ps (fun x =>
      let p := nth .default x.profs (bits q 10 8)
      if bits q 1 0 < p.start then t.finish m sBADARG 0 []
      else (t.putSet ps { x with profs := setNth { p with cap := bits q 1 0 } x.profs (bits q 10 8) }).finish m sOK 0 [])))

/-- BASE and LEN of Q1. -/
def ladRange (q : Nat) : Nat × Nat := (bits q 22 0, bits q 46 24)

/-- LAD_RETAIN: an explicit hold, one of 32 (R314). -/
def execLadRetain (m : Token) (s : State) : Out :=
  ok (s.ladCmd m 0x7FFFFF7FFFFF (fun ps q t =>
    let (base, len) := ladRange q
    if len = 0 then t.finish m sBADARG 0 []
    else if 2 ^ 23 < base + len then t.finish m sADDR 0 []
    else
      t.withSet m ps (fun x =>
        if 32 ≤ ((t.ladder ps).holds.filter (fun h => !h.auto)).length then t.finish m sOVERFLOW 0 []
        else
          let t1 := t.putSet ps x
          let l := t1.ladder ps
          let h : LadHold :=
            { saved := none, auto := false, pool := 0, seq := 0, ctx := m.ctx, lo := base, hi := base + len, released := false,
              lifted := false }
          (t1.setLadder ps { l with holds := l.holds ++ [h] }).finish m sOK 0 [])))

/-- LAD_RELEASE (R313): the context's explicit holds that overlap end, and the automatic extents of its passes that overlap
are marked released; an extent whose pass does not stream stops delaying writes at once. -/
def execLadRelease (m : Token) (s : State) : Out :=
  ok (s.ladCmd m 0x7FFFFF7FFFFF (fun ps q t =>
    let (base, len) := ladRange q
    if len = 0 then t.finish m sBADARG 0 []
    else if 2 ^ 23 < base + len then t.finish m sADDR 0 []
    else
      t.withSet m ps (fun x =>
        let t1 := t.putSet ps x
        let l := t1.ladder ps
        let hit (h : LadHold) : Bool := h.ctx == m.ctx && h.saved.isNone && decide (h.lo < base + len ∧ base < h.hi)
        let n := (l.holds.filter (fun h => hit h && (!h.auto || !h.released))).length
        let keep := (l.holds.filter (fun h => h.auto || !hit h)).map (fun h =>
          if h.auto ∧ hit h ∧ !h.released then { h with released := true, lifted := !t1.passStreams h.pool h.seq } else h)
        (t1.setLadder ps { l with holds := keep }).finish m sOK 0 [BitVec.ofNat 32 n])))

/-- LAD_READ: a pool's counters, or a profile. -/
def execLadRead (m : Token) (s : State) : Out :=
  ok (s.ladCmd m 0xF (fun ps q t =>
    let i := bits q 3 1
    if bitOf q 0 then
      let p := t.profile ps m.ctx i
      t.finish m sOK 0
        (BitVec.ofNat 32 (p.start + p.cap * 256 + t.forced ps m.ctx * 65536)
          :: (upTo 4).map (fun k => BitVec.ofNat 32 (nth 0 p.sat k + nth 0 p.und k * 65536))
          ++ (upTo 4).map (fun k => BitVec.ofNat 32 (nth 0 p.can k)))
    else if 4 < i then t.finish m sBADARG 0 []
    else
      t.withSet m ps (fun x =>
        let pl := 5 * ps + i
        (t.putSet ps x).finish m sOK 0
          ((upTo 6).map (fun f => lo32 (t.reg (ladPass pl (f + 1)))) ++ (upTo 3).map (fun k => lo32 (t.reg (ladReplay pl (k + 1))))
            ++ [lo32 (t.reg (ladSquash pl)), lo32 (t.reg (ladNosrc pl))]))))

/-- LAD_CLEAR: the counters of the pools named. -/
def execLadClear (m : Token) (s : State) : Out :=
  ok (s.ladCmd m 0x1F (fun ps q t =>
    if q = 0 then t.finish m sBADARG 0 []
    else
      ((upTo 5).foldl (fun u p =>
        if bitOf q p then (upTo 11).foldl (fun v k => v.setReg (ladReg (5 * ps + p) (8 * k)) 0) u else u) t).finish m sOK 0 []))

/-- LAD_FORCE (R310): the forced format of the context; 0 ends forcing. -/
def execLadForce (m : Token) (s : State) : Out :=
  ok (s.ladCmd m 7 (fun ps q t =>
    if q = 7 then t.finish m sBADARG 0 []
    else t.withSet m ps (fun x => (t.putSet ps { x with forced := q }).finish m sOK 0 [])))

end Sys2Proof.Machine
end

