-- ==== Sys2Proof/Machine/PoolMath.lean ====
section
/-! DEFINITION. The arithmetic of the multiplier pool: quantisation under block scales (R297 to R299), its monitors (R300,
R301) and the group sum (R94). -/

namespace Sys2Proof.Machine

/-- The format of a format code (R277, R297). -/
def poolFmt (code : Nat) : Fmt :=
  match code with
  | 1 => .e2m1 | 2 => .e3m2 | 3 => .e4m3 | 4 => .bf16 | 5 => .f16 | _ => .e5m2

/-- The capacity of a pool at a format code, in physical leaves (R259). -/
def poolCapacity (code : Nat) : Nat :=
  match code with
  | 1 => 65536 | 2 => 32768 | 3 => 32768 | 6 => 32768 | _ => 16384

/-- Whether a format takes its elements without a scale (R299). -/
def Fmt.unscaled (f : Fmt) : Bool := f == .bf16 || f == .f16

/-- The exponent of a format's largest binade (R297). -/
def Fmt.emax (f : Fmt) : Int := ((f.maxCode / 2 ^ f.mant : Nat) : Int) - (f.bias : Int)

/-- The magnitude of a value. -/
def Num.abs : Num → Num
  | .nan s => .nan s
  | .inf _ => .inf false
  | .real _ n d r => .real false n d r

/-- Neither NaN nor an infinity. -/
def Num.finite : Num → Bool
  | .real _ _ _ _ => true
  | _ => false

/-- A zero of either sign. -/
def Num.isZero : Num → Bool
  | .real _ n _ _ => n == 0
  | _ => false

/-- The exponent of a block's scale code (R299): the code, for a block of finite elements. -/
def scaleCode (f : Fmt) (ws : List Num) : Int :=
  let big := ws.foldl (fun (a : Option Int) w =>
    match w with
    | .real _ n d _ => if n = 0 then a else
        (match a with | some x => some (if x < floorLog2 n d then floorLog2 n d else x) | none => some (floorLog2 n d))
    | _ => a) none
  match big with
  | none => 127
  | some l => let c := l - f.emax + 127; if c < 0 then 0 else if 254 < c then 254 else c

/-- One block quantised (R299, R300): the values that enter the products, the saturations, the underflows. -/
def quantBlock (f : Fmt) (ws : List Num) : List Num × Nat × Nat :=
  if !f.unscaled && ws.any (fun w => !w.finite) then
    (ws.map (fun _ => .nan false), (ws.filter (fun w => !w.finite)).length, 0)
  else
    let x : Int := if f.unscaled then 0 else scaleCode f ws - 127
    let qs := ws.map (fun w => (w, round f 0 0 (w.mul (.dyadic false 1 (-x)))))
    (qs.map (fun q => (value f q.2.1).mul (.dyadic false 1 x)),
      (qs.filter (fun q => q.2.2 &&& fOF != 0)).length,
      (qs.filter (fun q => !q.1.isZero && (value f q.2.1).isZero)).length)

/-- The elements of a group quantised block by block, 32 leaves a stage (R298). -/
def quantGroup (f : Fmt) (ws : List Num) : List Num × Nat × Nat :=
  (chunks 32 ((ws.length + 31) / 32) ws).foldl (fun r b =>
    let (v, sat, und) := quantBlock f b
    (r.1 ++ v, r.2.1 + sat, r.2.2 + und)) ([], 0, 0)

/-- group_sum over the products of a group in leaf order (R94), as an `f32` code. -/
def groupSum (f : Fmt) (ps : List Num) : Nat :=
  if f.unscaled then treeF32 (ps.map (fun p => (round .f32 0 0 p).1))
  else treeF32 ((chunks 32 ((ps.length + 31) / 32) ps).map (fun b => (round .f32 0 0 (sumNum 0 b)).1))

/-- A cancellation (R301): |s| < 2^-10 · A, of two `f32` codes. -/
def cancels (s a : Nat) : Bool :=
  match value .f32 s, value .f32 a with
  | .real _ n d _, .real _ m e _ => decide (n * 1024 * e < m * d)
  | .real _ _ _ _, .inf _ => true
  | _, _ => false

/-- A wide element (R275, R277): `f32` or `bf16`. -/
def wideNum (wide : Bool) (c : Nat) : Num := value (if wide then .f32 else .bf16) c

/-- Bytes of a wide element. -/
def wideSize (wide : Bool) : Nat := if wide then 4 else 2

end Sys2Proof.Machine
end

