-- ==== Sys2Proof/Machine/Pool.lean ====
section
/-! DEFINITION. The multiplier pool's commands (R258 to R277, R283 to R289): what a pool takes from its inboxes, the pairing
store, the configuration banks, the accumulator's regions, and the order of what acts on them (R264, R265, R269). -/

namespace Sys2Proof.Machine

/-! ## Places -/

/-- The key of a pool's inbox. -/
def poolInbox (pl i : Nat) : Nat := (engineDest (pl / 40) (pl / 5 % 8) (pl % 5) i).toNat

/-- The address of a byte of the scratchpad of a pool's sector. -/
def poolScratch (pl off : Nat) : Nat := scratchAddr (pl / 5) off

/-- The address of an accumulator element's committed value (R262, R59). -/
def accElem (pl e : Nat) : Nat := accAddr (pl / 5) (pl % 5) (4 * e)

/-- A configuration bank. -/
def Pool.bank (p : Pool) (b : Nat) : Bank := if b = 0 then p.bank0 else p.bank1

/-- A configuration bank replaced. -/
def Pool.setBank (p : Pool) (b : Nat) (k : Bank) : Pool := if b = 0 then { p with bank0 := k } else { p with bank1 := k }

/-- The groups of a bank with their map (R260, R261). -/
def Bank.groups (b : Bank) : List Grp :=
  (indexed 0 (b.sizes.zip b.map)).map (fun e => { g := e.1, n := e.2.1, ks := e.2.2.1, c := e.2.2.2 })

/-- Whether a group is spanned by the bank's setting (R283). -/
def Bank.spanned (b : Bank) (g : Nat) : Bool :=
  match b.span with
  | some (g0, g1, _) => decide (g0 ≤ g ∧ g ≤ g1)
  | _ => false

/-- The bank's setting is the secondary's (R283). -/
def Bank.secondary (b : Bank) : Bool :=
  match b.span with
  | some (_, _, r) => r
  | _ => false

/-! ## Element sets, as bit masks over the accumulator's elements (R262, R264, R277) -/

/-- The elements base + m·pitch + c of `rows` rows and a list of columns. -/
def elemMask (base pitch rows : Nat) (cols : List Nat) : Nat :=
  let row := cols.foldl (fun a c => a ||| 2 ^ (base + c)) 0
  let n := if pitch = 0 then Nat.min rows 1 else Nat.min rows (32767 / pitch + 1)
  ((upTo n).foldl (fun a m => a ||| (row <<< (m * pitch))) 0) % 2 ^ 32768

/-- Two element sets share an element. -/
def overlaps (a b : Nat) : Bool := (a &&& b) != 0

/-- A region operand (R262): base, pitch, rows, columns; or the status of a bad one. -/
def regionOf (q : Nat) : Except Nat (Nat × Nat × Nat × Nat) :=
  let base := bits q 14 0
  let pitch := bits q 30 16
  let rows := bits q 47 32
  let cols := bits q 59 48
  if bitOf q 15 || bitOf q 31 || bits q 63 60 != 0 || rows == 0 || decide (32768 < rows) || cols == 0 || decide (2048 < cols)
      || (decide (1 < rows) && decide (pitch < cols)) then .error sBADARG
  else if 32768 ≤ base + (rows - 1) * pitch + cols - 1 then .error sADDR
  else .ok (base, pitch, rows, cols)

/-- A region's elements. -/
def regionMask (r : Nat × Nat × Nat × Nat) : Nat := elemMask r.1 r.2.1 r.2.2.1 (upTo r.2.2.2)

/-- The active groups of a pass that uses a bank (R277), or the status that ends it. -/
def Bank.active (b : Bank) (a : AArgs) (span : Bool) : Except Nat (List Grp) :=
  let inside (g : Grp) : Bool := decide (a.koff ≤ g.ks ∧ g.ks + g.n ≤ a.koff + a.kw)
  let touching (g : Grp) : Bool := decide (g.ks < a.koff + a.kw ∧ a.koff < g.ks + g.n)
  let gs := b.groups.filter inside
  if !b.mapped || (span && b.span.isNone) || b.groups.any (fun g => touching g && !inside g) || gs.isEmpty
      || (gs.map (fun g => g.c)).eraseDups.length != gs.length then .error sBADARG
  else if gs.any (fun g => !(span && b.secondary && b.spanned g.g) && decide (32768 ≤ a.acc + (a.rows - 1) * a.accPitch + g.c)) then
    .error sADDR
  else .ok gs

/-- The groups whose sums a pass writes to its own accumulator (R283). -/
def Bank.written (b : Bank) (span : Bool) (gs : List Grp) : List Grp :=
  gs.filter (fun g => !(span && b.secondary && b.spanned g.g))

/-- The elements that a pass writes with a bank. -/
def Bank.writes (b : Bank) (a : AArgs) (span : Bool) : Nat :=
  match b.active a span with
  | .ok gs => elemMask a.acc a.accPitch a.rows ((b.written span gs).map (fun g => g.c))
  | .error _ => 0

/-- The bank of a pass: as its stream used it, or as it stands (R265). -/
def Pool.bankOf (p : Pool) (q : Pass) : Bank := q.used.getD (p.bank q.bank)

/-- The elements that a pass writes. -/
def Pool.passWrites (p : Pool) (q : Pass) : Nat := (p.bankOf q).writes q.a q.span

/-- A pass has finished streaming: a ladder pass once it has been accepted (R269, R270, R307). -/
def Pass.streamDone (q : Pass) : Bool := q.phase == .decided || ((q.phase == .streamed || q.phase == .span) && !q.ladder)

/-! ## Operands (R275 to R277) -/

/-- The B operands of an announcement; none where a field breaks its limit. -/
def bArgs (m : Token) : Option BArgs :=
  let q1 := qOp m 1
  let q2 := qOp m 2
  let q3 := qOp m 3
  let nm := msgOpcode m == 4
  if extraBits q1 0x1FFFF7FFFFF || q1 % 4 != 0 || bits q1 25 24 != 0 || extraBits q2 0xFFFF || (nm && extraBits q3 0xFFFF7FFFFF) then
    none
  else
    some { base := bits q1 22 0, pitch := bits q1 39 24, wide := bitOf q1 40, kb := q2,
           nm := if nm then some (bits q3 22 0, bits q3 39 24, bitOf (lane0 m) 8) else none }

/-- The A operands of `pool.mma` and `pool.a`; none where a field breaks its limit. -/
def aArgs (m : Token) : Option AArgs :=
  let q1 := qOp m 1
  let q2 := qOp m 2
  let q3 := qOp m 3
  let rows := bits q2 15 0
  let kw := bits q2 31 16
  let koff := bits q2 47 32
  if extraBits q1 0x1FFFF7FFFFF || q1 % 4 != 0 || extraBits q2 0xFFFFFFFFFFFF || extraBits q3 0x7FFF7FFF || rows == 0
      || decide (32768 < rows) || kw == 0 || decide (65536 < koff + kw) || bits q3 30 16 == 0 then none
  else
    some { base := bits q1 22 0, pitch := bits q1 39 24, wide := bitOf q1 40, rows := rows, kw := kw, koff := koff,
           acc := bits q3 14 0, accPitch := bits q3 30 16 }

/-- Whether FMT and PROF of a message are well-formed (R277). -/
def fmtOk (m : Token) : Bool :=
  bits (lane0 m) 11 9 != 7 && (bits (lane0 m) 11 9 == 0 || bits (lane0 m) 14 12 == 0)

/-! ## What is still to be performed before what (R264, R265, R269) -/

/-- The command at the head of a pool's inbox that has been taken and not performed, with its sequence number. -/
def State.poolTaken (s : State) (pl i : Nat) : Option (Token × Nat) :=
  match s.inbox (poolInbox pl i), s.busy.find? (poolInbox pl i) with
  | (_, m) :: _, some b => some (m, nth 0 b.nums 0)
  | _, _ => none

/-- A write of a bank with a lower sequence number has not been performed (R265, R269). -/
def State.bankWaits (s : State) (pl bank seq : Nat) : Bool :=
  match s.poolTaken pl 0 with
  | some (m, n) =>
    decide (n < seq) && (msgOpcode m == 1 || msgOpcode m == 2 || msgOpcode m == 10) && bits (lane0 m) 8 8 == bank
  | none => false

/-- The element set of a pass is not yet known: its bank is still to be written (R265). -/
def State.passUnknown (s : State) (pl : Nat) (q : Pass) : Bool := q.used.isNone && s.bankWaits pl q.bank q.seq

/-- The elements that an announcement's pass would write, as its bank stands. -/
def State.annWrites (s : State) (pl : Nat) (x : Ann) : Nat :=
  match aArgs x.msg with
  | some a => ((s.pool pl).bank (bits (lane0 x.msg) 8 8)).writes a (bitOf (lane0 x.msg) 15)
  | none => 0

/-- The element set of an announcement's pass is not yet known (R265). -/
def State.annUnknown (s : State) (pl : Nat) (x : Ann) : Bool := s.bankWaits pl (bits (lane0 x.msg) 8 8) x.seq

/-- A pass of lower sequence number, announced or formed, whose elements are unknown or overlap these (R265). -/
def State.lowerPass (s : State) (pl seq mask : Nat) : Bool :=
  let p := s.pool pl
  p.annA.any (fun a => decide (a.seq < seq) && (s.annUnknown pl a || overlaps mask (s.annWrites pl a)))
    || p.passes.any (fun q => decide (q.seq < seq) && (s.passUnknown pl q || overlaps mask (p.passWrites q)))

/-- A drain or `pool.zero` of lower sequence number that has not acted on elements that overlap these (R264). -/
def State.lowerRegion (s : State) (pl seq mask : Nat) : Bool :=
  (s.pool pl).drains.any (fun d => decide (d.seq < seq ∧ d.phase ≤ 1) && overlaps mask (regionMask d.region))
    || (match s.poolTaken pl 0 with
        | some (m, n) =>
          decide (n < seq) && msgOpcode m == 9 &&
            (match regionOf (qOp m 1) with | .ok r => overlaps mask (regionMask r) | .error _ => false)
        | none => false)

/-- A pass of lower sequence number still has to stream on a bank (R269). -/
def State.bankInUse (s : State) (pl bank seq : Nat) : Bool :=
  let p := s.pool pl
  p.annA.any (fun a => decide (a.seq < seq) && bits (lane0 a.msg) 8 8 == bank)
    || p.passes.any (fun q => decide (q.seq < seq) && q.bank == bank && !q.streamDone)

/-! ## Taking a command -/

/-- A pool command: its checks (R102, R103), given the pool. -/
def State.poolCmd (s : State) (m : Token) (inbox lanes flags : Nat) (f : Nat → State → State) : State :=
  match engineOf m.dest with
  | some (.pool pl) => s.command m (decide (dInbox m.dest = inbox)) lanes flags (f pl)
  | _ => s

/-- The next sequence number of a pool (R264). -/
def State.poolSeq (s : State) (pl : Nat) : Nat × State :=
  let p := s.pool pl
  (p.seq + 1, s.setPool pl { p with seq := p.seq + 1 })

/-- A command that is performed at its sequence position while it heads its inbox: taken first, with numbers of its own, then
performed by `f`, given its sequence number and those numbers (R264). -/
def State.poolOrdered (s : State) (m : Token) (pl : Nat) (take : State → Nat → List Nat) (f : Nat → List Nat → State → State) : State :=
  match s.busyOf m with
  | none =>
    let (n, s1) := s.poolSeq pl
    s1.waitBusy m 1 (n :: take s n) []
  | some b => f (nth 0 b.nums 0) b.nums.tail s

/-- A request for the scratchpad of the pool's sector, or for its own accumulator, stands in the sector's memory port: what the pool
would read goes behind it (R225, R252). -/
def State.poolPort (s : State) (pl : Nat) : Bool :=
  s.portPending (pl / 5) (poolScratch pl 0) || s.portPending (pl / 5) (accElem pl 0)

/-- The `n` entries of a table of 2 or 4 bytes each in a pool's scratchpad; none where it runs past 8 MiB. DESIGN CHOICE
(log 74): the manual says nothing of a poisoned table line; its bytes are read as they stand. -/
def State.poolTable (s : State) (pl off n size : Nat) : Option (List Nat) :=
  if 2 ^ 23 < off + n * size then none
  else some ((upTo n).map (fun i => s.readLE (poolScratch pl (off + i * size)) size))

/-- POOL_CFG (R260, R274): a carving in a bank; the map is no longer valid. -/
def execPoolCfg (m : Token) (s : State) : Out :=
  ok (s.poolCmd m 0 4 0x100 (fun pl t =>
    let q := qOp m 1
    let bank := bits (lane0 m) 8 8
    if extraBits q 0x7FF7FFFFF || q % 4 ≠ 0 then t.finish m sBADARG 0 []
    else
      t.poolOrdered m pl (fun _ _ => []) (fun seq _ u =>
        if u.bankInUse pl bank seq || u.poolPort pl then u
        else
          match u.poolTable pl (bits q 22 0) (bits q 34 24 + 1) 2 with
          | none => u.finish m sADDR 0 []
          | some es =>
            let sizes := es.map (fun e => 8 * (e % 2048 + 1))
            if es.any (fun e => 2048 ≤ e) ∨ 65536 < sizes.foldl (· + ·) 0 then u.finish m sBADARG 0 []
            else
              let k : Bank := { sizes := sizes, map := [], mapped := false, win := false, span := .none }
              (u.setPool pl ((u.pool pl).setBank bank k)).finish m sOK (bits q 34 24) [])))

/-- POOL_MAP (R261, R274): the multicast map of a bank's carving. -/
def execPoolMap (m : Token) (s : State) : Out :=
  ok (s.poolCmd m 0 4 0x300 (fun pl t =>
    let q := qOp m 1
    let bank := bits (lane0 m) 8 8
    if extraBits q 0x7FFFFF || q % 4 ≠ 0 then t.finish m sBADARG 0 []
    else
      t.poolOrdered m pl (fun _ _ => []) (fun seq _ u =>
        if u.bankInUse pl bank seq || u.poolPort pl then u
        else
          let b := (u.pool pl).bank bank
          if b.sizes.isEmpty then u.finish m sBADARG 0 []
          else
            match u.poolTable pl q b.sizes.length 4 with
            | none => u.finish m sADDR 0 []
            | some es =>
              let map := es.map (fun e => (e % 65536, bits e 26 16))
              if es.any (fun e => 2 ^ 27 ≤ e) ∨ (map.zip b.sizes).any (fun e => 65536 < e.1.1 + e.2) then u.finish m sBADARG 0 []
              else
                (u.setPool pl ((u.pool pl).setBank bank { b with map := map, mapped := true, win := bitOf (lane0 m) 9 })).finish
                  m sOK 0 [])))

/-- POOL_SPAN (R283): the span setting of a bank. -/
def execPoolSpan (m : Token) (s : State) : Out :=
  ok (s.poolCmd m 0 4 0x300 (fun pl t =>
    let q := qOp m 1
    let bank := bits (lane0 m) 8 8
    if extraBits q 0x3FFFFF then t.finish m sBADARG 0 []
    else
      t.poolOrdered m pl (fun _ _ => []) (fun seq _ u =>
        if u.bankInUse pl bank seq then u
        else
          let b := (u.pool pl).bank bank
          let g0 := bits q 10 0
          let g1 := bits q 21 11
          if g1 < g0 ∨ b.sizes.length ≤ g1 then u.finish m sBADARG 0 []
          else (u.setPool pl ((u.pool pl).setBank bank { b with span := some (g0, g1, bitOf (lane0 m) 9) })).finish m sOK 0 [])))

/-- A region set to +0, with the poison of the lines it covers whole cleared (R266, R286). -/
def State.zeroRegion (s : State) (pl : Nat) (r : Nat × Nat × Nat × Nat) : State :=
  let mask := regionMask r
  let s1 := (upTo r.2.2.1).foldl (fun t m => t.putBytes (accElem pl (r.1 + m * r.2.1)) (List.replicate (4 * r.2.2.2) 0)) s
  let lo := accElem pl 0 / 64
  { s1 with poison := s1.poison.filter (fun l =>
      !(decide (lo ≤ l ∧ l < lo + 2048) && (mask >>> (16 * (l - lo))) % 65536 == 65535)) }

/-- POOL_ZERO (R286): at its sequence position. -/
def execPoolZero (m : Token) (s : State) : Out :=
  ok (s.poolCmd m 0 4 0 (fun pl t =>
    match regionOf (qOp m 1) with
    | .error c => t.finish m c 0 []
    | .ok r =>
      t.poolOrdered m pl (fun _ _ => []) (fun seq _ u =>
        let mask := regionMask r
        if u.lowerPass pl seq mask || u.lowerRegion pl seq mask || u.poolPort pl then u else (u.zeroRegion pl r).finish m sOK 0 [])))

/-- The passes of lower sequence number that are open when a `pool.commit` is taken (R287): how many overlap its region, and those
whose elements are not yet known (R265). -/
def State.openPasses (s : State) (pl seq mask : Nat) : Nat × List Nat :=
  let p := s.pool pl
  let as := p.annA.filter (fun a => decide (a.seq < seq))
  let qs := p.passes.filter (fun q => decide (q.seq < seq))
  ((as.filter (fun a => !s.annUnknown pl a && overlaps mask (s.annWrites pl a))).length
      + (qs.filter (fun q => !s.passUnknown pl q && overlaps mask (p.passWrites q))).length,
    (as.filter (s.annUnknown pl)).map (fun a => a.seq) ++ (qs.filter (s.passUnknown pl)).map (fun q => q.seq))

/-- POOL_COMMIT (R287): it completes once every overlapping pass before it is done; lane 1 counts those that were not. -/
def execPoolCommit (m : Token) (s : State) : Out :=
  ok (s.poolCmd m 3 4 0 (fun pl t =>
    match regionOf (qOp m 1) with
    | .error c => t.finish m c 0 []
    | .ok r =>
      t.poolOrdered m pl (fun u seq => let x := u.openPasses pl seq (regionMask r); x.1 :: x.2) (fun seq nums u =>
        if u.lowerPass pl seq (regionMask r) then u else u.finish m sOK 0 [BitVec.ofNat 32 (nth 0 nums 0)])))

/-- A pass that ends, noted by a `pool.commit` that could not tell when it was taken whether their elements overlap (R287). -/
def State.noteCommit (s : State) (pl : Nat) (q : Pass) : State :=
  match s.poolTaken pl 3, s.busy.find? (poolInbox pl 3) with
  | some (m, _), some b =>
    (match b.nums, regionOf (qOp m 1) with
     | n :: count :: rest, .ok r =>
       if msgOpcode m = 13 ∧ rest.contains q.seq then
         let more := if overlaps (regionMask r) ((s.pool pl).passWrites q) then 1 else 0
         s.waitBusy m b.phase (n :: (count + more) :: rest.filter (fun x => x != q.seq)) b.holds
       else s
     | _, _ => s)
  | _, _ => s

/-- A fence or statistics command of a pool: every inbox but `steer` accepts it. -/
def State.poolAny (s : State) (m : Token) (flags : Nat) (f : Nat → State → State) : State :=
  match engineOf m.dest with
  | some (.pool pl) => s.command m (decide (dInbox m.dest < 4)) 2 flags (f pl)
  | _ => s

/-- POOL_FENCE (R288, R66). -/
def execPoolFence (m : Token) (s : State) : Out :=
  ok (s.poolAny m 0xF00 (fun _ t => t.fenceCmd m (bits (lane0 m) 11 8) 4))

/-- POOL_STAT (R289). -/
def execPoolStat (m : Token) (s : State) : Out :=
  ok (s.poolAny m 0x100 (fun pl t =>
    let r (off : Nat) : Word := t.reg (poolReg pl off)
    let lanes := [lo32 (r 0x60), hi32 (r 0x60), lo32 (r 0x68), lo32 (r 0x70), lo32 (r 0x78), lo32 (r 0x80),
      BitVec.ofNat 32 (t.poolStatus pl)]
    let t1 := if bitOf (lane0 m) 8 then [0x60, 0x68, 0x70, 0x78, 0x80].foldl (fun u o => u.setReg (poolReg pl o) 0) t else t
    t1.finish m sOK 0 lanes))

/-! ## What a pass reads, checked (R271, R276, R277, R312) -/

/-- The first and last B rows, dense or compressed, that groups read (R312). -/
def bRows (b : BArgs) (gs : List Grp) : Nat × Nat :=
  let lo := gs.foldl (fun a g => Nat.min a (b.kb + g.ks)) (2 ^ 20)
  let hi := gs.foldl (fun a g => Nat.max a (b.kb + g.ks + g.n - 1)) 0
  match b.nm with
  | none => (lo, hi)
  | some (_, _, m8) =>
    let n := if m8 then 4 else 2
    (lo / (2 * n) * n, hi / (2 * n) * n + (n - 1))

/-- The extents a pass holds (R312). -/
def holdExtents (a : AArgs) (b : BArgs) (gs : List Grp) : List (Nat × Nat) :=
  let (lo, hi) := bRows b gs
  [(a.base, a.base + (a.rows - 1) * a.pitch + a.kw * wideSize a.wide), (b.base + lo * b.pitch, b.base + (hi + 1) * b.pitch)]
    ++ (match b.nm with | some (mb, mp, _) => [(mb + lo * mp, mb + (hi + 1) * mp)] | none => [])

/-- The position nibble of a compressed row and column, with its poison (R276). -/
def State.nibble (s : State) (pl mb mp row c : Nat) : Nat × Bool :=
  let a := poolScratch pl (mb + row * mp + c / 2)
  ((s.byte a).toNat / 16 ^ (c % 2) % 16, s.isPoisoned a 1)

/-- The lowest group that reads a block with invalid metadata (R276). -/
def State.badMeta (s : State) (pl : Nat) (b : BArgs) (gs : List Grp) : Option Nat :=
  match b.nm with
  | none => none
  | some (mb, mp, m8) =>
    let n := if m8 then 4 else 2
    (gs.find? (fun g => (upTo (g.n / (2 * n))).any (fun j =>
      let blk := (b.kb + g.ks) / (2 * n) + j
      let ns := (upTo n).map (fun i => (s.nibble pl mb mp (blk * n + i) g.c).1)
      ns.any (fun x => decide (2 * n ≤ x)) || ns.eraseDups.length != ns.length))).map (fun g => g.g)

/-- The scratchpad extents of a pass lie within 8 MiB (R271). -/
def extentsOk (a : AArgs) (b : BArgs) (gs : List Grp) : Bool :=
  let (_, hi) := bRows b gs
  let c := gs.foldl (fun x g => Nat.max x g.c) 0
  decide (a.base + (a.rows - 1) * a.pitch + a.kw * wideSize a.wide ≤ 2 ^ 23)
    && decide (b.base + hi * b.pitch + (c + 1) * wideSize b.wide ≤ 2 ^ 23)
    && (match b.nm with | some (mb, mp, _) => decide (mb + hi * mp + c / 2 + 1 ≤ 2 ^ 23) | none => true)

/-- The alignment that N:M compression asks of the active groups (R276). -/
def nmAligned (b : BArgs) (gs : List Grp) : Bool :=
  match b.nm with
  | none => true
  | some (_, _, m8) =>
    let m := if m8 then 8 else 4
    gs.all (fun g => (b.kb + g.ks) % m == 0 && g.n % m == 0)

/-- The groups of a pass as its bank stands, checked (R276, R277), its metadata where `nm`; or the status that ends it, and its data. -/
def State.passGroups (s : State) (pl : Nat) (q : Pass) (b : BArgs) (nm : Bool) : Except (Nat × Nat) (List Grp) :=
  match ((s.pool pl).bankOf q).active q.a q.span with
  | .error c => .error (c, 0)
  | .ok gs =>
    if !nmAligned b gs then .error (sBADARG, 0)
    else if !extentsOk q.a b gs then .error (sADDR, 0)
    else
      match (if nm then s.badMeta pl b gs else none) with
      | some g => .error (sNMMETA, g)
      | none => .ok gs

/-! ## Ending a pass (R275, R280, R306) -/

/-- A pass of a pool, by its sequence number. -/
def Pool.pass? (p : Pool) (seq : Nat) : Option Pass := p.passes.find? (fun q => q.seq == seq)

/-- What a walk takes note of when one of its passes ends (R290, R295): a status other than OK and POISON ends it. -/
def BWalk.passEnded (w : BWalk) (st replays : Nat) : BWalk :=
  let w1 := { w with replays := w.replays + replays }
  if st = sOK then { w1 with passed := w1.passed + 1 }
  else if st = sPOISON then { w1 with passed := w1.passed + 1, status := if w1.status = sOK then st else w1.status }
  else { w1 with phase := 3, status := if w1.status = sOK ∨ w1.status = sPOISON then st else w1.status }

/-- A walk whose last pass and drain have ended completes (R290). -/
def State.walkOver (s : State) (pl : Nat) : State :=
  let p := s.pool pl
  match p.walk with
  | some w =>
    if w.phase = 3 ∧ !p.passes.any (fun q => q.walk) ∧ !p.drains.any (fun d => d.walk) then
      (s.setPool pl { p with walk := none }).answer w.msg w.status 0
        [BitVec.ofNat 32 w.passed, BitVec.ofNat 32 w.drained, BitVec.ofNat 32 w.replays, BitVec.ofNat 32 (s.clk - w.start)]
    else s
  | none => s

/-- A pass ends with a status (R280): it leaves the pool with its holds, and completes; an announcement whose set was not
loaded completes with the pass's status and `data`, and the set is invalid (R275). -/
def State.endPass (s : State) (pl : Nat) (q : Pass) (st data : Nat) : State :=
  let s1 := (s.noteCommit pl q).dropAuto pl q.seq
  let p := s1.pool pl
  let rest := p.passes.filter (fun x => x.seq != q.seq)
  let par := p.parents.map (fun x => if x.seq = q.seq ∧ !x.loaded then { x with status := st } else x)
  let p1 := { p with
    passes := rest,
    parents := par.filter (fun x => some x.seq == p.lastMma || rest.any (fun y => y.parent == x.seq) || p.annA.any (fun a => a.seq == x.seq)),
    walk := if q.walk then p.walk.map (fun w => w.passEnded st q.replays) else p.walk }
  let s2 := s1.setPool pl p1
  let s3 := match q.bann with | some b => s2.answer b.2 st data [] | none => s2
  if q.walk then s3.walkOver pl
  else
    s3.answer q.msg st (q.fmt + q.replays * 16)
      [BitVec.ofNat 32 (nth 0 q.counts 0), BitVec.ofNat 32 (nth 0 q.counts 1), BitVec.ofNat 32 (nth 0 q.counts 2),
        BitVec.ofNat 32 (s3.clk - q.start), BitVec.ofNat 32 q.moved]

/-! ## Pairing (R267, R268, R275, R305, R312) -/

/-- A pass replaced, by its sequence number. -/
def State.putPass (s : State) (pl : Nat) (q : Pass) : State :=
  let p := s.pool pl
  s.setPool pl { p with passes := p.passes.map (fun x => if x.seq = q.seq then q else x) }

/-- The pool on the other side of a span (R283). -/
def mirrorPool (pl : Nat) : Nat := 5 * ((pl / 5) ^^^ 8) + pl % 5

/-- The sector whose profiles a pass follows: its own, and the primary's for the secondary's part of a spanned pass (R311). -/
def ladSector (pl : Nat) (b : Bank) (span : Bool) : Nat := if span && b.secondary then mirrorPool pl / 5 else pl / 5

/-- The other side of a spanned pass, if it has formed: both sides start and stream at one step (R311). -/
def State.otherSide (s : State) (pl : Nat) (q : Pass) : Option Pass :=
  if q.span then
    (s.pool (mirrorPool pl)).passes.find? (fun y =>
      y.span && y.msg.ctx == q.msg.ctx && y.msg.tag == q.msg.tag && y.prof == q.prof && y.fixed == q.fixed)
  else none

/-- The automatic holds of a pass, taken where it needs them: none where they cannot be taken yet. -/
def State.takeHold (s : State) (pl : Nat) (q : Pass) : Option (Pass × State) :=
  if !q.needs || q.held then some (q, s)
  else if s.bankWaits pl q.bank q.seq then none
  else
    match ((s.pool pl).bankOf q).active q.a q.span, q.b with
    | .ok gs, some b =>
      (s.takeAuto pl q.seq q.msg.ctx (holdExtents q.a b gs)).map (fun t => ({ q with held := true }, t))
    | _, _ => none

/-- A pass takes its holds when it pairs or binds, if it can (R312, R314). -/
def State.tryHold (s : State) (pl : Nat) (q : Pass) : State :=
  match s.takeHold pl q with
  | some (q1, t) => t.putPass pl q1
  | none => s

/-- The metadata of a pass that has formed with its bank known is checked (R276): invalid, it ends the pass and its announcement. -/
def State.metaCheck (s : State) (pl : Nat) (q : Pass) (b : BArgs) : State :=
  if !q.checked then s.tryHold pl q
  else
    match s.passGroups pl q b true with
    | .error (c, d) => if c = sNMMETA then s.endPass pl q c d else s.tryHold pl q
    | .ok _ => s.tryHold pl q

/-- The B operands of a pass that loads a set, known to every `pool.a` bound to that set: it takes its holds (R275, R312). -/
def State.tellBound (s : State) (pl seq : Nat) (b : BArgs) : State :=
  (s.pool pl).passes.foldl (fun t y =>
    if y.parent = seq ∧ y.seq ≠ seq ∧ y.b.isNone then (t.putPass pl { y with b := some b }).tryHold pl { y with b := some b } else t) s

/-- A pass formed from an A message and its B operands (R268), or by a walk. START and CAP are read here (R305, R312). -/
def State.formPass (s : State) (pl seq arr : Nat) (m : Token) (walk : Bool) (a : AArgs) (b : BArgs) (bann : Option (Nat × Token))
    (bank : Nat) (span : Bool) (fmt prof : Nat) : State :=
  let ls := ladSector pl ((s.pool pl).bank bank) span
  let pr := s.profile ls m.ctx prof
  let prof? := if fmt = 0 then some prof else none
  let q0 : Pass :=
    { seq := seq, arr := arr, msg := m, walk := walk, a := a, b := some b, bann := bann, bank := bank, span := span,
      prof := prof?, fixed := fmt, step := pr.start, fmt := 0, ladder := false, needs := false, held := false, replays := 0,
      phase := .paired, parent := seq, act := [], counts := [0, 0, 0], sums := [], moved := 0, start := s.clk, used := none,
      checked := !s.bankWaits pl bank seq && !s.poolPort pl }
  let step := match s.otherSide pl q0 with | some y => y.step | none => pr.start
  let q := { q0 with step := step, needs := fmt == 0 && s.forced ls m.ctx == 0 && decide (step < pr.cap) }
  let p := s.pool pl
  let s1 := s.setPool pl { p with
    passes := p.passes ++ [q],
    parents := p.parents.map (fun x => if x.seq = seq then { x with b := some b, prof := prof? } else x) }
  (s1.tellBound pl seq b).metaCheck pl q b

/-- Two messages have the same context and tag. -/
def sameKey (a b : Token) : Bool := a.ctx == b.ctx && a.tag == b.tag

/-- POOL_MMA (R267, R268, R277): an A announcement, which pairs with a waiting B announcement of its context and tag. -/
def execPoolMma (m : Token) (s : State) : Out :=
  ok (s.poolCmd m 1 8 0xFF00 (fun pl t =>
    match (if fmtOk m then aArgs m else none) with
    | none => t.finish m sBADARG 0 []
    | some a =>
      let arr := t.headArrival (poolInbox pl 1)
      let key := poolInbox pl 1
      let lane := lane0 m
      let note (u : State) (n : Nat) : State :=
        let p := u.pool pl
        u.setPool pl { p with
          lastMma := some n,
          parents := p.parents ++ [
            { seq := n, b := none, status := 0, loaded := false, prof := (if bits lane 11 9 = 0 then some (bits lane 14 12) else none),
              fmt := 0, ladder := false, groups := [] }] }
      match (t.pool pl).annB.find? (fun b => sameKey b.msg m) with
      | some b =>
        let (n, t1) := t.poolSeq pl
        let t2 := note (t1.popInbox key) n
        let p := t2.pool pl
        let t3 := t2.setPool pl { p with annB := p.annB.filter (fun x => x.arr != b.arr) }
        (match bArgs b.msg with
         | some x => t3.formPass pl n arr m false a x (some (b.arr, b.msg)) (bits lane 8 8) (bitOf lane 15) (bits lane 11 9) (bits lane 14 12)
         | none => t3)
      | none =>
        if 16 ≤ (t.pool pl).annA.length ∨ (t.pool pl).annA.any (fun x => sameKey x.msg m) then t
        else
          let (n, t1) := t.poolSeq pl
          let t2 := note (t1.popInbox key) n
          let p := t2.pool pl
          t2.setPool pl { p with annA := p.annA ++ [{ seq := n, arr := arr, msg := m }] }))

/-- A B announcement taken (R267, R268, R275): it pairs with a waiting A announcement of its context and tag. -/
def State.takeB (s : State) (m : Token) (pl : Nat) : State :=
  match bArgs m with
  | none => s.finish m sBADARG 0 []
  | some x =>
    let key := poolInbox pl 2
    let arr := s.headArrival key
    match (s.pool pl).annA.find? (fun a => sameKey a.msg m) with
    | some a =>
      let s1 := (s.poolSeq pl).2.popInbox key
      let p := s1.pool pl
      let s2 := s1.setPool pl { p with annA := p.annA.filter (fun y => y.seq != a.seq) }
      let lane := lane0 a.msg
      (match aArgs a.msg with
       | some y => s2.formPass pl a.seq a.arr a.msg false y x (some (arr, m)) (bits lane 8 8) (bitOf lane 15) (bits lane 11 9) (bits lane 14 12)
       | none => s2)
    | none =>
      if 16 ≤ (s.pool pl).annB.length ∨ (s.pool pl).annB.any (fun y => sameKey y.msg m) then s
      else
        let (n, s1) := s.poolSeq pl
        let s2 := s1.popInbox key
        let p := s2.pool pl
        s2.setPool pl { p with annB := p.annB ++ [{ seq := n, arr := arr, msg := m }] }

/-- POOL_BLOAD (R275): a dense B announcement. -/
def execPoolBload (m : Token) (s : State) : Out := ok (s.poolCmd m 2 6 0 (fun pl t => t.takeB m pl))

/-- POOL_BLOAD_NM (R276): an N:M-compressed B announcement. -/
def execPoolBloadNm (m : Token) (s : State) : Out := ok (s.poolCmd m 2 8 0x100 (fun pl t => t.takeB m pl))

/-- What a `pool.a` needs of the pass that loaded its set. -/
def Pool.parent? (p : Pool) (seq : Nat) : Option BParent := p.parents.find? (fun x => x.seq == seq)

/-- A `pool.a` bound to the set of a pass (R275, R305, R309, R312): its profile, the step that START gives, whether it takes holds. -/
def State.boundA (s : State) (pl n arr : Nat) (m : Token) (a : AArgs) (par : Nat) : Pass :=
  let bank := bits (lane0 m) 8 8
  let span := bitOf (lane0 m) 15
  let ls := ladSector pl ((s.pool pl).bank bank) span
  let x := (s.pool pl).parent? par
  let prof := x.bind (fun x => x.prof)
  let pr := s.profile ls m.ctx (prof.getD 0)
  { seq := n, arr := arr, msg := m, walk := false, a := a, b := x.bind (fun x => x.b), bann := none, bank := bank, span := span,
    prof := prof, fixed := 0, step := pr.start, fmt := 0, ladder := false,
    needs := prof.isSome && s.forced ls m.ctx == 0 && decide (pr.start < pr.cap), held := false, replays := 0,
    phase := .paired, parent := par, act := [], counts := [0, 0, 0], sums := [], moved := 0, start := s.clk, used := none,
    checked := true }

/-- POOL_A (R275, R277, R309): a pass bound to the B set of the last `pool.mma` taken. -/
def execPoolA (m : Token) (s : State) : Out :=
  ok (s.poolCmd m 1 8 0xFF00 (fun pl t =>
    match (if bits (lane0 m) 14 9 = 0 then aArgs m else none), (t.pool pl).lastMma with
    | some a, some par =>
      let arr := t.headArrival (poolInbox pl 1)
      let (n, t1) := t.poolSeq pl
      let t2 := t1.popInbox (poolInbox pl 1)
      let p := t2.pool pl
      let q := t2.boundA pl n arr m a par
      (t2.setPool pl { p with passes := p.passes ++ [q] }).tryHold pl q
    | _, _ => t.finish m sBADARG 0 []))

end Sys2Proof.Machine
end

