-- ==== Sys2Proof/Machine/PoolPass.lean ====
section
/-! DEFINITION. The passes of a pool: loading a B set, streaming, spanning, the ladder's decision, commit and replay (R263 to
R266, R270, R275 to R283, R299 to R313). -/

namespace Sys2Proof.Machine

/-! ## B sets (R270, R275, R276) -/

/-- A set is in use while a pass that uses it has yet to stream, a ladder pass until its decision (R270, R307). -/
def Pool.setInUse (p : Pool) (k : BSet) : Bool :=
  match k.owner with
  | some o => p.passes.any (fun q => q.parent == o && !q.streamDone)
  | none => false

/-- The set that a pass loaded, if a set still holds it: false set 0, true set 1. -/
def Pool.setOf (p : Pool) (owner : Nat) : Option Bool :=
  if p.set0.owner = some owner then some false else if p.set1.owner = some owner then some true else none

/-- A pass of lower sequence number whose elements are unknown or overlap a pass's own has still to load a set. -/
def State.lowerUnloaded (s : State) (pl : Nat) (q : Pass) : Bool :=
  let p := s.pool pl
  let mask := p.passWrites q
  p.annA.any (fun a => decide (a.seq < q.seq) && (s.annUnknown pl a || overlaps mask (s.annWrites pl a)))
    || p.passes.any (fun x => decide (x.seq < q.seq) && x.phase == .paired && (p.setOf x.parent).isNone
      && (s.passUnknown pl x || overlaps mask (p.passWrites x)))

/-- Which set a load may take: the one used least recently of those not in use. DESIGN CHOICE (log 74): the last one free is left to a
pass that an earlier overlapping pass without a set does not hold back. -/
def Pool.freeSet (p : Pool) (blocked : Bool) : Option Bool :=
  let a := !p.setInUse p.set0
  let b := !p.setInUse p.set1
  if a && b then some (decide (p.set1.used < p.set0.used))
  else if blocked then none
  else if a then some false
  else if b then some true
  else none

/-- A set. -/
def Pool.theSet (p : Pool) (k : Bool) : BSet := if k then p.set1 else p.set0

/-- A set replaced; it is now the one used most recently. -/
def Pool.putBSet (p : Pool) (k : Bool) (x : BSet) : Pool :=
  let x1 := { x with used := Nat.max p.set0.used p.set1.used + 1 }
  if k then { p with set1 := x1 } else { p with set0 := x1 }

/-- A wide element of a pool's scratchpad, with its poison (R266). -/
def State.wideAt (s : State) (pl off : Nat) (wide : Bool) : Nat × Bool :=
  (s.readLE (poolScratch pl off) (wideSize wide), s.isPoisoned (poolScratch pl off) (wideSize wide))

/-- A logical B element (R275, R276): the wide code and its poison. -/
def State.bElem (s : State) (pl : Nat) (b : BArgs) (row c : Nat) : Nat × Bool :=
  match b.nm with
  | none => s.wideAt pl (b.base + row * b.pitch + c * wideSize b.wide) b.wide
  | some (mb, mp, m8) =>
    let n := if m8 then 4 else 2
    let blk := row / (2 * n)
    let poison := (upTo n).any (fun i => (s.nibble pl mb mp (blk * n + i) c).2)
    match (upTo n).find? (fun i => (s.nibble pl mb mp (blk * n + i) c).1 == row % (2 * n)) with
    | some i =>
      let (v, p) := s.wideAt pl (b.base + (blk * n + i) * b.pitch + c * wideSize b.wide) b.wide
      (v, p || poison)
    | none => (0, poison)

/-- The wide elements of groups' stationary leaves (R275). -/
def State.loadElems (s : State) (pl : Nat) (b : BArgs) (gs : List Grp) : Tab (List (Nat × Bool)) :=
  gs.map (fun g => (g.g, (upTo g.n).map (fun l => s.bElem pl b (b.kb + g.ks + l) g.c)))

/-- A clk count of a load, stream or drain for `POOL.BUSYCLK`: how many clk it took is not the model's (timing). -/
def State.busyClk (s : State) (pl : Nat) : State :=
  (s.bump (poolReg pl 0x60) (Config.freeWord s.free).toNat).useFree

/-- The format code of a stream that begins, and whether it is a ladder stream (R277, R305, R309, R310): that of the other side of a
spanned pass where it has streamed (R311). -/
def State.streamCode (s : State) (pl : Nat) (q : Pass) (setFmt : Nat) (ladSet : Bool) : Nat × Bool :=
  match (s.otherSide pl q).filter (fun y => y.replays == q.replays && (y.phase == .span || y.phase == .streamed)) with
  | some y => (y.fmt, y.ladder)
  | none =>
    match q.prof with
    | some _ =>
      let f := s.forced (ladSector pl ((s.pool pl).bankOf q) q.span) q.msg.ctx
      if f ≠ 0 then (f, false)
      else if q.parent = q.seq ∨ q.phase = .replay then (q.step + 1, true)
      else (setFmt, ladSet)
    | none => (if q.parent = q.seq then q.fixed else setFmt, false)

/-- The rounds of groups (R279): greedily, given the leaves left in the present round. -/
def roundsOf (cap : Nat) (half : Bool) : Nat → List Grp → List (List Grp)
  | _, [] => [[]]
  | left, g :: gs =>
    let x := if half then g.n / 2 else g.n
    if x ≤ left then
      match roundsOf cap half (left - x) gs with
      | r :: rs => (g :: r) :: rs
      | [] => [[g]]
    else
      match roundsOf cap half (cap - x) gs with
      | r :: rs => [] :: (g :: r) :: rs
      | [] => [[], [g]]

/-- The rounds of a pass's groups at a format code (R259, R279). -/
def passRounds (code : Nat) (b : BArgs) (gs : List Grp) : List (List Grp) := roundsOf (poolCapacity code) b.nm.isSome (poolCapacity code) gs

/-- B_SET_LOAD (R270, R275, R276, R279, R314): a formed pass whose bank is known takes a free set, its holds, and loads the B elements of
its first round; its announcement completes. A pass that cannot be performed ends here. A `pool.a` loads its set again where the set has
been taken by a later load. -/
def execBSetLoad (pl id : Nat) (s : State) : Out :=
  let p := s.pool pl
  ok (match p.pass? id with
      | none => s
      | some q =>
        let own := q.parent == q.seq
        let par := p.parent? q.parent
        let loaded := match par with | some x => x.loaded | none => false
        match q.b with
        | none => s
        | some b =>
          if q.phase ≠ .paired ∨ s.bankWaits pl q.bank q.seq ∨ s.poolPort pl ∨ (!own ∧ (!loaded ∨ (p.setOf q.parent).isSome)) then s
          else
            match p.freeSet (s.lowerUnloaded pl q) with
            | none => s
            | some k =>
              match s.passGroups pl q b (own && !q.checked) with
              | .error (c, d) => s.endPass pl q c d
              | .ok gs =>
                match s.takeHold pl q with
                | none => s
                | some (q1, s1) =>
                  let (code, lad) := s1.streamCode pl q1 (match par with | some x => x.fmt | none => 0) false
                  let first := (passRounds code b gs).headD []
                  let p1 := (s1.pool pl).putBSet k { owner := some q.parent, fmt := code, elems := s1.loadElems pl b first, used := 0 }
                  if !own then (s1.setPool pl p1).busyClk pl
                  else
                    let p2 := { p1 with parents := p1.parents.map (fun x =>
                      if x.seq = q.seq then { x with loaded := true, fmt := code, ladder := lad, groups := gs } else x) }
                    let s2 := (s1.setPool pl p2).putPass pl { q1 with phase := .loaded, act := gs, bann := none }
                    (match q.bann with | some x => s2.answer x.2 sOK 0 [] | none => s2).busyClk pl)

/-! ## Streaming (R278 to R282, R298 to R302) -/

/-- A leaf's stationary element; one that the set never held is unstated, and free. -/
def State.stationary (s : State) (es : List (Nat × Bool)) (g l : Nat) : Nat × Bool :=
  nth ((Config.freeLane (s.free + 65536 * g + l)).toNat % 65536, false) es l

/-- The sums of one group for one row (R278, R301). -/
def State.rowSum (s : State) (pl : Nat) (a : AArgs) (f : Fmt) (g : Grp) (bs : List Num) (bbad : Bool) (m : Nat) : PSum × Nat × Nat :=
  let es := (upTo g.n).map (fun l => s.wideAt pl (a.base + m * a.pitch + (g.ks - a.koff + l) * wideSize a.wide) a.wide)
  let (as, sat, und) := quantGroup f (es.map (fun e => wideNum a.wide e.1))
  let ps := (as.zip bs).map (fun x => x.1.mul x.2)
  ({ g := g.g, m := m, e := a.acc + m * a.accPitch + g.c, sum := BitVec.ofNat 32 (groupSum f ps),
     mag := BitVec.ofNat 32 (groupSum f (ps.map Num.abs)), bad := bbad || es.any (fun e => e.2) }, sat, und)

/-- The sums of a stream with its saturations and underflows; the B elements count where they are loaded for it (R300). -/
def State.streamSums (s : State) (pl : Nat) (a : AArgs) (b : BArgs) (f : Fmt) (gs : List Grp) (elems : Tab (List (Nat × Bool)))
    (countB : Bool) : List PSum × Nat × Nat :=
  gs.foldl (fun r g =>
    let es := (upTo g.n).map (s.stationary (Tab.get [] elems g.g) g.g)
    let (bs, sat, und) := quantGroup f (es.map (fun e => wideNum b.wide e.1))
    let bad := es.any (fun e => e.2)
    let r0 := if countB then (r.1, r.2.1 + sat, r.2.2 + und) else r
    (upTo a.rows).foldl (fun q m =>
      let (x, sa, un) := s.rowSum pl a f g bs bad m
      (q.1 ++ [x], q.2.1 + sa, q.2.2 + un)) r0) ([], 0, 0)

/-- The B elements of a stream, by group (R275, R279): those of the first round as the set holds them, unless it is loaded anew
(R307); those of later rounds, and those that the set was loaded with and no longer holds, from the retained wide operands. A group
that the set was never loaded with has none. -/
def State.streamElems (s : State) (pl : Nat) (b : BArgs) (code : Nat) (gs all : List Grp) (elems : Tab (List (Nat × Bool))) (reload : Bool) :
    Tab (List (Nat × Bool)) :=
  let first := (passRounds code b gs).headD []
  gs.map (fun g =>
    if !all.contains g then (g.g, [])
    else
      match (if first.contains g ∧ !reload then elems.find? g.g else none) with
      | some es => (g.g, es)
      | none => (g.g, Tab.get [] (s.loadElems pl b [g]) g.g))

/-- What a set holds after a stream: the last round's elements; after a stream of one round, what it held as well. -/
def heldAfter (code : Nat) (b : BArgs) (gs : List Grp) (elems used : Tab (List (Nat × Bool))) : Tab (List (Nat × Bool)) :=
  let rounds := passRounds code b gs
  let last := rounds.getLastD []
  (used.filter (fun e => last.any (fun g => g.g == e.1))).foldl (fun t e => Tab.set t e.1 e.2) (if rounds.length = 1 then elems else [])

/-- The products of one group that the window moves (R281): taken freely, a row and leaf at a time, from what may move there. A zero
A element of row m gives its place to a non-zero one of rows m + 1 to m + 4, at its own leaf or one beside it, that has not moved. -/
def freeMoves (live : List (List Bool)) (free : Nat) : Nat × Nat :=
  let at_ (m l : Nat) : Bool := nth false (nth [] live m) l
  let r := (indexed 0 live).foldl (fun acc row =>
    (indexed 0 row.2).foldl (fun (acc : List (Nat × Nat) × Nat) x =>
      if x.2 then acc
      else
        let near := (upTo 4).flatMap (fun i => ((if 0 < x.1 then [x.1 - 1] else []) ++ [x.1, x.1 + 1]).map (fun l => (row.1 + 1 + i, l)))
        let may := near.filter (fun d => at_ d.1 d.2 && !acc.1.contains d)
        if may.isEmpty then acc
        else
          match may[(Config.freeWord acc.2).toNat % (may.length + 1)]? with
          | some d => (d :: acc.1, acc.2 + 1)
          | none => (acc.1, acc.2 + 1)) acc) (([], free) : List (Nat × Nat) × Nat)
  (r.1.length, r.2)

/-- The products that the window moves in a stream, and the free values used. -/
def State.movedIn (s : State) (pl : Nat) (a : AArgs) (f : Fmt) (gs : List Grp) (free : Nat) : Nat × Nat :=
  gs.foldl (fun acc g =>
    let live := (upTo a.rows).map (fun m =>
      (quantGroup f ((upTo g.n).map (fun l =>
        wideNum a.wide (s.wideAt pl (a.base + m * a.pitch + (g.ks - a.koff + l) * wideSize a.wide) a.wide).1))).1.map (fun x => !x.isZero))
    let (n, fr) := freeMoves live acc.2
    (acc.1 + n, fr)) (0, free)

/-- A stream of a pass against a set (R278, R279, R306, R307): `reload` where its B elements are loaded for it, `all` the groups that the
set is loaded with. The sums of the spanned groups of a spanned pass are tested for cancellation only at the primary (R301). The
secondary sends its part. -/
def State.streamPass (s : State) (pl : Nat) (q : Pass) (b : BArgs) (gs all : List Grp) (k : Bool) (code : Nat) (lad reload : Bool) : State :=
  let p := s.pool pl
  let bank := p.bankOf q
  let f := poolFmt code
  let set := p.theSet k
  let elems := s.streamElems pl b code gs all set.elems reload
  let (sums, sat, und) := s.streamSums pl q.a b f gs elems reload
  let mine := if q.span then sums.filter (fun x => !bank.spanned x.g) else sums
  let can := (mine.filter (fun x => cancels x.sum.toNat x.mag.toNat)).length
  let s0 := { s with free := s.free + 65536 * 64 }
  let (moved, free) := if bank.win then s0.movedIn pl q.a f gs s0.free else (0, s0.free)
  let q1 := { q with
    phase := if q.span then .span else .streamed, fmt := code, ladder := lad, step := if lad then code - 1 else q.step,
    act := gs, counts := [sat, und, can], sums := sums, moved := moved, used := some bank }
  let p1 := p.putBSet k { set with fmt := code, elems := heldAfter code b gs set.elems elems }
  let p2 := { p1 with parents := p1.parents.map (fun x =>
    if x.seq = q.parent then { x with fmt := code, ladder := if q.parent = q.seq then lad else x.ladder } else x) }
  let rows := q.a.rows * (passRounds code b gs).length
  let s1 := (((({ s0 with free := free }.setPool pl p2).putPass pl q1).bump (poolReg pl 0x70) rows).bump (poolReg pl 0x78) moved).busyClk pl
  if q.span && bank.secondary then
    let x : SpanSums :=
      { ctx := q.msg.ctx, tag := q.msg.tag, seq := q.seq, rows := q.a.rows, fmt := q.fixed, prof := q.prof,
        groups := (gs.filter (fun g => bank.spanned g.g)).map (fun g => (g.g, g.n)), counts := [sat, und, can],
        sums := sums.filter (fun y => bank.spanned y.g) }
    let pm := s1.pool (mirrorPool pl)
    s1.setPool (mirrorPool pl) { pm with spanIn := pm.spanIn ++ [x] }
  else s1

/-- The groups that a pass's set is loaded with. -/
def Pool.setGroups (p : Pool) (q : Pass) : List Grp :=
  if q.parent = q.seq then q.act else match p.parent? q.parent with | some x => x.groups | none => []

/-- PASS_STREAM_START (R265, R275, R307, R309): a pass whose set is loaded streams once every overlapping pass before it is
done and no replay is due. A `pool.a` bound to an invalid set ends with that set's status. -/
def execPassStreamStart (pl id : Nat) (s : State) : Out :=
  let p := s.pool pl
  ok (match p.pass? id with
      | none => s
      | some q =>
        let own := q.parent == q.seq
        let par := p.parent? q.parent
        let bad := if own then 0 else (match par with | some x => x.status | none => sBADARG)
        if (q.phase ≠ .loaded ∧ (own ∨ q.phase ≠ .paired)) ∨ p.passes.any (fun x => x.phase == .replay) ∨ s.poolPort pl then s
        else if bad ≠ 0 then s.endPass pl q bad 0
        else
          match q.b, p.setOf q.parent with
          | some b, some k =>
            if s.bankWaits pl q.bank q.seq then s
            else
              match (if own then .ok q.act else s.passGroups pl q b false) with
              | .error (c, _) => s.endPass pl q c 0
              | .ok gs =>
                if s.lowerPass pl q.seq (p.passWrites q) then s
                else
                  match s.takeHold pl q with
                  | none => s
                  | some (q1, s1) =>
                    let set := p.theSet k
                    let (code, lad) := s1.streamCode pl q1 set.fmt (match par with | some x => x.ladder | none => false)
                    s1.streamPass pl q1 b gs (p.setGroups q) k code lad (own || code != set.fmt)
          | _, _ => s)

/-! ## Spans (R283, R311) -/

/-- The secondary's sums that have come for a primary's pass. -/
def Pool.spanFor (p : Pool) (q : Pass) : Option SpanSums := p.spanIn.find? (fun x => x.ctx == q.msg.ctx && x.tag == q.msg.tag)

/-- The oldest sums for a pass leave the primary. -/
def State.dropSpan (s : State) (pl : Nat) (x : SpanSums) : State :=
  let p := s.pool pl
  s.setPool pl { p with spanIn := p.spanIn.filter (fun y => !(y.seq == x.seq && y.ctx == x.ctx && y.tag == x.tag)) }

/-- SPAN_SUMS_ARRIVE (R283, R301, R311): a primary pass adds the secondary's sums and counts to its own, local die first. Two
passes that differ in M, FMT, PROF or their spanned groups end: the primary BADARG, the secondary OK. -/
def execSpanSumsArrive (pl id : Nat) (s : State) : Out :=
  let p := s.pool pl
  ok (match p.pass? id with
      | none => s
      | some q =>
        let bank := p.bankOf q
        if q.phase ≠ .span ∨ bank.secondary then s
        else
          match p.spanFor q with
          | none => s
          | some x =>
            let mine := (q.act.filter (fun g => bank.spanned g.g)).map (fun g => (g.g, g.n))
            if x.rows ≠ q.a.rows ∨ x.fmt ≠ q.fixed ∨ x.prof ≠ q.prof ∨ x.groups ≠ mine then
              let s1 := (s.dropSpan pl x).endPass pl q sBADARG 0
              match (s1.pool (mirrorPool pl)).pass? x.seq with
              | some y => s1.putPass (mirrorPool pl) { y with phase := .streamed, ladder := false }
              | none => s1
            else
              let sums := q.sums.map (fun y =>
                match x.sums.find? (fun z => z.g == y.g && z.m == y.m) with
                | some z =>
                  { y with sum := BitVec.ofNat 32 (addF32 y.sum.toNat z.sum.toNat),
                           mag := BitVec.ofNat 32 (addF32 y.mag.toNat z.mag.toNat), bad := y.bad || z.bad }
                | none => y)
              let can := (sums.filter (fun y => bank.spanned y.g && cancels y.sum.toNat y.mag.toNat)).length
              let c (i : Nat) : Nat := nth 0 q.counts i + nth 0 x.counts i
              s.putPass pl { q with phase := .streamed, sums := sums, counts := [c 0, c 1, c 2 + can] })

/-! ## The decision (R306 to R308, R311) -/

/-- The sums that a pass commits to its own accumulator. -/
def Pool.ownSums (p : Pool) (q : Pass) : List PSum :=
  let gs := ((p.bankOf q).written q.span q.act).map (fun g => g.g)
  q.sums.filter (fun x => gs.contains x.g)

/-- The pending half as a pass leaves it (R263, R278): by element, the sum written there last. -/
def Pool.pending (p : Pool) (q : Pass) : Tab Lane := (p.ownSums q).foldl (fun t x => Tab.set t x.e x.sum) []

/-- A pass is at its sequence position: nothing before it has still to act on its elements (R264). -/
def State.atPosition (s : State) (pl : Nat) (q : Pass) : Bool :=
  let mask := (s.pool pl).passWrites q
  !s.poolPort pl && !s.lowerPass pl q.seq mask && !s.lowerRegion pl q.seq mask

/-- commit(P) (R263, R266, R306): one add per element, and its poison. -/
def State.commitPass (s : State) (pl : Nat) (q : Pass) : State :=
  let s1 := ((s.pool pl).pending q).foldl (fun t e => t.putLE (accElem pl e.1) 4 (addF32 (t.readLE (accElem pl e.1) 4) e.2.toNat)) s
  let s2 := (((s.pool pl).ownSums q).filter (fun x => x.bad)).foldl (fun t x => t.markPoison (accElem pl x.e) 4) s1
  ((s2.bump (poolReg pl 0x68) 1).bump (ladPass pl q.fmt) 1).endPass pl q (if q.sums.any (fun x => x.bad) then sPOISON else sOK) 0

/-- A squash (R306): the pending values are discarded, and the pass is to stream again a step wider; or it ends with
LADDER_NOSRC where an extent has been released on a side that takes part. -/
def State.squashPass (s : State) (pl : Nat) (q : Pass) (released : Bool) : State :=
  let s1 := s.bump (ladSquash pl) 1
  if released then (s1.bump (ladNosrc pl) 1).endPass pl q sNOSRC 0
  else
    (s1.bump (ladReplay pl (q.step + 1)) 1).putPass pl
      { q with phase := .replay, step := q.step + 1, replays := q.replays + 1, sums := [] }

/-- Whether a stream passes the budget of its profile at its step (R303, R306), and the step lies below CAP. -/
def State.overBudget (s : State) (pl : Nat) (q : Pass) : Bool :=
  match q.prof with
  | none => false
  | some n =>
    let pr := s.profile (pl / 5) q.msg.ctx n
    let beyond (c t : Nat) : Bool := t != 0xFFFF && decide (t < c)
    q.ladder && decide (q.step < pr.cap) &&
      (beyond (nth 0 q.counts 0) (nth 0 pr.sat q.step) || beyond (nth 0 q.counts 1) (nth 0 pr.und q.step)
        || beyond (nth 0 q.counts 2) (nth 0 pr.can q.step))

/-- The other side of a spanned pass that has streamed, with its pool. -/
def State.partner (s : State) (pl : Nat) (q : Pass) : Option (SpanSums × Pass) :=
  if q.span && !((s.pool pl).bankOf q).secondary then
    match (s.pool pl).spanFor q with
    | some x => ((s.pool (mirrorPool pl)).pass? x.seq).map (fun y => (x, y))
    | none => none
  else none

/-- A pass accepted that is not at its sequence position: its stream has ended (R306, R313). -/
def State.decidePass (s : State) (pl : Nat) (q : Pass) : State := (s.liftReleased pl q.seq).putPass pl { q with phase := .decided }

/-- LADDER_DECISION (R306, R311): at the end of its stream a pass is squashed, or accepted; it commits at its sequence position. The
primary decides for both sides of a span, and both act in this step. -/
def execLadderDecision (pl id : Nat) (s : State) : Out :=
  ok (match (s.pool pl).pass? id with
      | none => s
      | some q =>
        let mp := mirrorPool pl
        if q.phase ≠ .streamed ∧ q.phase ≠ .decided then s
        else
          let beyond : Bool := q.phase == .streamed && s.overBudget pl q
          match s.partner pl q with
          | none =>
            if beyond then (s.liftReleased pl q.seq).squashPass pl q (s.autoReleased pl q.seq)
            else if s.atPosition pl q then s.commitPass pl q
            else s.decidePass pl q
          | some (x, y) =>
            if beyond then
              let r := s.autoReleased pl q.seq || s.autoReleased mp y.seq
              (((s.liftReleased pl q.seq).liftReleased mp y.seq).dropSpan pl x |>.squashPass pl q r).squashPass mp
                { y with step := q.step } r
            else if s.atPosition pl q && s.atPosition mp y then
              ((s.dropSpan pl x).commitPass pl q).commitPass mp { y with fmt := q.fmt }
            else (s.decidePass pl q).liftReleased mp y.seq)

/-- REPLAY_STREAM (R307, R309): the B set is loaded again from the wide operands, and the pass streams a step wider. -/
def execReplayStream (pl id : Nat) (s : State) : Out :=
  let p := s.pool pl
  ok (match p.pass? id with
      | none => s
      | some q =>
        match q.b, p.setOf q.parent with
        | some b, some k =>
          if q.phase ≠ .replay ∨ s.poolPort pl then s
          else
            let (code, lad) := s.streamCode pl q 0 false
            let first := (passRounds code b (p.setGroups q)).headD []
            let p1 := p.putBSet k { p.theSet k with elems := s.loadElems pl b first }
            (s.setPool pl p1).streamPass pl q b q.act (p.setGroups q) k code lad true
        | _, _ => s)

end Sys2Proof.Machine
end

