-- ==== Sys2Proof/Machine/PoolDrain.lean ====
section
/-! DEFINITION. Drains of a pool and their routes (R268, R284, R285). -/

namespace Sys2Proof.Machine

/-- A drain of a pool, by its sequence number. -/
def Pool.drain? (p : Pool) (seq : Nat) : Option PoolDrain := p.drains.find? (fun d => d.seq == seq)

/-- A drain replaced. -/
def State.putDrain (s : State) (pl : Nat) (d : PoolDrain) : State :=
  let p := s.pool pl
  s.setPool pl { p with drains := p.drains.map (fun x => if x.seq = d.seq then d else x) }

/-- What a walk takes note of when one of its drains ends (R290, R295). -/
def BWalk.drainEnded (w : BWalk) (st : Nat) : BWalk :=
  if st = sOK then { w with drained := w.drained + 1 }
  else if st = sPOISON then { w with drained := w.drained + 1, status := if w.status = sOK then st else w.status }
  else { w with phase := 3, status := if w.status = sOK ∨ w.status = sPOISON then st else w.status }

/-- A drain ends (R285): its completion carries the route index where it has delivered, else `data`. -/
def State.endDrain (s : State) (pl : Nat) (d : PoolDrain) (st data : Nat) : State :=
  let p := s.pool pl
  let good : Bool := st == sOK || st == sPOISON
  let p1 := { p with
    drains := p.drains.filter (fun x => x.seq != d.seq),
    walk := if d.walk then p.walk.map (fun w => w.drainEnded st) else p.walk }
  let s1 := s.setPool pl p1
  let s2 := if good then s1.bump (poolReg pl 0x80) 1 else s1
  if d.walk then s2.walkOver pl else s2.answer d.msg st (if good then d.ridx else data) []

/-- The status of a drain that has delivered every row. -/
def PoolDrain.status (d : PoolDrain) : Nat := if d.rows.any (fun r => r.2.any (fun b => b)) then sPOISON else sOK

/-- A steering token that names a route (R285): its index. DESIGN CHOICE (log 74): its poison and fault flag, of which the rule says
nothing, do not matter. -/
def steerIndex (t : Token) : Option Nat :=
  if t.len = 1 ∧ t.width = 0 ∧ !t.empty ∧ lane0 t < 8 then some (lane0 t) else none

/-- A drain and a steering token that have met (R268, R285). -/
def State.steerDrain (s : State) (pl : Nat) (d : PoolDrain) (t : Token) : State :=
  match steerIndex t with
  | some i => s.putDrain pl { d with ridx := i, phase := 1 }
  | none => s.endDrain pl d sBADARG 0

/-- POOL_DRAIN (R285): a drain taken; it pairs with a waiting steering token unless NOSTEER. -/
def execPoolDrain (m : Token) (s : State) : Out :=
  ok (s.poolCmd m 3 8 0x7F00 (fun pl t =>
    let lane := lane0 m
    match regionOf (qOp m 1) with
    | .error c => t.finish m c 0 []
    | .ok r =>
      if bits lane 14 13 = 3 ∨ (!bitOf lane 8 ∧ bits lane 11 9 ≠ 0) ∨ 2 ^ 56 ≤ qOp m 2 ∨ 2 ^ 32 ≤ qOp m 3 then t.finish m sBADARG 0 []
      else
        let arr := t.headArrival (poolInbox pl 3)
        let (n, t1) := t.poolSeq pl
        let t2 := t1.popInbox (poolInbox pl 3)
        let p := t2.pool pl
        let d : PoolDrain :=
          { seq := n, arr := arr, msg := m, region := r, ridx := bits lane 11 9, ofmt := bits lane 14 13, zero := bitOf lane 12,
            off := qOp m 2, dpitch := qOp m 3, phase := if bitOf lane 8 then 1 else 0, route := 0, rows := [], next := 0,
            queued := false, walk := false }
        let t3 := t2.setPool pl { p with drains := p.drains ++ [d] }
        if bitOf lane 8 then t3
        else
          match p.steers.find? (fun x => sameKey x m) with
          | some x =>
            let q := t3.pool pl
            (t3.setPool pl { q with steers := q.steers.filter (fun y => !sameKey y m) }).steerDrain pl d x
          | none => t3))

/-- STEER_TOKEN (R267, R268): a class-0 token of a steer inbox pairs with a waiting drain, or enters the pairing store. -/
def execSteerToken (m : Token) (s : State) : Out :=
  ok (match engineOf m.dest with
      | some (.pool pl) =>
        if s.atHead m ∧ dInbox m.dest = 4 ∧ m.cls = 0 then
          let p := s.pool pl
          match p.drains.find? (fun d => d.phase == 0 && sameKey d.msg m) with
          | some d => (s.popInbox (poolInbox pl 4)).steerDrain pl d m
          | none =>
            if 16 ≤ p.steers.length ∨ p.steers.any (fun x => sameKey x m) then s
            else (s.popInbox (poolInbox pl 4)).setPool pl { p with steers := p.steers ++ [m] }
        else s
      | _ => s)

/-! ## Reading and delivering (R285) -/

/-- The codes of one row of a region in a drain's format, with their poison. -/
def State.drainRow (s : State) (pl : Nat) (d : PoolDrain) (m : Nat) : List Nat × List Bool :=
  let es := (upTo d.region.2.2.2).map (fun c => d.region.1 + m * d.region.2.1 + c)
  let fmt : Fmt := if d.ofmt = 0 then .f32 else if d.ofmt = 1 then .bf16 else .f16
  (es.map (fun e => (round fmt 0 0 (value .f32 (s.readLE (accElem pl e) 4))).1),
    es.map (fun e => s.isPoisoned (accElem pl e) 4))

/-- Bytes of a delivered element. -/
def PoolDrain.size (d : PoolDrain) : Nat := if d.ofmt = 0 then 4 else 2

/-- The lanes of a drain's token sequence with their poison (R285): one `f32` a lane, or two 16-bit elements; the upper half of a
last lane that holds one is open. -/
def State.drainLanes (s : State) (d : PoolDrain) : List (Lane × Bool) :=
  let es := (d.rows.flatMap (fun r => r.1)).zip (d.rows.flatMap (fun r => r.2))
  if d.ofmt = 0 then es.map (fun e => (BitVec.ofNat 32 e.1, e.2))
  else
    (chunks 2 ((es.length + 1) / 2) es).map (fun c =>
      match c with
      | [a, b] => (BitVec.ofNat 32 (a.1 + b.1 * 65536), a.2 || b.2)
      | [a] => (BitVec.ofNat 32 (a.1 + (Config.freeLane s.free).toNat % 65536 * 65536), a.2)
      | _ => (0, false))

/-- The tokens of a drain from lane `j` on (R285): up to 32 lanes each, cut where the innermost tag field wraps. -/
def drainTokens (shape : Word) (d : PoolDrain) (dest : Dest) : Nat → Nat → List (Lane × Bool) → List Token
  | 0, _, _ => []
  | n + 1, j, ls =>
    if ls.isEmpty then []
    else
      let k := fieldCount shape - 1
      let width := if fieldCount shape = 0 then 64 else fieldWidth shape k
      let v := (tagField shape d.msg.tag k + j) % 2 ^ width
      let len := Nat.min 32 (Nat.min ls.length (2 ^ width - v))
      let part := ls.take len
      { dest := dest, ctx := d.msg.ctx, len := lenField len, width := if d.ofmt = 0 then 0 else 1,
        poison := part.any (fun x => x.2), fault := false, empty := false, cls := 0, aux := 0,
        tag := setField shape d.msg.tag k v, lanes := part.map (fun x => x.1) }
        :: drainTokens shape d dest n (j + len) (ls.drop len)

/-- A row's elements written to storage, with the poison of each (R266, R285). -/
def State.storeRow (s : State) (a size : Nat) (vals : List Nat) (bad : List Bool) : State :=
  let s1 := s.rawStore a (vals.flatMap (leBytes size)) false
  (indexed 0 bad).foldl (fun t e => if e.2 then t.markPoison (a + size * e.1) size else t) s1

/-- The rows of a scratchpad route still to write (R285, R313): the drain waits where a hold covers a row. -/
def State.scratchRows (pl : Nat) : Nat → State → PoolDrain → State
  | 0, s, d => s.endDrain pl d d.status 0
  | n + 1, s, d =>
    let ps := 8 * bits d.route 27 26 + bits d.route 25 23
    let a := scratchAddr ps (bits d.route 22 0 + d.off + d.next * d.dpitch)
    match d.rows.drop d.next with
    | [] => s.endDrain pl d d.status 0
    | (vals, bad) :: _ =>
      if s.ladHeld a (d.size * vals.length) then s.putDrain pl { d with phase := 3 }
      else State.scratchRows pl n (s.storeRow a d.size vals bad) { d with next := d.next + 1 }

/-- Whether a route entry is one a drain may use (R284); else the status of the drain. -/
def routeStatus (d : PoolDrain) (r : Nat) : Nat :=
  match bits r 63 62 with
  | 1 =>
    let t : Dest := BitVec.ofNat 21 (bits r 20 0)
    if bits r 61 21 ≠ 0 ∨ !destForm t ∨ (dKind t ≠ 1 ∧ dKind t ≠ 3) then sBADARG else sOK
  | 2 => if bits r 61 58 ≠ 0 then sBADARG else sOK
  | 3 =>
    if bits r 61 28 ≠ 0 then sBADARG
    else if 2 ^ 23 < bits r 22 0 + d.off + (d.region.2.2.1 - 1) * d.dpitch + d.region.2.2.2 * d.size then sADDR else sOK
  | _ => sBADARG

/-- A drain of the same origin, of lower sequence number, has not ended: steered or not, its writes come first (R66). -/
def Pool.drainBefore (p : Pool) (d : PoolDrain) : Bool := p.drains.any (fun x => x.walk == d.walk && decide (x.seq < d.seq))

/-- POOL_DRAIN_PERFORM (R264, R284, R285): a steered drain at its sequence position reads its region, zeroes it if asked, and
delivers by its route as the entry then stands. -/
def execPoolDrainPerform (pl id : Nat) (s : State) : Out :=
  ok (match (s.pool pl).drain? id with
      | none => s
      | some d =>
        let mask := regionMask d.region
        if d.phase ≠ 1 ∨ s.poolPort pl ∨ (s.pool pl).drainBefore d ∨ s.lowerPass pl d.seq mask ∨ s.lowerRegion pl d.seq mask then s
        else
          let route := (s.reg (poolReg pl (8 * d.ridx))).toNat
          let st := routeStatus d route
          if st ≠ sOK then s.endDrain pl d st 0
          else
            let d1 := { d with route := route, rows := (upTo d.region.2.2.1).map (s.drainRow pl d), next := 0 }
            let s1 := (if d.zero then s.zeroRegion pl d.region else s).busyClk pl
            match bits route 63 62 with
            | 1 =>
              let src := engineDest (pl / 40) (pl / 5 % 8) (pl % 5) 0
              let ls := s.drainLanes d1
              ((drainTokens (s1.shape d.msg.ctx) d1 (BitVec.ofNat 21 (bits route 20 0)) ls.length 0 ls).foldl
                (fun t x => t.send src x) s1).endDrain pl d1 d1.status 0
            | 2 => s1.putDrain pl { d1 with phase := 2 }
            | _ => State.scratchRows pl (d1.rows.length + 1) s1 d1)

end Sys2Proof.Machine
end

