-- ==== Sys2Proof/Machine/PoolWalk.lean ====
section
/-! DEFINITION. The block-sparse walk of a pool (R290 to R292). -/

namespace Sys2Proof.Machine

/-! ## Accesses of a sector's engines by virtual address (R271, R323, R501) -/

/-- The physical address that a sector's engine reaches through its sector's second-level cache, and its view flag: a failing
translation, in no ASID to begin with where the engine took the message of a slot that is not live, or a target in another module, which only foragers, keepers and the link engines reach (R410), gives a code. -/
def State.sectorXlate (s : State) (ps : Nat) (ctx : BitVec 12) (asid : Option Nat) (va : Nat) (write : Bool) :
    Except Nat (Nat × Bool) × State :=
  match asid with
  | none => (.error fXLAT, s)
  | some a =>
    match s.translate ps a (s.viewStamps.find? ctx.toNat) va write with
    | (.error c, t) => (.error c, t)
    | (.ok x, t) =>
      match t.target (ps / 8) (x.pa va) with
      | .here pa => (.ok (pa, x.view), t)
      | .away _ _ => (.error fADDR, t)

/-! ## A walk's operands (R290) -/

/-- Whether the operands of a `pool.mma.bs` keep their limits. -/
def walkArgsOk (m : Token) : Bool :=
  let q3 := qOp m 3
  let q4 := qOp m 4
  fmtOk m && bits (lane0 m) 19 18 != 3 && decide (qOp m 1 < 2 ^ 56) && qOp m 1 % 4 == 0 && decide (qOp m 2 < 2 ^ 56)
    && qOp m 2 % 8 == 0 && !extraBits q3 0x3FFFF7FFFFF && q3 % 4 == 0 && bits q3 25 24 == 0 && decide (q4 < 2 ^ 46)
    && decide (1 ≤ bits q4 15 0 ∧ bits q4 15 0 ≤ 2048) && bits q4 45 31 != 0 && decide (qOp m 5 < 2 ^ 32)

/-- The region of a block-row: base, pitch, 32 rows, NC columns. -/
def BWalk.region (w : BWalk) : Nat × Nat × Nat × Nat :=
  let q4 := qOp w.msg 4
  (bits q4 30 16 + w.row % 2 * 32 * bits q4 45 31, bits q4 45 31, 32, w.cols)

/-- The virtual address of row pointer `i`. -/
def BWalk.rpVa (w : BWalk) (i : Nat) : Nat := qOp w.msg 1 + 4 * i

/-- The virtual address of entry `j` (R292). -/
def BWalk.entVa (w : BWalk) (j : Nat) : Nat :=
  match w.rebase with
  | some (base, idx) => if idx ≤ j then base + 8 * (j - idx) else qOp w.msg 2 + 8 * j
  | none => qOp w.msg 2 + 8 * j

/-- A walk replaced. -/
def State.putWalk (s : State) (pl : Nat) (w : BWalk) : State := s.setPool pl { s.pool pl with walk := some w }

/-- POOL_MMA_BS (R267, R290): the walk begins once every earlier write of its bank has been performed. -/
def execPoolMmaBs (m : Token) (s : State) : Out :=
  ok (s.poolCmd m 1 12 0xFFF00 (fun pl t =>
    if !walkArgsOk m then t.finish m sBADARG 0 []
    else
      t.poolOrdered m pl (fun v _ => [v.clk, match v.asid? m.ctx with | some a => a + 1 | none => 0]) (fun seq nums u =>
        let bank := bits (lane0 m) 8 8
        if u.bankWaits pl bank seq then u
        else
          let b := (u.pool pl).bank bank
          let gs := b.groups
          let q4 := qOp m 4
          let cols := gs.foldl (fun n g => Nat.max n (g.c + 1)) 1
          let rows := Nat.min (bits q4 15 0) 2 * 32
          if !b.mapped ∨ gs.any (fun g => 32 < g.ks + g.n) ∨ bits q4 45 31 < cols then u.finish m sBADARG 0 []
          else if 32768 < bits q4 30 16 + (rows - 1) * bits q4 45 31 + cols then u.finish m sADDR 0 []
          else
            let w : BWalk :=
              { msg := m, arr := u.headArrival (poolInbox pl 1), cols := cols, row := 0, idx := 0, phase := 0, passed := 0, drained := 0,
                replays := 0, start := nth 0 nums 0,
                asid := if nth 0 nums 1 = 0 then none else some (nth 0 nums 1 - 1), rps := [], ents := [], rebase := none, parked := false, status := sOK }
            (u.popInbox (poolInbox pl 1)).putWalk pl w)))

/-! ## Fetching ahead (R291) -/

/-- A fetch of a row pointer or an entry: a fault code or 0, and the word; none while it waits behind a request in the sector's memory
port (R225). -/
def State.walkRead (s : State) (pl : Nat) (w : BWalk) (va n : Nat) : Option (Nat × Nat) × State :=
  if 2 ^ 56 ≤ va then (some (fADDR, 0), s)
  else
    match s.sectorXlate (pl / 5) w.msg.ctx w.asid va false with
    | (.error c, t) => (some (c, 0), t)
    | (.ok (pa, view), t) =>
      if t.portPending (pl / 5) pa then (none, t)
      else
        let (g, u) := t.load pa n view
        (some (if g.code ≠ 0 then g.code else if g.poison then fPOISON else 0, leNat g.data), u)

/-- The next row pointer not yet fetched, within 16 of the row in use. -/
def BWalk.nextRp (w : BWalk) : Option Nat :=
  ((upTo 18).map (fun i => w.row + i)).find? (fun i => decide (i ≤ bits (qOp w.msg 4) 15 0) && (w.rps.find? i).isNone)

/-- The first index at or beyond which no entry may be fetched, as the row pointers fetched so far tell. -/
def BWalk.limit (w : BWalk) : Nat := w.rps.foldl (fun n e => if e.2.1 = 0 then Nat.max n e.2.2 else n) 0

/-- The next entry not yet fetched, up to 16 beyond the entry in use and below RP[NBR]. -/
def BWalk.nextEnt (w : BWalk) : Option Nat :=
  ((upTo 17).map (fun i => w.idx + i)).find? (fun j => decide (j < w.limit) && (w.ents.find? j).isNone)

/-- The row pointers and entries that a walk keeps: those not before what it uses. -/
def BWalk.trim (w : BWalk) : BWalk := { w with rps := w.rps.filter (fun e => decide (w.row ≤ e.1)), ents := w.ents.filter (fun e => decide (w.idx ≤ e.1)) }

/-- A fetch made ahead of use. -/
def State.prefetch (s : State) (pl : Nat) (w : BWalk) : State :=
  match w.nextRp, w.nextEnt with
  | some i, _ =>
    (match s.walkRead pl w (w.rpVa i) 4 with
     | (some r, t) => t.putWalk pl { w with rps := Tab.set w.rps i r }
     | (none, t) => t)
  | none, some j =>
    (match s.walkRead pl w (w.entVa j) 8 with
     | (some r, t) => t.putWalk pl { w with ents := Tab.set w.ents j r }
     | (none, t) => t)
  | none, none => s

/-- The fetch that a walk has reached and that has failed (R291): whether it is a row pointer's, its address, its code. -/
def BWalk.failed (w : BWalk) : Option (Bool × Nat × Nat) :=
  let bad (t : Tab (Nat × Nat)) (i : Nat) : Option Nat :=
    match t.find? i with
    | some (c, _) => if c = 0 then none else some c
    | none => none
  if w.phase = 4 then
    (match bad w.rps w.row, bad w.rps (w.row + 1) with
     | some c, _ => some (true, w.rpVa w.row, c)
     | none, some c => some (true, w.rpVa (w.row + 1), c)
     | none, none => none)
  else if w.phase = 1 then (bad w.ents w.idx).map (fun c => (false, w.entVa w.idx, c))
  else none

/-- What a walk does next with what it has fetched (R290): zero the row's region at its position, take its row pointers, begin an entry's pass, or start
the row's drain; none where it has to wait. -/
def State.walkNext (s : State) (pl : Nat) (w : BWalk) : Option State :=
  let lane := lane0 w.msg
  let word (t : Tab (Nat × Nat)) (i : Nat) : Option Nat :=
    match t.find? i with
    | some (c, v) => if c = 0 then some v else none
    | none => none
  match w.phase with
  | 0 =>
    let (n, t) := s.poolSeq pl
    let mask := regionMask w.region
    if t.lowerPass pl n mask || t.lowerRegion pl n mask || s.poolPort pl then none
    else some ((t.zeroRegion pl w.region).putWalk pl { w with phase := 4 })
  | 4 =>
    (match word w.rps w.row, word w.rps (w.row + 1) with
     | some a, some b =>
       if b < a then some ((s.putWalk pl { w with phase := 3, status := sBADARG }).walkOver pl)
       else
         let w1 := { w with idx := a, phase := if a < b then 1 else 2 }
         some (s.putWalk pl w1.trim)
     | _, _ => none)
  | 1 =>
    (match word w.ents w.idx, word w.rps (w.row + 1) with
     | some e, some b =>
       if extraBits e 0x3FF007FFFFF || e % 64 != 0 then some ((s.putWalk pl { w with phase := 3, status := sBADARG }).walkOver pl)
       else if (s.pool pl).passes.any (fun q => q.walk && q.phase == .paired) then none
       else
         let q3 := qOp w.msg 3
         let wide := bitOf q3 41
         let (n, t) := s.poolSeq pl
         let a : AArgs :=
           { base := bits e 22 0, pitch := 32 * wideSize wide, wide := wide, rows := 32, kw := 32, koff := 0, acc := w.region.1,
             accPitch := w.region.2.1 }
         let x : BArgs := { base := bits q3 22 0, pitch := bits q3 39 24, wide := bitOf q3 40, kb := 32 * bits e 41 32, nm := none }
         let w1 := { w with idx := w.idx + 1, phase := if w.idx + 1 < b then 1 else 2 }
         some ((t.putWalk pl w1.trim).formPass pl n 0 w.msg true a x none (bits lane 8 8) false (bits lane 11 9) (bits lane 14 12))
     | _, _ => none)
  | 2 =>
    let (n, t) := s.poolSeq pl
    let d : PoolDrain :=
      { seq := n, arr := 0, msg := w.msg, region := w.region, ridx := bits lane 17 15, ofmt := bits lane 19 18, zero := false,
        off := 32 * w.row * qOp w.msg 5, dpitch := qOp w.msg 5, phase := 1, route := 0, rows := [], next := 0, queued := false,
        walk := true }
    let w1 := { w with row := w.row + 1, phase := if w.row + 1 < bits (qOp w.msg 4) 15 0 then 0 else 3 }
    let p := (t.putWalk pl w1.trim).pool pl
    some (t.setPool pl { p with drains := p.drains ++ [d] })
  | _ => none

/-- WALK_ENTRY_FETCH (R290, R291): the walk uses what it has fetched, or fetches ahead; which of the two comes first is free. -/
def execWalkEntryFetch (pl : Nat) (s : State) : Out :=
  ok (match (s.pool pl).walk with
      | none => s
      | some w =>
        if w.parked ∨ w.failed.isSome ∨ w.phase = 3 then s
        else
          match s.walkNext pl w with
          | none => s.prefetch pl w
          | some t =>
            if (w.nextRp.isSome || w.nextEnt.isSome) && Config.freeBool s.free then s.useFree.prefetch pl w
            else t.useFree)

/-- WALK_PARK (R291): a walk that has reached a failed fetch parks once its earlier passes have committed and its drains have
completed; the sector's keeper receives an ENTRY record. -/
def execWalkPark (pl : Nat) (s : State) : Out :=
  let p := s.pool pl
  ok (match p.walk with
      | none => s
      | some w =>
        match w.failed with
        | none => s
        | some (rp, va, c) =>
          if w.parked ∨ p.passes.any (fun q => q.walk) ∨ p.drains.any (fun d => d.walk) then s
          else
            let r : Nat := if rp then 1 else 0
            let s1 := (s.setReg (poolReg pl 0x48) (BitVec.ofNat 64 (w.idx + w.row * 2 ^ 32 + r * 2 ^ 48))).putWalk pl { w with parked := true }
            let port := engineDest (pl / 40) (pl / 5 % 8) (pl % 5) 0
            s1.faultRecord port (pl / 5) w.msg.ctx w.msg.tag fENTRY
              [BitVec.ofNat 32 va, BitVec.ofNat 32 (va / 2 ^ 32), BitVec.ofNat 32 (if rp then w.row else w.idx),
                BitVec.ofNat 32 (w.row + r * 2 ^ 16 + c % 256 * 2 ^ 24)] w.msg.dest.toNat 7 0 [])

/-- Whether a write of `POOL.RESUME` disposes of a parked walk: the walk (R292). -/
def State.parkedWalk (s : State) (pl : Nat) (v : Word) : Option BWalk :=
  match (s.pool pl).walk with
  | some w => if w.parked ∧ bits v.toNat 31 0 ≤ w.idx then some w else none
  | none => none

/-- The row pointers that a parked walk keeps (R292): those before the one at which it parked; at an entry, the two of its block-row. -/
def BWalk.keptRps (w : BWalk) : Tab (Nat × Nat) :=
  let stop : Nat :=
    if w.phase = 4 then
      match w.rps.find? w.row with
      | some (c, _) => if c = 0 then w.row + 1 else w.row
      | none => w.row
    else w.row + 2
  w.rps.filter (fun e => decide (e.1 < stop))

/-- POOL_WALK_RESUME (R292): what failed or was fetched at or beyond the parked index is fetched again. -/
def execPoolWalkResume (pl : Nat) (v : Word) (s : State) : Out :=
  ok (match s.parkedWalk pl v with
      | some w =>
        s.putWalk pl { w with
          parked := false,
          rebase := if bitOf v.toNat 33 then some ((s.reg (poolReg pl 0x50)).toNat, bits v.toNat 31 0) else none,
          rps := w.keptRps, ents := [] }
      | none => s)

/-- POOL_WALK_ABORT (R292): the walk completes with ENTRY. -/
def execPoolWalkAbort (pl : Nat) (v : Word) (s : State) : Out :=
  ok (match s.parkedWalk pl v with
      | some w => (s.putWalk pl { w with parked := false, phase := 3, status := sENTRY }).walkOver pl
      | none => s)

end Sys2Proof.Machine
end

