-- ==== Sys2Proof/Machine/Copy.lean ====
section
/-! DEFINITION. The copy engine (R322 to R344): its commands, the rows that pool drains hand to it (R340). -/

namespace Sys2Proof.Machine

/-! ## Addresses (R323) -/

/-- A place of a command's extent: in the scratchpad of the engine's sector, or in the ASID of the context; and its address, which
a signed pitch may carry below 0. -/
structure CAddr where
  loc : Bool
  at_ : Int
deriving DecidableEq, Repr

/-- The place an address operand names. -/
def copyAddr (w : Nat) : CAddr :=
  if bitOf w 63 then { loc := true, at_ := bits w 22 0 } else { loc := false, at_ := bits w 55 0 }

/-- Whether the bits an address operand reserves are zero. -/
def copyAddrOk (w : Nat) : Bool := if bitOf w 63 then bits w 62 23 == 0 else bits w 62 56 == 0

/-- A place moved by a signed distance. -/
def CAddr.plus (a : CAddr) (n : Int) : CAddr := { a with at_ := a.at_ + n }

/-- Bytes from a place to the next 64-byte boundary. -/
def CAddr.toLine (a : CAddr) : Nat := (64 - a.at_ % 64).toNat

/-- A reach of up to 64 bytes: its physical address, its view flag, its length. -/
structure Reach where
  pa : Nat
  view : Bool
  n : Nat
deriving DecidableEq, Repr

/-- The reach of `n` bytes of one 64-byte line from a place, for a context and the ASID it was taken with, or the fault code of R323. -/
def State.reach (s : State) (ps : Nat) (ctx : BitVec 12) (asid : Option Nat) (a : CAddr) (n : Nat) (write : Bool) : Except Nat Reach × State :=
  if a.at_ < 0 ∨ (if a.loc then 2 ^ 23 else 2 ^ 56) < a.at_ + n then (.error fADDR, s)
  else if a.loc then (.ok { pa := scratchAddr ps a.at_.toNat, view := false, n := n }, s)
  else
    match s.sectorXlate ps ctx asid a.at_.toNat write with
    | (.error c, t) => (.error c, t)
    | (.ok (pa, view), t) => if t.physOk pa n false then (.ok { pa := pa, view := view, n := n }, t) else (.error fADDR, t)

/-- The reaches of `n` bytes from a place, or a fault code and how many bytes precede the first failing one. -/
def State.reaches (ps : Nat) (ctx : BitVec 12) (asid : Option Nat) (write : Bool) :
    Nat → State → CAddr → Nat → Nat → Except (Nat × Nat) (List Reach) × State
  | 0, s, _, _, _ => (.ok [], s)
  | k + 1, s, a, done, n =>
    if n = 0 then (.ok [], s)
    else
      let c := Nat.min n a.toLine
      match s.reach ps ctx asid a c write with
      | (.error code, t) => (.error (code, done), t)
      | (.ok r, t) =>
        match State.reaches ps ctx asid write k t (a.plus c) (done + c) (n - c) with
        | (.ok rs, u) => (.ok (r :: rs), u)
        | (.error e, u) => (.error e, u)

/-! ## Pieces -/

/-- A piece of a command in its order: its position, which gives its chunk; where it is written, its length, and what is written
there: bytes of a source, or given bytes with their poison. -/
structure Piece where
  pos : Nat
  dst : CAddr
  n : Nat
  src : Option CAddr
  given : List Byte
  bad : Bool
deriving DecidableEq, Repr

/-- A piece whose addresses have been found. -/
structure Flow where
  pos : Nat
  dst : Reach
  srcs : List Reach
  given : List Byte
  bad : Bool
deriving DecidableEq, Repr

/-- The 64-byte chunk of a command's order that a position lies in (R327). -/
def chunkOf (pos : Nat) : Nat := pos / 64

/-- Bytes from a position and its destination that lie in one chunk of the order and one line of the destination. -/
def pieceLen (pos : Nat) (dst : CAddr) (n : Nat) : Nat := Nat.min n (Nat.min dst.toLine (64 - pos % 64))

/-- A run of `n` bytes cut into pieces. -/
def cutRun : Nat → Nat → CAddr → Nat → Option CAddr → List Piece
  | 0, _, _, _, _ => []
  | k + 1, pos, dst, n, src =>
    if n = 0 then []
    else
      let c := pieceLen pos dst n
      { pos := pos, dst := dst, n := c, src := src, given := [], bad := false }
        :: cutRun k (pos + c) (dst.plus c) (n - c) (src.map (fun a => a.plus c))

/-- Given bytes cut into pieces in the same way. -/
def cutBytes : Nat → Nat → CAddr → List Byte → List Piece
  | 0, _, _, _ => []
  | k + 1, pos, dst, bs =>
    if bs.isEmpty then []
    else
      let c := pieceLen pos dst bs.length
      { pos := pos, dst := dst, n := c, src := none, given := bs.take c, bad := false } :: cutBytes k (pos + c) (dst.plus c) (bs.drop c)

/-- Every address of the pieces found and checked, or the fault code and position of the first failing byte (R327). -/
def State.resolve (s : State) (ps : Nat) (ctx : BitVec 12) (asid : Option Nat) : List Piece → Except (Nat × Nat) (List Flow) × State
  | [] => (.ok [], s)
  | p :: rest =>
    let (src, t) := (match p.src with
      | some a => State.reaches ps ctx asid false (p.n + 1) s a 0 p.n
      | none => (.ok [], s))
    let (dst, u) := t.reach ps ctx asid p.dst p.n true
    match src, dst with
    | .error (c, 0), _ => (.error (c, p.pos), u)
    | _, .error c => (.error (c, p.pos), u)
    | .error (c, i), _ => (.error (c, p.pos + i), u)
    | .ok rs, .ok d =>
      match u.resolve ps ctx asid rest with
      | (.ok fs, v) => (.ok ({ pos := p.pos, dst := d, srcs := rs, given := p.given, bad := p.bad } :: fs), v)
      | (.error e, v) => (.error e, v)

/-- The frames of global memory that reaches touch, each once. -/
def framesOf (rs : List Reach) : List Nat :=
  rs.foldl (fun l r => if isGlobal r.pa then insertNat (r.pa / 65536 * 65536) l else l) []

/-- The reaches of flows. -/
def flowReaches (fs : List Flow) : List Reach := fs.flatMap (fun f => f.dst :: f.srcs)

/-- The frames that flows touch. -/
def flowFrames (fs : List Flow) : List Nat := framesOf (flowReaches fs)

/-- The holds of a command that it does not have yet (R339); the command waits where one finds its count at 255. -/
def State.withHolds (s : State) (m : Token) (holds frames nums : List Nat) (k : List Nat → State → State) : State :=
  match s.takeHolds holds (frames.filter (fun f => !holds.contains (s.holdFrame f))) with
  | (h, [], t) => k h t
  | (h, f :: _, t) => t.waitHold m f nums h

/-- The first destination that a ladder hold covers (R313). -/
def State.heldFlow (s : State) (fs : List Flow) : Option Flow := fs.find? (fun f => s.ladHeld f.dst.pa f.dst.n)

/-- A request stands in the sector's memory port for the home of one of the reaches: an access of the sector's engine goes behind it
(R225, R252). -/
def State.portWaits (s : State) (ps : Nat) (rs : List Reach) : Bool := rs.any (fun r => s.portPending ps r.pa)

/-! ## Bytes that both extents of a command share (R328) -/

/-- The bytes of reaches, with their poison. -/
def State.readReaches (s : State) : List Reach → Got × State
  | [] => ({ data := [], poison := false, code := 0 }, s)
  | r :: rs =>
    let (g, t) := s.load r.pa r.n r.view
    if g.code ≠ 0 then (g, t)
    else
      let (h, u) := t.readReaches rs
      ({ data := g.data ++ h.data, poison := g.poison || h.poison, code := h.code }, u)

/-- The place that performs an access to a reach. -/
def State.spot (s : State) (r : Reach) : Nat := if isGlobal r.pa then (s.redirect 8 r.pa r.view false).1 else r.pa

/-- The bytes of source reaches that lie in destination reaches too, by the place of each, with their poison. -/
def State.sharedBytes (s : State) (srcs dsts : List Reach) : Tab (Byte × Bool) :=
  let ds := dsts.map (fun d => (s.spot d, d.n))
  srcs.foldl (fun l r =>
    let p := s.spot r
    let near := ds.filter (fun d => decide (d.1 < p + r.n ∧ p < d.1 + d.2))
    if near.isEmpty then l
    else (upTo r.n).foldl (fun l i =>
      if near.any (fun d => decide (d.1 ≤ p + i ∧ p + i < d.1 + d.2)) then
        let g := s.rawLoad (p + i) 1
        Tab.set l (p + i) (nth 0 g.data 0, g.poison)
      else l) l) []

/-- A byte as a command may take it: where its extents share it, freely the one from before the command or the present one. -/
def CopyRun.either (r : CopyRun) (free at_ : Nat) (b : Byte × Bool) : Byte × Bool :=
  match r.shared.find? at_ with
  | some old => if Config.freeBool free then old else b
  | none => b

/-- Bytes at a place as a command may take them. -/
def CopyRun.eitherAll (r : CopyRun) (free at_ : Nat) (bs : List Byte) (poison : Bool) : List (Byte × Bool) :=
  (indexed 0 bs).map (fun e =>
    match r.own.find? (at_ + e.1) with
    | some x => x
    | none => r.either (free + e.1) (at_ + e.1) (e.2, poison))

/-- The source of a flow read: the present bytes, but for those that the command's extents share (R328). -/
def State.readShared (s : State) (r : CopyRun) : List Reach → Got × State
  | [] => ({ data := [], poison := false, code := 0 }, s)
  | x :: xs =>
    let at_ := s.spot x
    let (g, t) := s.load x.pa x.n x.view
    if g.code ≠ 0 then (g, t)
    else
      let es := r.eitherAll t.free at_ g.data g.poison
      let (h, u) := (if r.shared.isEmpty then t else { t with free := t.free + x.n }).readShared r xs
      ({ data := es.map (fun e => e.1) ++ h.data, poison := es.any (fun e => e.2) || h.poison, code := h.code }, u)

/-! ## A chunk of a command (R322, R327, R339) -/

/-- A copy command's progress kept; it goes on in a later turn. -/
def State.keepRun (s : State) (m : Token) (r : CopyRun) : State :=
  s.setBusy m { msg := m, phase := 97, nums := [], holds := r.holds, data := [], copy := some r }

/-- The holds that a copy command does not have yet, taken; it waits where one finds its count at 255. -/
def State.runHolds (s : State) (m : Token) (r : CopyRun) (frames : List Nat) (k : CopyRun → State → State) : State :=
  match s.takeHolds r.holds (frames.filter (fun f => !r.holds.contains (s.holdFrame f))) with
  | (h, [], t) => k { r with holds := h } t
  | (h, f :: _, t) => (t.keepRun m { r with holds := h }).waitHold m f [] h

/-- The data of flows read. -/
def State.readFlows (s : State) (r : CopyRun) : List Flow → List (Flow × Got) × State
  | [] => ([], s)
  | f :: fs =>
    let (g, t) := if f.srcs.isEmpty then ({ data := f.given, poison := f.bad, code := 0 }, s) else s.readShared r f.srcs
    let (gs, u) := t.readFlows r fs
    ((f, g) :: gs, u)

/-- Flows written: a fault code or 0. A byte that both extents share takes freely its new value or the one before the command, unless
the command reads all its sources first (R328). -/
def State.writeFlows (s : State) (r : CopyRun) : List (Flow × Got) → Nat × State
  | [] => (0, s)
  | (f, g) :: rest =>
    if g.code ≠ 0 then (g.code, s)
    else
      let es := (indexed 0 g.data).map (fun e => r.either (s.free + e.1) (s.spot f.dst + e.1) (e.2, g.poison))
      let s1 := if r.shared.isEmpty then s else { s with free := s.free + g.data.length }
      let (c, t) := s1.store f.dst.pa (es.map (fun e => e.1)) (es.any (fun e => e.2))
      if c ≠ 0 then (c, t) else t.writeFlows r rest

/-- One chunk of a command moved: a fault code or 0, its bytes, whether it carried poison. Where an access of it is refused none of it
is written (R327). -/
def State.moveChunk (s : State) (r : CopyRun) (fs : List Flow) : (Nat × Nat × Bool) × State :=
  let (gs, t) := s.readFlows r fs
  match t.writeFlows r gs with
  | (0, u) => ((0, (gs.foldl (fun n e => n + e.2.data.length) 0), gs.any (fun e => e.2.poison)), u)
  | (c, _) => ((c, 0, false), t)

/-- The next chunk of pieces in their order (R322). Before the first the addresses of all of them are checked, and `lin` pieces set
aside what they are to read of the bytes that they write as well (R328, R329). `fail` is given the code and position of a failure,
`next` goes on when no chunk is left. The chunk waits for holds (R339), for a ladder hold (R313), and behind the requests in its
sector's memory port (R225). -/
def State.copyPart (s : State) (m : Token) (ps : Nat) (r : CopyRun) (lin : Bool) (pieces : List Piece)
    (fail : Nat → Nat → CopyRun → State → State) (next : CopyRun → State → State) : State :=
  match (if r.begun then (.ok [], s) else s.resolve ps m.ctx r.asid pieces) with
  | (.error (c, pos), t) => fail c pos r t
  | (.ok all, t) =>
    match t.resolve ps m.ctx r.asid (pieces.filter (fun p => chunkOf p.pos == r.chunk)) with
    | (.error (c, _), u) => fail c (64 * r.chunk) r u
    | (.ok fs, u) =>
      u.runHolds m r (flowFrames (all ++ fs)) (fun h v =>
        match v.heldFlow fs with
        | some f => (v.keepRun m h).waitLad m f.dst.pa f.dst.n [] h.holds
        | none =>
          if v.portWaits ps (flowReaches fs) then v.keepRun m h
          else
            let both := v.sharedBytes (all.flatMap (fun f => f.srcs)) (all.map (fun f => f.dst))
            let r1 :=
              if h.begun then h
              else if lin then { h with begun := true, own := (indexed 0 both).map (fun e => (e.2.1, h.either (v.free + e.1) e.2.1 e.2.2)) }
              else { h with begun := true, shared := h.shared ++ both }
            let v1 := if lin && !h.begun && !h.shared.isEmpty then { v with free := v.free + both.length } else v
            match v1.moveChunk r1 fs with
            | ((0, n, bad), w) =>
              let r2 := { r1 with chunk := r1.chunk + 1, bytes := r1.bytes + n, bad := r1.bad || bad }
              let w1 := w.bump (secReg ps 6 0x08) n
              if pieces.any (fun p => decide (r2.chunk ≤ chunkOf p.pos)) then w1.keepRun m r2 else next r2 w1
            | ((c, _, _), w) => fail c (64 * r1.chunk) r1 w)

/-! ## Commands -/

/-- A command ends (R325, R343): its holds go, the counters advance, and it is answered. -/
def State.copyEnd (s : State) (m : Token) (ps : Nat) (holds : List Nat) (st bytes pos extra : Nat) : State :=
  let s1 := (s.dropHolds holds).bump (secReg ps 6 0x10) 1
  let s2 := if st = sOVERFLOW then s1.bump (secReg ps 6 0x18) 1 else s1
  s2.finish m st 0 [BitVec.ofNat 32 bytes, BitVec.ofNat 32 pos, BitVec.ofNat 32 extra]

/-- The status of a command that carried poison or not (R338). -/
def poisonStatus (bad : Bool) : Nat := if bad then sPOISON else sOK

/-- The key of an inbox of a sector's copy engine. -/
def copyInbox (ps i : Nat) : Nat := inboxKey (engineDest (ps / 8) (ps % 8) 5 i)

/-- Whether an inbox of a copy engine has work: its head is a copy command or a drain's row that does not wait on a hold, and a fence
whose inboxes are clear (R322, R340, R342). -/
def State.copyReady (s : State) (ps i : Nat) : Bool :=
  match s.inbox (copyInbox ps i) with
  | (_, m) :: _ =>
    (match s.busy.find? (copyInbox ps i) with | some b => b.phase == 97 | none => true)
      && (m.cls == 4 || (m.cls != 2 && decide (1 ≤ msgOpcode m ∧ msgOpcode m ≤ 8)
            && (msgOpcode m != 8 || (messageCheck m true 2 0xF00).isSome || s.inboxesClear m (bits (lane0 m) 11 8) 4)))
  | [] => false

/-- It is an inbox's turn at its copy engine, which serves those that have work round-robin, a chunk at a time (R322): of them it is
the first at or after the engine's pointer. -/
def State.copyTurn (s : State) (ps i : Nat) : Bool :=
  let ahead (x : Nat) : Nat := (x + 4 - Tab.get 0 s.copyNext ps) % 4
  s.copyReady ps i && (upTo 4).all (fun x => !s.copyReady ps x || decide (ahead i ≤ ahead x))

/-- A copy engine has served an inbox. -/
def State.copyServed (s : State) (ps i : Nat) : State := { s with copyNext := Tab.set s.copyNext ps ((i + 1) % 4) }

/-- Where a copy command stands: as it is taken, or as it was kept; none while it waits. -/
def State.copyRun (s : State) (m : Token) : Option CopyRun :=
  match s.busyOf m with
  | none => some (.fresh (s.asid? m.ctx))
  | some b => if b.phase = 97 then some { b.copy.getD (.fresh (s.asid? m.ctx)) with holds := b.holds } else none

/-- A copy command in its inbox's turn: the checks of R103, then its effect, from where it stands. -/
def State.copyCmd (s : State) (m : Token) (lanes flags : Nat) (f : Nat → CopyRun → State → State) : State :=
  match engineOf m.dest with
  | some (.copy ps) =>
    if s.atHead m && s.copyTurn ps (dInbox m.dest) then
      (s.copyServed ps (dInbox m.dest)).command m true lanes flags (fun t =>
        match t.copyRun m with
        | none => t
        | some r => f ps r t)
    else s
  | _ => s

/-- A command that checks every address before it writes (R327): `cp.lin`, `cp.2d`, `cp.tr`, `cp.fill`. -/
def State.copyWhole (s : State) (m : Token) (ps : Nat) (r : CopyRun) (lin : Bool) (pieces : List Piece) : State :=
  s.copyPart m ps r lin pieces
    (fun c pos r1 t => t.copyEnd m ps r1.holds (statusOfCode c) r1.bytes pos 0)
    (fun r1 t => t.copyEnd m ps r1.holds (poisonStatus r1.bad) r1.bytes 0 0)

/-- CP_LIN (R329). -/
def execCpLin (m : Token) (s : State) : Out :=
  ok (s.copyCmd m 8 0 (fun ps r t =>
    let len := qOp m 3
    if !copyAddrOk (qOp m 1) ∨ !copyAddrOk (qOp m 2) ∨ len = 0 ∨ 2 ^ 32 ≤ len then t.copyEnd m ps r.holds sBADARG 0 0 0
    else t.copyWhole m ps r true (cutRun len 0 (copyAddr (qOp m 1)) len (some (copyAddr (qOp m 2))))))

/-- A number of 32 bits as signed. -/
def signed32 (n : Nat) : Int := (BitVec.ofNat 32 n).toInt

/-- CP_2D (R330). -/
def execCp2d (m : Token) (s : State) : Out :=
  ok (s.copyCmd m 10 0 (fun ps r t =>
    let rowb := bits (qOp m 3) 23 0
    let rows := bits (qOp m 3) 47 24
    if !copyAddrOk (qOp m 1) ∨ !copyAddrOk (qOp m 2) ∨ rowb = 0 ∨ rows = 0 ∨ 2 ^ 48 ≤ qOp m 3 then t.copyEnd m ps r.holds sBADARG 0 0 0
    else
      let sp := signed32 (bits (qOp m 4) 31 0)
      let dp := signed32 (bits (qOp m 4) 63 32)
      t.copyWhole m ps r false ((upTo rows).flatMap (fun (i : Nat) =>
        cutRun rowb (i * rowb) ((copyAddr (qOp m 1)).plus (dp * (i : Int))) rowb (some ((copyAddr (qOp m 2)).plus (sp * (i : Int))))))))

/-- CP_TR (R331). -/
def execCpTr (m : Token) (s : State) : Out :=
  ok (s.copyCmd m 10 0 (fun ps r t =>
    let q3 := qOp m 3
    let es := 2 ^ bits q3 33 32
    let rb := bits q3 15 0
    let cb := bits q3 31 16
    let sp := bits (qOp m 4) 31 0
    let dp := bits (qOp m 4) 63 32
    let d := copyAddr (qOp m 1)
    let a := copyAddr (qOp m 2)
    if !copyAddrOk (qOp m 1) ∨ !copyAddrOk (qOp m 2) ∨ rb = 0 ∨ cb = 0 ∨ bits q3 33 32 = 3 ∨ 2 ^ 34 ≤ q3 ∨ sp % es ≠ 0 ∨ dp % es ≠ 0
        ∨ d.at_ % es ≠ 0 ∨ a.at_ % es ≠ 0 then t.copyEnd m ps r.holds sBADARG 0 0 0
    else
      t.copyWhole m ps r false ((upTo (rb * cb)).flatMap (fun (b : Nat) => (upTo 1024).map (fun (i : Nat) =>
        let row := 32 * (b / cb) + i / 32
        let col := 32 * (b % cb) + i % 32
        { pos := (1024 * b + i) * es, dst := d.plus ((col * dp + row * es : Nat) : Int), n := es,
          src := some (a.plus ((row * sp + col * es : Nat) : Int)), given := [], bad := false })))))

/-- CP_FILL (R332). -/
def execCpFill (m : Token) (s : State) : Out :=
  ok (s.copyCmd m 8 0 (fun ps r t =>
    let len := bits (qOp m 3) 31 0
    let ps2 := 2 ^ bits (qOp m 3) 33 32
    let d := copyAddr (qOp m 1)
    if !copyAddrOk (qOp m 1) ∨ len = 0 ∨ 2 ^ 34 ≤ qOp m 3 ∨ len % ps2 ≠ 0 ∨ d.at_ % ps2 ≠ 0 then t.copyEnd m ps r.holds sBADARG 0 0 0
    else
      t.copyWhole m ps r false ((cutRun len 0 d len none).map (fun p =>
        { p with given := (upTo p.n).map (fun i => BitVec.ofNat 8 (qOp m 2 / 2 ^ (8 * ((p.pos + i) % ps2)))) }))))

/-! ## `cp.gath` (R333) -/

/-- Entry `i` of a list fetched into a command's progress: the frame whose hold it waits for, if one is full (R339). -/
def State.gathFetch (s : State) (m : Token) (ps : Nat) (list : CAddr) (r : CopyRun) (i : Nat) : Option Nat × CopyRun × State :=
  match State.reaches ps m.ctx r.asid false 17 s (list.plus (16 * (i : Int))) 0 16 with
  | (.error (c, _), t) => (none, { r with ahead := Tab.set r.ahead i (c, 0, 0) }, t)
  | (.ok rs, t) =>
    match t.takeHolds r.holds ((framesOf rs).filter (fun f => !r.holds.contains (t.holdFrame f))) with
    | (h, f :: _, u) => (some f, { r with holds := h }, u)
    | (h, [], u) =>
      if u.portWaits ps rs then (none, { r with holds := h }, u)
      else
        let (g, v) := u.readReaches rs
        (none, { r with
          holds := h,
          ahead := Tab.set r.ahead i
            (if g.code ≠ 0 then g.code else if g.poison then fPOISON else 0, leNat (g.data.take 8), leNat (g.data.drop 8)) }, v)

/-- Entries beyond the one in use fetched ahead: freely how many of the 16. -/
def State.gathAhead (m : Token) (ps n : Nat) (list : CAddr) : Nat → State → CopyRun → CopyRun × State
  | 0, s, r => (r, s)
  | k + 1, s, r =>
    match ((upTo 16).map (fun i => r.part + 1 + i)).find? (fun i => decide (i < n) && (r.ahead.find? i).isNone) with
    | some i =>
      if Config.freeBool s.free then
        let (_, r1, t) := s.useFree.gathFetch m ps list r i
        State.gathAhead m ps n list k t r1
      else (r, s.useFree)
    | none => (r, s)

/-- The pieces of an entry. -/
def gathPieces (elen d a : Nat) : List Piece := cutRun elen 0 (copyAddr d) elen (some (copyAddr a))

/-- The bytes that an entry's extents share with those of the others, as the list stands when the command begins. -/
def State.gathShared (s : State) (m : Token) (ps n elen : Nat) (list : CAddr) (r : CopyRun) : Tab (Byte × Bool) :=
  let flows := (upTo n).map (fun i =>
    match ((s.gathFetch m ps list { r with holds := [] } i).2.1.ahead.find? i) with
    | some (0, d, a) => (match (s.resolve ps m.ctx r.asid (gathPieces elen d a)).1 with | .ok fs => fs | .error _ => [])
    | _ => [])
  (indexed 0 flows).foldl (fun l e =>
    (s.sharedBytes (e.2.flatMap (fun f => f.srcs))
      (((indexed 0 flows).filter (fun x => x.1 != e.1)).flatMap (fun x => x.2.map (fun f => f.dst)))).foldl
        (fun l x => Tab.set l x.1 x.2) l) []

/-- The next chunk of a `cp.gath`: an entry is fetched, checked whole, then copied as `cp.lin`. -/
def State.gathStep (s : State) (m : Token) (ps n elen : Nat) (list : CAddr) (r : CopyRun) : State :=
  let e := r.part
  let r0 := if e = 0 ∧ !r.begun ∧ r.ahead.isEmpty then { r with shared := s.gathShared m ps n elen list r } else r
  let (full, r1, s1) := if (r0.ahead.find? e).isSome then (none, r0, s) else s.gathFetch m ps list r0 e
  match full, r1.ahead.find? e with
  | some f, _ => (s1.keepRun m r1).waitHold m f [] r1.holds
  | none, none => s1.keepRun m r1
  | none, some (c, d, a) =>
    if c ≠ 0 then s1.copyEnd m ps r1.holds (statusOfCode c) r1.bytes e 0
    else if !copyAddrOk d ∨ !copyAddrOk a then s1.copyEnd m ps r1.holds sBADARG r1.bytes e 0
    else
      let (r2, s2) := if r1.begun then (r1, s1) else State.gathAhead m ps n list 16 s1 r1
      s2.copyPart m ps r2 true (gathPieces elen d a)
        (fun c2 _ r3 t => t.copyEnd m ps r3.holds (statusOfCode c2) r3.bytes e 0)
        (fun r3 t =>
          if e + 1 < n then
            t.keepRun m { r3 with begun := false, chunk := 0, part := e + 1, own := [], ahead := r3.ahead.filter (fun x => decide (e < x.1)) }
          else t.copyEnd m ps r3.holds (poisonStatus r3.bad) r3.bytes n 0)

/-- CP_GATH (R333). -/
def execCpGath (m : Token) (s : State) : Out :=
  ok (s.copyCmd m 6 0 (fun ps r t =>
    let list := copyAddr (qOp m 1)
    let n := bits (qOp m 2) 31 0
    let elen := bits (qOp m 2) 47 32
    if !copyAddrOk (qOp m 1) ∨ list.at_ % 8 ≠ 0 ∨ n = 0 ∨ elen = 0 ∨ 2 ^ 48 ≤ qOp m 2 then t.copyEnd m ps r.holds sBADARG 0 0 0
    else t.gathStep m ps n elen list r))

/-! ## Compression (R334 to R337) -/

/-- The elements of `es` bytes of a tile. -/
def tileElems (es : Nat) (bs : List Byte) : List (List Byte) := chunks es 256 bs

/-- Whether an element is zero. -/
def zeroElem (e : List Byte) : Bool := e.all (fun b => b == 0)

/-- The first at most `n` elements that `p` holds of. -/
def takeUpTo (p : List Byte → Bool) : Nat → List (List Byte) → List (List Byte)
  | 0, _ => []
  | _, [] => []
  | n + 1, e :: es => if p e then e :: takeUpTo p n es else []

/-- The records of the zero-run scheme. -/
def zeroRuns : Nat → List (List Byte) → List Byte
  | 0, _ => []
  | k + 1, es =>
    if es.isEmpty then []
    else
      let z := (takeUpTo zeroElem 255 es).length
      let lits := takeUpTo (fun e => !zeroElem e) 255 (es.drop z)
      BitVec.ofNat 8 z :: BitVec.ofNat 8 lits.length :: (lits.flatten ++ zeroRuns k (es.drop (z + lits.length)))

/-- The 32 bytes of the bitmap. -/
def bitmapOf (es : List (List Byte)) : List Byte :=
  leBytes 32 ((indexed 0 es).foldl (fun n e => if zeroElem e.2 then n else n + 2 ^ e.1) 0)

/-- Bytes padded with zeros to a multiple of 8. -/
def pad8 (bs : List Byte) : List Byte := bs ++ List.replicate ((8 - bs.length % 8) % 8) 0

/-- The body of a tile in a scheme. -/
def tileBody (run : Bool) (es : List (List Byte)) : List Byte :=
  pad8 (if run then zeroRuns 256 es else bitmapOf es ++ (es.filter (fun e => !zeroElem e)).flatten)

/-- The header of a tile. -/
def tileHeader (run : Bool) (esc : Nat) (es : List (List Byte)) : Nat :=
  (tileBody run es).length + (es.filter (fun e => !zeroElem e)).length * 2 ^ 16 + esc * 2 ^ 25 + (if run then 2 ^ 27 else 0) + 2 ^ 63

/-- The elements that zero-run records hold: the tile's bytes, the literals counted, the bytes used; none where the records do
not cover exactly `left` elements. -/
def readRuns (es : Nat) : Nat → Nat → List Byte → Option (List Byte × Nat × Nat)
  | 0, _, _ => none
  | k + 1, left, bs =>
    if left = 0 then some ([], 0, 0)
    else
      match bs with
      | z :: n :: rest =>
        if left < z.toNat + n.toNat ∨ rest.length < n.toNat * es then none
        else
          match readRuns es k (left - z.toNat - n.toNat) (rest.drop (n.toNat * es)) with
          | some (out, lits, used) =>
            some (List.replicate (z.toNat * es) 0 ++ rest.take (n.toNat * es) ++ out, n.toNat + lits, 2 + n.toNat * es + used)
          | none => none
      | _ => none

/-- The elements that a bitmap and its literals hold, from bit `i` on. -/
def readBitmap (es bm : Nat) : Nat → Nat → List Byte → List Byte
  | 0, _, _ => []
  | k + 1, i, bs =>
    if bitOf bm i then bs.take es ++ readBitmap es bm k (i + 1) (bs.drop es)
    else List.replicate es 0 ++ readBitmap es bm k (i + 1) bs

/-- A tile decompressed, by its header and body; none where the body does not fit the header (R337). DEDUCED: a body longer than
its padded contents is refused too. -/
def tileOf (run : Bool) (es hdr : Nat) (body : List Byte) : Option (List Byte) :=
  let nz := bits hdr 24 16
  if run then
    match readRuns es (body.length + 1) 256 body with
    | some (out, lits, used) => if lits = nz ∧ (used + 7) / 8 * 8 = body.length then some out else none
    | none => none
  else
    let bm := leNat (body.take 32)
    let count := ((upTo 256).filter (fun i => bitOf bm i)).length
    if count = nz ∧ (32 + count * es + 7) / 8 * 8 = body.length then some (readBitmap es bm 256 0 (body.drop 32)) else none

/-- What comes of reading a source range of a tile: it waits, it fails with a status, or its bytes. -/
inductive TileGot where
  | waits (r : CopyRun)
  | full (frame : Nat) (r : CopyRun)
  | fails (status : Nat) (r : CopyRun)
  | got (bytes : List Byte) (r : CopyRun)
deriving DecidableEq, Repr

/-- A source range read for a tile, its pages held (R338, R339). -/
def State.tileRead (s : State) (m : Token) (ps : Nat) (r : CopyRun) (a : CAddr) (n : Nat) : TileGot × State :=
  match State.reaches ps m.ctx r.asid false (n + 1) s a 0 n with
  | (.error (c, _), t) => (.fails (statusOfCode c) r, t)
  | (.ok rs, t) =>
    match t.takeHolds r.holds ((framesOf rs).filter (fun f => !r.holds.contains (t.holdFrame f))) with
    | (h, f :: _, u) => (.full f { r with holds := h }, u)
    | (h, [], u) =>
      let r1 := { r with holds := h }
      if u.portWaits ps rs then (.waits r1, u)
      else
        let (g, v) := u.readShared r1 rs
        if g.code ≠ 0 then (.fails (statusOfCode g.code) r1, v)
        else if g.poison then (.fails sPOISON r1, v)
        else (.got g.data r1, v)

/-- A tile's range read, or the command waits, or it ends with the bytes given. -/
def State.withTile (s : State) (m : Token) (ps : Nat) (r : CopyRun) (bytes : Nat) (a : CAddr) (n : Nat)
    (k : List Byte → CopyRun → State → State) : State :=
  match s.tileRead m ps r a n with
  | (.waits r1, t) => t.keepRun m r1
  | (.full f r1, t) => (t.keepRun m r1).waitHold m f [] r1.holds
  | (.fails st r1, t) => t.copyEnd m ps r1.holds st bytes r1.part 0
  | (.got d r1, t) => k d r1 t

/-- The reaches of a range, as far as it translates. -/
def State.rangeReaches (s : State) (ps : Nat) (ctx : BitVec 12) (asid : Option Nat) (a : CAddr) (n : Nat) (write : Bool) : List Reach :=
  match (State.reaches ps ctx asid write (n + 1) s a 0 n).1 with
  | .ok rs => rs
  | .error (_, k) => match (State.reaches ps ctx asid write (k + 1) s a 0 k).1 with | .ok rs => rs | .error _ => []

/-- The bytes that the extents of a compression share, noted as it begins. -/
def State.tileShared (s : State) (m : Token) (ps : Nat) (r : CopyRun) (srcLen dstLen : Nat) : CopyRun :=
  if r.part = 0 ∧ !r.begun ∧ r.need = 0 then
    let srcs := s.rangeReaches ps m.ctx r.asid (copyAddr (qOp m 2)) srcLen false
    let dsts := s.rangeReaches ps m.ctx r.asid (copyAddr (qOp m 1)) dstLen true
    { r with shared := s.sharedBytes srcs dsts }
  else r

/-- What is written of a tile that `cp.zip` has compressed (R335, R336): zero at its header, its body, its header last; of a tile that
overflows, what lies within DCAP, and no header. -/
def zipPieces (dst : CAddr) (r : CopyRun) (dcap : Nat) : List Piece :=
  let beyond : Bool := decide (dcap < r.off + r.need)
  let body := if beyond then r.tile.take (dcap - (r.off + 8)) else r.tile
  cutBytes 9 0 dst (leBytes 8 0) ++ cutBytes (body.length + 1) 64 (dst.plus 8) body
    ++ (if beyond then [] else cutBytes 9 (64 * (body.length / 64 + 2)) dst (leBytes 8 r.header))

/-- A tile compressed, in a command's progress. -/
def CopyRun.zipped (r : CopyRun) (run : Bool) (esc : Nat) (d : List Byte) : CopyRun :=
  let elems := tileElems (2 ^ esc) d
  { r with tile := tileBody run elems, header := tileHeader run esc elems, need := 8 + (tileBody run elems).length }

/-- The tile compressed of a `cp.zip` written, a chunk at a time (R335, R336). -/
def State.zipWrite (s : State) (m : Token) (ps nt dcap : Nat) (r : CopyRun) : State :=
  let beyond : Bool := decide (dcap < r.off + r.need)
  if beyond ∧ dcap < r.off + 8 then s.copyEnd m ps r.holds sOVERFLOW r.off r.part r.need
  else
    s.copyPart m ps r false (zipPieces ((copyAddr (qOp m 1)).plus (r.off : Int)) r dcap)
      (fun c _ r1 t => t.copyEnd m ps r1.holds (statusOfCode c) r1.off r1.part 0)
      (fun r1 t =>
        if beyond then t.copyEnd m ps r1.holds sOVERFLOW r1.off r1.part r1.need
        else if r1.part + 1 < nt then
          t.keepRun m { r1 with begun := false, chunk := 0, part := r1.part + 1, off := r1.off + r1.need, need := 0 }
        else t.copyEnd m ps r1.holds sOK (r1.off + r1.need) nt 0)

/-- The next chunk of a `cp.zip`: a tile is read and compressed before its first. What is written of a tile that overflows or fails
counts in `COPY.BYTES` (R343) and not in the completion (R325). -/
def State.zipStep (s : State) (m : Token) (ps nt esc dcap : Nat) (run : Bool) (r : CopyRun) : State :=
  let n := 256 * 2 ^ esc
  if r.need = 0 then
    s.withTile m ps (s.tileShared m ps r (n * nt) dcap) r.off ((copyAddr (qOp m 2)).plus ((n * r.part : Nat) : Int)) n
      (fun d r1 t => t.zipWrite m ps nt dcap (r1.zipped run esc d))
  else s.zipWrite m ps nt dcap r

/-- The operands that `cp.zip` and `cp.unzip` share keep their limits. -/
def tileArgsOk (m : Token) : Bool :=
  let q3 := qOp m 3
  copyAddrOk (qOp m 1) && copyAddrOk (qOp m 2) && bits q3 15 0 != 0 && bits q3 17 16 != 3 && decide (q3 < 2 ^ 19)
    && decide (8 ≤ qOp m 4 ∧ qOp m 4 < 2 ^ 32)

/-- CP_ZIP (R335, R336). -/
def execCpZip (m : Token) (s : State) : Out :=
  ok (s.copyCmd m 10 0 (fun ps r t =>
    let q3 := qOp m 3
    if !tileArgsOk m then t.copyEnd m ps r.holds sBADARG 0 0 0
    else t.zipStep m ps (bits q3 15 0) (bits q3 17 16) (qOp m 4) (bitOf q3 18) r))

/-- Whether a header is one that `cp.unzip` accepts (R337). -/
def headerOk (hdr esc : Nat) (run : Bool) : Bool :=
  bitOf hdr 63 && bits hdr 62 28 == 0 && bits hdr 26 25 == esc && bitOf hdr 27 == run && decide (bits hdr 24 16 ≤ 256)

/-- The tile that a `cp.unzip` has decompressed written, a chunk at a time. -/
def State.unzipWrite (s : State) (m : Token) (ps nt esc : Nat) (r : CopyRun) : State :=
  let dst := (copyAddr (qOp m 1)).plus ((256 * 2 ^ esc * r.part : Nat) : Int)
  s.copyPart m ps r false (cutBytes (r.tile.length + 1) 0 dst r.tile)
    (fun c _ r1 t => t.copyEnd m ps r1.holds (statusOfCode c) r1.bytes r1.part 0)
    (fun r1 t =>
      if r1.part + 1 < nt then
        t.keepRun m { r1 with begun := false, chunk := 0, part := r1.part + 1, off := r1.off + r1.need, need := 0 }
      else t.copyEnd m ps r1.holds sOK r1.bytes nt 0)

/-- The next chunk of a `cp.unzip`: a tile is read, checked and decompressed before its first (R337). -/
def State.unzipStep (s : State) (m : Token) (ps nt esc scap : Nat) (run : Bool) (r : CopyRun) : State :=
  let src := (copyAddr (qOp m 2)).plus (r.off : Int)
  if r.need ≠ 0 then s.unzipWrite m ps nt esc r
  else if scap < r.off + 8 then s.copyEnd m ps r.holds sBADARG r.bytes r.part 0
  else
    s.withTile m ps (s.tileShared m ps r scap (256 * 2 ^ esc * nt)) r.bytes src 8 (fun d r1 t =>
      let hdr := leNat d
      let need := 8 + bits hdr 15 0
      if !headerOk hdr esc run ∨ scap < r1.off + need then t.copyEnd m ps r1.holds sBADARG r1.bytes r1.part 0
      else
        t.withTile m ps r1 r1.bytes (src.plus 8) (bits hdr 15 0) (fun b r2 u =>
          match tileOf run (2 ^ esc) hdr b with
          | none => u.copyEnd m ps r2.holds sBADARG r2.bytes r2.part 0
          | some bytes => u.unzipWrite m ps nt esc { r2 with tile := bytes, need := need }))

/-- CP_UNZIP (R337). -/
def execCpUnzip (m : Token) (s : State) : Out :=
  ok (s.copyCmd m 10 0 (fun ps r t =>
    let q3 := qOp m 3
    if !tileArgsOk m then t.copyEnd m ps r.holds sBADARG 0 0 0
    else t.unzipStep m ps (bits q3 15 0) (bits q3 17 16) (qOp m 4) (bitOf q3 18) r))

/-- CP_FENCE (R342). -/
def execCpFence (m : Token) (s : State) : Out :=
  ok (s.copyCmd m 2 0xF00 (fun ps r t =>
    if t.inboxesClear m (bits (lane0 m) 11 8) 4 then t.copyEnd m ps r.holds sOK 0 0 0 else t))

/-! ## Rows of pool drains (R285, R340) -/

/-- The token that stands for a drain's row in a copy inbox, of class 4: pool and drain. The model's own. -/
def rowToken (pl : Nat) (d : PoolDrain) : Token :=
  { Token.zero with
    dest := engineDest (pl / 40) (pl / 5 % 8) 5 (bits d.route 57 56), ctx := d.msg.ctx, len := 2, cls := 4, tag := d.msg.tag,
    lanes := [BitVec.ofNat 32 pl, BitVec.ofNat 32 d.seq] }

/-- A drain's row as pieces of the copy that writes it, each with the poison of its elements. -/
def rowPieces (d : PoolDrain) (vals : List Nat) (bad : List Bool) : List Piece :=
  let a : CAddr := { loc := false, at_ := bits d.route 55 0 + d.off + d.next * d.dpitch }
  (cutBytes (d.size * vals.length + 1) 0 a (vals.flatMap (leBytes d.size))).map (fun p =>
    { p with bad := ((bad.drop (p.pos / d.size)).take ((p.n + p.pos % d.size + d.size - 1) / d.size)).any (fun b => b) })

/-- A drain's row that a copy engine has written, or that has failed with a code, leaves its inbox (R340): it counts as a command. -/
def State.rowDone (s : State) (pl : Nat) (d : PoolDrain) (key : Nat) (holds : List Nat) (code : Nat) : State :=
  let t := ((s.dropHolds holds).bump (secReg (pl / 5) 6 0x10) 1).popInbox key
  if code ≠ 0 then t.endDrain pl d (statusOfCode code) d.next
  else if d.next + 1 < d.rows.length then t.putDrain pl { d with next := d.next + 1, queued := false }
  else t.endDrain pl d d.status 0

/-- The next chunk of a drain's row at the head of its copy inbox. -/
def State.handoffRow (s : State) (pl : Nat) (d : PoolDrain) (m : Token) (r : CopyRun) (vals : List Nat) (bad : List Bool) : State :=
  s.copyPart m (pl / 5) r false (rowPieces d vals bad)
    (fun c _ r1 t => t.rowDone pl d (inboxKey m.dest) r1.holds c)
    (fun r1 t => t.rowDone pl d (inboxKey m.dest) r1.holds 0)

/-- DRAIN_HANDOFF (R285, R322, R340): the next row of a drain of route kind 0b10 enters the copy inbox that the route names, or, once
it heads that inbox and in its turn, is written as a one-row `cp.2d`. -/
def execDrainHandoff (pl id : Nat) (s : State) : Out :=
  ok (match (s.pool pl).drain? id with
      | none => s
      | some d =>
        let m := rowToken pl d
        if d.phase ≠ 2 then s
        else if !d.queued then (s.pushInbox (inboxKey m.dest) m).putDrain pl { d with queued := true }
        else if !s.atHead m ∨ !s.copyTurn (pl / 5) (dInbox m.dest) then s
        else
          match s.copyRun m, d.rows.drop d.next with
          | some r, (vals, bad) :: _ => (s.copyServed (pl / 5) (dInbox m.dest)).handoffRow pl d m r vals bad
          | _, _ => s)

end Sys2Proof.Machine
end

