-- ==== Sys2Proof/Machine/StackEngine.lean ====
section
/-! DEFINITION. The stack engines (R345 to R364): vector slots, matrix-vector products, refresh, and the rebuild of a remap table. -/

namespace Sys2Proof.Machine

/-! ## Commands -/

/-- SLOT of a command. -/
def stkSlot (m : Token) : Nat := bits (lane0 m) 9 8

/-- The key of an inbox of a stack engine. -/
def stkInbox (st i : Nat) : Nat := inboxKey (engineDest (st / 3) (st % 3) 7 i)

/-- Whether a message is `stk.gemv` or `stk.gemv.acc`. -/
def isProduct (m : Token) : Bool := msgOpcode m == 1 || msgOpcode m == 2

/-- Whether a product that was taken and waits reads a slot of this engine (R346). -/
def State.vecSlotRead (s : State) (st slot : Nat) : Bool :=
  (upTo 4).any (fun i =>
    match s.busy.find? (stkInbox st i) with
    | some b => isProduct b.msg && stkSlot b.msg == slot
    | none => false)

/-- Whether a product is in progress: one streams at a time (R357). -/
def State.streaming (s : State) (st : Nat) : Bool :=
  (upTo 4).any (fun i => match s.busy.find? (stkInbox st i) with | some b => isProduct b.msg | none => false)

/-- Whether the command at the head of an inbox could begin: none of the inbox has begun, and a product does not stream, nor a load
wait for one (R346, R357). -/
def State.stkReady (s : State) (st i : Nat) : Bool :=
  match s.inbox (stkInbox st i) with
  | (_, m) :: _ =>
    m.cls != 2 && (s.busy.find? (stkInbox st i)).isNone &&
      (if isProduct m then !s.streaming st else if msgOpcode m = 3 then !s.vecSlotRead st (stkSlot m) else msgOpcode m == 4)
  | [] => false

/-- It is an inbox's turn at its stack engine, which chooses among its inboxes round-robin at command boundaries (R357): of those
whose command could begin, it is the first at or after the engine's pointer. -/
def State.stkTurn (s : State) (st i : Nat) : Bool :=
  let ahead (x : Nat) : Nat := (x + 4 - (s.stack st).next) % 4
  s.stkReady st i && (upTo 4).all (fun x => !s.stkReady st x || decide (ahead i ≤ ahead x))

/-- A stack engine has chosen an inbox. -/
def State.stkServed (s : State) (st i : Nat) : State := s.setStack st { s.stack st with next := (i + 1) % 4 }

/-- A stack command: it begins in its inbox's turn; the checks of R103; then its effect, given the stack, the numbers and the holds it
goes on with. -/
def State.stkCmd (s : State) (m : Token) (lanes flags : Nat) (f : Nat → List Nat → List Nat → State → State) : State :=
  match engineOf m.dest with
  | some (.stack st) =>
    if (s.busyOf m).isSome then
      s.command m true lanes flags (fun t =>
        match t.resumed m with
        | none => t
        | some (nums, holds) => f st nums holds t)
    else if s.atHead m && s.stkTurn st (dInbox m.dest) then
      (s.stkServed st (dInbox m.dest)).command m true lanes flags (fun t => f st [] [] t)
    else s
  | _ => s

/-- A command ends (R349): rows or elements, lines corrected, and the clk it took, a free value. -/
def State.stkEnd (s : State) (m : Token) (holds : List Nat) (st count corrected : Nat) : State :=
  ((s.dropHolds holds).finish m st 0
    [BitVec.ofNat 32 count, BitVec.ofNat 32 corrected, if st = sOK ∨ st = sPOISON ∨ st = sECC then Config.freeLane s.free else 0]).useFree

/-! ## Errors that a command's reads meet (R349, R354, R362) -/

/-- What a read of [pa, pa + n) of stack memory is to meet: the lines that it corrects, and whether a line is uncorrectable or lies in
a fenced pseudo-channel. -/
def State.eccOf (s : State) (pa n : Nat) : Nat × Bool :=
  (upTo ((pa + (n - 1)) / 64 + 1 - pa / 64)).foldl (fun acc i =>
    let line := pa / 64 + i
    match placeOf (64 * line) with
    | .hbm _ _ =>
      if s.dead (64 * line) then (acc.1, true)
      else
        match s.upsetOf line with
        | none => acc
        | some e =>
          (match rsRead (s.readSymbols line e) with
           | .corrected _ _ => (acc.1 + 1, acc.2)
           | .uncorrectable _ => (acc.1, true)
           | _ => acc)
    | _ => acc) (0, false)

/-- What a read of a reach is to meet, at the place that performs it. -/
def State.eccAt (s : State) (r : Reach) : Nat × Bool :=
  s.eccOf (if isGlobal r.pa then (s.redirect 8 r.pa r.view false).1 else r.pa) r.n

/-- Two counts of errors met, together. -/
def eccPlus (a b : Nat × Bool) : Nat × Bool := (a.1 + b.1, a.2 || b.2)

/-- Reaches read through their homes, with the errors met. -/
def State.readEcc (s : State) : List Reach → Got × (Nat × Bool) × State
  | [] => ({ data := [], poison := false, code := 0 }, (0, false), s)
  | r :: rs =>
    let e := s.eccAt r
    let (g, t) := s.load r.pa r.n r.view
    if g.code ≠ 0 then (g, e, t)
    else
      let (h, e2, u) := t.readEcc rs
      ({ data := g.data ++ h.data, poison := g.poison || h.poison, code := h.code }, eccPlus e e2, u)

/-! ## Loading a vector (R350) -/

/-- `n` bytes of the context's memory cut at 64-byte lines, checked: their reaches, or a fault code. -/
def State.stkReaches (s : State) (die : Nat) (ctx : BitVec 12) (asid : Option Nat) (write : Bool) :
    Nat → Nat → Nat → Except Nat (List Reach) × State
  | 0, _, _ => (.ok [], s)
  | k + 1, va, n =>
    if n = 0 then (.ok [], s)
    else
      let c := Nat.min n (64 - va % 64)
      if 2 ^ 56 < va + c then (.error fADDR, s)
      else
        match s.engineXlate die ctx asid va write with
        | (.error e, t) => (.error e, t)
        | (.ok x, t) =>
          match t.target die (x.pa va) with
          | .away _ _ => (.error fADDR, t)
          | .here pa =>
            if t.physOk pa c false then
              match t.stkReaches die ctx asid write k (va + c) (n - c) with
              | (.ok rs, u) => (.ok ({ pa := pa, view := x.view, n := c } :: rs), u)
              | r => r
            else (.error fADDR, t)

/-- `n` bytes read as K elements of `size` bytes, `bf16` or `f32` (R350). -/
def widened (size k : Nat) (bs : List Byte) : List Lane :=
  (chunks size k bs).map (fun e => BitVec.ofNat 32 (if size = 4 then leNat e else leNat e * 65536))

/-- A slot after a load of K elements: those beyond K are left (R350). -/
def VecSlot.loaded (v : VecSlot) (ctx : BitVec 12) (xs : List Lane) (poison : Bool) : VecSlot :=
  { data := xs ++ v.data.drop xs.length, len := xs.length, poison := poison, ctx := ctx, valid := true }

/-- The elements of a slot that a command reads. -/
def VecSlot.vector (v : VecSlot) : List Lane := v.data.take v.len

/-- STK_LOAD (R350): a slot is loaded, but not while a product that reads it is in progress (R346). -/
def execStkLoad (m : Token) (s : State) : Out :=
  ok (s.stkCmd m 6 0x700 (fun st _ holds t =>
    let size := if bitOf (lane0 m) 10 then 4 else 2
    let k := qOp m 2
    let src := qOp m 1
    if 2 ^ 56 ≤ src ∨ src % size ≠ 0 ∨ k = 0 ∨ 16384 < k then t.stkEnd m holds sBADARG 0 0
    else
      match t.stkReaches (st / 3) m.ctx (t.takenAsid m) false (size * k + 1) src (size * k) with
      | (.error c, u) => u.stkEnd m holds (statusOfCode c) 0 0
      | (.ok rs, u) =>
        let (g, (ce, _), v) := u.readEcc rs
        if g.code ≠ 0 then v.stkEnd m holds (statusOfCode g.code) 0 ce
        else
          let e := v.stack st
          let slot := (nth VecSlot.none e.slots (stkSlot m)).loaded m.ctx (widened size k g.data) g.poison
          (v.setStack st { e with slots := setNth slot e.slots (stkSlot m) }).stkEnd m holds (poisonStatus g.poison) k ce))

/-! ## Products (R351 to R354) -/

/-- The operands of a product. -/
structure Gemv where
  acc : Bool
  w : Nat
  pitch : Nat
  rows : Nat
  y : Nat
  sb : Nat
  wf : Nat
  x : List Lane
deriving DecidableEq, Repr

/-- Bytes of a weight. -/
def Gemv.es (g : Gemv) : Nat := if g.wf = 0 then 2 else 1
/-- K. -/
def Gemv.k (g : Gemv) : Nat := g.x.length
/-- Bytes of the W extent. -/
def Gemv.wLen (g : Gemv) : Nat := (g.rows - 1) * g.pitch + g.k * g.es
/-- Scales of a row. -/
def Gemv.scales (g : Gemv) : Nat := (g.k + 31) / 32

/-- Whether the operands of a product keep their limits (R347, R351), given its slot. -/
def Gemv.argsOk (g : Gemv) (m : Token) (slot : VecSlot) : Bool :=
  decide (g.w < 2 ^ 56) && g.w % 64 == 0 && decide (qOp m 2 < 2 ^ 48) && decide (g.y < 2 ^ 56) && g.y % 4 == 0
    && decide (g.sb < 2 ^ 56) && g.wf != 3 && slot.valid && slot.ctx == m.ctx && decide (g.k * g.es ≤ g.pitch) && g.pitch % 64 == 0
    && ((g.sb == 0) == (g.wf != 2)) && !decide (g.y < g.w + g.wLen ∧ g.w < g.y + 4 * g.rows)

/-- The pages of a range. -/
def pagesOf (va n : Nat) : List Nat := (upTo ((va + (n - 1)) / 65536 + 1 - va / 65536)).map (fun i => va / 65536 + i)

/-- Pages translated in an ASID, in order (R352): page, frame and view flag. A page of `own` memory must lie in this stack; no page may
lie in another module. -/
def State.gemvPages (s : State) (st : Nat) (ctx : BitVec 12) (asid : Nat) (write own : Bool) :
    List Nat → Except Nat (Tab (Nat × Bool)) × State
  | [] => (.ok [], s)
  | p :: ps =>
    if 2 ^ 40 ≤ p then (.error fADDR, s)
    else
      match s.walk (st / 3) 9999 asid (s.viewStamps.find? ctx.toNat) (p * 65536) write with
      | (.error c, t) => (.error c, t)
      | (.ok x, t) =>
        match t.target (st / 3) x.frame with
        | .away _ _ => (.error fADDR, t)
        | .here f =>
          if own && !(decide (t.holdFrame f / 2 ^ 36 = st) && decide (f / 2 ^ 36 = st)) then (.error fADDR, t)
          else
            match t.gemvPages st ctx asid write own ps with
            | (.ok ps1, u) => (.ok (Tab.set ps1 p (f, x.view)), u)
            | r => r

/-- The pages of W, SB and Y (R352). `stk.gemv.acc` also reads Y. -/
def State.gemvXlate (s : State) (st : Nat) (ctx : BitVec 12) (asid : Nat) (g : Gemv) : Except Nat (Tab (Nat × Bool) × Tab (Nat × Bool)) × State :=
  if 2 ^ 56 < g.w + g.wLen ∨ (g.wf = 2 ∧ 2 ^ 56 < g.sb + g.rows * g.scales) ∨ 2 ^ 56 < g.y + 4 * g.rows then (.error fADDR, s)
  else
    match s.gemvPages st ctx asid false true
        (pagesOf g.w g.wLen ++ (if g.wf = 2 then pagesOf g.sb (g.rows * g.scales) else [])) with
    | (.error c, t) => (.error c, t)
    | (.ok ws, t) =>
      match (if g.acc then t.gemvPages st ctx asid false false (pagesOf g.y (4 * g.rows)) else (.ok [], t)) with
      | (.error c, u) => (.error c, u)
      | (.ok _, u) =>
        match u.gemvPages st ctx asid true false (pagesOf g.y (4 * g.rows)) with
        | (.error c, v) => (.error c, v)
        | (.ok ys, v) => (.ok (ws, ys), v)

/-- The physical ranges of `n` bytes of translated memory, cut at 256-byte lines: address, view, length. -/
def gemvRanges (t : Tab (Nat × Bool)) : Nat → Nat → Nat → List Reach
  | 0, _, _ => []
  | k + 1, va, n =>
    if n = 0 then []
    else
      let c := Nat.min n (256 - va % 256)
      let f := Tab.get (0, false) t (va / 65536)
      { pa := f.1 + va % 65536, view := f.2, n := c } :: gemvRanges t k (va + c) (n - c)

/-- The slice of a range's home writes back those of its lines that are dirty (R352): which are is the cache's own, a free choice. -/
def State.writeBack (s : State) (pa n : Nat) : State :=
  (s.bump (dieReg (homeDie pa) 5 0x10) ((Config.freeWord s.free).toNat % ((pa + (n - 1)) / 64 + 2 - pa / 64))).useFree

/-- The bytes of ranges read straight from the stack's memory, once their slice has written back what is dirty (R352), with their
poison and the errors met. -/
def State.streamRead (s : State) : List Reach → (List Byte × Bool × (Nat × Bool)) × State
  | [] => (([], false, (0, false)), s)
  | r :: rs =>
    let e := s.eccAt r
    let (g, t) := (s.writeBack r.pa r.n).loadLine r.pa r.n r.view
    let ((d, p, e2), u) := (t.useChannel r.pa true).streamRead rs
    ((g.data ++ d, g.poison || p, eccPlus e e2), u)

/-- The exact weight (R353). -/
def Gemv.weight (g : Gemv) (row : List Byte) (scale : List Byte) (k : Nat) : Num :=
  if g.wf = 0 then value .bf16 (leNat ((row.drop (2 * k)).take 2))
  else
    let v := value .e4m3 (nth 0 row k).toNat
    if g.wf = 2 then (value .e8m0 (nth 0 scale (k / 32)).toNat).mul v else v

/-- The block sums of one row (R353). -/
def Gemv.blocks (g : Gemv) (row scale : List Byte) : List Nat :=
  let p := (indexed 0 g.x).map (fun e => (round .f32 0 0 ((g.weight row scale e.1).mul (value .f32 e.2.toNat))).1)
  (chunks 64 ((g.k + 63) / 64) p).map treeF32

/-- One element of Y (R94, R353): the block sums added in order, from the first or from Y as it stands. -/
def Gemv.element (g : Gemv) (y : Nat) (bs : List Nat) : Nat :=
  if g.acc then bs.foldl addF32 y
  else match bs with
    | [] => 0
    | b :: rest => rest.foldl addF32 b

/-- Where a product stands: rows written, a fault code or 0, whether a row was poisoned, the lines corrected and whether a read was
uncorrectable or fenced. -/
structure GemvDone where
  rows : Nat
  code : Nat
  bad : Bool
  ecc : Nat × Bool
deriving DecidableEq, Repr

/-- The rows `[n, n + c)` of one 64-byte chunk of Y computed: their elements, whether each is poisoned, the errors met. -/
def State.gemvRows (s : State) (g : Gemv) (ws : Tab (Nat × Bool)) (slotBad : Bool) (old : List (Nat × Bool)) (n : Nat) :
    List Nat → List (Nat × Bool × (Nat × Bool)) × State
  | [] => ([], s)
  | i :: is =>
    let rw := gemvRanges ws (g.k * g.es + 1) (g.w + (n + i) * g.pitch) (g.k * g.es)
    let rs := if g.wf = 2 then gemvRanges ws (g.scales + 1) (g.sb + (n + i) * g.scales) g.scales else []
    let ((row, p, c1), t) := s.streamRead rw
    let ((scale, q, c2), u) := t.streamRead rs
    let (y, yp) := nth (0, false) old i
    let e := g.element y (g.blocks row scale)
    let (rest, v) := u.gemvRows g ws slotBad old n is
    ((e, slotBad || p || q || (g.acc && yp), eccPlus c1 c2) :: rest, v)

/-- The rows from `n` on, in 64-byte chunks of Y (R353). -/
def State.gemvRun (g : Gemv) (ws ys : Tab (Nat × Bool)) (slotBad : Bool) : Nat → State → GemvDone → GemvDone × State
  | 0, s, d => (d, s)
  | k + 1, s, d =>
    if g.rows ≤ d.rows then (d, s)
    else
      let va := g.y + 4 * d.rows
      let c := Nat.min (g.rows - d.rows) ((64 - va % 64) / 4)
      let f := Tab.get (0, false) ys (va / 65536)
      let pa := f.1 + va % 65536
      let (got, e0, s1) := if g.acc then s.readEcc [{ pa := pa, view := f.2, n := 4 * c }] else s.readEcc []
      if got.code ≠ 0 then ({ d with code := got.code, ecc := eccPlus d.ecc e0 }, s1)
      else
        let old := (chunks 4 c got.data).map (fun b => (leNat b, got.poison))
        let (es, s2) := s1.gemvRows g ws slotBad old d.rows (upTo c)
        let bad := es.any (fun e => e.2.1)
        let (code, s3) := s2.store pa (es.flatMap (fun e => leBytes 4 e.1)) bad
        let d1 : GemvDone := { d with bad := d.bad || bad, ecc := es.foldl (fun acc e => eccPlus acc e.2.2) (eccPlus d.ecc e0) }
        if code ≠ 0 then ({ d1 with code := code }, s3)
        else State.gemvRun g ws ys slotBad k s3 { d1 with rows := d.rows + c }

/-- The product that a message asks for, on a vector (R351). -/
def gemvArgs (m : Token) (acc : Bool) (x : List Lane) : Gemv :=
  { acc := acc, w := qOp m 1, pitch := bits (qOp m 2) 31 0, rows := bits (qOp m 2) 47 32 + 1, y := qOp m 3, sb := qOp m 4,
    wf := bits (lane0 m) 11 10, x := x }

/-- A matrix-vector product (R351 to R354), from its translation on, in the ASID it was taken with (R501). -/
def State.productIn (s : State) (m : Token) (st asid : Nat) (holds : List Nat) (g : Gemv) (slotBad : Bool) : State :=
  match s.gemvXlate st m.ctx asid g with
  | (.error c, u) => u.stkEnd m holds (statusOfCode c) 0 0
  | (.ok (ws, ys), u) =>
    let wide := gemvRanges ys (4 * g.rows + 1) g.y (4 * g.rows)
    if wide.any (fun r => !u.physOk r.pa r.n false) then u.stkEnd m holds sADDR 0 0
    else
      let frames := (ws ++ ys).foldl (fun l e => if isGlobal e.2.1 then insertNat e.2.1 l else l) []
      u.withHolds m holds frames [asid] (fun h v =>
        match wide.find? (fun r => v.ladHeld r.pa r.n) with
        | some r => v.waitLad m r.pa r.n [asid] h
        | none =>
          let (d, w) := State.gemvRun g ws ys slotBad g.rows v { rows := 0, code := 0, bad := false, ecc := (0, false) }
          w.stkEnd m h (if d.code ≠ 0 then statusOfCode d.code else if d.ecc.2 then sECC else poisonStatus d.bad) d.rows d.ecc.1)

/-- A matrix-vector product (R351 to R354). It reads its slot when it begins; no load changes the slot before it ends, and a partition
reset clears the valid bit alone (R345, R346), so one that has waited goes on with the same vector. -/
def State.product (s : State) (m : Token) (acc : Bool) : State :=
  s.stkCmd m 10 0xF00 (fun st nums holds t =>
    let slot := nth VecSlot.none (t.stack st).slots (stkSlot m)
    let g := gemvArgs m acc slot.vector
    match nums with
    | asid :: _ => t.productIn m st asid holds g slot.poison
    | [] =>
      if !g.argsOk m slot then t.stkEnd m holds sBADARG 0 0
      else
        match t.asid? m.ctx with
        | some asid => t.productIn m st asid holds g slot.poison
        | none => t.stkEnd m holds sXLAT 0 0)

/-- STK_GEMV (R353). -/
def execStkGemv (m : Token) (s : State) : Out := ok (s.product m false)

/-- STK_GEMV_ACC (R353). -/
def execStkGemvAcc (m : Token) (s : State) : Out := ok (s.product m true)

/-- STK_STAT (R355). -/
def execStkStat (m : Token) (s : State) : Out :=
  ok (s.stkCmd m 2 0x100 (fun st _ _ t =>
    let r (off : Nat) : Word := t.regRead (stackReg st off)
    let t1 := if bitOf (lane0 m) 8 then ((t.setReg (stackReg st 0x10) 0).setReg (stackReg st 0x18) 0).setReg (stackReg st 0x38) 0 else t
    t1.finish m sOK 0 [lo32 (r 0x10), lo32 (r 0x18), lo32 (r 0x08), hi32 (r 0x08), lo32 (r 0x28), lo32 (r 0x38), lo32 (r 0)]))

/-- STK_FENCE (R356). -/
def execStkFence (m : Token) (s : State) : Out :=
  ok (match engineOf m.dest with
      | some (.stack _) => s.command m true 2 0xF00 (fun t => t.fenceCmd m (bits (lane0 m) 11 8) 4)
      | _ => s)

/-! ## Refresh (R360) -/

/-- The record of a channel. -/
def refRec (st ch : Nat) : Nat := stackReg st (0x100 + 8 * ch)

/-- D of a channel, from −8 to +8. -/
def State.refD (s : State) (st ch : Nat) : Int := (BitVec.ofNat 5 (s.regBits (refRec st ch) 4 0)).toInt

/-- D of a channel set. -/
def State.setRefD (s : State) (st ch : Nat) (d : Int) : State := s.setReg (refRec st ch) (BitVec.ofNat 64 (BitVec.ofInt 5 d).toNat)

/-- One interval tREFI in units of the timer. -/
def State.refInterval (s : State) (st : Nat) : Nat :=
  if s.regBits (stackReg st 0) 4 4 = 1 then timerScale * 195 / 100 else timerScale * 39 / 10

/-- Whether memory is refreshed by the engine: above P2, where it refreshes itself. -/
def State.refreshing (s : State) : Bool := decide (s.regBits (custReg 0x38) 3 2 < 2)

/-- REFRESH_INTERVAL (R360): at the end of a channel's interval its refresh is issued, or, at most to D = 8, left to be issued later (D
rises). A channel is loaded while it has a stream; the requests queued at it are its own timing, so `postpone` stands for them
(log 73). -/
def execRefreshInterval (st ch : Nat) (postpone : Bool) (s : State) : Out :=
  ok (let k := s.stack st
      let last := Tab.get 0 k.last ch
      if 12 ≤ st ∨ 32 ≤ ch ∨ !s.refreshing ∨ s.timer < last + s.refInterval st ∨ (postpone ∧ 8 ≤ s.refD st ch) then s
      else
        let s1 := s.setStack st { k with last := Tab.set k.last ch (last + s.refInterval st) }
        if postpone then s1.setRefD st ch (s.refD st ch + 1) else s1.bump (stackReg st 0x38) 1)

/-- A channel may refresh beyond its intervals (R360): it catches up on what it postponed while it is idle; it refreshes ahead of time
after 200 ns without an access. -/
def State.mayPullIn (s : State) (st ch : Nat) : Bool :=
  !s.streaming st && (decide (0 < s.refD st ch) || decide (Tab.get 0 (s.stack st).used ch + timerScale / 5 ≤ s.timer))

/-- REFRESH_PULL_IN (R360): an idle channel refreshes ahead of time, or catches up: D falls, at most to −8. -/
def execRefreshPullIn (st ch : Nat) (s : State) : Out :=
  ok (if 12 ≤ st ∨ 32 ≤ ch ∨ !s.refreshing ∨ s.refD st ch ≤ -8 ∨ !s.mayPullIn st ch then s
      else (s.setRefD st ch (s.refD st ch - 1)).bump (stackReg st 0x38) 1)

/-- TREF2X_CHANGE (R360): the stack's temperature crosses 85 °C. -/
def execTref2xChange (st : Nat) (hot : Bool) (s : State) : Out :=
  ok (if st < 12 then s.setBits (stackReg st 0) 4 4 (if hot then 1 else 0) else s)

/-! ## Row remap (R364) -/

/-- REMAP_REBUILD (R364): the copies of the remap table that had failed are rebuilt. -/
def execRemapRebuild (st : Nat) (s : State) : Out :=
  ok (let k := s.stack st
      if k.rebuild.isEmpty then s else (s.setStack st { k with rebuild := [] }).setBits (stackReg st 0) 6 6 0)

end Sys2Proof.Machine
end

