-- ==== Sys2Proof/Machine/Link.lean ====
section
/-! DEFINITION. The link engines (R409 to R423, R432, R433): remote requests and their replies, inbound requests, ports, put and
get, signals, and fences. -/

namespace Sys2Proof.Machine

/-! ## Commands -/

/-- The link die of a message. -/
def linkDie (m : Token) : Nat := dDie m.dest % 2

/-- A link command: the checks of R103, then its effect. -/
def State.lnCmd (s : State) (m : Token) (lanes flags : Nat) (f : State → State) : State :=
  match engineOf m.dest with
  | some (.link _ _) => s.command m true lanes flags f
  | _ => s

/-- Pages translated for a link command, in order: page, frame of 57 bits, view flag. `domain` asks for the domain window, else for
local memory (R422, R427). -/
def State.linkPages (s : State) (die : Nat) (ctx : BitVec 12) (asid : Option Nat) (write domain : Bool) :
    List Nat → Except Nat (Tab (Nat × Bool)) × State
  | [] => (.ok [], s)
  | p :: ps =>
    if 2 ^ 40 ≤ p then (.error fADDR, s)
    else
      match s.engineXlate die ctx asid (p * 65536) write with
      | (.error c, t) => (.error c, t)
      | (.ok x, t) =>
        if bitOf x.frame 56 != domain then (.error fADDR, t)
        else
          match t.linkPages die ctx asid write domain ps with
          | (.ok ps1, u) => (.ok (Tab.set ps1 p (x.frame, x.view)), u)
          | r => r

/-- The reaches of `n` bytes of translated memory, cut at 64-byte lines. -/
def pageReaches (t : Tab (Nat × Bool)) : Nat → Nat → Nat → List Reach
  | 0, _, _ => []
  | k + 1, va, n =>
    if n = 0 then []
    else
      let c := Nat.min n (64 - va % 64)
      let f := Tab.get (0, false) t (va / 65536)
      { pa := f.1 + va % 65536, view := f.2, n := c } :: pageReaches t k (va + c) (n - c)

/-- The physical address of a translated VA, and its view flag. -/
def pageAddr (t : Tab (Nat × Bool)) (va : Nat) : Nat × Bool :=
  let f := Tab.get (0, false) t (va / 65536)
  (f.1 + va % 65536, f.2)

/-- Local pages that the map permits accesses to, as far as `n` bytes from `va` reach (R58 to R60). -/
def State.localOk (s : State) (t : Tab (Nat × Bool)) (va n : Nat) : Bool :=
  (pageReaches t (n + 1) va n).all (fun r => s.physOk r.pa r.n false)

/-- The frames of global memory that pages lie in. -/
def pageFrames (t : Tab (Nat × Bool)) : List Nat :=
  t.foldl (fun l e => if isGlobal e.2.1 ∧ !bitOf e.2.1 56 then insertNat e.2.1 l else l) []

/-- The pages of a link command's next access, [va, va + n): those that a shootdown has invalidated are translated again, each with a
hold on its frame (R374, R422). A translation that fails now gives its code; there is no answer while a hold finds its count at 255. -/
def State.renewPages (s : State) (m : Token) (asid : Option Nat) (write domain : Bool) (t : Tab (Nat × Bool)) (holds : List Nat) (va n : Nat) :
    Option (Except Nat (Tab (Nat × Bool) × List Nat) × State) :=
  match s.linkPages (dDie m.dest) m.ctx asid write domain ((pagesOf va n).filter (fun p => (t.find? p).isNone)) with
  | (.error c, u) => some (.error c, u)
  | (.ok [], u) => some (.ok (t, holds), u)
  | (.ok new, u) =>
    let all := new.foldl (fun l e => Tab.set l e.1 e.2) t
    match u.takeHolds holds ((pageFrames new).filter (fun f => !holds.contains (u.holdFrame f))) with
    | (h, [], v) => some (if domain || v.localOk all va n then .ok (all, h) else .error fADDR, v)
    | _ => none

/-- Bytes of local memory, each with the poison of its line. -/
def State.readBytes (s : State) : List Reach → List (Byte × Bool) × State
  | [] => ([], s)
  | r :: rs =>
    let (g, t) := s.load r.pa r.n r.view
    let (bs, u) := t.readBytes rs
    (g.data.map (fun b => (b, g.poison)) ++ bs, u)

/-- Bytes of local memory as a transfer may take them where its extents share bytes (R328). -/
def State.readMixed (s : State) (run : CopyRun) : List Reach → List (Byte × Bool) × State
  | [] => ([], s)
  | r :: rs =>
    let (g, t) := s.load r.pa r.n r.view
    let es := run.eitherAll t.free (s.spot r) g.data g.poison
    let (bs, u) := (if run.shared.isEmpty then t else { t with free := t.free + r.n }).readMixed run rs
    (es ++ bs, u)

/-- The number of a link engine's inbox as a source of remote requests (R413). -/
def linkSource (m : Token) : Nat := 64 + 8 * linkDie m + dInbox m.dest

/-! ## Put and get (R422)

The message waits in phase 50 of its inbox; its numbers are the next offset, the lowest offset that failed plus one (0: none), the
status of that failure, and 1 once poison has been carried. -/

/-- Whether a message is `ln.put`. -/
def isPut (m : Token) : Bool := msgOpcode m == 1

/-- The pages that a transfer's next access of its source, or of its destination, is made through. -/
def State.transferAt (s : State) (b : Busy) (dst : Bool) (va n : Nat) : Option (Except Nat Busy × State) :=
  (s.renewPages b.msg b.asid dst (isPut b.msg == dst) (if dst then b.dst else b.src) b.holds va n).map (fun r =>
    match r with
    | (.ok (t, h), u) => (.ok (if dst then { b with dst := t, holds := h } else { b with src := t, holds := h }), u)
    | (.error c, u) => (.error c, u))

/-- A chunk failed: the lowest failing offset and its status are kept. -/
def chunkFailed (nums : List Nat) (off code : Nat) : List Nat :=
  if nth 0 nums 1 = 0 ∨ off + 1 < nth 0 nums 1 then setNth (statusOfCode code) (setNth (off + 1) nums 1) 2 else nums

/-- A transfer that has sent every chunk, or has failed, and awaits no reply ends (R422). -/
def State.transferEnd (s : State) (b : Busy) (key : Nat) : State :=
  let m := b.msg
  let fail := nth 0 b.nums 1
  if (nth 0 b.nums 0 < qOp m 3 ∧ fail = 0) ∨ s.remotes.any (fun r => r.who == .command key) then s
  else if fail ≠ 0 then (s.dropHolds b.holds).finish m (nth 0 b.nums 2) 0 [BitVec.ofNat 32 (fail - 1)]
  else (s.dropHolds b.holds).finish m (poisonStatus (nth 0 b.nums 3 = 1)) 0 [BitVec.ofNat 32 (qOp m 3)]

/-- A transfer's numbers replaced; it ends if it can. -/
def State.putTransfer (s : State) (b : Busy) (nums : List Nat) : State :=
  let b1 := { b with nums := nums }
  (s.setBusy b.msg b1).transferEnd b1 (inboxKey b.msg.dest)

/-- What a transfer keeps of the bytes that its extents share. -/
def Busy.run (b : Busy) : CopyRun := b.copy.getD (.fresh none)

/-- The places of a transfer's translated bytes that lie in this module. -/
def State.ownReaches (s : State) (die : Nat) (t : Tab (Nat × Bool)) (va n : Nat) : List Reach :=
  (pageReaches t (n + 1) va n).filterMap (fun r =>
    match s.target die r.pa with
    | .here pa => some { r with pa := pa }
    | .away _ _ => none)

/-- What a transfer's extents share as it begins: SRC and DST can meet where the domain window names this module (R422, R328). -/
def State.transferShared (s : State) (m : Token) (src dst : Tab (Nat × Bool)) : Option CopyRun :=
  let both := s.sharedBytes (s.ownReaches (dDie m.dest) src (qOp m 2) (qOp m 3)) (s.ownReaches (dDie m.dest) dst (qOp m 1) (qOp m 3))
  if both.isEmpty then none else some { CopyRun.fresh none with shared := both }

/-- Bytes stored at the local destination of a transfer or at the module's own device: the code of a refusal, or 0. A byte that both
extents share takes freely its new value or the one before the transfer (R328). -/
def State.storeChunk (s : State) (run : CopyRun) (pa : Nat) (bs : List (Byte × Bool)) : Nat → Nat × State
  | 0 => (0, s)
  | k + 1 =>
    if bs.isEmpty then (0, s)
    else
      let c := Nat.min bs.length (64 - pa % 64)
      let at_ := s.spot { pa := pa, view := false, n := c }
      let es := (indexed 0 (bs.take c)).map (fun e => run.either (s.free + e.1) (at_ + e.1) e.2)
      let s1 := if run.shared.isEmpty then s else { s with free := s.free + c }
      let (code, t) := s1.store pa (es.map (fun b => b.1)) (es.any (fun b => b.2))
      if code ≠ 0 then (code, t) else t.storeChunk run (pa + c) (bs.drop c) k

/-- One chunk of `ln.put`, read and written or sent. It waits while a ladder hold covers what it writes (R313). -/
def State.putPart (s : State) (b : Busy) (off n : Nat) : State :=
  let m := b.msg
  let dva := qOp m 1 + off
  let (bs, s1) := s.readMixed b.run (pageReaches b.src (n + 1) (qOp m 2 + off) n)
  let bad := bs.any (fun x => x.2)
  let n1 := if bad ∧ !bs.all (fun x => x.2) then Nat.min n (64 - dva % 64) else n
  let part := bs.take n1
  let pbad := part.any (fun x => x.2)
  let nums1 := setNth (off + n1) (if pbad then setNth 1 b.nums 3 else b.nums) 0
  match s1.target (dDie m.dest) (pageAddr b.dst dva).1 with
  | .here pa =>
    if s1.ladHeld pa part.length then s
    else
      let (c, s2) := s1.storeChunk b.run pa part 5
      s2.putTransfer b (if c ≠ 0 then chunkFailed nums1 off c else nums1)
  | .away dev roff =>
    (s1.remoteSend (linkDie m) (Remote.make dev roff 1 0 n1 (part.map (fun x => x.1)) (BitVec.ofNat 64 off) pbad
      (.command (inboxKey m.dest)) (linkSource m))).putTransfer b nums1

/-- The next chunk of `ln.put`: its pages, then its bytes. -/
def State.putChunk (s : State) (b : Busy) : State :=
  let off := nth 0 b.nums 0
  let n := Nat.min (qOp b.msg 3 - off) (256 - (qOp b.msg 1 + off) % 256)
  match s.transferAt b false (qOp b.msg 2 + off) n with
  | none => s
  | some (.error c, t) => t.putTransfer b (chunkFailed b.nums off c)
  | some (.ok b1, t) =>
    match t.transferAt b1 true (qOp b.msg 1 + off) n with
    | none => s
    | some (.error c, u) => u.putTransfer b1 (chunkFailed b.nums off c)
    | some (.ok b2, u) =>
      if u.localOk b2.src (qOp b.msg 2 + off) n then u.putPart b2 off n else u.putTransfer b2 (chunkFailed b.nums off fADDR)

/-- The answer to a chunk of `ln.get` written to local memory; nothing while a ladder hold covers it (R313), or while its page's new
frame has 255 holds. -/
def State.getWrite (s : State) (b : Busy) (off : Nat) (d : RemoteData) : Option State :=
  if d.code ≠ 0 then some (s.putTransfer b (chunkFailed b.nums off d.code))
  else
    match s.transferAt b true (qOp b.msg 1 + off) d.data.length with
    | none => none
    | some (.error c, t) => some (t.putTransfer b (chunkFailed b.nums off c))
    | some (.ok b1, t) =>
      let pa := (pageAddr b1.dst (qOp b.msg 1 + off)).1
      if t.ladHeld pa d.data.length then none
      else
        let (c, u) := t.storeChunk b.run pa (d.data.map (fun x => (x, d.poison))) 5
        let nums1 := if d.poison then setNth 1 b.nums 3 else b.nums
        some (u.putTransfer b1 (if c ≠ 0 then chunkFailed nums1 off c else nums1))

/-- One chunk of `ln.get`: requested of its module, or read and written where that is this module. -/
def State.getChunk (s : State) (b : Busy) : State :=
  let m := b.msg
  let off := nth 0 b.nums 0
  let dva := qOp m 1 + off
  let sva := qOp m 2 + off
  let n := Nat.min (Nat.min (qOp m 3 - off) (256 - dva % 256)) (65536 - sva % 65536)
  match s.transferAt b false sva n with
  | none => s
  | some (.error c, t) => t.putTransfer b (chunkFailed b.nums off c)
  | some (.ok b0, t) =>
    match t.target (dDie m.dest) (pageAddr b0.src sva).1 with
    | .here pa =>
      let n1 := Nat.min n (64 - pa % 64)
      let (g, s1) := t.load pa n1 false
      let es := b0.run.eitherAll s1.free (t.spot { pa := pa, view := false, n := n1 }) g.data g.poison
      let s2 := if b0.run.shared.isEmpty then s1 else { s1 with free := s1.free + n1 }
      (match s2.getWrite { b0 with nums := setNth (off + n1) b.nums 0 } off
          { code := g.code, data := es.map (fun e => e.1), poison := g.poison || es.any (fun e => e.2) } with
       | some u => u
       | none => s)
    | .away dev roff =>
      (t.remoteSend (linkDie m) (Remote.make dev roff 0 0 n [] (BitVec.ofNat 64 off) false (.command (inboxKey m.dest))
        (linkSource m))).putTransfer b0 (setNth (off + n) b.nums 0)

/-- A transfer taken: its operands checked, every page translated and held (R422). -/
def State.beginTransfer (s : State) (m : Token) (put : Bool) (holds : List Nat) : State :=
  let d := qOp m 1
  let a := qOp m 2
  let len := qOp m 3
  let stop (t : State) (st : Nat) : State := (t.dropHolds holds).finish m st 0 [0]
  if 2 ^ 56 ≤ d ∨ 2 ^ 56 ≤ a ∨ len = 0 ∨ 2 ^ 32 ≤ len then stop s sBADARG
  else if 2 ^ 56 < d + len ∨ 2 ^ 56 < a + len then stop s sADDR
  else
    let die := dDie m.dest
    match s.linkPages die m.ctx (s.takenAsid m) false (!put) (pagesOf a len) with
    | (.error c, t) => stop t (statusOfCode c)
    | (.ok src, t) =>
      match t.linkPages die m.ctx (s.takenAsid m) true put (pagesOf d len) with
      | (.error c, u) => stop u (statusOfCode c)
      | (.ok dst, u) =>
        if !(if put then u.localOk src a len else u.localOk dst d len) then stop u sADDR
        else
          u.withHolds m holds (pageFrames (if put then src else dst)) [] (fun h v =>
            v.setBusy m { msg := m, phase := 50, nums := [0, 0, 0, 0], holds := h, data := [], copy := v.transferShared m src dst, src := src,
                            dst := dst })

/-- A transfer at the head of its inbox: taken, or one chunk further (R422). -/
def State.transfer (s : State) (m : Token) (put : Bool) : State :=
  s.lnCmd m 8 0 (fun t =>
    match t.busyOf m with
    | none => t.beginTransfer m put []
    | some b =>
      if b.phase = 97 then t.beginTransfer m put b.holds
      else if b.phase = 50 ∧ nth 0 b.nums 0 < qOp m 3 ∧ nth 0 b.nums 1 = 0 then (if put then t.putChunk b else t.getChunk b)
      else t)

/-- LN_PUT (R422). -/
def execLnPut (m : Token) (s : State) : Out := ok (s.transfer m true)

/-- LN_GET (R422). -/
def execLnGet (m : Token) (s : State) : Out := ok (s.transfer m false)

/-! ## Signals (R423) -/

/-- The notice of a signal as a token of the link engine of a die (R423). -/
def noticeToken (dest : Dest) (ctx : BitVec 12) (dev : Nat) (v : Nat) : Token :=
  { Token.zero with
    dest := dest, ctx := ctx, len := 3, cls := 6,
    lanes := [BitVec.ofNat 32 (8 + dev % 2048 * 65536), BitVec.ofNat 32 v, BitVec.ofNat 32 (v / 2 ^ 32)] }

/-- The end of a signal. -/
def State.signalEnd (s : State) (m : Token) (st old : Nat) : State :=
  s.finish m st 0 [BitVec.ofNat 32 old, BitVec.ofNat 32 (old / 2 ^ 32)]

/-- The add of a signal has been performed and returned `old`: its notice, if it has one, is delivered. -/
def State.signalAdded (s : State) (m : Token) (old : Nat) : State :=
  let q3 := qOp m 3
  let dest : Dest := BitVec.ofNat 21 (bits q3 20 0)
  let dev := bits q3 31 21
  let ctx : BitVec 12 := BitVec.ofNat 12 (bits q3 43 32)
  let v := (old + qOp m 2) % 2 ^ 64
  let l := linkDie m
  if dKind dest = 0 then s.signalEnd m sOK old
  else if s.devValid ∧ dev = s.ownDev l then
    (s.send (portOf m.dest) (noticeToken dest ctx dev v)).signalEnd m sOK old
  else
    (s.waitBusy m 52 [old] []).remoteSend l
      (Remote.make dev dest.toNat 3 0 ctx.toNat [] (BitVec.ofNat 64 v) false (.command (inboxKey m.dest)) (linkSource m))

/-- LN_SIGNAL (R423): the add is performed or sent. A poisoned target is not updated, and no notice follows. -/
def execLnSignal (m : Token) (s : State) : Out :=
  ok (s.lnCmd m 8 0 (fun t =>
    let va := qOp m 1
    let q3 := qOp m 3
    let dest : Dest := BitVec.ofNat 21 (bits q3 20 0)
    if (t.busyOf m).isSome then t
    else if 2 ^ 56 ≤ va ∨ va % 8 ≠ 0 ∨ 2 ^ 44 ≤ q3 ∨ !destForm dest ∨ dKind dest = 2 then t.signalEnd m sBADARG 0
    else
      match t.engineXlate (dDie m.dest) m.ctx (t.takenAsid m) va true with
      | (.error c, u) => u.signalEnd m (statusOfCode c) 0
      | (.ok x, u) =>
        if !x.read then u.signalEnd m sPERM 0
        else
          match u.target (dDie m.dest) (x.pa va) with
          | .here pa =>
            let (g, v) := u.atomic pa 8 (fun old => (atomAct 0x190 8 (qOp m 2) 0 old).1)
            if g.code ≠ 0 then v.signalEnd m (statusOfCode g.code) 0
            else if g.poison then v.signalEnd m sPOISON (leNat g.data)
            else v.signalAdded m (leNat g.data)
          | .away dev off =>
            (u.waitBusy m 51 [] []).remoteSend (linkDie m)
              (Remote.make dev off 2 0x190 8 (leBytes 8 (qOp m 2)) 0 false (.command (inboxKey m.dest)) (linkSource m))))

/-- SIGNAL_NOTICE (R423): a notice from another module enters the stream switch from this link engine's port; which of its two dies
it enters through is not given. -/
def execSignalNotice (l : Nat) (n : Notice) (s : State) : Out :=
  ok (let die := if Config.freeBool s.free then l % 2 + 2 else l % 2
      s.useFree.send (engineDest die 4 7 0) (noticeToken n.dest n.ctx n.dev n.value.toNat))

/-! ## Fence and status (R432, R433) -/

/-- LN_FENCE (R432). -/
def execLnFence (m : Token) (s : State) : Out := ok (s.lnCmd m 2 0xFF00 (fun t => t.fenceCmd m (bits (lane0 m) 15 8) 8))

/-- LN_STAT (R433). -/
def execLnStat (m : Token) (s : State) : Out :=
  ok (s.lnCmd m 2 0x100 (fun t =>
    let l := linkDie m
    let offs := [0x80, 0x88, 0x90, 0x98, 0xA0, 0xA8]
    let t1 := if bitOf (lane0 m) 8 then offs.foldl (fun u o => u.setReg (linkReg l 0 o) 0) t else t
    t1.finish m sOK 0 (offs.map (fun o => lo32 (t.reg (linkReg l 0 o))) ++ [lo32 (t.regRead (linkReg l 0 0x10))])))

/-! ## Replies and failures (R412, R414, R417) -/

/-- The answer to a keeper's remote access: a load's goes to the keeper; a store that failed traps it, `KADDR` holding the domain
address. -/
def State.keeperReplied (s : State) (ps : Nat) (r : Remote) (d : RemoteData) : State :=
  let k := s.keeper ps
  if r.kind = 0 then (if k.pending = some r.id then s.setKeeper ps { k with reply := some d } else s)
  else
    let k1 := { k with domStores := k.domStores.filter (fun x => x != r.id) }
    let s1 := s.setKeeper ps (if d.code = 0 then k1 else { k1 with waiting := none, fencing := none, pending := none, reply := none })
    if d.code ≠ 0 then s1.keeperFault ps d.code (BitVec.ofNat 64 (2 ^ 56 + r.dev * 2 ^ 45 + r.off)) else s1

/-- The answer to a request of a command. -/
def State.commandReplied (s : State) (key : Nat) (r : Remote) (d : RemoteData) : State :=
  match s.busy.find? key with
  | none => s
  | some b =>
    let m := b.msg
    if b.phase = 50 then
      if r.kind = 0 then
        (match s.getWrite b r.arg.toNat d with
         | some t => t
         | none => { s with remotes := s.remotes ++ [{ r with kind := 4, data := d.data, poison := d.poison }] })
      else if d.code ≠ 0 then s.putTransfer b (chunkFailed b.nums r.arg.toNat d.code)
      else s.putTransfer b b.nums
    else if b.phase = 51 then
      if d.code ≠ 0 then s.signalEnd m (statusOfCode d.code) 0
      else if d.poison then s.signalEnd m sPOISON (leNat d.data)
      else (s.clearBusy m).signalAdded m (leNat d.data)
    else if b.phase = 52 then s.signalEnd m (if d.code ≠ 0 then statusOfCode d.code else sOK) (nth 0 b.nums 0)
    else s

/-- A remote request ends with an answer. -/
def State.remoteDone (s : State) (r : Remote) (d : RemoteData) : State :=
  let s1 := { s with remotes := s.remotes.filter (fun x => x.id != r.id) }
  match r.who with
  | .keeper ps => s1.keeperReplied ps r d
  | .access id j => s1.accessReplied id j d
  | .command key => s1.commandReplied key r d

/-- A remote request that has not been answered. -/
def State.remote? (s : State) (id : Nat) : Option Remote := s.remotes.find? (fun r => r.id == id && r.kind != 4)

/-- REMOTE_REPLY (R412): the answer of a remote home, or its refusal (R411). The bytes are as many as were asked for. -/
def execRemoteReply (id : Nat) (d : RemoteData) (s : State) : Out :=
  ok (match s.remote? id with
      | some r =>
        let n := if r.kind = 0 then r.size else if r.kind = 2 then atomReply r.atom r.size else 0
        s.remoteDone r { d with data := if d.code = 0 then padTo 0 n d.data else [] }
      | none => s)

/-- A request fails with LINK and is counted (R417). -/
def State.remoteFails (s : State) (r : Remote) : State :=
  (s.bump (linkReg r.die 0 0xA0) 1).remoteDone r { code := fLINK, data := [], poison := false }

/-- REMOTE_REQUEST_TIMEOUT (R417): no reply within `LINK.CTL`.REQTO µs of the first sending. -/
def execRemoteRequestTimeout (id : Nat) (s : State) : Out :=
  ok (match s.remote? id with
      | some r => if Nat.max 1 (s.regBits (linkReg r.die 0 8) 15 0) ≤ s.usSince r.since then s.remoteFails r else s
      | none => s)

/-- DEVICE_UNREACHABLE (R409, R417): the switch reports the target unreachable, or no port is up. -/
def execDeviceUnreachable (id : Nat) (s : State) : Out :=
  ok (match s.remote? id with | some r => s.remoteFails r | none => s)

/-! ## Ports (R409, R415, R416) -/

/-- FLIT_REPLAY (R415): a flit replayed; a lane that fails repeatedly is dropped and the custodian told. Which lane fails is the
link's own: a free value. -/
def execFlitReplay (l port : Nat) (dropLane : Bool) (s : State) : Out :=
  ok (if 2 ≤ l ∨ 8 ≤ port then s
      else
        let s1 := s.bump (linkReg l 0 0x98) 1
        if dropLane then
          ((s1.setBits (linkReg l 0 0x10) (8 + port) (8 + port) 1).logError
            { source := 8, severity := 0, loc := linkReg l 0 (8 * port), detail := Config.freeWord s.free % 8 }).useFree
        else s1)

/-- PORT_UP (R409, R487): a trained port comes up once the module has its device id, at its full width: dropped lanes are tried
again. -/
def execPortUp (l port : Nat) (s : State) : Out :=
  ok (if s.devValid ∧ l < 2 ∧ port < 8 ∧ s.regBits (linkReg l 0 0x10) port port = 0 then
        ((s.setBits (linkReg l 0 0x10) port port 1).setBits (linkReg l 0 0x10) (8 + port) (8 + port) 0).setCust
          { s.cust with lanes := s.cust.lanes.filter (fun x => !(x.1 == l && x.2.1 == port)) }
      else s)

/-- A port goes down: its devices move to the remaining ports, and what is outstanding on it is sent again there, or fails where
none is up (R416, R417). -/
def State.portDrops (s : State) (l port : Nat) : State :=
  let s1 := s.setBits (linkReg l 0 0x10) port port 0
  { s1 with remotes := s1.remotes.map (fun r =>
      if r.die = l ∧ r.port = port then { r with port := (s1.portFor l r.dev).getD 8 } else r) }

/-- PORT_DOWN (R416). -/
def execPortDown (l port : Nat) (s : State) : Out := ok (if l < 2 ∧ port < 8 then s.portDrops l port else s)

/-- LINK_DEVID_VALID (R409): a write has set `LINK.DEVID`.VALID on a link die. Once both are set, requests for this module's own
device stay in the module and ports may come up (R62). -/
def execLinkDevidValid (l : Nat) (s : State) : Out := ok (s.setBits (linkReg l 0 0) 16 16 1)

/-! ## Inbound requests (R411) -/

/-- Whether an enabled window of a link die covers [off, off + n) and permits the access. -/
def State.windowPermits (s : State) (l off n : Nat) (rd wr : Bool) : Bool :=
  (upTo 4).any (fun w =>
    let base := s.regBits (linkReg l 0 (0x40 + 16 * w)) 44 16
    let win := (s.reg (linkReg l 0 (0x48 + 16 * w))).toNat
    bitOf win 0 && decide (base ≤ off / 65536 ∧ (off + (n - 1)) / 65536 ≤ bits win 44 16) && (!rd || bitOf win 1) && (!wr || bitOf win 2))

/-- An inbound request answered: recorded, so that a resent one is discarded and answered again (R416). -/
def State.inboundAnswer (s : State) (r : Inbound) (d : RemoteData) : State :=
  { s with inboundDone := s.inboundDone ++ [(r.src, r.req, d)],
           inboundWait := s.inboundWait.filter (fun x => !(x.2.src == r.src && x.2.req == r.req)) }

/-- An inbound request refused (R411). -/
def State.inboundRefuse (s : State) (l : Nat) (r : Inbound) (code : Nat) : State :=
  (s.bump (linkReg l 0 0x90) 1).inboundAnswer r { code := code, data := [], poison := false }

/-- An inbound request performed at its home: its answer. -/
def State.inboundPerform (s : State) (r : Inbound) : RemoteData × State :=
  match r.kind with
  | 0 =>
    let (g, t) := s.load r.off r.size false true true
    ({ code := g.code, data := g.data, poison := g.poison }, t)
  | 1 =>
    let (c, t) := s.store r.off (padTo 0 r.size r.data) r.poison true true
    ({ code := c, data := [], poison := false }, t)
  | _ =>
    let v := leNat r.data
    let z := r.arg.toNat
    let (g, t) := s.atomic r.off r.size (fun old => if r.poison then none else (atomAct r.atom r.size v z old).1) true true
    ({ code := g.code, data := leBytes (atomReply r.atom r.size) (atomAct r.atom r.size v z (leNat g.data)).2, poison := g.poison }, t)

/-- An inbound request waits. -/
def State.inboundHold (s : State) (l : Nat) (r : Inbound) : State :=
  if s.inboundWait.any (fun x => x.2 == r) then s else { s with inboundWait := s.inboundWait ++ [(l, r)] }

/-- An earlier request of one source that names an 8-byte-aligned address of a request waits: the request goes behind it (R413). -/
def State.inboundBehind (s : State) (r : Inbound) : Bool :=
  ((s.inboundWait.map (fun x => x.2)).takeWhile (fun x => x != r)).any (fun x =>
    x.src == r.src && decide (x.off / 8 ≤ (r.off + r.size - 1) / 8 ∧ r.off / 8 ≤ (x.off + x.size - 1) / 8))

/-- INBOUND_REQUEST (R242, R411 to R413, R377): refused, or performed at the offset's home behind the earlier ones of its source, an atomic when it is the link engine's turn; a
write waits while its frame has 255 holds. In P2
it waits for P0; in P3 the module cannot be reached (R483). -/
def execInboundRequest (l : Nat) (r : Inbound) (s : State) : Out :=
  ok (if s.inboundDone.any (fun x => x.1 == r.src && x.2.1 == r.req) ∨ r.size = 0 then s
      else if !s.awake then (if s.regBits (custReg 0x38) 3 2 = 3 then s else s.inboundHold l r)
      else if !isGlobal r.off ∨ !s.physOk r.off r.size (decide (2 ≤ r.kind)) then s.inboundRefuse l r fADDR
      else if !s.windowPermits l r.off r.size (r.kind != 1) (r.kind != 0) then s.inboundRefuse l r fPERM
      else if s.inboundBehind r then s.inboundHold l r
      else
        let frames := if r.kind = 0 then [] else (pagesOf r.off r.size).map (fun p => p * 65536)
        match s.takeHolds [] frames with
        | (_, _ :: _, _) => s.inboundHold l r
        | (h, [], t) =>
          let home := s.homeOf 0 r.off
          if r.kind < 2 then
            let (d, u) := t.inboundPerform r
            ((u.dropHolds h).bump (linkReg l 0 0x88) 1).inboundAnswer r d
          else if s.atomicTurn home (32 + l) then
            let (d, u) := (t.atomicServed home (32 + l)).inboundPerform r
            ((u.dropHolds h).bump (linkReg l 0 0x88) 1).inboundAnswer r d
          else s.inboundHold l r)

/-- Answered chunks of a link inbox's `ln.get` whose destinations no ladder hold covers any more are written (R313). -/
def State.getResume (s : State) (key : Nat) : State :=
  (s.remotes.filter (fun r => r.kind == 4 && r.who == .command key)).foldl (fun t r =>
    match t.busy.find? key with
    | none => t
    | some b =>
      let t1 := { t with remotes := t.remotes.filter (fun x => x.id != r.id) }
      match t1.getWrite b r.arg.toNat { code := 0, data := r.data, poison := r.poison } with
      | some u => u
      | none => t) s

/-! ## Waiting writes (R313) -/

/-- HELD_WRITE_RESUME (R313): an engine's write that waits on a ladder hold goes on once no hold covers it: a command of a copy or
link inbox, or the scratchpad rows of a pool's drains. -/
def execHeldWriteResume (d : Dest) (s : State) : Out :=
  ok (match engineOf d with
      | some (.pool pl) =>
        ((s.pool pl).drains.filter (fun x => x.phase == 3)).foldl (fun t x =>
          State.scratchRows pl (x.rows.length + 1) t { x with phase := 1 }) s
      | _ =>
        (match s.busy.find? (inboxKey d) with
         | some b =>
           if b.phase = 99 then
             (match b.nums with
              | pa :: n :: rest => if s.ladHeld pa n then s else s.waitBusy b.msg 97 rest b.holds
              | _ => s)
           else s.getResume (inboxKey d)
         | none => s))

end Sys2Proof.Machine
end

