-- ==== Sys2Proof/Machine/Collective.lean ====
section
/-! DEFINITION. Groups and collectives of the scale-up domain (R424 to R431). -/

namespace Sys2Proof.Machine

/-- COLLTO of a link die in ms; 0 acts as 1 (R434). -/
def State.collTimeout (s : State) (l : Nat) : Nat := Nat.max 1 (s.regBits (linkReg l 0 8) 31 16)

/-- GID of a message. -/
def gidOf (m : Token) : Nat := bits (lane0 m) 19 14

/-- A join, leave, collective or barrier ends and is counted (R419, R434). -/
def State.collAnswer (s : State) (m : Token) (st lane : Nat) : State :=
  (s.bump (linkReg (linkDie m) 0 0xA8) 1).finish m st 0 [BitVec.ofNat 32 lane]

/-! ## Joining and leaving (R424 to R426) -/

/-- A group's entry set. -/
def State.setGroup (s : State) (gid : Nat) (g : Group) : State := { s with groups := Tab.set s.groups gid g }

/-- The members have been heard from as far as they have: the join ends once a digest differs, or once all are in (R425). -/
def State.joinCheck (s : State) (gid : Nat) : State :=
  match s.groups.find? gid with
  | none => s
  | some g =>
    let clear (t : State) : State := { t with earlyJoins := t.earlyJoins.filter (fun e => e.1 != gid) }
    if g.bound then s
    else if g.heard.any (fun e => e.2 != g.digest) then
      (clear { s with groups := s.groups.erase gid }).collAnswer g.msg sBADARG 0
    else if g.heard.length = g.list.length then
      (clear (if g.leaving then { s with groups := s.groups.erase gid } else s.setGroup gid { g with bound := true })).collAnswer g.msg
        sOK g.rank
    else s

/-- A member's digest noted. -/
def State.heardFrom (s : State) (gid : Nat) (g : Group) (rank : Nat) (dg : Word) : State :=
  s.setGroup gid { g with heard := Tab.set g.heard rank dg }

/-- A list of device ids (R425): each entry 11 bits. -/
def listOf (bs : List Byte) (n : Nat) : List Nat := (chunks 2 n bs).map leNat

/-- LN_JOIN (R425): the list is read and checked, and the digests exchanged with the other members. -/
def execLnJoin (m : Token) (s : State) : Out :=
  ok (s.lnCmd m 6 0x1FC000 (fun t =>
    let gid := gidOf m
    let va := qOp m 1
    let n := qOp m 2 + 1
    let joining : Bool := (match t.groups.find? gid with | some g => !g.bound && g.msg == m | none => false)
    if bitOf (lane0 m) 20 ∨ joining then t
    else if 2 ^ 56 ≤ va ∨ va % 2 ≠ 0 ∨ 2048 < n then t.collAnswer m sBADARG 0
    else if 2 ^ 56 < va + 2 * n then t.collAnswer m sADDR 0
    else
      match t.linkPages (dDie m.dest) m.ctx (t.takenAsid m) false false (pagesOf va (2 * n)) with
      | (.error c, u) => u.collAnswer m (statusOfCode c) 0
      | (.ok pages, u) =>
        if !u.localOk pages va (2 * n) then u.collAnswer m sADDR 0
        else
          let (bs, v) := u.readBytes (pageReaches pages (2 * n + 1) va (2 * n))
          let list := listOf (bs.map (fun b => b.1)) n
          let own := v.ownDev (linkDie m)
          if bs.any (fun b => b.2) then v.collAnswer m sPOISON 0
          else if (v.groups.find? gid).isSome ∨ list.any (fun x => decide (2048 ≤ x)) ∨ list.eraseDups.length ≠ n ∨ !list.contains own
              ∨ !v.devValid then v.collAnswer m sBADARG 0
          else
            let rank := list.idxOf own
            let dg := Config.listDigest list
            let g : Group :=
              { list := list, digest := dg, rank := rank, inbox := inboxKey m.dest, ctx := m.ctx, saved := none, seq := 0, broken := false, bound := false,
                heard := [(rank, dg)], since := v.timer, msg := m, leaving := false }
            let early := v.earlyJoins.filter (fun e => e.1 == gid && decide (e.2.1 < n))
            let g1 := early.foldl (fun x e => { x with heard := Tab.set x.heard e.2.1 e.2.2 }) g
            (v.setGroup gid g1).joinCheck gid))

/-- JOIN_DIGEST_ARRIVE (R425): a member's digest; one that comes before this module's own join waits for it. -/
def execJoinDigestArrive (gid rank : Nat) (dg : Word) (s : State) : Out :=
  ok (match s.groups.find? gid with
      | some g =>
        if g.bound ∨ g.list.length ≤ rank ∨ rank = g.rank then s else (s.heardFrom gid g rank dg).joinCheck gid
      | none => { s with earlyJoins := s.earlyJoins.filter (fun e => !(e.1 == gid && e.2.1 == rank)) ++ [(gid, rank, dg)] })

/-- A group freed on this module (R426). -/
def State.freeGroup (s : State) (gid : Nat) : State :=
  { s with groups := s.groups.erase gid, earlyDescs := s.earlyDescs.filter (fun e => e.1 != gid) }

/-- The groups of a context that ends, or whose partition is reset, are freed as if by LEAVE (R426): at once, or where a join or a
collective of the group is in progress, once that has completed. -/
def State.freeGroups (s : State) (ctx : BitVec 12) : State :=
  let gone := s.groups.filter (fun e => e.2.ctx == ctx && e.2.saved.isNone)
  gone.foldl (fun t e =>
    if !e.2.bound ∨ t.colls.any (fun c => c.gid == e.1) then t.setGroup e.1 { e.2 with leaving := true } else t.freeGroup e.1) s

/-- LN_JOIN_LEAVE (R426): the group is freed once every earlier collective on it has completed. -/
def execLnJoinLeave (m : Token) (s : State) : Out :=
  ok (s.lnCmd m 6 0x1FC000 (fun t =>
    let gid := gidOf m
    if !bitOf (lane0 m) 20 then t
    else if qOp m 1 ≠ 0 ∨ qOp m 2 ≠ 0 then t.collAnswer m sBADARG 0
    else
      match t.groups.find? gid with
      | some g =>
        if !g.bound then t.collAnswer m sBADARG 0
        else if t.colls.any (fun c => c.gid == gid) then t
        else (t.freeGroup gid).collAnswer m sOK 0
      | none => t.collAnswer m sBADARG 0))

/-! ## The operands of a collective (R418, R427, R428) -/

/-- TYPE, OP, COUNT, ROOT of a message's descriptor. -/
def collDesc (m : Token) (valid : Bool) : CollDesc :=
  let op := msgOpcode m
  if op = 7 then { op := 7, ty := 0, rop := 0, count := 0, root := 0, valid := valid }
  else
    { op := op, ty := bits (lane0 m) 11 8, rop := bits (lane0 m) 13 12, count := bits (qOp m 3) 25 0 + 1, root := bits (qOp m 3) 63 32,
      valid := valid }

/-- Bytes of an element. -/
def collEs (d : CollDesc) : Nat := (fmtOfCode d.ty).width / 8
/-- SRC elements of a group of `n`. -/
def collSrcLen (d : CollDesc) (n : Nat) : Nat := if d.op = 4 then n * d.count else d.count
/-- DST elements. -/
def collDstLen (d : CollDesc) (n : Nat) : Nat := if d.op = 5 then n * d.count else d.count

/-- Whether the fields of a collective keep R418 and R428 in a group of `n`. -/
def collFieldsOk (d : CollDesc) (m : Token) (n : Nat) : Bool :=
  if d.op = 7 then bits (lane0 m) 13 8 == 0 && bits (lane0 m) 31 20 == 0
  else
    let dst := qOp m 1
    let src := qOp m 2
    let sl := (collSrcLen d n) * (collEs d)
    let dl := (collDstLen d n) * (collEs d)
    bits (lane0 m) 31 20 == 0 && bits (qOp m 3) 31 26 == 0 && decide (d.ty ≤ 8) && d.rop != 3
      && ((d.op == 3 || d.op == 4) || d.rop == 0) && (if d.op = 6 then decide (d.root < n) else d.root == 0)
      && decide (dst < 2 ^ 56) && decide (src < 2 ^ 56) && dst % (collEs d) == 0 && src % (collEs d) == 0
      && decide ((collSrcLen d n) ≤ 2 ^ 26) && decide ((collDstLen d n) ≤ 2 ^ 26)
      && (((d.op == 3 || d.op == 6) && dst == src) || !decide (dst < src + sl ∧ src < dst + dl))

/-- The pages of a collective, or the status that makes its descriptor invalid (R427). -/
def State.collPages (s : State) (m : Token) (asid : Option Nat) (d : CollDesc) (n : Nat) : Except Nat (Tab (Nat × Bool) × Tab (Nat × Bool)) × State :=
  if !collFieldsOk d m n then (.error sBADARG, s)
  else if d.op = 7 then (.ok ([], []), s)
  else
    let sl := (collSrcLen d n) * (collEs d)
    let dl := (collDstLen d n) * (collEs d)
    if 2 ^ 56 < qOp m 1 + dl ∨ 2 ^ 56 < qOp m 2 + sl then (.error sADDR, s)
    else
      match s.linkPages (dDie m.dest) m.ctx asid false false (pagesOf (qOp m 2) sl) with
      | (.error c, t) => (.error (statusOfCode c), t)
      | (.ok src, t) =>
        match t.linkPages (dDie m.dest) m.ctx asid true false (pagesOf (qOp m 1) dl) with
        | (.error c, u) => (.error (statusOfCode c), u)
        | (.ok dst, u) =>
          if u.localOk src (qOp m 2) sl ∧ u.localOk dst (qOp m 1) dl then (.ok (src, dst), u) else (.error sADDR, u)

/-! ## Results (R428, R429) -/

/-- Element `i` of a contribution, as a code. -/
def partElem (c : Contribution) (es i : Nat) : Nat := leNat ((c.data.drop (es * i)).take es)

/-- The reduction of the contributions of every rank (R94, R429). -/
def reduceElems (fmt : Fmt) (op : Nat) (xs : List Nat) : Nat :=
  match op with
  | 0 =>
    if fmt.isInt then intCode fmt (xs.foldl (fun (a : Int) x => a + intValue fmt x) 0)
    else (round fmt 0 0 (value .f32 (treeF32 (xs.map (fun x => (round .f32 0 0 (value fmt x)).1))))).1
  | _ =>
    match xs with
    | [] => 0
    | x :: rest =>
      if fmt.isInt then
        rest.foldl (fun a b => if decide (intValue fmt b < intValue fmt a) == (op == 1) then b else a) x
      else rest.foldl (fun a b => (minMax fmt (op == 2) false a b).1) x

/-- The elements a member writes to DST, each with its poison (R428). -/
def collResult (d : CollDesc) (rank n : Nat) (parts : Tab Contribution) : List (Nat × Bool) :=
  let part (q : Nat) : Contribution := Tab.get { data := [], poison := [] } parts q
  let red (i : Nat) : Nat × Bool :=
    (reduceElems (fmtOfCode d.ty) d.rop ((upTo n).map (fun q => partElem (part q) (collEs d) i)), (upTo n).any (fun q => nth false (part q).poison i))
  match d.op with
  | 3 => (upTo d.count).map red
  | 4 => (upTo d.count).map (fun i => red (rank * d.count + i))
  | 5 => (upTo (n * d.count)).map (fun i => (partElem (part (i / d.count)) (collEs d) (i % d.count), nth false (part (i / d.count)).poison (i % d.count)))
  | _ => (upTo d.count).map (fun i => (partElem (part d.root) (collEs d) i, nth false (part d.root).poison i))

/-- Whether every contribution that a collective needs is in. -/
def collParts (d : CollDesc) (n : Nat) (parts : Tab Contribution) : Bool :=
  if d.op = 6 then (parts.find? d.root).isSome else (upTo n).all (fun q => (parts.find? q).isSome)

/-! ## The steps of a collective (R427) -/

/-- A collective replaced, by its group. -/
def State.putColl (s : State) (c : Coll) : State := { s with colls := s.colls.map (fun x => if x.gid = c.gid then c else x) }

/-- A collective ends: its holds go, the sequence number advances, and it is answered. -/
def State.collEnd (s : State) (c : Coll) (g : Group) (st : Nat) : State :=
  let s1 := { s with colls := s.colls.filter (fun x => x.gid != c.gid) }
  ((if g.leaving then s1.freeGroup c.gid else s1.setGroup c.gid { g with seq := g.seq + 1 }).dropHolds c.holds).collAnswer c.msg st g.seq

/-- DST of a collective written through its pages, and the collective completed, unless a ladder hold covers DST (R313). -/
def State.collWrite (s : State) (c : Coll) (g : Group) : State :=
    let n := g.list.length
    let d := collDesc c.msg true
    let reaches := pageReaches c.dst ((collDstLen d n) * (collEs d) + 1) (qOp c.msg 1) ((collDstLen d n) * (collEs d))
    match reaches.find? (fun r => s.ladHeld r.pa r.n) with
    | some r => s.waitLad c.msg r.pa r.n [] []
    | none =>
      let xs := collResult d g.rank n c.parts
      let bytes := xs.flatMap (fun x => (leBytes (collEs d) x.1).map (fun b => (b, x.2)))
      let (code, t) := (reaches.foldl (fun (acc : Nat × Nat × State) r =>
          if acc.2.1 ≠ 0 then acc
          else
            let part := (bytes.drop acc.1).take r.n
            let (e, u) := acc.2.2.store r.pa (part.map (fun b => b.1)) (part.any (fun b => b.2))
            (acc.1 + r.n, e, u)) (0, 0, s)).2
      t.collEnd c g (if code ≠ 0 then statusOfCode code else poisonStatus (xs.any (fun x => x.2)))

/-- A running collective whose contributions are all in writes DST and completes. Pages of DST that a shootdown has invalidated are
translated again first (R374). -/
def State.collFinish (s : State) (c : Coll) (g : Group) : State :=
  let d := collDesc c.msg true
  if !c.running ∨ !collParts d g.list.length c.parts then s
  else
    match s.renewPages c.msg c.asid true false c.dst c.holds (qOp c.msg 1) ((collDstLen d g.list.length) * (collEs d)) with
    | none => s
    | some (.error e, t) => t.collEnd c g (statusOfCode e)
    | some (.ok (ps, h), t) => (t.putColl { c with dst := ps, holds := h }).collWrite { c with dst := ps, holds := h } g

/-- The contribution of this module: its SRC elements with their poison (R428). -/
def State.ownPart (s : State) (c : Coll) (g : Group) : Contribution × State :=
  let d := collDesc c.msg true
  let n := (collSrcLen d g.list.length) * (collEs d)
  let (bs, t) := s.readBytes (pageReaches c.src (n + 1) (qOp c.msg 2) n)
  ({ data := bs.map (fun b => b.1), poison := (chunks (collEs d) ((collSrcLen d g.list.length)) bs).map (fun e => e.any (fun b => b.2)) }, t)

/-- A collective runs: this module's contribution is read, through pages translated again where a shootdown has invalidated them (R374,
R427, R428). -/
def State.collRun (s : State) (c : Coll) (g : Group) : State :=
  let d := collDesc c.msg true
  if d.op = 6 ∧ d.root ≠ g.rank then (s.putColl { c with running := true }).collFinish { c with running := true } g
  else
    match s.renewPages c.msg c.asid false false c.src c.holds (qOp c.msg 2) ((collSrcLen d g.list.length) * (collEs d)) with
    | none => s
    | some (.error e, t) => t.collEnd c g (statusOfCode e)
    | some (.ok (ps, h), t) =>
      let c0 := { c with src := ps, holds := h }
      let (part, u) := t.ownPart c0 g
      let c1 := { c0 with running := true, parts := Tab.set c0.parts g.rank part }
      (u.putColl c1).collFinish c1 g

/-- Once every member's descriptor is in, the collective runs or fails (R427). -/
def State.collCheck (s : State) (gid : Nat) : State :=
  match s.colls.find? (fun c => c.gid == gid), s.groups.find? gid with
  | some c, some g =>
    let n := g.list.length
    if c.running ∨ !(upTo n).all (fun q => (c.descs.find? q).isSome) then s
    else
      let own := collDesc c.msg (c.status == sOK)
      if c.status ≠ sOK then s.collEnd c g c.status
      else if c.descs.any (fun e => e.2 != own) then s.collEnd c g sBADARG
      else if own.op = 7 then s.collEnd c g sOK
      else s.collRun c g
  | _, _ => s

/-- The descriptors that came before this module's collective was taken: the first of each member (R427). -/
def State.takeEarly (s : State) (c : Coll) (n : Nat) : Coll × State :=
  (upTo n).foldl (fun acc q =>
    match acc.2.earlyDescs.find? (fun e => e.1 == c.gid && e.2.1 == q) with
    | some e =>
      if (acc.1.descs.find? q).isSome then acc
      else ({ acc.1 with descs := Tab.set acc.1.descs q e.2.2 }, { acc.2 with earlyDescs := acc.2.earlyDescs.erase e })
    | none => acc) (c, s)

/-- A collective taken (R426, R427): its descriptor is sent to every member. -/
def State.collBegin (s : State) (m : Token) (g : Group) (st : Nat) (src dst : Tab (Nat × Bool)) (holds : List Nat) : State :=
  let gid := gidOf m
  let d := collDesc m (st == sOK)
  let c : Coll :=
    { gid := gid, msg := m, status := st, descs := [(g.rank, d)], parts := [], holds := holds, since := s.timer, running := false,
      asid := s.takenAsid m, src := src, dst := dst }
  let (c1, s1) := (s.clearBusy m).takeEarly c g.list.length
  { s1 with colls := s1.colls ++ [c1], sentDescs := s1.sentDescs ++ [(gid, d)] }.collCheck gid

/-- A collective at the head of its inbox: taken, or, once what it waited for has come, finished. -/
def State.collective (s : State) (m : Token) (lanes : Nat) : State :=
  s.lnCmd m lanes 0xFFFFFF00 (fun t =>
    let gid := gidOf m
    match t.groups.find? gid with
    | none => t.collAnswer m sBADARG 0
    | some g =>
      match t.colls.find? (fun c => c.gid == gid && c.msg == m) with
      | some c => if (t.resumed m).isNone then t else if c.running then (t.clearBusy m).collFinish c g else t.collCheck gid
      | none =>
        if !g.bound ∨ g.broken ∨ g.leaving ∨ g.inbox ≠ inboxKey m.dest ∨ g.ctx ≠ m.ctx then t.collAnswer m sBADARG 0
        else
          match t.resumed m with
          | none => t
          | some (_, holds) =>
            match t.collPages m (t.takenAsid m) (collDesc m true) g.list.length with
            | (.error st, u) => (u.dropHolds holds).collBegin m g st [] [] []
            | (.ok (src, dst), u) =>
              u.withHolds m holds (pageFrames src ++ (pageFrames dst).filter (fun f => !(pageFrames src).contains f)) [] (fun h v =>
                v.collBegin m g sOK src dst h))

/-- LN_ALLRED (R428). -/
def execLnAllred (m : Token) (s : State) : Out := ok (s.collective m 8)
/-- LN_REDSC (R428). -/
def execLnRedsc (m : Token) (s : State) : Out := ok (s.collective m 8)
/-- LN_ALLGATH (R428). -/
def execLnAllgath (m : Token) (s : State) : Out := ok (s.collective m 8)
/-- LN_BCAST (R428). -/
def execLnBcast (m : Token) (s : State) : Out := ok (s.collective m 8)
/-- LN_BARRIER (R431). -/
def execLnBarrier (m : Token) (s : State) : Out := ok (s.collective m 2)

/-- COLLECTIVE_DESCRIPTOR (R427): a member's descriptor of its next collective on the group; one that comes before this module's own
waits for it. -/
def execCollectiveDescriptor (gid rank : Nat) (d : CollDesc) (s : State) : Out :=
  ok (match s.groups.find? gid with
      | none => { s with earlyDescs := s.earlyDescs ++ [(gid, rank, d)] }
      | some g =>
        if rank = g.rank ∨ g.list.length ≤ rank then s
        else
          match s.colls.find? (fun c => c.gid == gid) with
          | some c =>
            if (c.descs.find? rank).isSome then { s with earlyDescs := s.earlyDescs ++ [(gid, rank, d)] }
            else (s.putColl { c with descs := Tab.set c.descs rank d }).collCheck gid
          | none => { s with earlyDescs := s.earlyDescs ++ [(gid, rank, d)] })

/-- COLLECTIVE_CONTRIBUTION_ARRIVE (R428): a member's elements; the last lets this member write DST and complete. -/
def execCollectiveContributionArrive (gid rank : Nat) (x : Contribution) (s : State) : Out :=
  ok (match s.colls.find? (fun c => c.gid == gid), s.groups.find? gid with
      | some c, some g =>
        if rank = g.rank ∨ g.list.length ≤ rank ∨ (c.parts.find? rank).isSome ∨ c.status ≠ sOK then s
        else
          let c1 := { c with parts := Tab.set c.parts rank x }
          (s.putColl c1).collFinish c1 g
      | _, _ => s)

/-- COLLECTIVE_TIMEOUT (R425, R427): a join, or a collective that not every member has joined, is over after COLLTO. -/
def execCollectiveTimeout (gid : Nat) (s : State) : Out :=
  ok (match s.groups.find? gid with
      | none => s
      | some g =>
        let beyond (since : Nat) (m : Token) : Bool := decide (1000 * s.collTimeout (linkDie m) ≤ s.usSince since)
        if !g.bound then
          (if beyond g.since g.msg then
            { s with groups := s.groups.erase gid, earlyJoins := s.earlyJoins.filter (fun e => e.1 != gid) }.collAnswer g.msg sTIMEOUT 0
           else s)
        else
          match s.colls.find? (fun c => c.gid == gid) with
          | some c => if !c.running ∧ beyond c.since c.msg then s.collEnd c { g with broken := true } sTIMEOUT else s
          | none => s)

end Sys2Proof.Machine
end

