-- ==== Sys2Proof/Machine/Front.lean ====
section
/-! DEFINITION. The command front (R437 to R449): command windows, the overflow area, the choice of the next command, and the
commands WAIT, SIGNAL and QUERY. -/

namespace Sys2Proof.Machine

/-! ## Command windows (R437, R438) -/

/-- A write to one line of one queue (R438): it is staged; a byte that was set already first ends the partial command; a full line
is a command. -/
def State.stage (s : State) (q line at_ : Nat) (data : List Byte) : State :=
  let empty : List (Option Byte) := List.replicate 64 none
  let old := (s.queue q).staging.find? line |>.getD empty
  let clash := ((old.drop at_).take data.length).any (fun b => b.isSome)
  let s1 := if clash then s.endPartial q line old else s
  let now := (if clash then empty else old).take at_ ++ data.map some ++ (if clash then empty else old).drop (at_ + data.length)
  if now.all (fun b => b.isSome) then
    (s1.setQueue q { s1.queue q with staging := (s1.queue q).staging.erase line }).acceptCmd q line (stagedBody now) none
  else s1.setQueue q { s1.queue q with staging := Tab.set (s1.queue q).staging line now }

/-- A write from offset `off` of the window range on, cut at command lines. -/
def State.windowWrite : Nat → State → Nat → List Byte → State
  | 0, s, _, _ => s
  | n + 1, s, off, data =>
    if data.isEmpty ∨ 0x80000 ≤ off then s
    else
      let m := Nat.min data.length (64 - off % 64)
      State.windowWrite n (s.stage (off / 512) (off / 64 % 8) (off % 64) (data.take m)) (off + m) (data.drop m)

/-- COMMAND_WINDOW_WRITE (R438): a host write at an offset of BAR0 (R490). While a Function Level Reset is in progress it is
discarded (R491). A write to the MSI-X table is kept; one to a reserved offset is lost (R7). -/
def execCommandWindowWrite (off : Nat) (data : List Byte) (s : State) : Out :=
  ok (if 0x100000 ≤ off ∧ off + data.length ≤ 0x108000 then
        { s with bar0 := (indexed off data).foldl (fun t e => Tab.set t e.1 e.2) s.bar0 }
      else if s.flrHold then s
      else State.windowWrite (data.length + 1) s off data)

/-- OVERFLOW_AREA_RETURN (R440): the oldest command of the overflow area takes a free slot, as memory holds it. -/
def execOverflowAreaReturn (q : Nat) (s : State) : Out :=
  let k := s.queue q
  ok (match k.overflow with
      | c :: rest =>
        if k.onchip.length < 64 then
          let size := Nat.max 1 (s.regBits (queueReg q 0x10) 23 0)
          let a := s.regBits (queueReg q 0x08) 56 12 * 4096 + 64 * (k.ovfHead % size)
          let (g, s1) := s.load a 64 false true true
          let body := if g.code = 0 then (chunks 8 8 g.data).map (fun b => BitVec.ofNat 64 (leNat b)) else c.body
          s1.setQueue q { k with onchip := k.onchip ++ [{ c with body := body }], overflow := rest, ovfHead := (k.ovfHead + 1) % size }
        else s
      | [] => s)

/-- A command line's sequence number that has been given out and has not completed. -/
def State.outstanding (s : State) (q seq : Nat) : Bool :=
  let d := s.doneSeq q
  decide ((seq + 2 ^ 32 - d) % 2 ^ 32 < (s.nextSeq q + 2 ^ 32 - d) % 2 ^ 32) && !(s.queue q).done.contains seq

/-- COMMAND_RESERVED (R439): a command of line 7 completes at once as REFUSED with BADARG. -/
def execCommandReserved (c : Cmd) (s : State) : Out :=
  ok (if c.line = 7 ∧ s.outstanding c.queue c.seq then s.refuseCmd c sBADARG else s)

/-! ## Choosing the next command (R447, R448) -/

/-- The sectors of a queue's partition (R449). -/
def State.partMask (s : State) (q : Nat) : Nat := s.regBits (frontReg (8 * s.regBits (queueReg q 0) 5 1)) 31 0

/-- A sector of a mask is being reset or wakes (R447). -/
def State.sectorsBusy (s : State) (mask : Nat) : Bool :=
  s.resets.any (fun r => (r.mask &&& mask) != 0) || s.waking.any (fun e => bitOf mask e.1)

/-- The sectors of a mask, in increasing order. -/
def sectorsOf (mask : Nat) : List Nat := (upTo 32).filter (fun ps => bitOf mask ps)

/-- The PART of a LAUNCH or RESUME: that of its record; for a RESUME with PART 0, that of the image (R457, R458). -/
def State.cmdPart (s : State) (c : Cmd) : Nat :=
  if c.line = 0 then bits (Cmd.w c 6) 31 0
  else if bits (Cmd.w c 2) 31 0 ≠ 0 then bits (Cmd.w c 2) 31 0
  else s.devRead (bits (Cmd.w c 1) 56 16 * 65536 + 8) 4

/-- A command's condition (R444, R447). -/
def State.cmdReady (s : State) (c : Cmd) : Bool :=
  if c.line = 0 ∨ c.line = 4 then
    !s.sectorsBusy (s.partMask c.queue) && (sectorsOf (s.cmdPart c)).all (fun ps => decide (s.launchEvents ps < 16))
  else if c.line = 1 then
    let d := (s.doneSeq (bits (Cmd.w c 0) 9 0) + 2 ^ 32 - bits (Cmd.w c 0) 63 32) % 2 ^ 32
    decide (1 ≤ d ∧ d ≤ 2 ^ 31)
  else if c.line = 2 then s.doneSeq c.queue == c.seq
  else if c.line = 3 then !s.fdrains.any (fun f => f.slot == bits (Cmd.w c 0) 11 0)
  else true

/-- A command of the queue ahead of its head has been dispatched and not yet performed (R447). -/
def State.queueHeld (s : State) (q : Nat) : Bool :=
  s.fdrains.any (fun f => match f.cmd with | some c => c.queue == q | none => false) || s.restores.any (fun r => r.cmd.queue == q)

/-- The head command of a queue, where it is ready. In P2 and P3 none is dispatched before the exit (R483). -/
def State.readyHead (s : State) (q : Nat) : Option Cmd :=
  match (s.queue q).onchip with
  | c :: _ => if s.awake && !s.queueHeld q && s.cmdReady c then some c else none
  | [] => none

/-- The effective level E of a queue's head (R448). -/
def State.level (s : State) (q : Nat) : Nat :=
  let age := s.regBits (queueReg q 0) 31 16
  let since := (s.queue q).readySince
  Nat.min 7 (s.regBits (queueReg q 0) 8 6 + (if age = 0 ∨ since = 0 then 0 else s.usSince (since - 1) / age))

/-- Since when each head has been ready, as it stands now (R448): the timer + 1, or 0. -/
def State.noteReady (s : State) : State :=
  { s with queues := s.queues.map (fun e =>
      if (s.readyHead e.1).isSome then
        (if e.2.readySince = 0 then (e.1, { e.2 with readySince := s.timer + 1 }) else e)
      else if e.2.readySince = 0 then e else (e.1, { e.2 with readySince := 0 })) }

/-- The queue whose head is dispatched next (R448): the highest level; among equals, round-robin after the queue last served at
that level. -/
def State.nextQueue (s : State) : Option Nat :=
  let place (q : Nat) : Nat := (q + 1024 - ((Tab.get 1023 s.served (s.level q) + 1) % 1024)) % 1024
  leastBy (fun a b => decide (s.level b < s.level a) || (s.level a == s.level b && decide (place a < place b)))
    ((s.queues.map (fun e => e.1)).filter (fun q => (s.readyHead q).isSome))

/-- A command dispatched (R447): the ready head of its queue leaves it. Any other command is not dispatched. -/
def State.dispatch (s : State) (c : Cmd) (line : Nat) (f : State → State) : State :=
  if c.line = line ∧ s.readyHead c.queue = some c then
    let k := s.queue c.queue
    f { s.setQueue c.queue { k with onchip := k.onchip.tail, readySince := 0 } with
        served := Tab.set s.served (s.level c.queue) c.queue }
  else s

/-- Every bit of a command that R443 does not name is zero: the named bits of each word are in `masks`. -/
def bodyOk (c : Cmd) (masks : List Nat) : Bool := (upTo 8).all (fun i => !extraBits (Cmd.w c i) (nth 0 masks i))

/-! ## WAIT, SIGNAL, QUERY (R444 to R446) -/

/-- WAIT (R444). -/
def execWait (c : Cmd) (s : State) : Out :=
  ok (s.dispatch c 1 (fun t =>
    if bodyOk c [maskBits 9 0 + maskBits 63 32] then t.finishCmd c jCOMPLETED sOK else t.finishCmd c jFAILED sBADARG))

/-- SIGNAL (R445). An ADDR that is no multiple of 8 is taken as one outside the ranges (log 20). -/
def execSignal (c : Cmd) (s : State) : Out :=
  ok (s.dispatch c 2 (fun t =>
    let a := Cmd.w c 0
    let d : Dest := BitVec.ofNat 21 (Cmd.w c 2)
    if !bodyOk c [maskBits 56 0, maskBits 63 0, maskBits 20 0 + maskBits 43 32, maskBits 10 0 + 2 ^ 16] then t.finishCmd c jFAILED sBADARG
    else if a ≠ 0 ∧ (a % 8 ≠ 0 ∨ !isGlobal a ∨ !t.physOk a 8 false) then t.finishCmd c jFAILED sADDR
    else if dKind d = 2 ∨ !destForm d then t.finishCmd c jFAILED sBADARG
    else
      let v : Word := nth 0 c.body 1
      let t1 := if a = 0 then t else (t.store a (leBytes 8 v.toNat) false true true).2
      let t2 := t1.send (frontSrc c.queue)
        { Token.zero with
          dest := d, ctx := BitVec.ofNat 12 (bits (Cmd.w c 2) 43 32), len := 3, cls := 6,
          lanes := [0x02, v.extractLsb' 0 32, v.extractLsb' 32 32] }
      (if bitOf (Cmd.w c 3) 16 then t2.raise (bits (Cmd.w c 3) 10 0) else t2).finishCmd c jCOMPLETED sOK))

/-- What QUERY writes (R446): the registers of a queue, or a context slot. -/
def State.queryWords (s : State) (kind i : Nat) : List Nat :=
  if kind = 0 then (upTo 8).map (fun k => (s.regRead (queueReg i (8 * k))).toNat)
  else
    match s.contexts.find? i with
    | some x =>
      [(if x.live then 1 else 0) + (if x.savedByDog then 2 else 0) + x.queue * 2 ^ 2 + x.seq * 2 ^ 12, x.part + x.asid * 2 ^ 32,
        x.bounds, x.started]
    | none => []

/-- QUERY (R446). A RESULT where no device memory lies completes it FAILED with ADDR (log 20). -/
def execQuery (c : Cmd) (s : State) : Out :=
  ok (s.dispatch c 6 (fun t =>
    let kind := bits (Cmd.w c 0) 1 0
    let i := bits (Cmd.w c 0) 15 4
    let a := Cmd.w c 1
    if !bodyOk c [maskBits 1 0 + maskBits 15 4, maskBits 56 6] ∨ 2 ≤ kind ∨ (kind = 0 ∧ 1024 ≤ i) then t.finishCmd c jFAILED sBADARG
    else if !isGlobal a ∨ !t.physOk a 64 false then t.finishCmd c jFAILED sADDR
    else
      (t.store a ((padTo 0 8 (t.queryWords kind i)).flatMap (fun w => leBytes 8 w)) false true true).2.finishCmd c jCOMPLETED sOK))

end Sys2Proof.Machine
end

