-- ==== Sys2Proof/Machine/Reset.lean ====
section
/-! DEFINITION. The end of contexts by force (R449, R463, R464, R466): the commands and tokens of a context, partition resets, the
partition masks, and the gating and waking of sectors. -/

namespace Sys2Proof.Machine

/-! ## What a context has in hand (R452, R454) -/

/-- A message or token of a context; a drain belongs to none. -/
def ofCtx (ctx : BitVec 12) (t : Token) : Bool := t.ctx == ctx && !(t.cls == 2 && nth 0 t.lanes 0 == 0)

/-- The head of an inbox has been taken by its engine (R54, R55): it runs, or waits within the engine. -/
def State.taken (s : State) (key : Nat) : Bool :=
  (s.busy.find? key).isSome || s.colls.any (fun c => inboxKey c.msg.dest == key)
    || s.groups.any (fun g => !g.2.bound && g.2.inbox == key)

/-- A context has an engine command in progress (R454): one taken from its inbox and not yet completed. -/
def State.cmdsRun (s : State) (ctx : BitVec 12) : Bool :=
  s.inboxes.any (fun e => match e.2 with | (_, m) :: _ => ofCtx ctx m && s.taken e.1 | [] => false)
    || s.moves.any (fun v => match v.msg with | some m => ofCtx ctx m | none => false)
    || s.pools.any (fun e =>
      e.2.passes.any (fun q => ofCtx ctx q.msg) || e.2.drains.any (fun d => ofCtx ctx d.msg)
        || (match e.2.walk with | some w => ofCtx ctx w.msg | none => false))

/-- A context has a command waiting: in an inbox, or as an announcement in a pairing store. -/
def State.cmdsWait (s : State) (ctx : BitVec 12) : Bool :=
  s.inboxes.any (fun e => e.2.any (fun m => ofCtx ctx m.2))
    || s.pools.any (fun e => e.2.annA.any (fun a => ofCtx ctx a.msg) || e.2.annB.any (fun a => ofCtx ctx a.msg))

/-- A token of a context is on a link, or a firing or an access of it is under way (R454, R67). -/
def State.tokensOut (s : State) (ctx : BitVec 12) : Bool :=
  s.net.any (fun f => ofCtx ctx f.tok) || s.keepers.any (fun e => match e.2.port with | some t => ofCtx ctx t | none => false)
    || s.spills.any (fun e => e.2.arriving.any (fun r => r.tok.ctx == ctx))
    || s.cells.any (fun e => e.2.ready.any (fun f => f.ctx == ctx)) || s.accesses.any (fun a => a.fir.ctx == ctx)

/-- A drained context is quiet (R454): every sector has ended its tile-task, no command runs and no token is out. -/
def State.quiet (s : State) (f : FrontDrain) : Bool :=
  let ctx : BitVec 12 := BitVec.ofNat 12 f.slot
  f.sectors.isEmpty && !s.cmdsRun ctx && !s.tokensOut ctx

/-- A context has no entry, control entry, spill record or overflow chunk (R452). -/
def State.noEntries (s : State) (ctx : BitVec 12) : Bool :=
  s.cells.all (fun e => e.2.entries.all (fun x => x.tok.ctx != ctx) && e.2.ctrl.all (fun x => x.ctx != ctx))
    && s.spills.all (fun e => e.2.all.all (fun r => r.tok.ctx != ctx))

/-! ## The overlay (R72, R454) -/

/-- The overlay lifted from the cells of a context's sectors, but where another drained context needs it. -/
def State.liftOverlay (s : State) (slot : Nat) (x : Context) : State :=
  let needed (ps : Nat) : Bool :=
    s.fdrains.any (fun f => f.slot != slot &&
      (match s.contexts.find? f.slot with | some y => bitOf y.part ps | none => false))
  { s with cells := s.cells.map (fun e =>
      if bitOf x.part (sectorOf e.1) && !needed (sectorOf e.1) then
        (e.1, { e.2 with
          active := { e.2.active with overlay := false },
          staged := if e.2.staged.overlay then .none else e.2.staged, stagedValid := e.2.stagedValid && !e.2.staged.overlay })
      else e) }

/-! ## What the front frees with a slot (R450, R452) -/

/-- A context's slot given back, with its spill areas, records and chunks, and what its cells still hold of it. -/
def State.unbind (s : State) (slot : Nat) (x : Context) : State :=
  let ctx : BitVec 12 := BitVec.ofNat 12 slot
  let s1 := if x.overlaid then s.liftOverlay slot x else s
  { s1 with
    contexts := s1.contexts.erase slot,
    keepers := s1.keepers.map (fun e => (e.1, if e.2.coldCtx = some slot then { e.2 with coldCtx := none } else e.2)),
    spills := s1.spills.map (fun e => (e.1, { e.2 with
      records := e.2.records.filter (fun r => r.tok.ctx != ctx), arriving := e.2.arriving.filter (fun r => r.tok.ctx != ctx),
      trapped := e.2.trapped.filter (fun c => c != slot) })),
    cells := s1.cells.map (fun e => (e.1, { e.2 with parkedActs := e.2.parkedActs.filter (fun p => p.ctx != ctx) })),
    chains := s1.chains.map (fun e => (e.1, e.2.filter (fun c => c.ctx != ctx))),
    fdrains := s1.fdrains.filter (fun f => f.slot != slot),
    restores := s1.restores.filter (fun r => r.slot != slot) }

/-- A context's slot and everything bound to it given back (R452): its ladder sets, its view and its link groups as well. DEDUCED
(log 21): the view is closed by the page engine of the lowest sector's die. -/
def State.freeContext (s : State) (slot : Nat) (x : Context) : State :=
  let ctx : BitVec 12 := BitVec.ofNat 12 slot
  let s1 := ((s.closeView (((sectorsOf x.part).headD 0) / 8) x.asid ctx).freeLadder ctx).freeGroups ctx
  { s1 with viewStamps := s1.viewStamps.erase slot }.unbind slot x

/-- The end token of a context (R452, R463), to its DONE destination. -/
def endToken (slot status : Nat) (x : Context) : Token :=
  { Token.zero with
    dest := BitVec.ofNat 21 (bits (x.recWord 7) 36 16), ctx := BitVec.ofNat 12 slot, len := 4, cls := 6,
    lanes := [BitVec.ofNat 32 (1 + status * 256), BitVec.ofNat 32 x.queue, BitVec.ofNat 32 x.seq, BitVec.ofNat 32 x.bounds] }

/-- The LAUNCH or RESUME that started a context journaled with a state and status (R465). -/
def State.journalCtx (s : State) (slot : Nat) (x : Context) (state status : Nat) : State :=
  s.journalAt x.seq x.queue x.line x.digest slot state status

/-! ## Sectors as reset leaves them (R463, R464) -/

/-- An inbox of a sector engine of a sector. -/
def sectorInbox (ps key : Nat) : Bool :=
  let d : Dest := BitVec.ofNat 21 key
  dKind d == 2 && dEng d != 7 && dSector d == ps

/-- Whether a remote request was made for a unit of a sector. -/
def State.askedBy (s : State) (ps : Nat) (r : Remote) : Bool :=
  match r.who with
  | .keeper k => k == ps
  | .access id _ => s.accesses.any (fun a => a.id == id && sectorOf a.fir.ci == ps)
  | .command d => sectorInbox ps d

/-- The page holds of the copy commands that a sector's reset abandons are given back. -/
def State.abandonHolds (s : State) (ps : Nat) : State :=
  (s.busy.filter (fun e => sectorInbox ps e.1)).foldl (fun t e => t.dropHolds e.2.holds) s

/-- One sector as a reset leaves it (R463): cells, registers, keeper, scratchpad, spill unit, pools, ladder controller and copy
engine. The keeper's general registers and pc, which the manual does not name there, stand (log 22); retired lines and pools stay
retired. -/
def State.resetSector (s0 : State) (ps : Nat) : State :=
  let s := s0.abandonHolds ps
  let k := s.keeper ps
  let s1 : State :=
    { s with
      cells := s.cells.map (fun e => if sectorOf e.1 = ps then (e.1, { Cell.reset with retired := e.2.retired }) else e),
      accesses := s.accesses.filter (fun a => sectorOf a.fir.ci != ps),
      remotes := s.remotes.filter (fun r => !s.askedBy ps r),
      chains := s.chains.filter (fun e => sectorOf e.1 != ps),
      regs := s.regs.filter (fun e => match placeOf e.1 with | .sreg p _ _ => p != ps | _ => true),
      spills := s.spills.erase ps,
      ladders := s.ladders.erase ps,
      pools := s.pools.map (fun e => if e.1 / 5 = ps then (e.1, { Pool.reset with retired := e.2.retired }) else e),
      inboxes := s.inboxes.filter (fun e => !sectorInbox ps e.1),
      busy := s.busy.filter (fun e => !sectorInbox ps e.1),
      muted := s.muted.filter (fun k => !sectorInbox ps k),
      xlations := s.xlations.filter (fun x => !(x.owner == ps || (decide (32 ≤ x.owner) && sectorOf ((x.owner - 32) / 16) == ps))),
      net := s.net.filter (fun f => !(f.tok.cls == 2 && nth 0 f.tok.lanes 0 == 0 && f.tok.aux.toNat % 32 == ps)
        && !(dKind f.src == 1 && sectorOf (dCell f.src) == ps && !f.gone)) }
  let s2 := s1.setKeeper ps { Keeper.reset with k := k.k, pc := k.pc }
  let s3 := (s2.wipe (kmemAddr ps 0) (kmemAddr ps 0x40000)).wipe (scratchAddr ps 0) (scratchAddr ps 0x800000)
  let s4 := (upTo 5).foldl (fun t p => t.wipe (accAddr ps p 0) (accAddr ps p 0x20000)) s3
  (cellsOf ps).foldl (fun t ci => t.wipe (frameAddr ci 0) (frameAddr ci 256)) s4

/-- `FRONT.SECRDY` bit of a sector set or cleared. -/
def State.setReady (s : State) (ps : Nat) (r : Bool) : State := s.setBits (frontReg 0x118) ps ps (if r then 1 else 0)

/-- Whether a sector is power-gated (R466). -/
def State.gated (s : State) (ps : Nat) : Bool := (s.reg (frontReg 0x110)).getLsbD ps

/-! ## Partition reset (R463) -/

/-- The live contexts on a mask of sectors, in increasing slot order. -/
def State.liveOn (s : State) (mask : Nat) : List (Nat × Context) := s.contexts.filter (fun e => e.2.live && (e.2.part &&& mask) != 0)

/-- A drain of a context ends because its partition is reset (R462, R469): the save stops with SIZE 0, and its PREEMPT fails, with
TIMEOUT where its own deadline has passed. -/
def State.stopDrain (s : State) (f : FrontDrain) (late : Option Nat) : State :=
  match f.cmd with
  | some c =>
    let a := bits (Cmd.w c 1) 56 16 * 65536
    let s1 := if s.quiet f then (s.store a (leBytes 8 0) false true true).2 else s
    s1.finishCmd c jFAILED (if late = some f.slot then sTIMEOUT else sABORTED)
  | none => s

/-- The messages of a context in die and link engines (R463): those not yet taken are discarded; the completions of those in
progress to a destination in the mask are discarded when they come. A move that has not begun counts as not taken (R405). -/
def State.discardMessages (s : State) (ctx : BitVec 12) (mask : Nat) : State :=
  let inside (m : Token) : Bool :=
    match destSector ((replyLane m).extractLsb' 0 21) with | some ps => bitOf mask ps | none => false
  let idle := s.moves.filter (fun v => v.phase == .waiting && (match v.msg with | some m => ofCtx ctx m | none => false))
  let s1 := idle.foldl (fun t v => t.dropMove v) s
  let mute := (s1.inboxes.filter (fun e => match e.2 with
      | (_, m) :: _ => ofCtx ctx m && s1.taken e.1 && inside m
      | [] => false)).map (fun e => e.1)
    ++ (s1.moves.filter (fun v => match v.msg with | some m => ofCtx ctx m && inside m | none => false)).map (fun v => 2 ^ 22 + v.id)
  let keep (key : Nat) (i : Nat) (m : Token) : Bool :=
    !(dEng (BitVec.ofNat 21 key : Dest) == 7 && ofCtx ctx m) || (i == 0 && s1.taken key)
  { s1 with
    muted := mute.foldl (fun l k => insertNat k l) s1.muted,
    inboxes := s1.inboxes.map (fun e => (e.1, ((indexed 0 e.2).filter (fun x => keep e.1 x.1 x.2.2)).map (fun x => x.2))) }

/-- One context of a reset partition (R463): its tokens and messages are discarded, its slot is freed, and its end token goes to a
destination outside the partition. -/
def State.dropContext (s : State) (slot : Nat) (x : Context) (mask status : Nat) : State :=
  let ctx : BitVec 12 := BitVec.ofNat 12 slot
  let s1 := (s.discardMessages ctx mask).freeContext slot x
  let s2 : State :=
    { s1 with
      net := s1.net.filter (fun f => !ofCtx ctx f.tok),
      stackUnits := s1.stackUnits.map (fun e => (e.1, { e.2 with slots := e.2.slots.map (fun v => if v.ctx = ctx then { v with valid := false } else v) })) }
  let t := endToken slot status x
  let s3 := match destSector t.dest with
    | some ps => if bitOf mask ps then s2 else s2.send (frontSrc x.queue) t
    | none => s2
  s3.completeSeq x.queue x.seq

/-- A partition reset begins (R463): RESET is journaled for every live context on it, in increasing slot order; then its sectors
and contexts are reset, and its sectors are not ready until it completes. -/
def State.resetPartition (s : State) (mask status : Nat) (cmd : Option Cmd) (late : Option Nat) : State :=
  let live := s.liveOn mask
  let s1 := live.foldl (fun t e => t.journalCtx e.1 e.2 jRESET status) s
  let s2 := (s.fdrains.filter (fun f => live.any (fun e => e.1 == f.slot))).foldl (fun t f => t.stopDrain f late) s1
  let s3 := (sectorsOf mask).foldl (fun t ps => if t.gated ps then t else (t.resetSector ps).setReady ps false) s2
  let s4 := (live.foldl (fun t e => t.dropContext e.1 e.2 mask status) s3).freeSavedLadder mask
  { s4 with resets := s4.resets ++ [{ id := s4.nextId, mask := mask, cmd := cmd }], nextId := s4.nextId + 1 }

/-- RESET_PART (R444, R463): resets the partition of its queue. -/
def execResetPart (c : Cmd) (s : State) : Out :=
  ok (s.dispatch c 5 (fun t =>
    if bodyOk c [] then t.resetPartition (t.partMask c.queue) sABORTED (some c) none else t.finishCmd c jFAILED sBADARG))

/-- PARTITION_RESET_COMPLETE (R463): the sectors are ready again, and the RESET.PART that asked for it completes. -/
def execPartitionResetComplete (id : Nat) (s : State) : Out :=
  ok (match s.resets.find? (fun r => r.id == id) with
      | some r =>
        let s1 := { s with resets := s.resets.filter (fun x => x.id != id) }
        let s2 := (sectorsOf r.mask).foldl (fun t ps =>
          if t.gated ps ∨ !t.awake ∨ (t.waking.find? ps).isSome ∨ t.resets.any (fun x => bitOf x.mask ps) then t else t.setReady ps true) s1
        let s3 : State := if s2.resets.isEmpty then { s2 with flrHold := false } else s2
        (match r.cmd with | some c => s3.finishCmd c jCOMPLETED sOK | none => s3)
      | none => s)

/-! ## Partitions and power (R449, R466) -/

/-- The exit to P0 completes once every sector that is not gated is ready (R483): CURRENT is P0, the records of refresh read 0
and their intervals begin anew (R360), and the host accesses that woke the package are performed in their order. -/
def State.exitDone (s : State) : State :=
  if s.cust.pwrExit ∧ s.waking = [] then
    let s1 := (s.setBits (custReg 0x38) 3 2 0).setCust { s.cust with pwrExit := false, hostWait := [] }
    let s2 : State :=
      { s1 with regs := s1.regs.filter (fun e => match placeOf e.1 with
          | .dreg _ u off => !(1 ≤ u && u ≤ 3 && 0x100 ≤ off && off < 0x200) | _ => true) }
    let s3 := (upTo 12).foldl (fun t st => t.setStack st { t.stack st with last := (upTo 32).map (fun ch => (ch, s.timer)) }) s2
    { s3 with inputs := s.cust.hostWait.map (fun r => .event (.hostMemoryAccess r)) ++ s2.inputs }
  else s

/-- PARTITION_WRITE (R449): ignored where it would give a sector to two partitions, or change a partition on which a context is
live. -/
def execPartitionWrite (n : Nat) (v : Word) (s : State) : Out :=
  ok (if n < 32 then
        let new := v.toNat % 2 ^ 32
        let old := s.regBits (frontReg (8 * n)) 31 0
        let others := (upTo 32).any (fun k => k != n && (s.regBits (frontReg (8 * k)) 31 0 &&& new) != 0)
        if others ∨ (new ≠ old ∧ (s.liveOn old ≠ [])) then s.setBits (frontReg 0x120) 0 0 1
        else s.setReg (frontReg (8 * n)) (BitVec.ofNat 64 new)
      else s)

/-- SECTOR_GATE (R466): the sector loses every state, as a reset would; ignored where a live context has it in its PART or a reset
covers it. A gated sector accepts no tokens, so its READY bit falls (log 23). -/
def execSectorGate (ps : Nat) (s : State) : Out :=
  ok (if 32 ≤ ps then s
      else if (s.liveOn (2 ^ ps)) ≠ [] ∨ s.resets.any (fun r => bitOf r.mask ps) then s.setBits (frontReg 0x120) 1 1 1
      else if s.gated ps then s
      else
        let s1 := ((s.resetSector ps).setReady ps false).setBits (frontReg 0x110) ps ps 1
        ({ s1 with waking := s1.waking.erase ps }).exitDone)

/-- SECTOR_WAKE (R466): at time 0 the rails are enabled. In P2 and P3 the sector wakes with the others on the exit (R483). -/
def execSectorWake (ps : Nat) (s : State) : Out :=
  ok (if ps < 32 ∧ s.gated ps then
        let s1 := (s.setReady ps false).setBits (frontReg 0x110) ps ps 0
        if s.awake ∨ s.cust.pwrExit then { s1 with waking := Tab.set s1.waking ps (.rails, s1.timer) } else s1
      else s)

/-- A waking sector in a phase, `tenths` of a µs after its wake. -/
def State.wakeDue (s : State) (ps tenths : Nat) (p : WakePhase) : Option Nat :=
  match s.waking.find? ps with
  | some (q, t) => if q = p ∧ tenths * timerScale ≤ 10 * (s.timer - t) then some t else none
  | none => none

/-- SECTOR_CLOCK_START (R466): at 3.0 µs. -/
def execSectorClockStart (ps : Nat) (s : State) : Out :=
  ok (match s.wakeDue ps 30 .rails with
      | some t => { s with waking := Tab.set s.waking ps (.clocks, t) }
      | none => s)

/-- SECTOR_STATE_RESET (R466): at 3.5 µs the state is reset as R463; `SEC.MODE`.MAINT = 1. -/
def execSectorStateReset (ps : Nat) (s : State) : Out :=
  ok (match s.wakeDue ps 35 .clocks with
      | some t =>
        let s1 := s.resetSector ps
        { s1 with waking := Tab.set s1.waking ps (.cleared, t) }
      | none => s)

/-- SECTOR_READY (R466): at 4.0 µs the sector is ready, and held tokens enter. -/
def execSectorReady (ps : Nat) (s : State) : Out :=
  ok (match s.wakeDue ps 40 .cleared with
      | some _ => ({ s.setReady ps true with waking := s.waking.erase ps }).exitDone
      | none => s)

end Sys2Proof.Machine
end

