-- ==== Sys2Proof/Machine/Launch.lean ====
section
/-! DEFINITION. LAUNCH (R107, R108, R153, R450) and the end of a context (R452): reading and checking the launch record, the graph
image, the schedule table and the initial tokens; the cold and the warm launch. -/

namespace Sys2Proof.Machine

/-! ## Reading the launch's images -/

/-- Go on with what was read, if it could be read. -/
def andRead {α β : Type} (r : Option α × State) (f : α → State → Option β × State) : Option β × State :=
  match r with
  | (some a, s) => f a s
  | (none, s) => (none, s)

/-- Bytes at a virtual address of an ASID, by way of a die's page engine; none where a page does not translate, or its bytes cannot
be read or are poisoned (log 24). -/
def State.vread : Nat → State → Nat → Nat → Nat → Nat → Option (List Byte) × State
  | 0, s, _, _, _, _ => (none, s)
  | k + 1, s, die, asid, va, n =>
    if n = 0 then (some [], s)
    else if 2 ^ 56 ≤ va then (none, s)
    else
      let m := Nat.min n (65536 - va % 65536)
      match s.walk die 9999 asid none va false with
      | (.error _, s1) => (none, s1)
      | (.ok x, s1) =>
        match s1.target die (x.pa va) with
        | .here p =>
          let (g, s2) := s1.load p m x.view
          if g.code ≠ 0 ∨ g.poison then (none, s2)
          else andRead (State.vread k s2 die asid (va + m) (n - m)) (fun bs t => (some (g.data ++ bs), t))
        | _ => (none, s1)

/-- `n` bytes at a virtual address. -/
def State.readAt (s : State) (die asid va n : Nat) : Option (List Byte) × State := State.vread (n / 65536 + 3) s die asid va n

/-- An 8-byte word of a byte list. -/
def wordOf (bs : List Byte) (i : Nat) : Nat := leNat ((bs.drop (8 * i)).take 8)

/-- A section of a graph image (R153). -/
structure Section where
  ps : Nat
  image : List Byte
  entry : Nat
  pats : List Pattern
  pieces : List (Nat × List Byte)
  routes : List (Nat × List Word)
deriving DecidableEq, Repr

/-- The patterns of a section read in turn, each checked (R142, R144, R153). -/
def State.readPatterns : Nat → State → Nat → Nat → Nat → Nat → Word → Option (List Pattern) × State
  | 0, s, _, _, _, _, _ => (some [], s)
  | n + 1, s, die, asid, va, ps, shape =>
    andRead (s.readAt die asid va 32) (fun h t =>
      let size := patternSize (wordAt h 0)
      andRead (t.readAt die asid va size) (fun bs u =>
        let p := patternOf bs
        if (if 1 ≤ p.nrec then p.cfgpOk ps (some shape) else p.cfgkOk ps) then
          andRead (State.readPatterns n u die asid (va + up32 size) ps shape) (fun l v => (some (p :: l), v))
        else (none, u)))

/-- The local-memory pieces of a section read in turn: each lies within 0x0_0000 to 0x3_EFFF and overlaps none before it (R153). -/
def State.readPieces : State → Nat → Nat → Nat → List (Nat × Nat) → List (Nat × Nat) → Option (List (Nat × List Byte)) × State
  | s, _, _, _, _, [] => (some [], s)
  | s, die, asid, base, spans, (w0, w1) :: rest =>
    let a := bits w0 17 0
    let n := bits w0 49 32
    if a % 4 ≠ 0 ∨ n % 4 ≠ 0 ∨ n < 4 ∨ 0x40000 < n ∨ 0x3F000 < a + n ∨ spans.any (fun e => decide (a < e.1 + e.2 ∧ e.1 < a + n)) then (none, s)
    else
      andRead (s.readAt die asid (base + bits w1 31 0) n) (fun bs t =>
        andRead (State.readPieces t die asid base ((a, n) :: spans) rest) (fun l u => (some ((a, bs) :: l), u)))

/-- The header of a section keeps the limits of R153. -/
def sectionHeadOk (h : List Byte) : Bool :=
  let w (i : Nat) : Nat := wordOf h i
  let klen := bits (w 0) 31 0
  let npat := bits (w 2) 31 0
  let nloc := bits (w 3) 31 0
  let rmask := bits (w 4) 4 0
  decide (w 0 < 2 ^ 32 ∧ klen % 4 = 0 ∧ 64 ≤ klen ∧ klen ≤ 0x20000 ∧ w 1 < 2 ^ 18 ∧ w 1 % 4 = 0 ∧ npat ≤ 65535
      ∧ bits (w 2) 63 32 % 32 = 0 ∧ (npat = 0 → bits (w 2) 63 32 = 0) ∧ nloc ≤ 256 ∧ bits (w 3) 63 32 % 16 = 0
      ∧ (nloc = 0 → bits (w 3) 63 32 = 0) ∧ bits (w 4) 31 5 = 0 ∧ bits (w 4) 63 32 % 8 = 0 ∧ (rmask = 0 → bits (w 4) 63 32 = 0))
    && w 5 == 0 && w 6 == 0 && w 7 == 0

/-- The route block of a section (R153): the lists of the pools in RMASK; the entries of other pools are zero. -/
def State.readRoutes (s : State) (die asid va rmask : Nat) : Option (List (Nat × List Word)) × State :=
  if rmask = 0 then (some [], s)
  else
    andRead (s.readAt die asid va 320) (fun bs t =>
      let list (p : Nat) : List Word := (upTo 8).map (fun i => BitVec.ofNat 64 (wordOf bs (8 * p + i)))
      if (upTo 5).all (fun p => bitOf rmask p || (list p).all (fun x => x == 0)) then
        (some (((upTo 5).filter (fun p => bitOf rmask p)).map (fun p => (p, list p))), t)
      else (none, t))

/-- One section of a graph image read and checked (R153). -/
def State.readSection (s : State) (die asid base ps : Nat) (shape : Word) : Option Section × State :=
  andRead (s.readAt die asid base 64) (fun h t =>
    if !sectionHeadOk h then (none, t)
    else
      let klen := bits (wordOf h 0) 31 0
      let nloc := bits (wordOf h 3) 31 0
      andRead (t.readAt die asid (base + 64) klen) (fun image t1 =>
        andRead (State.readPatterns (bits (wordOf h 2) 31 0) t1 die asid (base + bits (wordOf h 2) 63 32) ps shape) (fun pats t2 =>
          andRead (t2.readRoutes die asid (base + bits (wordOf h 4) 63 32) (bits (wordOf h 4) 4 0)) (fun routes t3 =>
            andRead (t3.readAt die asid (base + bits (wordOf h 3) 63 32) (16 * nloc)) (fun tab t4 =>
              andRead (State.readPieces t4 die asid base [(0, klen)] ((upTo nloc).map (fun i => (wordOf tab (2 * i), wordOf tab (2 * i + 1)))))
                (fun pieces t5 =>
                  (some { ps := ps, image := image, entry := wordOf h 1, pats := pats, pieces := pieces, routes := routes }, t5)))))))

/-- The sections of a graph image, every one of which must keep R153 (R108). -/
def State.readSections (s : State) (die asid graph : Nat) (shape : Word) : Option (List Section) × State :=
  andRead (s.readAt die asid graph 256) (fun top t =>
    (upTo 32).foldl (fun acc ps =>
      andRead acc (fun l u =>
        let off := wordOf top ps
        if off = 0 then (some l, u)
        else andRead (u.readSection die asid (graph + off) ps shape) (fun x v => (some (l ++ [x]), v)))) (some [], t))

/-- The schedule table read, its header checked first (R108, R150). -/
def State.readSchedule (s : State) (die asid va : Nat) : Option (List Byte) × State :=
  if va = 0 then (some [], s)
  else
    andRead (s.readAt die asid va 64) (fun h t =>
      let n := bits (wordOf h 0) 31 0
      let esz := bits (wordOf h 0) 35 32
      if esz < 3 ∨ 8 < esz ∨ 65536 < 64 + n * 2 ^ esz then (none, t) else t.readAt die asid va (64 + n * 2 ^ esz))

/-- The initial token images, each checked as `kp.inject` would check it (R107, R147). -/
def State.readTokens : Nat → State → Nat → Nat → Nat → Option (List Token) × State
  | 0, s, _, _, _ => (some [], s)
  | n + 1, s, die, asid, va =>
    andRead (s.readAt die asid va 16) (fun h t =>
      let size := 16 + 4 * (tokenOf (BitVec.ofNat 128 (leNat h)) []).payload
      andRead (t.readAt die asid va size) (fun bs u =>
        let k := tokenOfImage bs
        if injectOk k then andRead (State.readTokens n u die asid (va + up32 size)) (fun l v => (some (k :: l), v)) else (none, u)))

/-! ## The checks of R108 -/

/-- Launch refusals (R108). -/
def lBADSHAPE : Nat := 0x20
/-- BADPART. -/
def lBADPART : Nat := 0x21
/-- BADSLOT. -/
def lBADSLOT : Nat := 0x22
/-- BADASID. -/
def lBADASID : Nat := 0x23
/-- BADDEST. -/
def lBADDEST : Nat := 0x24
/-- BADALIGN. -/
def lBADALIGN : Nat := 0x25
/-- BADRSV. -/
def lBADRSV : Nat := 0x26
/-- BADTAB. -/
def lBADTAB : Nat := 0x27
/-- BADTOK. -/
def lBADTOK : Nat := 0x28

/-- What a launch has read: the sections, the schedule table and the initial tokens. -/
structure LaunchData where
  sections : List Section
  sched : List Byte
  tokens : List Token
deriving DecidableEq, Repr

/-- Word `i` of a launch record. -/
def recWordOf (body : List Word) (i : Nat) : Nat := (nth 0 body i).toNat

/-- Bytes of the live spill areas of a sector (R450). -/
def State.spillTotal (s : State) (ps : Nat) : Nat :=
  (s.contexts.filter (fun e => e.2.live && (e.2.spill.find? ps).isSome)).foldl (fun n e => n + e.2.areaSize) 0

/-- The check of PART (R108, R449, R450, R492). -/
def State.partBad (s : State) (body : List Word) (part queue : Nat) : Bool :=
  part == 0 || (part &&& (s.partMask queue ^^^ (2 ^ 32 - 1))) != 0 || (sectorsOf part).any (fun ps => s.gated ps)
    || (sectorsOf part).any (fun ps => decide (0x400000 < s.spillTotal ps + bits (recWordOf body 0) 63 56 * 32768))
    || s.regBits (modReg 0) 1 0 != 3

/-- The page engine that a launch's addresses are resolved by: that of the die of PART's lowest sector. -/
def frontDie (part : Nat) : Nat := ((sectorsOf part).headD 0) / 8

/-- The checks of R108 in order, on a record with a PART and a SLOT, against the graph's sections for `sectors`; `fresh` where the
initial tokens are wanted. -/
def State.launchCheck (s : State) (body : List Word) (part slot queue : Nat) (sectors : List Nat) (fresh : Bool) : Except Nat LaunchData × State :=
  let w (i : Nat) : Nat := recWordOf body i
  let asid := bits (w 7) 13 0
  let done : Dest := BitVec.ofNat 21 (bits (w 7) 36 16)
  let ovf := bits (w 5) 63 56
  let die := frontDie part
  let shape : Word := nth 0 body 1
  if bits (w 2) 63 59 ≠ 0 ∨ bits (w 3) 63 56 ≠ 0 ∨ bits (w 7) 15 14 ≠ 0 ∨ bits (w 7) 63 53 ≠ 0 then (.error lBADRSV, s)
  else if w 0 % 64 ≠ 0 ∨ w 2 % 32 ≠ 0 ∨ w 3 % 64 ≠ 0 ∨ w 4 % 64 ≠ 0 then (.error lBADALIGN, s)
  else if !shapeOk shape then (.error lBADSHAPE, s)
  else if s.partBad body part queue then (.error lBADPART, s)
  else if (s.live? (BitVec.ofNat 12 slot)).isSome then (.error lBADSLOT, s)
  else if !bitOf (s.desc die asid 0) 0 then (.error lBADASID, s)
  else if dKind done = 1 ∨ dKind done = 2 ∨ !destForm done then (.error lBADDEST, s)
  else if (1 ≤ ovf ∧ ovf ≤ 11) ∨ 40 < ovf then (.error lBADRSV, s)
  else
    match s.readSchedule die asid (bits (w 4) 55 0) with
    | (none, s1) => (.error lBADTAB, s1)
    | (some sched, s1) =>
      match s1.readSections die asid (bits (w 0) 55 0) shape with
      | (none, s2) => (.error lBADTAB, s2)
      | (some secs, s2) =>
        match State.readTokens (if fresh then bits (w 7) 52 37 else 0) s2 die asid (bits (w 2) 55 0) with
        | (none, s3) => (.error lBADTOK, s3)
        | (some toks, s3) => (.ok { sections := secs.filter (fun x => sectors.contains x.ps), sched := sched, tokens := toks }, s3)

/-! ## Performing a launch (R153, R450) -/

/-- The base of a new spill area of a sector (R450): the highest place that no live area takes, downward from 0x80_0000. -/
def State.spillBase (s : State) (ps size : Nat) : Nat :=
  let areas := (s.contexts.filter (fun e => e.2.live)).filterMap (fun e => (e.2.spill.find? ps).map (fun b => (b, e.2.areaSize)))
  let free (b : Nat) : Bool := areas.all (fun a => decide (b + size ≤ a.1 ∨ a.1 + a.2 ≤ b))
  (((0x800000 - size) :: areas.map (fun a => a.1 - size)).filter free).foldl Nat.max 0

/-- A context slot bound (R450 step 1), with its spill areas (step 2). -/
def State.bindSlot (s : State) (slot : Nat) (c : Cmd) (body : List Word) (part bounds : Nat) (sections : List Nat) : State :=
  let w (i : Nat) : Nat := recWordOf body i
  let size := bits (w 0) 63 56 * 32768
  let x : Context :=
    { queue := c.queue, seq := c.seq, line := c.line, digest := digestOf c.body, record := body, part := part, asid := bits (w 7) 13 0,
      sections := sections, ended := [], bounds := bounds, started := s.clk, mark := s.timer,
      spill := (sectorsOf part).map (fun ps => (ps, s.spillBase ps size)), prio := bits (w 2) 58 56, shape := nth 0 body 1,
      seed := BitVec.ofNat 32 (bits (w 6) 63 32), live := true, overlaid := false, savedByDog := false, closing := false, expired := 0 }
  { s with contexts := Tab.set s.contexts slot x }

/-- A destination rewritten as a context is relocated (R459): one that names a saved sector names its target. -/
def moveDest (pairs : List (Nat × Nat)) (d : Dest) : Dest :=
  match destSector d with
  | none => d
  | some ps =>
    match pairs.find? (fun e => e.1 == ps) with
    | none => d
    | some (_, t) =>
      if dKind d = 1 then
        let ci := dCell d
        cellDest (2048 * (t / 8) + 64 * ((ci % 2048) / 64) + 8 * (t % 8) + ci % 8) (dNode d) (dPort d)
      else if dKind d = 2 then engineDest (t / 8) (t % 8) (dEng d) (dInbox d)
      else keeperDest t

/-- A plane relocated (R459). -/
def movePlane (pairs : List (Nat × Nat)) (p : Plane) : Plane :=
  { p with nodes := p.nodes.map (fun e => (e.1, { e.2 with
      fields := { e.2.fields with dstA := moveDest pairs e.2.fields.dstA, dstB := moveDest pairs e.2.fields.dstB } })) }

/-- A route entry relocated (R459): one of kind 0b01 holds a destination. -/
def moveRoute (pairs : List (Nat × Nat)) (v : Word) : Word :=
  if bits v.toNat 63 62 = 1 then BitVec.ofNat 64 (putBits v.toNat 20 0 (moveDest pairs (v.extractLsb' 0 21)).toNat) else v

/-- The patterns of a section delivered into the active planes of a sector, in list order, until the busy lock refuses one (R53,
R153, R450): the cells written, whether all went well, and the state. -/
def State.deliverAll (s : State) (pats : List Pattern) (ps slot asid : Nat) (pairs : List (Nat × Nat)) : List Nat × Bool × State :=
  pats.foldl (fun acc p =>
    let d0 := p.delivery ps (p.nrec == 0) false true (BitVec.ofNat 12 slot) asid
    let d := { d0 with plane := movePlane pairs d0.plane }
    d.cells.foldl (fun acc2 ci =>
      if acc2.2.1 then
        let (t, refused) := acc2.2.2.deliverCell d ci
        if refused then (acc2.1, false, t) else (insertNat ci acc2.1, true, t)
      else acc2) acc) ([], true, s)

/-- The cells that a section's patterns cover in a sector. -/
def Section.cells (x : Section) (ps : Nat) : List Nat := (x.pats.flatMap (fun p => p.cells ps)).foldl (fun l ci => insertNat ci l) []

/-- Every frame line of a cell zeroed (R450). -/
def State.zeroFrames (s : State) (ci : Nat) : State :=
  let s1 := s.wipe (frameAddr ci 0) (frameAddr ci 256)
  s1.setCell ci { s1.cell ci with present := [], linePoison := [] }

/-- The sectors launched cold (R153): their patterns, route lists, pieces and frame lines. `cold` lists each section with its
sector. -/
def State.deliverCold (s : State) (cold : List (Section × Nat)) (slot asid : Nat) (pairs : List (Nat × Nat)) : Except State State :=
  let (cells, fine, s1) := cold.foldl (fun (acc : List Nat × Bool × State) e =>
    if acc.2.1 then
      let (l, b, t) := acc.2.2.deliverAll e.1.pats e.2 slot asid pairs
      (acc.1 ++ l, b, t)
    else acc) ([], true, s)
  if fine then
    let s2 := cold.foldl (fun t e => e.1.routes.foldl (fun u r =>
      (indexed 0 r.2).foldl (fun v x => v.setReg (poolReg (5 * e.2 + r.1) (8 * x.1)) (moveRoute pairs x.2)) u) t) s1
    .ok (cells.foldl (fun t ci => t.zeroFrames ci) s2)
  else .error (cells.foldl (fun t ci => t.setCell ci { t.cell ci with active := .none }) s1)

/-- The keeper image, the pieces and the launch record of a section in a keeper's local memory (R153). -/
def State.loadKeeper (s : State) (x : Section) (ps : Nat) (body : List Word) : State :=
  let put (t : State) (a : Nat) (bs : List Byte) : State := t.rawStore (kmemAddr ps a) bs false
  put (x.pieces.foldl (fun t e => put t e.1 e.2) (put s 0 x.image)) 0x3F000 (bodyBytes body)

/-- The registers a cold launch gives a keeper (R153); it starts with HALT and INTRAP cleared where `start` is set. -/
def State.startKeeper (s : State) (x : Section) (ps slot asid graph : Nat) (start : Bool) : State :=
  let k := s.keeper ps
  let regs := (Vector.replicate 32 (0 : Word)).set 1 (0x3F000 : Word)
  let s1 := s.setKeeper ps { k with
    k := regs, pc := BitVec.ofNat 64 x.entry, waiting := none, fencing := none, pending := none, reply := none, slot := 1,
    graph := some graph, coldCtx := some slot }
  let s2 := (((s1.setReg (csr ps 9) (BitVec.ofNat 64 slot)).setReg (csr ps 8) (BitVec.ofNat 64 asid)).setReg (csr ps 1)
    (BitVec.ofNat 64 x.entry)).setReg (csr ps 11) 0
  s2.setReg (csr ps 0) (kstatWord 1 (s.regBits (csr ps 0) 1 1) 0 (if start then 0 else 1))

/-- A warm launch on a sector (R153): the record in the next launch slot, and a launch event. -/
def State.warmSector (s : State) (q ps slot : Nat) (body : List Word) : State :=
  let k := s.keeper ps
  let a := 0x3F000 + 64 * k.slot
  let s1 := (s.rawStore (kmemAddr ps a) (bodyBytes body) false).setKeeper ps { k with slot := (k.slot + 1) % 16 }
  s1.send (frontSrc q) (eventToken ps (BitVec.ofNat 12 slot) [0x00010028, BitVec.ofNat 32 a])

/-- The initial LFSR state of a cell (R85). -/
def lfsrSeed (seed : BitVec 32) (ci : Nat) : BitVec 32 :=
  let x := seed ^^^ BitVec.ofNat 32 ci
  if x = 0 then 1 else x

/-- Step 4 of R450 in one sector: the frame-preload image, whose layout the manual does not give (log 25), so that the named lines
of the section's cells hold free values; the schedule table (R150). -/
def State.seedSector (s : State) (x : Section) (ps : Nat) (body : List Word) (sched : List Byte) : State :=
  let cells := x.cells ps
  let s1 :=
    if bits (recWordOf body 3) 55 0 = 0 then s
    else
      cells.foldl (fun t ci =>
        let n := 128 * (t.cell ci).active.named
        { t.putBytes (frameAddr ci 0) ((upTo n).map (fun i => Config.freeByte (t.free + i))) with free := t.free + n }) s
  if sched.isEmpty then s1
  else
    (((s1.rawStore (kmemAddr ps 0x20000) sched false).setReg (csr ps 0x11) (BitVec.ofNat 64 (bits (wordOf sched 0) 31 0))).setReg
      (csr ps 0x13) (BitVec.ofNat 64 (bits (wordOf sched 0) 35 32))).setReg (csr ps 0x12) 0

/-- The LFSRs of every worker cell of a launch's sectors seeded (R85). -/
def State.seedWorkers (s : State) (part : Nat) (body : List Word) : State :=
  ((sectorsOf part).flatMap (fun ps => (cellsOf ps).filter (fun ci => kindOf ci == .worker))).foldl (fun t ci =>
    t.setCell ci { t.cell ci with lfsr := lfsrSeed (BitVec.ofNat 32 (bits (recWordOf body 6) 63 32)) ci }) s

/-- Step 5 of R450: the initial tokens leave through a keeper's injection port, after what stands in it (R148). -/
def State.injectTokens (s : State) (ps : Nat) (toks : List Token) : State :=
  let s1 := match (s.keeper ps).port with
    | some t => (s.setKeeper ps { s.keeper ps with port := none }).send (keeperDest ps) t
    | none => s
  toks.foldl (fun t k => t.send (keeperDest ps) k) s1

/-- `DIE.CTXFLAGS`[4:0] of a slot cleared (R91, R450). -/
def State.clearFlags (s : State) (slot : Nat) : State := s.setBits (ctxFlags slot) 4 0 0

/-- The launch of R450, after its checks: cold where the sector's last cold load was of another graph, else warm. A busy-lock refusal
undoes it and fails it with BADPART. -/
def State.performLaunch (s : State) (c : Cmd) (d : LaunchData) : State :=
  let w (i : Nat) : Nat := Cmd.w c i
  let slot := bits (w 5) 11 0
  let part := bits (w 6) 31 0
  let asid := bits (w 7) 13 0
  let graph := bits (w 0) 55 0
  let s1 := s.bindSlot slot c c.body part 0 (d.sections.map (fun x => x.ps))
  let cold := d.sections.filter (fun x => (s.keeper x.ps).graph != some graph)
  let warm := d.sections.filter (fun x => (s.keeper x.ps).graph == some graph)
  match s1.deliverCold (cold.map (fun x => (x, x.ps))) slot asid [] with
  | .error t => (({ t with contexts := t.contexts.erase slot }).finishCmd c jFAILED lBADPART).launchAnswer c lBADPART
  | .ok t =>
    let t1 := cold.foldl (fun u x => u.setBits (secReg x.ps 0 0) 0 0 0) t
    let t2 := cold.foldl (fun u x => (u.loadKeeper x x.ps c.body).startKeeper x x.ps slot asid graph true) t1
    let t3 := warm.foldl (fun u x => u.warmSector c.queue x.ps slot c.body) t2
    let t4 := (d.sections.foldl (fun u x => u.seedSector x x.ps c.body d.sched) (t3.clearFlags slot)).seedWorkers part c.body
    let t5 := (t4.injectTokens ((sectorsOf part).headD 0) d.tokens).journal c jLAUNCHED sOK
    let t6 := t5.launchAnswer c sOK
    if d.sections.isEmpty then { t6 with inputs := .event (.contextEnd slot) :: t6.inputs } else t6

/-- LAUNCH (R108, R450). A refusal completes it FAILED with the status of R108. -/
def execLaunch (c : Cmd) (s : State) : Out :=
  ok (s.dispatch c 0 (fun t =>
    let part := bits (Cmd.w c 6) 31 0
    match t.launchCheck c.body part (bits (Cmd.w c 5) 11 0) c.queue (sectorsOf part) true with
    | (.error st, u) => (u.finishCmd c jFAILED st).launchAnswer c st
    | (.ok d, u) => u.performLaunch c d))

/-! ## The end of a context (R452, R462) -/

/-- A context ends with a status (R452): what it holds is freed, its end token goes to DONE, and its LAUNCH or RESUME completes. -/
def State.endContext (s : State) (slot status : Nat) (x : Context) : State :=
  (((s.freeContext slot x).send (frontSrc x.queue) (endToken slot status x)).journalCtx slot x jCOMPLETED status).completeSeq x.queue x.seq

/-- Everything that the cells, the spill units, the inboxes and the pairing stores hold of a context is freed (R462 step 4). -/
def State.freeEntries (s : State) (ctx : BitVec 12) : State :=
  let s1 := s.cells.foldl (fun t e =>
    let es := e.2.entries.filter (fun x => x.tok.ctx == ctx)
    let cs := e.2.ctrl.filter (fun x => x.ctx == ctx)
    cs.foldl (fun u x => u.dropCtrl e.1 x) (es.foldl (fun u x => u.dropEntry e.1 x) t)) s
  { s1 with
    spills := s1.spills.map (fun e => (e.1, { e.2 with
      records := e.2.records.filter (fun r => r.tok.ctx != ctx), arriving := e.2.arriving.filter (fun r => r.tok.ctx != ctx) })),
    inboxes := s1.inboxes.map (fun e => (e.1, e.2.filter (fun m => !ofCtx ctx m.2))),
    pools := s1.pools.map (fun e => (e.1, { e.2 with
      annA := e.2.annA.filter (fun a => !ofCtx ctx a.msg), annB := e.2.annB.filter (fun a => !ofCtx ctx a.msg),
      steers := e.2.steers.filter (fun t => !ofCtx ctx t) })) }

/-- The save of a context whose watchdog has expired goes to this place with this capacity (R462); none where BASE is zero. -/
def State.dogSave (s : State) (x : Context) : Option (Nat × Nat) :=
  let base := s.regBits (queueReg x.queue 0x28) 56 16
  if base = 0 then none else some (base * 65536, s.regBits (queueReg x.queue 0x28) 11 0)

/-- CONTEXT_END (R452): a context that has just met a boundary, or that has no section, ends where it holds no entry, record or
chunk and no command, once its writes have been performed (R453). A context whose watchdog has drained it and that is not to be saved is freed and ends with the watchdog's
status (R462 step 4). -/
def execContextEnd (slot : Nat) (s : State) : Out :=
  let ctx : BitVec 12 := BitVec.ofNat 12 slot
  ok (match s.contexts.find? slot with
      | none => s
      | some x =>
        if !x.live then s
        else
          match s.fdrains.find? (fun f => f.slot == slot) with
          | some f =>
            if f.cmd.isNone ∧ s.quiet f ∧ (s.dogSave x).isNone then (s.freeEntries ctx).endContext slot f.status x else s
          | none =>
            if s.restores.any (fun r => r.slot == slot) then s
            else if x.closing ∨ x.sections.isEmpty then
              (if s.noEntries ctx ∧ !s.cmdsRun ctx ∧ !s.cmdsWait ctx then
                 (if s.accesses.any (fun a => a.fir.ctx == ctx) then s else s.endContext slot sOK x)
               else { s with contexts := Tab.set s.contexts slot { x with closing := false } })
            else s)

end Sys2Proof.Machine
end

