-- ==== Sys2Proof/Machine/Save.lean ====
section
/-! DEFINITION. Pre-emption, saving, restoring and watchdogs (R72, R454 to R462, R469). -/

namespace Sys2Proof.Machine

/-! ## Draining a context (R454, R462) -/

/-- The overlay loaded into the staged planes of a context's partition (R72, R454): the plane that is active, which the image names,
marked as the overlay. Of a cell that is not configured nothing is marked; `State.overlaid` says when the overlay is active there. -/
def State.loadOverlay (s : State) (x : Context) : State :=
  { s with cells := s.cells.map (fun e =>
      if bitOf x.part (sectorOf e.1) && !e.2.active.nodes.isEmpty then
        (e.1, { e.2 with staged := { e.2.active with overlay := true }, stagedValid := true })
      else e) }

/-- The front begins to drain a context (R454 steps 1 and 2): a drain in each sector that holds a section, where none is
outstanding. -/
def State.frontDrain (s : State) (slot : Nat) (x : Context) (cmd : Option Cmd) (status : Nat) : State :=
  let f : FrontDrain := { slot := slot, cmd := cmd, since := s.timer, sectors := x.sections, status := status }
  let s1 := { s.loadOverlay x with
    contexts := Tab.set s.contexts slot { x with overlaid := true, closing := false }, fdrains := s.fdrains ++ [f] }
  (x.sections.foldl (fun t ps => if (t.keeper ps).draining then t else t.startDrain ps (BitVec.ofNat 12 slot)) s1).overlaysRest

/-- PREEMPT (R454): the drain of a live context of the queue's own partition begins. -/
def execPreempt (c : Cmd) (s : State) : Out :=
  ok (s.dispatch c 3 (fun t =>
    let slot := bits (Cmd.w c 0) 11 0
    if !bodyOk c [maskBits 11 0, maskBits 56 16, maskBits 31 0] then t.finishCmd c jFAILED sBADARG
    else
      match t.contexts.find? slot with
      | some x =>
        if !x.live ∨ t.regBits (queueReg x.queue 0) 5 1 ≠ t.regBits (queueReg c.queue 0) 5 1
            ∨ t.restores.any (fun r => r.slot == slot) then t.finishCmd c jFAILED sBADARG
        else t.frontDrain slot x (some c) 0
      | none => t.finishCmd c jFAILED sBADARG))

/-- The watchdog limit of a context in ms (R462). -/
def State.dogLimit (s : State) (x : Context) : Nat :=
  let w := bits (x.recWord 4) 63 56
  if w = 0 then s.regBits (queueReg x.queue 0) 47 32 else w

/-- Why a context's watchdog expires now, if it does (R44, R462): a trap with OVERFLOW, or its limit has passed. -/
def State.dogStatus (s : State) (slot : Nat) (x : Context) : Option Nat :=
  if s.spills.any (fun e => e.2.trapped.contains slot) then some sOVERFLOW
  else if s.dogLimit x ≠ 0 ∧ 1000 * s.dogLimit x ≤ s.usSince x.mark then some sTIMEOUT
  else none

/-- WATCHDOG_EXPIRE (R44, R462, R469): EXPIRED is journaled, and the context is drained, unless a PREEMPT drains it already. -/
def execWatchdogExpire (slot : Nat) (s : State) : Out :=
  ok (match s.contexts.find? slot with
      | some x =>
        if !x.live ∨ x.expired ≠ 0 ∨ s.restores.any (fun r => r.slot == slot) then s
        else
          (match s.dogStatus slot x with
           | some st =>
             let x1 := { x with expired := st }
             let s1 := { s with contexts := Tab.set s.contexts slot x1 }.journalCtx slot x jEXPIRED st
             if s.fdrains.any (fun f => f.slot == slot) then s1 else s1.frontDrain slot x1 none st
           | none => s)
      | none => s)

/-- DRAIN_DEADLINE_EXPIRE (R454, R462): the drain is not over within DDL µs, so the partition is reset. The deadline is that of the
PREEMPT's queue, or of the context's queue for its watchdog. -/
def execDrainDeadlineExpire (slot : Nat) (s : State) : Out :=
  ok (match s.fdrains.find? (fun f => f.slot == slot), s.contexts.find? slot with
      | some f, some x =>
        let q := match f.cmd with | some c => c.queue | none => x.queue
        let ddl := Nat.max 1 (s.regBits (queueReg q 0) 63 48)
        if s.quiet f ∨ s.usSince f.since < ddl then s
        else s.resetPartition (s.partMask x.queue) (if f.cmd.isNone then f.status else sABORTED) none (some slot)
      | _, _ => s)

/-! ## Saving (R456, R457) -/

/-- The bytes of a cell's frame that are not zero, by offset. -/
def State.frameCells (s : State) (ci : Nat) : List (Nat × Byte) :=
  (s.mem.filter (fun e => decide (frameAddr ci 0 ≤ e.1 ∧ e.1 < frameAddr ci 256))).map (fun e => (e.1 - frameAddr ci 0, e.2))

/-- What a cell record names of a context's state in a cell (R72, R457). -/
def State.saveCell (s : State) (ci : Nat) (ctx : BitVec 12) : SavedCell :=
  let c := s.cell ci
  { active := { c.active with overlay := false },
    entries := (c.entries.filter (fun e => e.tok.ctx == ctx)).map (fun e => { e with tok := s.entryToken ci e }),
    ctrl := (c.ctrl.filter (fun e => e.ctx == ctx)).map (fun e =>
      if e.line < 256 then { e with held := [s.ctrlToken ci e] } else e),
    parkedActs := c.parkedActs.filter (fun p => p.ctx == ctx),
    lfsr := c.lfsr,
    frame := s.frameCells ci, poison := c.linePoison,
    rot := Tab.get 0 c.consts 96 }

/-- The withdrawn messages of one inbox, in order: announcements and steering tokens of the pairing store, then what waits in the
inbox (R454). -/
def State.withdrawn (s : State) (ctx : BitVec 12) (key : Nat) : List Token :=
  let early : List Token :=
    match engineOf (BitVec.ofNat 21 key) with
    | some (.pool pl) =>
      let p := s.pool pl
      let anns := sortBy (fun a b : Ann => decide (a.arr < b.arr)) (p.annA ++ p.annB)
      (anns.map (fun a => a.msg)).filter (fun m => ofCtx ctx m && inboxKey m.dest == key)
        ++ p.steers.filter (fun t => ofCtx ctx t && inboxKey t.dest == key)
    | _ => []
  early ++ ((s.inbox key).map (fun e => e.2)).filter (fun m => ofCtx ctx m)

/-- The inboxes whose messages stand in the section of a sector: its own engines', and with the image's first sector the die and
link engines' (log 26). -/
def State.inboxesOf (s : State) (ps : Nat) (first : Bool) : List Nat :=
  ((upTo 7).flatMap (fun e => (upTo 8).map (fun i => (engineDest (ps / 8) (ps % 8) e i).toNat))).filter (fun k =>
      !(s.inbox k).isEmpty || (match engineOf (BitVec.ofNat 21 k) with | some (.pool _) => true | _ => false))
    ++ (if first then (s.inboxes.map (fun e => e.1)).filter (fun k => dEng (BitVec.ofNat 21 k : Dest) == 7) else [])

/-- The keeper block of a section (R457): k1 to k31, the pc, CSRs 0x000 to 0x013; zeros where the keeper is not saved. -/
def State.keeperBlock (s : State) (ps : Nat) : List Byte :=
  let k := s.keeper ps
  let ws := (k.k.toList.drop 1) ++ [k.pc] ++ (upTo 0x14).map (fun n => s.reg (csr ps n))
  padTo 0 1024 (bodyBytes ws)

/-- The records at the end of a section (R457): the counts, the spill records, the withdrawn messages. -/
def State.tailBytes (s : State) (ps : Nat) (ctx : BitVec 12) (first : Bool) : List Byte :=
  let recs := sortBy (fun a b : Spilled => decide (a.order < b.order)) (s.recordsOf ps ctx)
  let msgs := (s.inboxesOf ps first).flatMap (fun k => (s.withdrawn ctx k).map (fun t => (k, t)))
  leBytes 4 recs.length ++ leBytes 4 msgs.length ++ recs.flatMap (fun r => r.tok.image)
    ++ (indexed 0 msgs).flatMap (fun e => leBytes 8 (e.2.1 + e.1 * 2 ^ 32) ++ e.2.2.image)

/-- The sections of an image: each sector with its offset and its tail, one after another at multiples of 64 bytes (log 26), and the
bytes the image takes. -/
def State.imagePlan (s : State) (ctx : BitVec 12) : Bool → Nat → List Nat → List (Nat × Nat × List Byte) × Nat
  | _, pos, [] => ([], pos)
  | first, pos, ps :: rest =>
    let tail := s.tailBytes ps ctx first
    let used := pos + 0x8C0400 + tail.length
    match rest with
    | [] => ([(ps, pos, tail)], used)
    | _ =>
      let (l, n) := State.imagePlan s ctx false ((used + 63) / 64 * 64) rest
      ((ps, pos, tail) :: l, n)

/-- The address of cell record `i` of a section (R457). -/
def recordAddr (base i : Nat) : Nat := base + 0x40400 + 34816 * i

/-- One section of an image written (R457). A cell record holds the number under which the device keeps what it saves; its layout is
the device's own (log 26). -/
def State.writeSection (s : State) (a slot ps : Nat) (tail : List Byte) : State :=
  let put (t : State) (p : Nat) (bs : List Byte) : State := (t.store p bs false false true).2
  let saved : Bool := (s.keeper ps).coldCtx == some slot
  let s1 := if saved then put (put s a (s.keeperBlock ps)) (a + 0x400) (s.bytes (kmemAddr ps 0) 0x40000)
    else put s a (List.replicate 1024 0)
  let s2 := (indexed 0 (cellsOf ps)).foldl (fun t e =>
    let u := put t (recordAddr a e.1) (leBytes 8 (t.nextId + 1))
    { u with images := Tab.set u.images (t.nextId + 1) (t.saveCell e.2 (BitVec.ofNat 12 slot)), nextId := u.nextId + 1 }) s1
  put s2 (a + 0x8C0400) tail

/-- A context's image written, SIZE last (R457). -/
def State.writeImage (s : State) (a slot : Nat) (x : Context) (plan : List (Nat × Nat × List Byte)) (size : Nat) : State :=
  let put (t : State) (p : Nat) (bs : List Byte) : State := (t.store p bs false false true).2
  let offs := (upTo 32).flatMap (fun ps => leBytes 8 (match plan.find? (fun e => e.1 == ps) with | some e => e.2.1 | none => 0))
  let head := leBytes 8 0 ++ leBytes 8 (x.part + slot * 2 ^ 32) ++ leBytes 8 x.bounds ++ List.replicate 40 0 ++ bodyBytes x.record ++ offs
  put (plan.foldl (fun t e => t.writeSection (a + e.2.1) slot e.1 e.2.2) (put s a head)) a (leBytes 8 size)

/-- The offset of the first section of an image. -/
def imageHead : Nat := 0x180

/-- What stood in the matching stores of a context is presented again, oldest tag first (R454, R458, R460): what was held back
fires, the rest waits. -/
def State.presentAll (s : State) (ci : Nat) (toks : List Token) : State :=
  toks.foldl (fun t k => t.present ci { k with cls := if k.cls = 3 then 0 else k.cls } true) s

/-- A context goes on after a drain that saved nothing (R457): the overlay is lifted, and the tokens it held back are presented. -/
def State.goOn (s : State) (slot : Nat) (x : Context) : State :=
  let ctx : BitVec 12 := BitVec.ofNat 12 slot
  let s1 := s.liftOverlay slot x
  let s2 := { s1 with
    contexts := Tab.set s1.contexts slot { x with overlaid := false, expired := 0 },
    fdrains := s1.fdrains.filter (fun f => f.slot != slot) }
  s2.cells.foldl (fun t e =>
    if !bitOf x.part (sectorOf e.1) then t
    else
      let es := sortBy (fun a b : Entry => t.entryYounger b a) (e.2.entries.filter (fun y => y.tok.ctx == ctx && !y.parked))
      let toks := es.map (fun y => t.entryToken e.1 y)
      (es.foldl (fun u y => u.dropEntry e.1 y) t).presentAll e.1 toks) s2

/-- Where an image goes and its capacity: PREEMPT's own, or the queue's for a watchdog (R454, R462). -/
def State.savePlace (s : State) (f : FrontDrain) (x : Context) : Option (Nat × Nat) :=
  match f.cmd with
  | some c => some (bits (Cmd.w c 1) 56 16 * 65536, bits (Cmd.w c 2) 31 0)
  | none => s.dogSave x

/-- The link groups and the view stamp of a context as it is saved out into an image: they stay bound to it, not to its slot (R456). -/
def State.saveBound (s : State) (ctx : BitVec 12) (image : Nat) : State :=
  { s with
    groups := s.groups.map (fun e => (e.1, if e.2.ctx = ctx ∧ e.2.saved.isNone then { e.2 with saved := some image } else e.2)),
    viewStamps := match s.viewStamps.find? ctx.toNat with
      | some x => Tab.set (s.viewStamps.erase ctx.toNat) (4096 + image) x
      | none => s.viewStamps }

/-- A context saved (R454, R462): its LAUNCH or RESUME completes PREEMPTED, its slot is freed, and the PREEMPT completes. Ladder
sets, views and groups stay bound (R304, R456). -/
def State.saved (s : State) (f : FrontDrain) (x : Context) : State :=
  let ctx : BitVec 12 := BitVec.ofNat 12 f.slot
  let image := match s.savePlace f x with | some (a, _) => a | none => 0
  let s0 := (s.saveLadder ctx image x.part).saveBound ctx image
  let s1 := ((s0.freeEntries ctx).unbind f.slot x).journalCtx f.slot x jPREEMPTED f.status
  let s2 := s1.completeSeq x.queue x.seq
  match f.cmd with
  | some c => s2.finishCmd c jCOMPLETED sOK
  | none => { s2 with contexts := Tab.set s2.contexts f.slot { x with live := false, savedByDog := true, overlaid := false } }

/-- SAVE_COMPLETE (R454, R457, R462): a drained, quiet context is saved. Where the image needs more than its capacity, or has no
storage, the PREEMPT fails before anything is written and the context goes on; a watchdog's context ends instead (log 27). -/
def execSaveComplete (slot : Nat) (s : State) : Out :=
  ok (match s.fdrains.find? (fun f => f.slot == slot), s.contexts.find? slot with
      | some f, some x =>
        (match s.savePlace f x with
         | some (a, cap) =>
           if !s.quiet f then s
           else
             let ctx : BitVec 12 := BitVec.ofNat 12 slot
             let (plan, size) := s.imagePlan ctx true imageHead (sectorsOf x.part)
             let fits : Bool := decide (size ≤ cap * 65536)
             if fits && isGlobal a && s.physOk a size false then (s.writeImage a slot x plan size).saved f x
             else
               (match f.cmd with
                | some c => (s.goOn slot x).finishCmd c jFAILED (if fits then sADDR else sOVERFLOW)
                | none => (s.freeEntries ctx).endContext slot f.status x)
         | none => s)
      | _, _ => s)

/-! ## Restoring (R458 to R461) -/

/-- Bytes of an image, as its home holds them. -/
def State.imageBytes (s : State) (a n : Nat) : List Byte := (State.loadParts (n / 256 + 2) s a n false).1.data

/-- A little-endian number of an image. -/
def State.imageNum (s : State) (a n : Nat) : Nat := leNat (s.imageBytes a n)

/-- How many sectors a mask names. -/
def popPart (mask : Nat) : Nat := (sectorsOf mask).length

/-- The saved cell that record `i` of a section names. -/
def State.savedCell (s : State) (base i : Nat) : Option SavedCell := s.images.find? (s.imageNum (recordAddr base i) 8)

/-- A restore finds a cell whose usable lines are too few (R460). -/
def State.tooFewLines (s : State) (a : Nat) (pairs : List (Nat × Nat)) : Bool :=
  pairs.any (fun p =>
    let off := s.imageNum (a + 0x80 + 8 * p.1) 8
    off != 0 && (indexed 0 (cellsOf p.2)).any (fun e =>
      match s.savedCell (a + off) e.1 with
      | some c => !c.active.nodes.isEmpty && decide (256 - (s.cell e.2).retired.length ≤ c.active.named + c.active.rotating)
      | none => false))

/-- The sector that a saved sector is restored into (R458). -/
def targetOf (pairs : List (Nat × Nat)) (ps : Nat) : Nat :=
  match pairs.find? (fun e => e.1 == ps) with
  | some e => e.2
  | none => ps

/-- RESUME (R458, R459, R460): the checks, then the cold launch of the saved graph image without initial tokens; no keeper starts.
An image with no storage completes it with ADDR; a saved record that R108 refuses, or a busy-locked cell, with BADARG: the statuses of
R108 are a launch's alone (R109, log 28). -/
def execResume (c : Cmd) (s : State) : Out :=
  ok (s.dispatch c 4 (fun t =>
    let slot := bits (Cmd.w c 0) 11 0
    let a := bits (Cmd.w c 1) 56 16 * 65536
    let want := bits (Cmd.w c 2) 31 0
    if !bodyOk c [maskBits 11 0, maskBits 56 16, maskBits 31 0] then t.finishCmd c jFAILED sBADARG
    else if !isGlobal a ∨ !t.physOk a imageHead false then t.finishCmd c jFAILED sADDR
    else
      let old := t.imageNum (a + 8) 4
      let part := if want = 0 then old else want
      let pairs := (sectorsOf old).zip (sectorsOf part)
      if t.imageNum a 8 = 0 ∨ (t.live? (BitVec.ofNat 12 slot)).isSome ∨ popPart part ≠ popPart old
          ∨ (part &&& (t.partMask c.queue ^^^ (2 ^ 32 - 1))) ≠ 0 ∨ t.tooFewLines a pairs then t.finishCmd c jFAILED sBADARG
      else
        let r0 := (chunks 8 8 (t.imageBytes (a + 0x40) 64)).map (fun b => (BitVec.ofNat 64 (leNat b) : Word))
        let w7 := (nth 0 r0 7).toNat
        let rec_ := setNth (BitVec.ofNat 64 (putBits w7 36 16 (moveDest pairs (BitVec.ofNat 21 (bits w7 36 16))).toNat)) r0 7
        match t.launchCheck r0 part slot c.queue (sectorsOf old) false with
        | (.error _, u) => u.finishCmd c jFAILED sBADARG
        | (.ok d, u) =>
          let cold := d.sections.map (fun x => (x, targetOf pairs x.ps))
          let asid := bits w7 13 0
          let graph := bits (recWordOf r0 0) 55 0
          match (u.bindSlot slot c rec_ part (t.imageNum (a + 0x10) 8) (cold.map (fun e => e.2))).deliverCold cold slot asid pairs with
          | .error v => ({ v with contexts := v.contexts.erase slot }).finishCmd c jFAILED sBADARG
          | .ok v =>
            let v1 := cold.foldl (fun y e => (((y.setBits (secReg e.2 0 0) 0 0 0).loadKeeper e.1 e.2 rec_).startKeeper e.1 e.2 slot asid
              graph false).seedSector e.1 e.2 rec_ d.sched) (v.clearFlags slot) |>.seedWorkers part rec_
            { v1 with restores := v1.restores ++ [{ slot := slot, image := a, cmd := c, pairs := pairs }] }))

/-- A saved token in its new place (R459): its context, its destination, and the destinations that a message carries. -/
def moveToken (pairs : List (Nat × Nat)) (slot : Nat) (t : Token) : Token :=
  let moved (l : Lane) : Lane := BitVec.ofNat 32 (putBits l.toNat 20 0 (moveDest pairs (l.extractLsb' 0 21)).toNat)
  let lanes :=
    if t.cls = 5 then setNth (moved (replyLane t)) t.lanes (t.runLen - 1)
    else if t.cls = 2 then setNth (moved (nth 0 t.lanes 1)) t.lanes 1 else t.lanes
  { t with ctx := BitVec.ofNat 12 slot, dest := moveDest pairs t.dest, lanes := lanes }

/-- A saved control entry takes its place again (R202, R207): with a line where it held one. -/
def State.restoreCtrl (s : State) (ci : Nat) (e : Ctrl) : State :=
  let (n, s1) := s.nextOrder ci
  let line := if e.line < 256 then ((s1.cell ci).freeLine).getD 256 else 256
  let e1 := { e with order := n, line := line,
                     held := if line < 256 then e.held.map (fun t => { t with lanes := [] }) else e.held }
  let s2 := if line < 256 then s1.takeLine ci line (e.held.headD Token.zero) else s1
  s2.setCell ci { s2.cell ci with ctrl := (s2.cell ci).ctrl ++ [e1] }

/-- The frame lines of a saved cell written back, as many as are usable and hold no other context's entry, with their poison bits (R460,
R461). -/
def State.restoreLines (s : State) (ci : Nat) (v : SavedCell) : State :=
  let c := s.cell ci
  let now := s.frameCells ci
  let touched (l : Nat) : Bool :=
    v.frame.any (fun e => e.1 / 128 == l) || now.any (fun e => e.1 / 128 == l) || v.poison.contains l || c.linePoison.contains l
  ((upTo (256 - c.retired.length)).filter (fun l => c.lineFree l && touched l)).foldl (fun t l =>
    (t.putBytes (frameAddr ci l) ((upTo 128).map (fun i => Tab.get 0 v.frame (128 * l + i)))).setLinePoison ci l (v.poison.contains l)) s

/-- A saved cell shifted back in (R458, R460, R461): plane, LFSR, rotating base, lines with their poison, parked activations, control
entries and parked entries first, then the waiting entries, oldest tag first. -/
def State.restoreCell (s : State) (ci slot : Nat) (pairs : List (Nat × Nat)) (v : SavedCell) : State :=
  let c := s.cell ci
  let ctx : BitVec 12 := BitVec.ofNat 12 slot
  let s1 := s.setCell ci { c with
    active := if v.active.nodes.isEmpty then c.active else { movePlane pairs v.active with ctx := some slot },
    lfsr := v.lfsr, consts := Tab.set c.consts 96 v.rot,
    parkedActs := c.parkedActs ++ v.parkedActs.map (fun p => { p with ctx := ctx }) }
  let s2 := s1.restoreLines ci v
  let s3 := v.ctrl.foldl (fun t e =>
    t.restoreCtrl ci { e with ctx := ctx, held := e.held.map (fun k => moveToken pairs slot k) }) s2
  let parked := sortBy (fun a b : Entry => decide (a.order < b.order)) (v.entries.filter (fun e => e.parked))
  let s4 := parked.foldl (fun t e => t.parkToken ci (moveToken pairs slot e.tok) e.node e.port) s3
  let waiting := sortBy (fun a b : Entry => s.entryYounger b a) ((v.entries.filter (fun e => !e.parked)).map (fun e =>
    { e with tok := moveToken pairs slot e.tok }))
  s4.presentAll ci (waiting.map (fun e => e.tok))

/-- `n` spill-record images in turn from an image's bytes. -/
def imagesFrom : Nat → List Byte → List Token × List Byte
  | 0, bs => ([], bs)
  | n + 1, bs =>
    let t := tokenOfImage bs
    let (l, rest) := imagesFrom n (bs.drop t.imageSize)
    (t :: l, rest)

/-- `n` withdrawn messages in turn, each with its inbox. -/
def messagesFrom : Nat → List Byte → List (Nat × Token)
  | 0, _ => []
  | n + 1, bs =>
    let k := leNat (bs.take 8) % 2 ^ 21
    let t := tokenOfImage (bs.drop 8)
    (k, t) :: messagesFrom n (bs.drop (8 + t.imageSize))

/-- The tail of a section that begins at `a`, large enough for its records and messages. -/
def State.sectionTail (s : State) (a : Nat) : List Token × List (Nat × Token) :=
  let n := s.imageNum (a + 0x8C0400) 4
  let m := s.imageNum (a + 0x8C0404) 4
  let (recs, rest) := imagesFrom n (s.imageBytes (a + 0x8C0408) (160 * n + 168 * m))
  (recs, messagesFrom m rest)

/-- A spill record rewritten into the spill area (R458, R460); where the storage cannot hold it the context traps with OVERFLOW and
the token waits at the cell (R44). -/
def State.restoreRecord (s : State) (ps : Nat) (t : Token) : State :=
  let ci := dCell t.dest
  match s.spillPlace ps t.ctx t.imageSize with
  | some (chunk, addr) =>
    let u := s.spill ps
    let how : HeldAs :=
      if t.cls = 3 then (if s.isParked ci t.ctx t.tag then .parked else .spilled)
      else if s.unroutable t.dest then .unroutable else .stream
    let r : Spilled := { tok := t, ci := if t.cls = 3 then ci else 0, how := how, order := u.counter, chunk := chunk, addr := addr }
    ((s.setSpill ps { u with records := u.records ++ [r], counter := u.counter + 1 }).writeRecord ps r).noteHigh ps
  | none =>
    let s1 := s.overflowTrap ci t (dNode t.dest) (dPort t.dest)
    s1.waitAtInput ci [{ t with cls := 0 }]

/-- A saved keeper's registers, pc, CSRs and local memory (R458): it starts at its saved pc, in its saved mode. -/
def State.restoreKeeper (s : State) (a ps : Nat) : State :=
  let w (i : Nat) : Word := BitVec.ofNat 64 (s.imageNum (a + 8 * i) 8)
  let k := s.keeper ps
  let s1 := s.setKeeper ps { k with
    k := (upTo 31).foldl (fun (v : Vector Word 32) i => if h : i + 1 < 32 then v.set (i + 1) (w i) h else v) k.k, pc := w 31 }
  let s2 := (upTo 0x14).foldl (fun t n => t.setReg (csr ps n) (w (32 + n))) s1
  (s2.rawStore (kmemAddr ps 0) (s.imageBytes (a + 0x400) 0x40000) false).setBits (csr ps 0) 3 3 0

/-- One sector restored (R458): its cells, its spill records, its withdrawn messages. -/
def State.restoreSector (s : State) (a slot ps : Nat) (pairs : List (Nat × Nat)) : State :=
  let s1 := (indexed 0 (cellsOf ps)).foldl (fun t e =>
    match s.savedCell a e.1 with | some v => t.restoreCell e.2 slot pairs v | none => t) s
  let (recs, msgs) := s.sectionTail a
  let s2 := recs.foldl (fun t k => t.restoreRecord ps (moveToken pairs slot k)) s1
  msgs.foldl (fun t e => t.pushInbox (moveDest pairs (BitVec.ofNat 21 e.1)).toNat (moveToken pairs slot e.2)) s2

/-- What stayed bound to a saved context's slot passes to the slot it is restored into (R304, R456). -/
def State.rebind (s : State) (image old slot : Nat) (die asid : Nat) : State :=
  let b : BitVec 12 := BitVec.ofNat 12 slot
  let s0 := s.restoreLadder image b
  let s1 : State :=
    { s0 with
      groups := s0.groups.map (fun e => (e.1, if e.2.saved = some image then { e.2 with ctx := b, saved := none } else e.2)),
      viewStamps := match s0.viewStamps.find? (4096 + image) with
        | some x => Tab.set (s0.viewStamps.erase (4096 + image)) slot x
        | none => s0.viewStamps }
  if old = slot then s1
  else
    match s.viewOf die asid (BitVec.ofNat 12 old) with
    | some v => s1.setDesc die asid 0x38 (12 * v + 11) (12 * v) slot
    | none => s1

/-- RESTORE_COMPLETE (R458): every sector is shifted in, then the keepers start, RESUMED is journaled and the watchdog starts. -/
def execRestoreComplete (slot : Nat) (s : State) : Out :=
  ok (match s.restores.find? (fun r => r.slot == slot), s.contexts.find? slot with
      | some r, some x =>
        let placed := r.pairs.map (fun p => (p.2, r.image + s.imageNum (r.image + 0x80 + 8 * p.1) 8))
        let here := placed.filter (fun p => p.2 != r.image)
        let s1 := here.foldl (fun t p => t.restoreSector p.2 slot p.1 r.pairs) s
        let isSaved (p : Nat × Nat) : Bool := (s.imageBytes p.2 1024).any (fun b => b != 0)
        let s2 := (here.filter isSaved).foldl (fun t p => t.restoreKeeper p.2 p.1) s1
        let fresh := x.sections.filter (fun ps => !here.any (fun p => p.1 == ps && isSaved p))
        let s3 := fresh.foldl (fun t ps => t.setBits (csr ps 0) 3 3 0) s2
        let s4 := (s3.rebind r.image (bits (s.imageNum (r.image + 8) 8) 43 32) slot (frontDie x.part) x.asid).journal r.cmd jRESUMED sOK
        let s5 : State :=
          { s4 with
            contexts := Tab.set s4.contexts slot { x with started := s4.clk, mark := s4.timer },
            restores := s4.restores.filter (fun q => q.slot != slot) }
        if x.sections.isEmpty then { s5 with inputs := .event (.contextEnd slot) :: s5.inputs } else s5
      | _, _ => s)

end Sys2Proof.Machine
end

