-- ==== Sys2Proof/Machine/Errors.lean ====
section
/-! DEFINITION. Errors, self-tests and repair (R484 to R487). -/

namespace Sys2Proof.Machine

/-! ## Detection (R484) -/

/-- What the unit that sees an error does (R238, R362, R364, R186): an uncorrectable line reads as poison from then on; a stack counts
its lines; a lookup of a remap table uses the mirror, or fences its pseudo-channel where both copies fail. None where no unit sees
such an error: keeper halts, refused host accesses and links that go down have their own steps, and only a remap table's error and
these are fatal (R484). -/
def State.seen (s : State) (e : ErrInfo) : Option State :=
  let ue : Bool := e.severity == 1
  if 2 ≤ e.severity ∧ e.source ≠ 11 then none
  else
    match e.source, placeOf e.loc with
    | 2, _ => if isGlobal e.loc then some (if ue then s.markPoison (e.loc / 64 * 64) 64 else s) else none
    | 3, .lp _ => some (if ue then s.markPoison (e.loc / 64 * 64) 64 else s)
    | 4, .cxl _ _ => some (if ue then s.markPoison (e.loc / 64 * 64) 64 else s)
    | 5, .frame ci line => some (if ue then s.setLinePoison ci line true else s)
    | 6, .scratch _ _ => some (if ue then s.markPoison (e.loc / 64 * 64) 64 else s)
    | 7, .acc _ _ _ => some s
    | 8, .lreg _ 0 _ => some s
    | 9, _ => some s
    | 10, .kmem _ _ => some (if ue then s.markPoison (e.loc / 64 * 64) 64 else s)
    | 11, .hbm st off =>
      if e.severity = 2 then
        let pc := bits off 13 8
        some ((s.setBits (stackReg st 8) pc pc 1).setBits (stackReg st 0) 5 5 1)
      else
        let k := s.stack st
        some (((s.setStack st { k with rebuild := k.rebuild ++ [off / 65536] }).bump (stackReg st 0x30) 1).setBits (stackReg st 0) 6 6 1)
    | _, _ => none

/-- The stored symbols of a line of a stack changed by errors. -/
def State.addUpset (s : State) (line : Nat) (e : List Nat) : State :=
  match placeOf (64 * line) with
  | .hbm st _ =>
    let old := padTo 0 72 ((s.upsetOf line).getD [])
    s.setStack st { s.stack st with
      upsets := Tab.set (s.stack st).upsets line ((old.zip (padTo 0 72 e)).map (fun (x : Nat × Nat) => x.1 ^^^ x.2)) }
  | _ => s

/-- ERROR_DETECT (R484): a unit sees an error; the record is written and a test waits. A line of a stack that has taken errors is read,
and its code decides what it was (R361, R362). -/
def execErrorDetect (e : ErrInfo) (s : State) : Out :=
  ok (if e.source = 1 then (s.addUpset (e.loc / 64) e.upset).meet e.loc 1
      else match s.seen e with | some t => t.logError e | none => s)

/-! ## Self-tests (R485) -/

/-- Whether a test may run now: the test of a frame line waits while the line holds a presence bit. -/
def State.testFree (s : State) (r : TestRec) : Bool :=
  match r.err.source, placeOf r.err.loc with
  | 5, .frame ci line => !(s.cell ci).present.contains line
  | _, _ => true

/-- The test that starts next, if one may: the earliest that nothing defers, while fewer than eight run. Tests run where the package
is in P0 or P1. -/
def State.nextTest (s : State) : Option TestRec :=
  if s.awake ∧ (s.cust.tests.filter (fun r => r.running)).length < 8 then s.cust.tests.find? (fun r => !r.running && s.testFree r)
  else none

/-- SELF_TEST_START (R485). -/
def execSelfTestStart (rec_ : Nat) (s : State) : Out :=
  ok (match s.nextTest with
      | some r =>
        if r.id = rec_ then
          s.setCust { s.cust with tests := s.cust.tests.map (fun q => if q.id = rec_ then { q with running := true } else q) }
        else s
      | none => s)

/-! ## Repairs (R486, R487) -/

/-- Every repair that stands: those of the repair store and those made since boot that it could not keep. -/
def State.repairsMade (s : State) : List Repair := s.cust.repairs ++ s.cust.unkept

/-- A repair written into the repair store; a full store keeps it no longer than this boot and sets FULL (R487). -/
def State.keepRepair (s : State) (r : Repair) : State :=
  if s.cust.repairs.length < Config.repairStore then s.setCust { s.cust with repairs := s.cust.repairs ++ [r] }
  else (s.setCust { s.cust with unkept := s.cust.unkept ++ [r] }).setBits (custReg 0x70) 2 2 1

/-- ACTION codes (R484): none. -/
def aNONE : Nat := 0
/-- Remapped. -/
def aREMAP : Nat := 1
/-- Retired. -/
def aRETIRE : Nat := 2
/-- Lane dropped. -/
def aDROP : Nat := 3
/-- Spare switched in. -/
def aSPARE : Nat := 4
/-- Deferred. -/
def aDEFER : Nat := 6

/-- A frame retired (R486): its page is moved to a free frame of its tier and die, as `pg.move` would move it; a large page, which is
never moved, becomes POISONED (R378); a frame that no leaf names is held at once. -/
def State.retireFrame (s : State) (pa : Nat) : State :=
  let frame := pa / 65536 * 65536
  let die := homeDie frame
  let asid := bits (s.side0 frame) 45 32
  let pte := bits (s.side1 frame) 56 3 * 8
  let e := s.devRead pte 8
  let s1 := s.keepRepair (.frame frame)
  match (if pte ≠ 0 ∧ bits (s.side0 frame) 21 21 = 0 ∧ bits e 7 4 = 0 then s.leafPage die asid pte else none) with
  | some (va, lvl) =>
    if lvl = 4 ∧ bits e 56 16 * 65536 = frame then
      s1.newMove (Move.make die asid va none 0 (tierOf frame) die { pte := pte, entry := e, lvl := 4, frame := frame, ext := 0 } true)
    else if lvl = 3 ∧ bits e 56 26 = frame / 2 ^ 26 then
      (((s1.holdRetired frame).setPte pte (putBits e 7 4 4)).shootdown die (.pages asid (va / 65536) 1024)).2
    else s1.holdRetired frame
  | none => s1.holdRetired frame

/-- A row of LPDDR-6, or of HBM4E without spares, retired. -/
def State.retireRow (s : State) (pa : Nat) : Nat × State :=
  if s.repairsMade.contains (.frame (pa / 65536 * 65536)) then (aRETIRE, s) else (aRETIRE, s.retireFrame pa)

/-- The remap entries that a stack uses. -/
def State.remapsOf (s : State) (st : Nat) : Nat :=
  (s.repairsMade.filter (fun r => match r with | .remap k _ _ _ => k == st | _ => false)).length

/-- A row of a stack remapped to a spare (R363, R486), while its table has an entry left. -/
def State.remapRow (s : State) (pa st off : Nat) : Nat × State :=
  let n := s.remapsOf st
  if n < 2048 then
    (aREMAP, (s.keepRepair (.remap st (bits off 13 8) (off / 65536) n)).setBits (stackReg st 0x28) 11 0 (n + 1))
  else s.retireRow pa

/-- The bank of a scratchpad or keeper memory line (R59): sixteen banks of a scratchpad; a keeper's memory is taken as one. -/
def lineBank (pa : Nat) : Nat :=
  match placeOf pa with
  | .scratch ps off => 17 * ps + off / 0x80000
  | .kmem ps _ => 17 * ps + 16
  | _ => 0

/-- The spare lines of a bank in use. -/
def State.linesSpared (s : State) (bank : Nat) : Nat :=
  (s.repairsMade.filter (fun r => match r with | .spareLine a => lineBank a == bank | _ => false)).length

/-- The spare multipliers of a pool in use. -/
def State.leavesSpared (s : State) (pl : Nat) : Nat :=
  (s.repairsMade.filter (fun r => match r with | .multiplier p _ => p == pl | _ => false)).length

/-- A line replaced by one of its bank's sixteen spares; without one it reads poisoned from then on (R486). -/
def State.spareLine (s : State) (pa : Nat) : Nat × State :=
  let line := pa / 64 * 64
  if s.linesSpared (lineBank pa) < 16 then (aSPARE, s.keepRepair (.spareLine line))
  else (aNONE, s.setCust { s.cust with badLines := insertNat (line / 64) s.cust.badLines })

/-- A pool leaf replaced by one of 64 spares; without one the pool is retired (R486). -/
def State.spareLeaf (s : State) (pl leaf : Nat) : Nat × State :=
  if s.leavesSpared pl < 64 then (aSPARE, s.keepRepair (.multiplier pl leaf))
  else (aRETIRE, (s.keepRepair (.pool pl)).setPool pl { s.pool pl with retired := true })

/-- A cell is occupied while a live context has its sector in its PART (R486). -/
def State.cellOccupied (s : State) (ci : Nat) : Bool := s.contexts.any (fun e => e.2.live && bitOf e.2.part (sectorOf ci))

/-- A frame line retired: U of its cell falls (R460, R486). -/
def State.retireLine (s : State) (ci line : Nat) : State :=
  let c := s.cell ci
  (s.keepRepair (.frameLine ci line)).setCell ci { c with retired := insertNat line c.retired }

/-- A lane of a Rendun port dropped (R415, R486); a port with none of its eight lanes left goes down (R416). The port stands in LOC
[5:3] within its link engine's registers, the lane in DETAIL. -/
def State.dropLane (s : State) (l port lane : Nat) : Nat × State :=
  let all := if s.cust.lanes.contains (l, port, lane) then s.cust.lanes else s.cust.lanes ++ [(l, port, lane)]
  let s1 := (s.setBits (linkReg l 0 0x10) (8 + port) (8 + port) 1).setCust { s.cust with lanes := all }
  (aDROP, if 8 ≤ (all.filter (fun x => x.1 == l && x.2.1 == port)).length then s1.portDrops l port else s1)

/-- A UCIe lane replaced by a spare, while its edge has one (the manual does not say how many: a free choice); without one the edge
runs at half width, which is timing (R486). -/
def State.spareUcie (s : State) (lane : Nat) : Nat × State :=
  if Config.freeBool s.free then (aSPARE, (s.keepRepair (.ucie lane)).useFree) else (aNONE, s.useFree)

/-- The repair of a lasting fault (R486): its ACTION; a frame line of an occupied cell is poisoned and its retirement deferred. -/
def State.repair (s : State) (r : TestRec) : Nat × State :=
  let leaf := r.err.detail.toNat
  match r.err.source, placeOf r.err.loc with
  | 1, .hbm st off => s.remapRow r.err.loc st off
  | 3, .lp _ => s.retireRow r.err.loc
  | 5, .frame ci line =>
    if s.cellOccupied ci then
      (aDEFER, (s.setLinePoison ci line true).setCust { s.cust with deferred := s.cust.deferred ++ [(ci, line, r)] })
    else (aRETIRE, s.retireLine ci line)
  | 6, .scratch _ _ => s.spareLine r.err.loc
  | 10, .kmem _ _ => s.spareLine r.err.loc
  | 7, .acc ps p _ => s.spareLeaf (5 * ps + p) leaf
  | 8, .lreg l 0 off => s.dropLane l (off / 8 % 8) (leaf % 8)
  | 9, _ => s.spareUcie leaf
  | _, _ => (aNONE, s)

/-- SELF_TEST_COMPLETE (R484 to R486): a running test ends; a lasting fault is repaired; the record is rewritten with both. -/
def execSelfTestComplete (rec_ : Nat) (lasting : Bool) (s : State) : Out :=
  ok (match s.cust.tests.find? (fun r => r.id == rec_ && r.running) with
      | some r =>
        let s1 := s.setCust { s.cust with tests := s.cust.tests.filter (fun q => q.id != rec_) }
        if lasting then
          let (a, s2) := s1.repair r
          s2.rewriteError r 3 a
        else s1.rewriteError r 2 aNONE
      | none => s)

/-- FRAME_LINE_RETIRE (R486): a deferred retirement is made once the cell is free. -/
def execFrameLineRetire (ci line : Nat) (s : State) : Out :=
  ok (match s.cust.deferred.find? (fun d => d.1 == ci && d.2.1 == line) with
      | some d =>
        if s.cellOccupied ci then s
        else
          ((s.setCust { s.cust with deferred := s.cust.deferred.filter (fun x => !(x.1 == ci && x.2.1 == line)) }).retireLine ci line).rewriteError
            d.2.2 3 aRETIRE
      | none => s)

/-- RETIRED_LIST (R487): the retired frames' addresses are written from `CUST.RETBASE` on; COUNT and DONE are set. -/
def execRetiredList (s : State) : Out :=
  let frames := s.repairsMade.filterMap (fun r => match r with | .frame pa => some pa | _ => none)
  let base := s.regBits (custReg 0x78) 56 12 * 4096
  ok (((indexed 0 frames).foldl (fun t e => (t.store (base + 8 * e.1) (leBytes 8 e.2) false true true).2) (s.setBits (custReg 0x70) 1 1 0)).setReg
        (custReg 0x70) (BitVec.ofNat 64 (2 + s.regBits (custReg 0x70) 2 2 * 4 + frames.length * 2 ^ 32)))

end Sys2Proof.Machine
end

