-- ==== Sys2Proof/Machine/GuardLoop.lean ====
section
/-! DEFINITION. Guard nodes that keep state: loops (R201 to R209), `count` and `reorder` (R212, R213), engine messages and
traps (R214 to R216), drains and queue fences (R217 to R219). -/

namespace Sys2Proof.Machine

/-! ## Control entries made by a firing (R207, R208) -/

/-- A firing that needs a control entry: `g` goes on with it; a diverted operand has gone to the spill unit and the firing
has no effect; with no room anywhere the firing keeps its place and the context traps (R44). -/
def State.withCtrl (s : State) (f : Firing) (e : Ctrl) (lined : Bool) (g : Ctrl → State → State) : State :=
  match s.makeCtrl f e lined with
  | (some e1, _, s1) => g e1 s1
  | (none, .stuck _, s1) => (s1.setAside f).overflowTrap f.ci f.a f.node f.port
  | (none, _, s1) => s1

/-- The firing's operand held as an ordinary waiting entry (R203, R208, R213). -/
def State.holdOperand (s : State) (f : Firing) : State :=
  let tok := { f.a with dest := cellDest f.ci f.node f.port }
  match s.makeRoom f.ci tok f.reinj with
  | (.entry l, s1) => let (n, s2) := s1.nextOrder f.ci; s2.addEntry f.ci l tok f.node f.port n false
  | (.diverted, s1) => s1
  | (.stuck _, _) => (s.setAside f).overflowTrap f.ci tok f.node f.port

/-- Each lane of a firing in turn, as a firing of one lane under its own tag (R203). -/
def State.byLane (s : State) (f : Firing) (g : Firing → State → State) : State :=
  if f.len = 1 then g f s else (upTo f.len).foldl (fun t j => g (t.subFiring f j 1) t) s

/-! ## Window records (R202) -/

/-- Number `i` of a control entry. For a loop: 0 lo, 1 A, 2 CB, 3 K, 4 w, 5 END, 6 ENDV. -/
def Ctrl.num (e : Ctrl) (i : Nat) : Nat := nth 0 e.nums i

/-- A loop's λ. -/
def Firing.lam (f : Firing) : Nat := f.lit % 16

/-- The key tag of a loop's instance at a level: fields 0 to L (R202). -/
def loopKeyTag (shape : Word) (level : Nat) (tag : Word) : Word := keepFields shape tag (level + 1)

/-- The window record of a loop's instance. -/
def State.window (s : State) (f : Firing) (level : Nat) : Option Ctrl :=
  (s.cell f.ci).findCtrl .loop f.ctx 0 f.lam (loopKeyTag (s.shape f.ctx) level f.tag)

/-- Iteration at distance `d` is open (R203). -/
def Ctrl.isOpen (e : Ctrl) (d : Nat) : Bool := decide (d < e.num 1) && !bitOf (e.num 2) d

/-- A STREAM fault of a loop node (R223). -/
def State.loopStream (s : State) (f : Firing) (e : Option Ctrl) : State :=
  let n (i : Nat) : Lane := match e with | some x => BitVec.ofNat 32 (x.num i) | none => 0
  let fin : Lane := match e with | some x => if x.num 6 = 1 then BitVec.ofNat 32 (x.num 5) else 0xFFFFFFFF | none => 0xFFFFFFFF
  s.faultFiring f fSTREAM [BitVec.ofNat 32 f.lam, n 0, n 1, fin]

/-- One lane of `loop.enter` (R203). -/
def State.loopEnter1 (s : State) (f : Firing) : State :=
  let sh := s.shape f.ctx
  let w := fieldWidth sh (f.level + 1)
  match s.window f f.level with
  | some e => if e.isOpen ((2 ^ w - e.num 0) % 2 ^ w) then s.emit f f.pass else s.loopStream f (some e)
  | none =>
    s.withCtrl f
      { kind := .loop, ctx := f.ctx, node := 0, tag := loopKeyTag sh f.level f.tag, key := f.lam, line := 256,
        nums := [0, 1, 0, bits f.lit 22 16, w, 0, 0], held := [], poison := false, order := 0 } false
      (fun _ t => t.emit f f.pass)

/-- LOOP_ENTER (R203). -/
def execLoopEnter (s : State) : Out := ok (s.fire (fun f t => t.byLane f (fun g u => u.loopEnter1 g)))

/-- One lane of `loop.next` (R203). DEDUCED (log 16): the check that the firing's own iteration is open is made when the
token first fires; a token that was held is presented again for the iteration it asks for, which may be the next one of a
window whose lo has passed its own. -/
def State.loopNext1 (s : State) (f : Firing) : State :=
  let sh := s.shape f.ctx
  match s.window f (f.level - 1) with
  | none => s.loopStream f none
  | some e =>
    let m := 2 ^ e.num 4
    let i := tagField sh f.tag f.level
    let late := f.held || f.reinj
    let d := (i + m - e.num 0) % m
    let next := (i + 1 + m - e.num 0) % m
    let fin := (e.num 5 + m - e.num 0) % m
    if !late && !e.isOpen d then s.loopStream f (some e)
    else if e.num 6 = 1 ∧ fin < (if late then next else d + 1) then s.loopStream f (some e)
    else if next < e.num 1 ∧ (late ∨ d + 1 < e.num 1) then s.emit f f.pass
    else if next < e.num 3 ∧ (late ∨ d + 1 < e.num 3) then
      (s.putCtrl f.ci { e with nums := setNth (e.num 1 + 1) e.nums 1 }).emit f f.pass
    else s.holdOperand f

/-- LOOP_NEXT (R203). -/
def execLoopNext (s : State) : Out := ok (s.fire (fun f t => t.byLane f (fun g u => u.loopNext1 g)))

/-- One lane of `loop.exit` (R203). -/
def State.loopExit1 (s : State) (f : Firing) : State :=
  let sh := s.shape f.ctx
  match s.window f (f.level - 1) with
  | none => s.loopStream f none
  | some e =>
    let m := 2 ^ e.num 4
    let i := tagField sh f.tag f.level
    if !e.isOpen ((i + m - e.num 0) % m) then s.loopStream f (some e)
    else if e.num 6 = 1 ∧ e.num 5 ≠ i then s.loopStream f (some e)
    else (s.putCtrl f.ci { e with nums := setNth 1 (setNth i e.nums 5) 6 }).emit f f.pass

/-- LOOP_EXIT (R203). -/
def execLoopExit (s : State) : Out := ok (s.fire (fun f t => t.byLane f (fun g u => u.loopExit1 g)))

/-- The window advanced over every closed iteration at its front: the record's lo, A, CB, and how far (R203). -/
def advanceWindow : Nat → Nat → Nat → Nat → Nat → Nat × Nat × Nat × Nat
  | 0, lo, a, cb, _ => (lo, a, cb, 0)
  | n + 1, lo, a, cb, m =>
    if 0 < a ∧ cb % 2 = 1 then
      let (lo', a', cb', k) := advanceWindow n ((lo + 1) % m) (a - 1) (cb / 2) m
      (lo', a', cb', k + 1)
    else (lo, a, cb, 0)

/-- The rotating base moved back by `k` (R203, R206). -/
def State.rotateBack (s : State) (ci k : Nat) : State :=
  let c := s.cell ci
  let q := c.active.rotating
  if q = 0 ∨ k = 0 then s
  else
    let base := (Tab.get 0 c.consts 96).toNat % q
    s.setCell ci { c with consts := Tab.set c.consts 96 (BitVec.ofNat 32 ((base + (q - k % q)) % q)) }

/-- Every held `loop.next` token of a record, presented again, oldest tag first (R203, R209). -/
def State.representHeld (s : State) (f : Firing) : State :=
  let c := s.cell f.ci
  let sh := s.shape f.ctx
  let key := loopKeyTag sh (f.level - 1) f.tag
  let isNext (n : Nat) : Bool :=
    match c.active.nodes.find? n with
    | some x => x.opcode == 0x111 && x.fields.lit.toNat % 16 == f.lam
    | none => false
  let held := sortBy (fun a b : Entry => tagOlder sh a.tok.tag b.tok.tag)
    (c.entries.filter (fun e => !e.parked && e.tok.ctx == f.ctx && isNext e.node
      && loopKeyTag sh (f.level - 1) e.tok.tag == key))
  held.foldl (fun t e =>
    match c.active.nodes.find? e.node with
    | some cfg =>
      let tok := t.entryToken f.ci e
      let (n, t1) := (t.dropEntry f.ci e).nextOrder f.ci
      let c1 := t1.cell f.ci
      let g : Firing :=
        { ci := f.ci, node := e.node, cfg := cfg, ctx := f.ctx, tag := tok.tag, len := tok.runLen, a := tok, b := none,
          port := e.port, reinj := false, held := true, since := t1.clk, order := n }
      t1.setCell f.ci { c1 with ready := c1.ready ++ [g] }
    | none => t) s

/-- One lane of `loop.close` (R203). -/
def State.loopClose1 (s : State) (f : Firing) : State :=
  let sh := s.shape f.ctx
  match s.window f (f.level - 1) with
  | none => s.loopStream f none
  | some e =>
    let m := 2 ^ e.num 4
    let i := tagField sh f.tag f.level
    let d := (i + m - e.num 0) % m
    if !e.isOpen d then s.loopStream f (some e)
    else
      let (lo, a, cb, k) := advanceWindow (e.num 1) (e.num 0) (e.num 1) (e.num 2 + 2 ^ d) m
      let s1 := s.rotateBack f.ci k
      if e.num 6 = 1 ∧ a = 0 then
        (s1.dropCtrl f.ci e).emit f (f.outRun 1 f.tag 0 f.poisoned false [BitVec.ofNat 32 (e.num 5)])
      else
        (s1.putCtrl f.ci { e with nums := [lo, a, cb, e.num 3, e.num 4, e.num 5, e.num 6] }).representHeld f

/-- LOOP_CLOSE (R203). -/
def execLoopClose (s : State) : Out := ok (s.fire (fun f t => t.byLane f (fun g u => u.loopClose1 g)))

/-! ## Barriers and ordering (R212, R213) -/

/-- COUNT (R212): numbers of the accumulator: 0 the total. The first arrival for a key creates the accumulator, under R208, also
where it reaches N at once. -/
def execCount (s : State) : Out :=
  ok (s.fire (fun f t =>
    let sh := t.shape f.ctx
    let n := f.lit % 65536
    let key := if bitOf f.lit 16 then keepFields sh f.tag f.level else f.tag
    let old := (t.cell f.ci).findCtrl .count f.ctx f.node 0 key
    let total := (match old with | some e => e.num 0 | none => 0) + f.len
    let poison := f.poisoned || (match old with | some e => e.poison | none => false)
    let counted (e : Ctrl) (u : State) : State :=
      if n ≤ total then (u.dropCtrl f.ci e).emit f (f.outRun 1 key 0 poison false [BitVec.ofNat 32 total])
      else u.putCtrl f.ci { e with nums := [total], poison := poison }
    match old with
    | some e => counted e t
    | none =>
      t.withCtrl f
        { kind := .count, ctx := f.ctx, node := f.node, tag := key, key := 0, line := 256, nums := [total], held := [],
          poison := poison, order := 0 } false counted))

/-- A run of `reorder` emitted: the state moves on (R213). -/
def State.reorderEmit (s : State) (f : Firing) (e : Ctrl) (m : Nat) : Ctrl × State :=
  let e1 := { e with nums := [(e.num 0 + f.len) % m, e.num 1 + f.len] }
  (e1, (s.putCtrl f.ci e1).emit f f.pass)

/-- Waiting runs of a `reorder` key that have become due, emitted in turn. -/
def State.reorderDrain : Nat → State → Firing → Ctrl → Nat → Ctrl × State
  | 0, s, _, e, _ => (e, s)
  | n + 1, s, f, e, m =>
    let sh := s.shape f.ctx
    match (s.cell f.ci).entries.find? (fun x => !x.parked && x.tok.ctx == f.ctx && x.node == f.node
        && keepFields sh x.tok.tag f.level == e.tag && tagField sh x.tok.tag f.level == e.num 0) with
    | some x =>
      let tok := s.entryToken f.ci x
      let g := { f with tag := tok.tag, len := tok.runLen, a := tok, b := none }
      let (e1, s1) := (s.dropEntry f.ci x).reorderEmit g e m
      State.reorderDrain n s1 f e1 m
    | none => (e, s)

/-- A run meets the state of its key (R213). -/
def State.reorderRun (s : State) (f : Firing) (e : Ctrl) (m b : Nat) : State :=
  let n := f.lit % 65536
  if b = e.num 0 then
    let (e1, s1) := s.reorderEmit f e m
    let (e2, s2) := State.reorderDrain 256 s1 f e1 m
    if n ≠ 0 ∧ n ≤ e2.num 1 then s2.dropCtrl f.ci e2 else s2
  else s.holdOperand f

/-- REORDER (R213): numbers of the state: 0 the next value due, 1 the lanes emitted. -/
def execReorder (s : State) : Out :=
  ok (s.fire (fun f t =>
    let sh := t.shape f.ctx
    let w := fieldWidth sh f.level
    let m := 2 ^ w
    let key := keepFields sh f.tag f.level
    let b := tagField sh f.tag f.level
    let past (e : Nat) : Bool := b != e && decide (2 ^ (w - 1) ≤ (b + m - e) % m)
    match (t.cell f.ci).findCtrl .reorder f.ctx f.node 0 key with
    | some e => if past (e.num 0) then t.guardStream f else t.reorderRun f e m b
    | none =>
      if past 0 then t.guardStream f
      else
        t.withCtrl f
          { kind := .reorder, ctx := f.ctx, node := f.node, tag := key, key := 0, line := 256, nums := [0, 0], held := [],
            poison := false, order := 0 } false (fun e u => u.reorderRun f e m b)))

/-! ## Engine messages, posts, traps (R214 to R216) -/

/-- SEND (R214). -/
def execSend (s : State) : Out :=
  ok (s.fire (fun f t =>
    if f.isEmpty then t.emitTo f f.cfg.fields.dstB (f.out 0 f.poisoned true [])
    else
      let ls := (upTo f.len).map f.aLane
      let reply := f.lit % 2 ^ 21
      let lanes := if reply = 0 then ls else setNth (BitVec.ofNat 32 reply) ls (f.len - 1)
      (t.emitTo f f.cfg.fields.dstA { f.out 0 f.poisoned false lanes with cls := 5 }).emitTo f f.cfg.fields.dstB
        (f.outRun 1 f.tag 0 f.poisoned false [BitVec.ofNat 32 f.len])))

/-- POST (R215). -/
def execPost (s : State) : Out :=
  ok (s.fire (fun f t =>
    if f.len = 32 then t.guardStream f
    else
      t.emit f { f.outRun (f.len + 1) f.tag 0 f.poisoned f.isEmpty
          (if f.isEmpty then [0] else f.cfg.fields.lit :: (upTo f.len).map f.aLane) with cls := 6 }))

/-- TRAP (R216): an empty run does nothing. -/
def execTrap (s : State) : Out :=
  ok (s.fire (fun f t =>
    if f.isEmpty then t
    else t.faultFiring f (0x8000 + f.lit % 32768) (padTo 0 4 (((upTo f.len).map f.aLane).take 4))))

/-! ## Drains and queue fences (R217 to R219) -/

/-- One early drain of a channel (R217): a channel that has one gets none. -/
def State.earlyDrain (s : State) (f : Firing) (d : Dest) : State :=
  let c := s.cell f.ci
  if dKind d = 0 ∨ c.drained.contains (unitKey d) then s
  else
    (s.setCell f.ci { c with drained := insertNat (unitKey d) c.drained }).send f.src
      { drainToken (sectorOf f.ci) d with ctx := f.ctx }

/-- DRAIN (R217): it fires on any token, whatever its flags. -/
def execDrain (s : State) : Out :=
  ok (match s.issue with
      | none => s
      | some f => (({ s with issue := none }).earlyDrain f f.cfg.fields.dstA).earlyDrain f f.cfg.fields.dstB)

/-- WAIT_DRAIN (R218). -/
def execWaitDrain (s : State) : Out :=
  ok (s.fire (fun f t =>
    t.withCtrl f
      { kind := .waitDrain, ctx := f.ctx, node := f.node, tag := f.tag, key := 0, line := 256, nums := [], held := [f.pass],
        poison := f.poisoned, order := 0 } true (fun _ u => u)))

/-- A returned marker of `fence.q` (R219): at zero the held operand is emitted. -/
def State.markerBack (s : State) (f : Firing) : State :=
  match (s.cell f.ci).findCtrl .fenceq f.ctx f.node 0 f.tag with
  | none => s.guardStream f
  | some e =>
    if 1 < e.num 0 then s.putCtrl f.ci { e with nums := [e.num 0 - 1] }
    else
      let tok := s.ctrlToken f.ci e
      let g := { f with tag := tok.tag, len := tok.runLen, a := tok, b := none, port := 0 }
      (s.dropCtrl f.ci e).emit g tok

/-- FENCE_Q (R219). -/
def execFenceQ (s : State) : Out :=
  ok (s.fire (fun f t =>
    if f.port = 1 then t.markerBack f
    else
      let named := (upTo 8).filter (fun m => bitOf f.lit (24 + m))
      t.withCtrl f
        { kind := .fenceq, ctx := f.ctx, node := f.node, tag := f.tag, key := 0, line := 256, nums := [named.length],
          held := [f.pass], poison := f.poisoned, order := 0 } true
        (fun _ u => named.foldl (fun v m =>
          v.send f.src
            { f.outRun 2 f.tag 0 false false
                [1, (cellDest f.ci f.node 1).zeroExtend 32] with
              dest := BitVec.ofNat 21 (f.lit % 2 ^ 21 + m * 64), cls := 2 }) u)))

end Sys2Proof.Machine
end

