-- ==== Sys2Proof/Machine/Power.lean ====
section
/-! DEFINITION. Power states (R482, R483), host accesses (R490), module reset and bring-up (R464, R471, R491, R492, R496, R497), and
the CXL ports (R475, R494, R495). -/

namespace Sys2Proof.Machine

/-! ## Power states (R482, R483) -/

/-- `CUST.PWR`.TARGET written. -/
def State.setTarget (s : State) (t : Nat) : State := s.setBits (custReg 0x38) 1 0 t

/-- A request for P2 or P3 (R483): refused while a context is live or a queue holds a command. -/
def State.requestLow (s : State) (t : Nat) : State :=
  if s.contexts.any (fun e => e.2.live) ∨ s.queues.any (fun e => !e.2.onchip.isEmpty || !e.2.overflow.isEmpty) then
    s.setBits (custReg 0x38) 4 4 1
  else (s.setTarget t).setCust { s.cust with pwrEntry := if s.regBits (custReg 0x38) 3 2 = t then none else some t }

/-- POWER_REQUEST_P2. -/
def execPowerRequestP2 (s : State) : Out := ok (s.requestLow 2)

/-- POWER_REQUEST_P3. -/
def execPowerRequestP3 (s : State) : Out := ok (s.requestLow 3)

/-- The sectors that are not gated begin to wake (R466). -/
def State.wakeSectors (s : State) : State :=
  { s with waking := (upTo 32).foldl (fun w ps => if s.gated ps then w else Tab.set w ps (.rails, s.timer)) s.waking }

/-- The package comes back to P0 (R483): an entry that waits is given up; from P2 or P3 the exit begins. -/
def State.wake (s : State) : State :=
  let s1 := s.setCust { s.cust with pwrEntry := none }
  if s1.awake ∨ s1.cust.pwrExit then s1 else ((s1.setCust { s1.cust with pwrExit := true }).wakeSectors).exitDone

/-- POWER_REQUEST_P0 (R483): TARGET 1 acts as TARGET 0. -/
def execPowerRequestP0 (s : State) : Out := ok (s.setTarget 0).wake

/-- POWER_WAKE (R483). -/
def execPowerWake (s : State) : Out := ok s.wake

/-- The refreshes of a channel on entry (R360): every postponed one is issued. -/
def State.settleRefresh (s : State) (st ch : Nat) : State :=
  let d := s.refD st ch
  if 0 < d then (s.setRefD st ch 0).bump (stackReg st 0x38) d.toNat else s

/-- POWER_STATE_ENTRY (R482, R483): no self-test runs, and no Rendun request or access is in progress. The sectors lose their power;
in P3 the Rendun ports go down. -/
def execPowerStateEntry (s : State) : Out :=
  ok (match s.cust.pwrEntry with
      | some t =>
        if s.cust.pwrExit ∨ s.cust.tests.any (fun r => r.running) ∨ s.remotes ≠ [] ∨ s.inboundWait ≠ []
            ∨ s.accesses.any (fun a => a.reqs.any (fun q => q.state == 0)) then s
        else
          let s1 := ((s.setBits (custReg 0x38) 3 2 t).setReg (frontReg 0x118) 0).setCust { s.cust with pwrEntry := none }
          let s2 := (upTo 12).foldl (fun u st => (upTo 32).foldl (fun v ch => v.settleRefresh st ch) u) { s1 with waking := [] }
          if t = 3 then (upTo 8).foldl (fun u j => (u.portDrops 0 j).portDrops 1 j) s2 else s2
      | none => s)

/-! ## Host accesses (R490, R492) -/

/-- An answer recorded for a management interface or the host port. -/
def State.record (s : State) (what : String) (data : List Nat) : State :=
  s.setCust { s.cust with answers := s.cust.answers ++ [{ what := what, data := data }] }

/-- Whether the host may reach an address: those of HBM4E and LPDDR-6 once both HBMRDY and LPRDY are 1 (R492). -/
def State.trained (s : State) (pa : Nat) : Bool :=
  match placeOf pa with
  | .hbm _ _ => s.regBits (modReg 0) 1 0 == 3
  | .lp _ => s.regBits (modReg 0) 1 0 == 3
  | _ => true

/-- A host access refused (R490): a read is answered with Completer Abort; the custodian logs it. -/
def State.hostRefused (s : State) (r : HostAccess) : State :=
  let s1 := if r.write.isNone then s.record "Completer Abort" [] else s
  s1.logError { source := 13, severity := 1, loc := r.addr, detail := 0 }

/-- A host access performed at its home (R490, R393): a read returns its bytes, with EP for poison; a write from a TLP with EP stores
poisoned data. -/
def State.hostPerform (s : State) (r : HostAccess) : State :=
  if 2 ^ 45 ≤ r.addr ∨ !s.physOk r.addr r.size false ∨ !s.trained r.addr then s.hostRefused r
  else
    match r.write with
    | none =>
      let (g, s1) := s.load r.addr r.size false true true
      s1.record (if g.poison then "read EP" else "read") (g.data.map (fun b => b.toNat))
    | some bs => (s.store r.addr (padTo 0 r.size bs) r.ep true true).2

/-- Whether a host access may be performed while the package is not in P0 (R483): it names a register of link die A, and no write
waits before it. -/
def State.hostNow (s : State) (r : HostAccess) : Bool :=
  (match placeOf r.addr with | .lreg 0 _ _ => true | _ => false) && s.cust.hostWait.all (fun x => x.write.isNone)

/-- HOST_MEMORY_ACCESS (R483, R490): one that wakes the package waits for the exit. -/
def execHostMemoryAccess (r : HostAccess) (s : State) : Out :=
  ok (if s.hostNow r then s.hostPerform r
      else if s.awake then (if s.cust.pwrEntry.isSome then s.wake else s).hostPerform r
      else ((s.setCust { s.cust with hostWait := s.cust.hostWait ++ [r] }).wake))

/-! ## Module reset and power (R464, R476, R491, R496, R497) -/

/-- The module right after a module reset: every state is lost but what is fused or kept in non-volatile storage, and the inputs still
to come (the model's own). Debug authorisation ends; the nonce is new. -/
def State.moduleReset (s : State) : State :=
  let c := s.cust
  let st := s.regBits (custReg 0x18) 1 0
  let s1 : State :=
    { State.reset with
      inputs := s.inputs, free := s.free, cur := s.cur,
      cust := { Custodian.reset with
        minSvn := c.minSvn, owner := c.owner, repairs := c.repairs, keys := c.keys, answers := c.answers, nonces := c.nonces + 1 } }
  (s1.setBits (custReg 0x18) 1 0 (if st = 2 then 1 else st)).setReg (custReg 0x20) (Config.nonce (c.nonces + 1))

/-- MODULE_RESET (R464, R491). -/
def execModuleReset (s : State) : Out := ok s.moduleReset

/-- POWER_ON (R492): the rails come up, and the module is as a module reset leaves it. -/
def execPowerOn (s : State) : Out := ok (if s.power = .on then s else s.moduleReset)

/-- The module turned off, which acts as a module reset. -/
def State.turnOff (s : State) : State := { s.moduleReset with power := .off }

/-- BROWNOUT (R496). -/
def execBrownout (s : State) : Out := ok s.turnOff

/-- THERMTRIP (R497): THERMTRIP# is asserted. -/
def execThermtrip (s : State) : Out := ok { s.turnOff with thermtrip := true }

/-- MEMORY_TRAINED (R492): after the firmware runs, HBM4E or LPDDR-6 is ready. -/
def execMemoryTrained (lp : Bool) (s : State) : Out :=
  ok (if s.running then s.setBits (modReg 0) (if lp then 1 else 0) (if lp then 1 else 0) 1 else s)

/-- CLOCK_THROTTLE_STEP (R497, R498): the averages are shown; over the limit or too hot the clock falls by 75 MHz, to no less than
1,200; once the average is 5 % below the limit and nothing is too hot it rises again. Above 115 °C the module turns off. -/
def execClockThrottleStep (e : EnvSample) (s : State) : Out :=
  let cap := s.regBits (modReg 8) 11 0
  let mhz := s.regBits (modReg 0x20) 11 0
  let hot : Bool := decide (105 < e.die ∨ 95 < e.hbm)
  let beyond : Bool := decide (cap < e.watts)
  let capped : Bool := s.regBits (modReg 0) 2 2 == 1
  let mhz' :=
    if hot || beyond then Nat.max 1200 (mhz - 75)
    else if capped && decide (95 * cap < 100 * e.watts) then mhz else Nat.min 2250 (mhz + 75)
  let s1 := (s.setReg (modReg 0x10) (BitVec.ofNat 64 (e.watts % 4096))).setReg (modReg 0x18)
    (BitVec.ofNat 64 (e.die % 256 + e.hbm % 256 * 2 ^ 8 + e.inlet % 256 * 2 ^ 16))
  let s2 := s1.setReg (modReg 0x20) (BitVec.ofNat 64 mhz')
  let s3 :=
    if mhz' = 2250 then s2.setBits (modReg 0) 3 2 0
    else
      let a := if beyond then s2.setBits (modReg 0) 2 2 1 else s2
      if hot then a.setBits (modReg 0) 3 3 1 else a
  ok (if 115 < e.die then { s3 with inputs := .event .thermtrip :: s3.inputs } else s3)

/-- ALERT# (R500): asserted while the clock is lowered by the power limit or by temperature. -/
def State.alert (s : State) : Bool := s.regBits (modReg 0) 3 2 != 0

/-! ## The firmware (R471, R487) -/

/-- The repairs of the repair store made again at boot (R487). -/
def State.reapply (s : State) : State :=
  s.cust.repairs.foldl (fun t r =>
    match r with
    | .remap st _ _ _ => t.setBits (stackReg st 0x28) 11 0 (t.regBits (stackReg st 0x28) 11 0 + 1)
    | .pool pl => t.setPool pl { t.pool pl with retired := true }
    | .frameLine ci line => t.setCell ci { t.cell ci with retired := insertNat line (t.cell ci).retired }
    | _ => t) s

/-- The ROM's checks of an image in their order (R471): the REASON of the first that fails, or 0. `LEN` is that of `CUST.BOOTLEN`;
no image where a read of it did not complete. -/
def bootReason (len minSvn : Nat) (img : Option (List Byte)) : Nat :=
  if len < 0x400 ∨ 0x1000000 < len ∨ len % 64 ≠ 0 then 5
  else
    match img with
    | none => 4
    | some bs =>
      if bs.length ≠ len then 4
      else if leNat (bs.take 4) ≠ 0x4B5A4131 ∨ leNat ((bs.drop 8).take 8) ≠ len then 1
      else if !Config.rsaVerify Config.firmwareModulus (Config.sha512 (bs.take (len - 512))) (bs.drop (len - 512)) then 2
      else if leNat ((bs.drop 16).take 4) < minSvn then 3
      else 0

/-- FIRMWARE_LOAD (R471, R472): what the host's memory returned is checked, while the ROM loads. -/
def execFirmwareLoad (img : Option (List Byte)) (s : State) : Out :=
  ok (if s.regBits (custReg 0) 2 1 ≠ 1 then s
      else
        let why := bootReason (s.regBits (custReg 0x10) 24 0) s.cust.minSvn img
        let bs := img.getD []
        let svn := leNat ((bs.drop 16).take 4)
        if why ≠ 0 then s.setReg (custReg 0) (BitVec.ofNat 64 (3 * 2 + why * 8))
        else
          ((s.setCust { s.cust with image := bs, minSvn := Nat.max s.cust.minSvn svn }).reapply).setReg (custReg 0)
            (BitVec.ofNat 64 (2 * 2 + svn * 2 ^ 32)))

/-! ## Function Level Reset (R491) -/

/-- The accepted commands of a queue that are not yet dispatched complete REFUSED with ABORTED. -/
def State.abortQueue (s : State) (q : Nat) : State :=
  let k := s.queue q
  (k.onchip ++ k.overflow).foldl (fun t c => t.refuseCmd c sABORTED)
    (s.setQueue q { k with staging := [], onchip := [], overflow := [], ovfHead := 0, readySince := 0 })

/-- FLR (R491): staged commands are discarded, undispatched ones refused, every partition reset, and every queue disabled. Window
writes are discarded until the last reset completes. -/
def execFlr (s : State) : Out :=
  let s1 := (s.queues.map (fun e => e.1)).foldl (fun t q => t.abortQueue q) s
  let s2 := (upTo 32).foldl (fun t n =>
    let mask := t.regBits (frontReg (8 * n)) 31 0
    if mask = 0 then t else t.resetPartition mask sABORTED none none) s1
  let s3 := (upTo 1024).foldl (fun t q => if (t.reg (queueReg q 0)).getLsbD 0 then t.setBits (queueReg q 0) 0 0 0 else t) s2
  ok { s3 with flrHold := !s3.resets.isEmpty }

/-! ## CXL ports (R475, R494, R495) -/

/-- CXL_PORT_ENABLE (R494): EN is set; the link trains and the decoder is committed over the first min(capacity, 2 TiB) bytes, in
units of 256 MiB, or training fails. -/
def execCxlPortEnable (p : Nat) (fine : Bool) (cap : Nat) (s : State) : Out :=
  ok (if 4 ≤ p ∨ s.regBits (cxlReg p 0) 0 0 = 1 then s
      else
        let s1 := s.setBits (cxlReg p 0) 0 0 1
        if fine then ((s1.setBits (cxlReg p 8) 1 0 1).setBits (cxlReg p 8) 29 16 (Nat.min cap (2 ^ 41) / 2 ^ 28))
        else (s1.setBits (cxlReg p 8) 1 0 2).setBits (cxlReg p 8) 29 16 0)

/-- CXL_PORT_DISABLE (R495): clearing EN takes the link down. -/
def execCxlPortDisable (p : Nat) (s : State) : Out :=
  ok (if 4 ≤ p ∨ s.regBits (cxlReg p 0) 0 0 = 0 then s
      else ((s.setBits (cxlReg p 0) 0 0 0).setBits (cxlReg p 8) 0 0 0).setBits (cxlReg p 8) 29 16 0)

/-- CXL_LINK_DOWN (R494, R484): UP clears, DOWNED is set, and the port's range is dead until module reset; a fatal record is logged. -/
def execCxlLinkDown (p : Nat) (s : State) : Out :=
  ok (if 4 ≤ p ∨ s.regBits (cxlReg p 0) 0 0 = 0 ∨ s.regBits (cxlReg p 8) 0 0 = 0 then s
      else
        let s1 := (s.setBits (cxlReg p 8) 0 0 0).setBits (cxlReg p 8) 2 2 1
        (s1.setCust { s1.cust with cxlDown := insertNat p s1.cust.cxlDown }).logError
          { source := 4, severity := 2, loc := 0x100000000000 + p * 2 ^ 41, detail := BitVec.ofNat 64 p })

/-- IDE_ENABLE (R475): a session opened and the stream's keys programmed, or the session failed. -/
def execIdeEnable (p : Nat) (fine : Bool) (s : State) : Out :=
  ok (if 4 ≤ p ∨ s.regBits (custReg 0x40) p p = 0 ∨ s.regBits (custReg 0x40) (4 + p) (4 + p) = 1 then s
      else if fine then s.setBits (custReg 0x40) (4 + p) (4 + p) 1
      else s.setBits (custReg 0x40) (8 + p) (8 + p) 1)

/-- IDE_FAILURE (R475): a session or key refresh fails. -/
def execIdeFailure (p : Nat) (s : State) : Out :=
  ok (if 4 ≤ p ∨ s.regBits (custReg 0x40) p p = 0 then s
      else (s.setBits (custReg 0x40) (4 + p) (4 + p) 0).setBits (custReg 0x40) (8 + p) (8 + p) 1)

end Sys2Proof.Machine
end

