-- ==== Sys2Proof/Machine/Secure.lean ====
section
/-! DEFINITION. Identity, security states, debug and the management interfaces (R473 to R480, R500). -/

namespace Sys2Proof.Machine

/-! ## Security state and debug level (R476, R477, R480) -/

/-- `CUST.SEC`.STATE: 0 LOCKED, 1 PROVISIONED, 2 DEBUG_AUTH, 3 FA. -/
def State.security (s : State) : Nat := s.regBits (custReg 0x18) 1 0

/-- `CUST.SEC`.LEVEL. -/
def State.debugLevel (s : State) : Nat := s.regBits (custReg 0x18) 3 2

/-- The highest debug level that a security state permits (R477). -/
def maxLevel (st : Nat) : Nat := nth 2 [0, 1, 2, 2] st

/-- LVLERR set: a level or watchpoint write was ignored. -/
def State.levelError (s : State) : State := s.setBits (custReg 0x18) 5 5 1

/-- DEBUG_LEVEL_WRITE (R477). -/
def execDebugLevelWrite (lvl : BitVec 2) (s : State) : Out :=
  ok (if maxLevel s.security < lvl.toNat then s.levelError else s.setBits (custReg 0x18) 3 2 lvl.toNat)

/-- The permitted level falls (R477): LEVEL first, then EN of every watchpoint with ACT = 1. -/
def State.lowerLevel (s : State) (max : Nat) : State :=
  (upTo 16).foldl (fun t w =>
    let r := custReg (0x100 + 32 * w)
    if (t.reg r).getLsbD 1 then t.setBits r 0 0 0 else t) (s.setBits (custReg 0x18) 3 2 (Nat.min s.debugLevel max))

/-- RELOCK (R476). -/
def execRelock (s : State) : Out :=
  ok (if s.security = 2 then (s.lowerLevel 1).setBits (custReg 0x18) 1 0 1 else s)

/-- WATCHPOINT_WRITE (R480, R488): a write that sets ACT = 1 below level 2 is ignored; below level 1, EN keeps its value. -/
def execWatchpointWrite (wp : Nat) (v : Word) (s : State) : Out :=
  ok (if 16 ≤ wp then s
      else
        let r := custReg (0x100 + 32 * wp)
        if v.getLsbD 1 ∧ s.debugLevel < 2 then s.levelError
        else if s.debugLevel < 1 then s.setReg r (BitVec.ofNat 64 (putBits (v.toNat % 2 ^ 37) 0 0 (s.regBits r 0 0)))
        else s.setReg r (BitVec.ofNat 64 (v.toNat % 2 ^ 37)))

/-! ## Requests (R478) -/

/-- The request block at `CUST.AUTH`.BASE, where it can be read. -/
def State.authBlock (s : State) : Option (List Byte) × State :=
  let base := s.regBits (custReg 0x28) 56 11 * 2048
  if isGlobal base && s.physOk base 2048 false then
    let (g, t) := s.load base 2048 false true true
    (if g.code = 0 ∧ g.poison = false then some g.data else none, t)
  else (none, s)

/-- The end of a request: RESULT, and a new nonce whatever the outcome. -/
def State.authEnd (s : State) (result : Nat) : State :=
  ((s.setBits (custReg 0x28) 2 1 result).setCust { s.cust with nonces := s.cust.nonces + 1 }).setReg (custReg 0x20)
    (Config.nonce (s.cust.nonces + 1))

/-- Every byte of a range of the block is zero. -/
def zeroBytes (bs : List Byte) (at_ n : Nat) : Bool := ((bs.drop at_).take n).all (fun b => b == 0)

/-- A request's fields and signature are good (R478): its nonce and serial, its zero bytes, its modulus under the digest of the key
for its TYPE, and the signature over the SHA-512 of bytes 0x000 to 0x27F. -/
def State.authGood (s : State) (bs : List Byte) (ty : Nat) (digest : List Byte) : Bool :=
  let modulus := (bs.drop 0x80).take 0x200
  (leNat ((bs.drop 8).take 8) == (s.reg (custReg 0x20)).toNat) && (leNat ((bs.drop 0x10).take 8) == (s.reg (custReg 0x30)).toNat)
    && (ty == 1 || zeroBytes bs 0x40 0x40) && zeroBytes bs 0x480 0x380 && (Config.sha512 modulus == digest)
    && Config.rsaVerify modulus (Config.sha512 (bs.take 0x280)) ((bs.drop 0x280).take 0x200)

/-- A request of a TYPE performed (R478): not allowed from the present state, RESULT 3; a bad field or signature, RESULT 2; else `f`
acts and RESULT is 1. A block whose TYPE is another is not this request; one that cannot be read is bad. -/
def State.auth (s : State) (ty : Nat) (allowed : Bool) (digest : List Byte) (f : List Byte → State → State) : State :=
  match s.authBlock with
  | (none, t) => t.authEnd (if allowed then 2 else 3)
  | (some bs, t) =>
    if (nth 0 bs 0).toNat ≠ ty then s
    else if !allowed then t.authEnd 3
    else if t.authGood bs ty digest then (f bs t).authEnd 1
    else t.authEnd 2

/-- AUTH_PROVISION (R476, R478): the owner key hash is fused; LOCKED becomes PROVISIONED. -/
def execAuthProvision (s : State) : Out :=
  ok (s.auth 1 (s.security == 0) Config.provisionDigest (fun bs t =>
    (t.setCust { t.cust with owner := (bs.drop 0x40).take 0x40 }).setBits (custReg 0x18) 1 0 1))

/-- AUTH_UNLOCK (R476, R478): PROVISIONED becomes DEBUG_AUTH. -/
def execAuthUnlock (s : State) : Out :=
  ok (s.auth 2 (s.security == 1) s.cust.owner (fun _ t => t.setBits (custReg 0x18) 1 0 2))

/-- Every storage of the module zeroed (R476): HBM4E, LPDDR-6, the frames, scratchpads, accumulators and keeper memories, the vector
slots and the stationary sets. What a CXL device holds is not the module's. -/
def State.zeroize (s : State) : State :=
  let cxl (a : Nat) : Bool := match placeOf a with | .cxl _ _ => true | _ => false
  { s with
    mem := s.mem.filter (fun e => cxl e.1),
    poison := s.poison.filter (fun l => cxl (64 * l)),
    cells := s.cells.map (fun e => (e.1, { e.2 with linePoison := [] })),
    stackUnits := s.stackUnits.map (fun e => (e.1, { e.2 with slots := [.none, .none, .none, .none] })),
    pools := s.pools.map (fun e => (e.1, { e.2 with set0 := .none, set1 := .none })) }

/-- AUTH_FA (R476, R478): every storage zeroed, the identity and IDE keys erased; FA. -/
def execAuthFa (s : State) : Out :=
  ok (s.auth 3 true Config.faDigest (fun _ t =>
    let t1 := t.zeroize
    ((t1.setCust { t1.cust with keys := false }).setBits (custReg 0x40) 7 4 0).setBits (custReg 0x18) 1 0 3))

/-- AUTH_REQUEST_UNKNOWN_TYPE (R478): a TYPE that is none of the three is allowed from no state. -/
def execAuthRequestUnknownType (s : State) : Out :=
  ok (match s.authBlock with
      | (some bs, t) => if [1, 2, 3].contains (nth 0 bs 0).toNat then s else t.authEnd 3
      | (none, t) => t.authEnd 3)

/-! ## Attestation (R473, R474, R479) -/

/-- The four measurements (R474). -/
def State.measurements (s : State) : List Byte :=
  Config.sha512 Config.maskRom ++ Config.sha512 s.cust.image ++ leBytes 4 (s.regBits (custReg 0) 63 32)
    ++ leBytes 1 (s.regBits (custReg 0x18) 3 0) ++ Config.sha512 (Config.fuses ++ s.cust.owner)

/-- An SPDM request taken and answered (R474): the answer's bytes follow SPDM 1.3, from the requests so far, the measurements and the
certificate chain. -/
def State.spdmReply (s : State) (what : String) (req body : List Byte) : State :=
  let s1 := s.setCust { s.cust with spdm := s.cust.spdm ++ req }
  s1.record what ((body ++ Config.spdmAnswer s1.cust.spdm (s1.measurements ++ Config.certificates s1.cust.image)).map (fun b => b.toNat))

/-- GET_VERSION. -/
def execGetVersion (req : List Byte) (s : State) : Out := ok (s.spdmReply "VERSION" req [])
/-- GET_CAPABILITIES. -/
def execGetCapabilities (req : List Byte) (s : State) : Out := ok (s.spdmReply "CAPABILITIES" req [])
/-- NEGOTIATE_ALGORITHMS. -/
def execNegotiateAlgorithms (req : List Byte) (s : State) : Out := ok (s.spdmReply "ALGORITHMS" req [])
/-- GET_DIGESTS. -/
def execGetDigests (req : List Byte) (s : State) : Out := ok (s.spdmReply "DIGESTS" req [])
/-- GET_CERTIFICATE (R473, R479): in FA it is answered ERROR. -/
def execGetCertificate (req : List Byte) (s : State) : Out :=
  ok (if s.security = 3 then (s.setCust { s.cust with spdm := s.cust.spdm ++ req }).record "ERROR" []
      else s.spdmReply "CERTIFICATE" req (Config.certificates s.cust.image))
/-- CHALLENGE. -/
def execChallenge (req : List Byte) (s : State) : Out := ok (s.spdmReply "CHALLENGE_AUTH" req [])
/-- GET_MEASUREMENTS: the four measurements of R474. -/
def execGetMeasurements (req : List Byte) (s : State) : Out := ok (s.spdmReply "MEASUREMENTS" req s.measurements)
/-- KEY_EXCHANGE. -/
def execKeyExchange (req : List Byte) (s : State) : Out := ok (s.spdmReply "KEY_EXCHANGE_RSP" req [])
/-- FINISH. -/
def execFinish (req : List Byte) (s : State) : Out := ok (s.spdmReply "FINISH_RSP" req [])
/-- END_SESSION. -/
def execEndSession (req : List Byte) (s : State) : Out := ok (s.spdmReply "END_SESSION_ACK" req [])
/-- SPDM_UNSUPPORTED_REQUEST (R474). -/
def execSpdmUnsupportedRequest (req : List Byte) (s : State) : Out :=
  ok ((s.setCust { s.cust with spdm := s.cust.spdm ++ req }).record "ERROR UnsupportedRequest" [])

/-! ## JTAG (R477, R479) -/

/-- The sector of a place on a compute die, where a sector holds it. -/
def placeSector : Place → Option Nat
  | .frame ci _ => some (sectorOf ci)
  | .scratch ps _ => some ps
  | .acc ps _ _ => some ps
  | .kmem ps _ => some ps
  | .sreg ps _ _ => some ps
  | _ => none

/-- Whether a place lies in the scope of debug access in the present power state (R479): everything in P0; in P1 all but gated
sectors; in P2 link die A; in P3 the custodian. -/
def State.inScope (s : State) (p : Place) : Bool :=
  match s.regBits (custReg 0x38) 3 2, p with
  | 2, .lreg 0 _ _ => true
  | 2, _ => false
  | 3, .lreg 0 3 _ => true
  | 3, _ => false
  | _, _ => match placeSector p with | some ps => !s.gated ps | none => true

/-- A JTAG access outside its scope performs nothing and sets bit 1 of the JTAG status word. -/
def State.jtagRefused (s : State) : State :=
  s.setCust { s.cust with jtagStatus := if bitOf s.cust.jtagStatus 1 then s.cust.jtagStatus else s.cust.jtagStatus + 2 }

/-- A JTAG access at a level and a place. -/
def State.jtag (s : State) (level : Nat) (p : Place) (f : State → State) : State :=
  if level ≤ s.debugLevel ∧ p ≠ .bad ∧ s.inScope p then f s else s.jtagRefused

/-- A register's place. -/
def isRegister : Place → Bool
  | .sreg _ _ _ => true
  | .dreg _ _ _ => true
  | .lreg _ _ _ => true
  | _ => false

/-- JTAG_REGISTER_READ. -/
def execJtagRegisterRead (pa : Nat) (s : State) : Out :=
  ok (s.jtag 1 (if isRegister (placeOf pa) && pa % 8 == 0 then placeOf pa else .bad) (fun t => t.record "JTAG" [(t.regRead pa).toNat]))

/-- JTAG_WRITE: a register, or 8 bytes of memory. -/
def execJtagWrite (pa : Nat) (v : Word) (isReg : Bool) (s : State) : Out :=
  let p := placeOf pa
  ok (s.jtag 2 (if isReg == isRegister p && s.physOk pa 8 false then p else .bad) (fun t =>
    if isReg then t.regWrite pa v else (t.store pa (leBytes 8 v.toNat) false true true).2))

/-- JTAG_MEMORY_READ: 8 bytes of memory. -/
def execJtagMemoryRead (pa : Nat) (s : State) : Out :=
  let p := placeOf pa
  ok (s.jtag 2 (if !isRegister p && s.physOk pa 8 false then p else .bad) (fun t =>
    let (g, u) := t.load pa 8 false true true
    u.record (if g.poison then "JTAG poison" else "JTAG") (g.data.map (fun b => b.toNat))))

/-- JTAG_KEEPER_HALT. -/
def execJtagKeeperHalt (ps : Nat) (s : State) : Out :=
  ok (s.jtag 2 (if ps < 32 then .kmem ps 0 else .bad) (fun t => t.setBits (csr ps 0) 3 3 1))

/-- JTAG_KEEPER_STEP: the keeper runs for one word, which is the next step, and halts again. -/
def execJtagKeeperStep (ps : Nat) (s : State) : Out :=
  ok (s.jtag 2 (if ps < 32 then .kmem ps 0 else .bad) (fun t =>
    let u := t.setBits (csr ps 0) 3 3 0
    { u with inputs := [.keeper ps, .event (.jtagKeeperHalt ps)] ++ u.inputs }))

/-- Bits as an answer records them. -/
def bitNums (bs : List Bool) : List Nat := bs.map (fun b => if b then 1 else 0)

/-- What the boundary cells hold as `n` bits are captured: free values. -/
def State.captured (s : State) (n : Nat) : List Bool := (upTo n).map (fun i => Config.boundaryCell (s.free + i))

/-- JTAG_BYPASS (R479): the one-bit register stands between TDI and TDO. -/
def execJtagBypass (dr : List Bool) (s : State) : Out := ok (s.record "JTAG" (bitNums ((false :: dr).take dr.length)))

/-- JTAG_IDCODE (R479). -/
def execJtagIdcode (s : State) : Out := ok (s.record "JTAG" [0x1A41D0F3])

/-- The boundary register captured and shifted: the cells' values come out, and the bits shifted in stand in it. -/
def State.scan (s : State) (dr : List Bool) : State :=
  let t := s.record "JTAG" (bitNums (s.captured dr.length))
  { t.setCust { t.cust with boundary := dr } with free := t.free + dr.length }

/-- JTAG_SAMPLE_PRELOAD (R479): in every combination. -/
def execJtagSamplePreload (dr : List Bool) (s : State) : Out := ok (s.scan dr)

/-- EXTEST and INTEST (R479): only in FA at level 2. -/
def State.boundaryTest (s : State) (dr : List Bool) : State := if s.security = 3 ∧ s.debugLevel = 2 then s.scan dr else s.jtagRefused

/-- JTAG_EXTEST. -/
def execJtagExtest (dr : List Bool) (s : State) : Out := ok (s.boundaryTest dr)

/-- JTAG_INTEST. -/
def execJtagIntest (dr : List Bool) (s : State) : Out := ok (s.boundaryTest dr)

/-! ## Platform monitoring (R500) -/

/-- PLDM_SENSOR_READ: sensor 0 is `MOD.POWER`, 1 `MOD.TEMP`, 2 `MOD.CLK`; another number names none. -/
def execPldmSensorRead (n : Nat) (s : State) : Out :=
  ok (s.record "PLDM" (if n ≤ 2 then [(s.reg (modReg (nth 0 [0x10, 0x18, 0x20] n))).toNat] else []))

/-- PLDM_SET_EFFECTER: `MOD.PCAP`, clamped as any write of it (R498). -/
def execPldmSetEffecter (v : Nat) (s : State) : Out :=
  ok (s.setReg (modReg 8) (BitVec.ofNat 64 (Nat.max 1000 (Nat.min 3600 v))))

end Sys2Proof.Machine
end

