-- ==== Sys2Proof/Machine/WorkerFloat.lean ====
section
/-! DEFINITION. Worker float operations, special functions and conversions (R171 to R174, R88, R89). -/

namespace Sys2Proof.Machine

/-- The node's float format (R79, R99). -/
def Firing.fmt (f : Firing) : Fmt := floatFmt f.width f.m77

/-- FADD (R171). -/
def execFadd (s : State) : Out :=
  ok (s.fire (fun f t => t.rounded2 f f.rm (fun d x y => roundAdd f.fmt f.rm d (value f.fmt x) (value f.fmt y))))
/-- FSUB (R171). -/
def execFsub (s : State) : Out :=
  ok (s.fire (fun f t => t.rounded2 f f.rm (fun d x y => roundAdd f.fmt f.rm d (value f.fmt x) (value f.fmt y).neg)))
/-- FMUL (R171). -/
def execFmul (s : State) : Out :=
  ok (s.fire (fun f t => t.rounded2 f f.rm (fun d x y => round f.fmt f.rm d ((value f.fmt x).mul (value f.fmt y)))))

/-- FFMA (R171): x·y + z with one rounding; z is read from the slot when the firing issues. 0·∞ raises NV whatever z is. An empty run
does not read the slot, so that its line's poison is not ORed in: DESIGN CHOICE (log 71), as for `pdot` and `isect`. -/
def execFfma (s : State) : Out :=
  ok (s.fire (fun f t =>
    if f.isEmpty then t.emitEmpty f f.width
    else
      let (zl, zp) := t.slotRead f (f.lit % 256)
      let zs := zl.flatMap (elemsOf f.width)
      let poison := f.poisoned || zp
      let (ds, t1) := t.drawFor f.ci f.rm (f.len * subCount f.width)
      let rs := (withDraws ds ((f.xs.zip f.ys).zip zs)).map (fun e =>
        round f.fmt f.rm e.1 (sumNum f.rm [(value f.fmt e.2.1.1).mul (value f.fmt e.2.1.2), value f.fmt e.2.2]))
      t1.withFlags f poison (rs.map (fun r => r.2)) (fun u =>
        u.emit f (f.out f.width poison false (lanesBack f.width f.len (rs.map (fun r => r.1)))))))

/-- FNEG (R172): the sign bit inverted. -/
def execFneg (s : State) : Out :=
  ok (s.fire (fun f t => t.elementwise1 f (fun x => x ^^^ 2 ^ (subWidth f.width - 1))))
/-- FABS (R172): the sign bit cleared. -/
def execFabs (s : State) : Out := ok (s.fire (fun f t => t.elementwise1 f (fun x => x % 2 ^ (subWidth f.width - 1))))

/-- FMIN (R88). -/
def execFmin (s : State) : Out := ok (s.fire (fun f t => t.rounded2 f 0 (fun _ x y => minMax f.fmt false false x y)))
/-- FMAX (R88). -/
def execFmax (s : State) : Out := ok (s.fire (fun f t => t.rounded2 f 0 (fun _ x y => minMax f.fmt true false x y)))
/-- FMINP (R88). -/
def execFminp (s : State) : Out := ok (s.fire (fun f t => t.rounded2 f 0 (fun _ x y => minMax f.fmt false true x y)))
/-- FMAXP (R88). -/
def execFmaxp (s : State) : Out := ok (s.fire (fun f t => t.rounded2 f 0 (fun _ x y => minMax f.fmt true true x y)))

/-- A float compare: the mask and the flags (R89, R170, R172). -/
def State.floatCompare (s : State) (f : Firing) (rel : Nat) : State :=
  s.rounded2 f 0 (fun _ x y =>
    let (b, fl) := floatCmp f.fmt rel x y
    (maskOf (subWidth f.width) b, fl))

/-- FCEQ (R89): quiet. -/
def execFceq (s : State) : Out := ok (s.fire (fun f t => t.floatCompare f 0))
/-- FCLT (R89): signalling. -/
def execFclt (s : State) : Out := ok (s.fire (fun f t => t.floatCompare f 1))
/-- FCLE (R89): signalling. -/
def execFcle (s : State) : Out := ok (s.fire (fun f t => t.floatCompare f 2))
/-- FCUN (R89): quiet. -/
def execFcun (s : State) : Out := ok (s.fire (fun f t => t.floatCompare f 3))

/-- A reciprocal or reciprocal root rounded under the node's mode (R173). -/
def State.reciprocal (s : State) (f : Firing) (root : Bool) : State :=
  s.rounded1 f f.rm (fun d x =>
    let (v, fl) := rcpNum root (value f.fmt x)
    let (c, gl) := round f.fmt f.rm d v
    (c, fl ||| gl))

/-- FRCP (R173). -/
def execFrcp (s : State) : Out := ok (s.fire (fun f t => t.reciprocal f false))
/-- FRSQ (R173). -/
def execFrsq (s : State) : Out := ok (s.fire (fun f t => t.reciprocal f true))
/-- FEXP2 (R173). -/
def execFexp2 (s : State) : Out := ok (s.fire (fun f t => t.rounded1 f 0 (fun _ x => special 0 f.fmt x)))
/-- FLOG2 (R173). -/
def execFlog2 (s : State) : Out := ok (s.fire (fun f t => t.rounded1 f 0 (fun _ x => special 1 f.fmt x)))
/-- FSIN (R173). -/
def execFsin (s : State) : Out := ok (s.fire (fun f t => t.rounded1 f 0 (fun _ x => special 2 f.fmt x)))
/-- FCOS (R173). -/
def execFcos (s : State) : Out := ok (s.fire (fun f t => t.rounded1 f 0 (fun _ x => special 3 f.fmt x)))

/-! ## Conversions (R174) -/

/-- Which source element of a lane a target sub-element takes, if any (R174). -/
def cvtSource (ks kt sel i : Nat) : Option Nat :=
  if kt ≤ ks then (if sel * kt + i < ks then some (sel * kt + i) else none)
  else if sel * ks ≤ i ∧ i < sel * ks + ks then some (i - sel * ks) else none

/-- The flags of a lane's targets in the places of the source sub-elements they were converted from (R80, R174). -/
def cvtFlags (ks kt sel : Nat) (fl : List Nat) : List Nat :=
  (if kt ≤ ks then padTo 0 ks (List.replicate (sel * kt) 0 ++ fl) else fl.drop (sel * ks)).take ks

/-- A conversion (R174): each target sub-element that has a source takes round(x, target, RM); the others are zero. Draws
and flags follow the converted elements in order. -/
def State.convert (s : State) (f : Firing) : State :=
  let tgt := fmtOfCode (f.lit % 16)
  let src := fmtOfCode (bits f.lit 7 4)
  let sel := bits f.lit 11 8
  if f.isEmpty then s.emitEmpty f tgt.code
  else
    let ks := subCount src.code
    let kt := subCount tgt.code
    let slots := (upTo f.len).flatMap (fun j => (upTo kt).map (fun i =>
      (cvtSource ks kt sel i).map (fun k => elemOf src.code (f.aLane j) k)))
    let (ds, s1) := s.drawFor f.ci f.rm (slots.filter (fun o => o.isSome)).length
    -- each element with the draw of its place among the converted ones
    let rs := (slots.foldl (fun (acc : Nat × List (Nat × Nat × Bool)) o =>
      match o with
      | some x =>
        let (c, fl) := round tgt f.rm (nth 0 ds acc.1) (value src x)
        (acc.1 + 1, (c, fl, true) :: acc.2)
      | none => (acc.1, (0, 0, false) :: acc.2)) (0, [])).2.reverse
    s1.withFlags f f.poisoned ((chunks kt f.len (rs.map (fun r => r.2.1))).flatMap (cvtFlags ks kt sel)) (fun t =>
      t.emit f (f.out tgt.code f.poisoned false (lanesBack tgt.code f.len (rs.map (fun r => r.1)))))

/-- CVT_F (R174). -/
def execCvtF (s : State) : Out := ok (s.fire (fun f t => t.convert f))
/-- CVT_FI (R174, R87). -/
def execCvtFi (s : State) : Out := ok (s.fire (fun f t => t.convert f))
/-- CVT_IF (R174, R87). -/
def execCvtIf (s : State) : Out := ok (s.fire (fun f t => t.convert f))

end Sys2Proof.Machine
end

