-- ==== Sys2Proof/Machine/WorkerInt.lean ====
section
/-! DEFINITION. Worker integer operations, bit counts and compares (R168 to R170). Each acts on the firing on the
datapath. -/

namespace Sys2Proof.Machine

/-- A dyadic integer operation on signed operands, delivered under SAT (R168). -/
def State.intSigned (s : State) (f : Firing) (op : Int → Int → Int) : State :=
  let w := subWidth f.width
  s.elementwise f (fun x y => deliverInt w f.m77 false (op (sgn w x) (sgn w y)))

/-- A dyadic integer operation on the codes. -/
def State.intBits (s : State) (f : Firing) (op : Nat → Nat → Nat → Nat) : State :=
  let w := subWidth f.width
  s.elementwise f (fun x y => op w x y % 2 ^ w)

/-- A compare that gives a mask (R170). -/
def State.intCompare (s : State) (f : Firing) (rel : Nat → Nat → Nat → Bool) : State :=
  let w := subWidth f.width
  s.elementwise f (fun x y => maskOf w (rel w x y))

/-- ADD (R168). -/
def execAdd (s : State) : Out := ok (s.fire (fun f t => t.intSigned f (fun x y => x + y)))
/-- SUB (R168). -/
def execSub (s : State) : Out := ok (s.fire (fun f t => t.intSigned f (fun x y => x - y)))
/-- MUL (R168). -/
def execMul (s : State) : Out := ok (s.fire (fun f t => t.intSigned f (fun x y => x * y)))
/-- MULH (R168): floor(x·y / 2^w), signed. -/
def execMulh (s : State) : Out :=
  ok (s.fire (fun f t => t.elementwise f (fun x y =>
    let w := subWidth f.width
    deliverInt w false false ((sgn w x * sgn w y) / (2 ^ w : Nat)))))
/-- MULHN (R168): unsigned. -/
def execMulhn (s : State) : Out := ok (s.fire (fun f t => t.intBits f (fun w x y => x * y / 2 ^ w)))

/-- NEG (R168). -/
def execNeg (s : State) : Out :=
  ok (s.fire (fun f t => t.elementwise1 f (fun x =>
    let w := subWidth f.width
    deliverInt w f.m77 false (-(sgn w x)))))
/-- ABS (R168). -/
def execAbs (s : State) : Out :=
  ok (s.fire (fun f t => t.elementwise1 f (fun x =>
    let w := subWidth f.width
    deliverInt w f.m77 false ((sgn w x).natAbs : Int))))

/-- MIN (R168): signed. -/
def execMin (s : State) : Out := ok (s.fire (fun f t => t.intBits f (fun w x y => if sgn w y < sgn w x then y else x)))
/-- MAX (R168). -/
def execMax (s : State) : Out := ok (s.fire (fun f t => t.intBits f (fun w x y => if sgn w x < sgn w y then y else x)))
/-- MINN (R168): unsigned. -/
def execMinn (s : State) : Out := ok (s.fire (fun f t => t.intBits f (fun _ x y => Nat.min x y)))
/-- MAXN (R168). -/
def execMaxn (s : State) : Out := ok (s.fire (fun f t => t.intBits f (fun _ x y => Nat.max x y)))

/-- AND (R168). -/
def execAnd (s : State) : Out := ok (s.fire (fun f t => t.intBits f (fun _ x y => x &&& y)))
/-- OR (R168). -/
def execOr (s : State) : Out := ok (s.fire (fun f t => t.intBits f (fun _ x y => x ||| y)))
/-- XOR (R168). -/
def execXor (s : State) : Out := ok (s.fire (fun f t => t.intBits f (fun _ x y => x ^^^ y)))

/-- SHL (R168): by y mod w. -/
def execShl (s : State) : Out := ok (s.fire (fun f t => t.intBits f (fun w x y => x * 2 ^ (y % w))))
/-- SHR (R168). -/
def execShr (s : State) : Out := ok (s.fire (fun f t => t.intBits f (fun w x y => x / 2 ^ (y % w))))
/-- SRA (R168): floor(x / 2^s), signed. -/
def execSra (s : State) : Out :=
  ok (s.fire (fun f t => t.elementwise f (fun x y =>
    let w := subWidth f.width
    deliverInt w false false (sgn w x / (2 ^ (y % w) : Nat)))))
/-- ROTL (R168). -/
def execRotl (s : State) : Out :=
  ok (s.fire (fun f t => t.intBits f (fun w x y => x * 2 ^ (y % w) + x / 2 ^ (w - y % w))))

/-- The highest one bit's place plus one; 0 for zero. -/
def bitLength (x : Nat) : Nat := if x = 0 then 0 else Nat.log2 x + 1

/-- The count of one bits among the low `w`. -/
def popCount (w x : Nat) : Nat := ((upTo w).filter (fun b => bitOf x b)).length

/-- The low `w` bits in reverse order. -/
def reverseBits (w x : Nat) : Nat := (upTo w).foldl (fun acc b => acc + (if bitOf x b then 2 ^ (w - 1 - b) else 0)) 0

/-- CLZ (R169). -/
def execClz (s : State) : Out := ok (s.fire (fun f t => t.elementwise1 f (fun x => subWidth f.width - bitLength x)))
/-- POPC (R169). -/
def execPopc (s : State) : Out := ok (s.fire (fun f t => t.elementwise1 f (fun x => popCount (subWidth f.width) x)))
/-- BREV (R169). -/
def execBrev (s : State) : Out := ok (s.fire (fun f t => t.elementwise1 f (fun x => reverseBits (subWidth f.width) x)))

/-- CEQ (R170). -/
def execCeq (s : State) : Out := ok (s.fire (fun f t => t.intCompare f (fun _ x y => x == y)))
/-- CNE (R170). -/
def execCne (s : State) : Out := ok (s.fire (fun f t => t.intCompare f (fun _ x y => x != y)))
/-- CLT (R170): signed. -/
def execClt (s : State) : Out := ok (s.fire (fun f t => t.intCompare f (fun w x y => decide (sgn w x < sgn w y))))
/-- CLE (R170): signed. -/
def execCle (s : State) : Out := ok (s.fire (fun f t => t.intCompare f (fun w x y => decide (sgn w x ≤ sgn w y))))
/-- CLTN (R170): unsigned. -/
def execCltn (s : State) : Out := ok (s.fire (fun f t => t.intCompare f (fun _ x y => decide (x < y))))
/-- CLEN (R170): unsigned. -/
def execClen (s : State) : Out := ok (s.fire (fun f t => t.intCompare f (fun _ x y => decide (x ≤ y))))

end Sys2Proof.Machine
end

