-- ==== Sys2Proof/Machine/WorkerRun.lean ====
section
/-! DEFINITION. Worker repacking, packed operations and reductions over a run (R175 to R180). -/

namespace Sys2Proof.Machine

/-- Literal bit [31], F: the element type is float (R167). -/
def Firing.isFloat (f : Firing) : Bool := bitOf f.lit 31
/-- Literal bit [30], U: unsigned integers (R167). -/
def Firing.isUnsigned (f : Firing) : Bool := bitOf f.lit 30
/-- The rounding mode where F = 1, else none. -/
def Firing.mode (f : Firing) : Nat := if f.isFloat then f.rm else 0

/-! ## pack and unpack (R175) -/

/-- Elements with their output value and sub-element, those that follow one another with one value together. A run that goes round its
whole innermost field from an unaligned start meets its first output value again at its end, which `pack` then emits twice, half
filled each time: DESIGN CHOICE (log 71), R175 does not say. -/
def gatherValues : List (Nat × Nat × Nat) → List (Nat × List (Nat × Nat))
  | [] => []
  | (v, i, x) :: t =>
    match gatherValues t with
    | (u, es) :: r => if u = v then (v, (i, x) :: es) :: r else (v, [(i, x)]) :: (u, es) :: r
    | [] => [(v, [(i, x)])]

/-- Runs of consecutive values joined, from the first, at most 32 lanes each. -/
def joinRuns {α : Type} (xs : List (Nat × α)) : List (Nat × List α) :=
  (xs.foldl (fun (acc : List (Nat × List α)) e =>
    match acc with
    | (b, l) :: r => if e.1 = b + l.length ∧ l.length < 32 then (b, l ++ [e.2]) :: r else (e.1, [e.2]) :: (b, l) :: r
    | [] => [(e.1, [e.2])]) []).reverse

/-- The tokens of `pack` and `unpack` from elements with their output values (R175, R162). -/
def State.repack (s : State) (f : Firing) (es : List (Nat × Nat × Nat)) : State :=
  let sh := s.shape f.ctx
  let runs := joinRuns (gatherValues es)
  s.sendAll f (runs.map (fun r =>
    f.outRun r.2.length (setField sh f.tag f.level r.1) f.width f.poisoned f.isEmpty
      (r.2.map (fun l => laneOf f.width ((upTo (subCount f.width)).map (fun i =>
        match l.find? (fun e => e.1 == i) with | some e => e.2 | none => 0))))))

/-- The innermost value of lane `j` of a firing. -/
def State.laneValue (s : State) (f : Firing) (j : Nat) : Nat :=
  let sh := s.shape f.ctx
  tagField sh (laneTag sh f.level f.tag j) f.level

/-- PACK (R175). -/
def execPack (s : State) : Out :=
  ok (s.fire (fun f t =>
    let k := subCount f.width
    t.repack f ((upTo f.len).map (fun j => (t.laneValue f j / k, t.laneValue f j % k, elemOf f.width (f.aLane j) 0)))))

/-- UNPACK (R175). -/
def execUnpack (s : State) : Out :=
  ok (s.fire (fun f t =>
    let k := subCount f.width
    let m := 2 ^ fieldWidth (t.shape f.ctx) f.level
    t.repack f ((upTo f.len).flatMap (fun j => (upTo k).map (fun i =>
      ((k * t.laneValue f j + i) % m, 0, elemOf f.width (f.aLane j) i))))))

/-! ## Packed operations (R176, R177) -/

/-- PADD (R176). -/
def execPadd (s : State) : Out :=
  ok (s.fire (fun f t =>
    if f.isFloat then t.rounded2 f f.rm (fun d x y => roundAdd f.fmt f.rm d (value f.fmt x) (value f.fmt y))
    else
      let w := subWidth f.width
      let u := f.isUnsigned
      t.elementwise f (fun x y => deliverInt w f.m77 u (intOf u w x + intOf u w y))))

/-- PMUL (R176). -/
def execPmul (s : State) : Out :=
  ok (s.fire (fun f t =>
    if f.isFloat then t.rounded2 f f.rm (fun d x y => round f.fmt f.rm d ((value f.fmt x).mul (value f.fmt y)))
    else
      let w := subWidth f.width
      let u := f.isUnsigned
      t.elementwise f (fun x y => deliverInt w f.m77 u (intOf u w x * intOf u w y))))

/-- PMAX (R176): `fmax`, or the greater integer. -/
def execPmax (s : State) : Out :=
  ok (s.fire (fun f t =>
    if f.isFloat then t.rounded2 f 0 (fun _ x y => minMax f.fmt true false x y)
    else
      let w := subWidth f.width
      let u := f.isUnsigned
      t.elementwise f (fun x y => if intOf u w x < intOf u w y then y else x)))

/-- The integer dot product of lane `j`, exact (R177). -/
def Firing.dotInt (f : Firing) (j : Nat) : Int :=
  let w := subWidth f.width
  (List.zipWith (fun x y => intOf f.isUnsigned w x * intOf f.isUnsigned w y) (elemsOf f.width (f.aLane j))
    (elemsOf f.width (f.bLane j))).foldl (fun a b => a + b) 0

/-- PDOT (R177): one 32-bit value for each lane; its flags stand at the lane's first element index (R80, R92). -/
def execPdot (s : State) : Out :=
  ok (s.fire (fun f t =>
    if f.isEmpty then t.emitEmpty f 0
    else
      let (zl, zp) := if f.arity = 3 then t.slotRead f (f.lit % 256) else ([], false)
      let poison := f.poisoned || zp
      let z (j : Nat) : Lane := nth 0 zl j
      let (ds, t1) := t.drawFor f.ci f.mode f.len
      let rs : List (Nat × Nat) := (upTo f.len).map (fun j =>
        if f.isFloat then
          let ps := List.zipWith (fun x y => (value f.fmt x).mul (value f.fmt y)) (elemsOf f.width (f.aLane j))
            (elemsOf f.width (f.bLane j))
          round .f32 f.rm (nth 0 ds j) (sumNum f.rm (ps ++ (if f.arity = 3 then [value .f32 (z j).toNat] else [])))
        else
          let e := f.dotInt j + (if f.arity = 3 then intOf f.isUnsigned 32 (z j).toNat else 0)
          (deliverInt 32 f.m77 f.isUnsigned e, 0))
      t1.withFlags f poison (rs.flatMap (fun r => padTo 0 (subCount f.width) [r.2])) (fun u =>
        u.emit f (f.out 0 poison false (rs.map (fun r => BitVec.ofNat 32 r.1))))))

/-! ## Reductions (R178, R179, R94) -/

/-- A reduction's single lane under the tag of lane 0 (R178). -/
def Firing.oneLane (f : Firing) (width : Nat) (l : Lane) : Token :=
  f.outRun 1 f.tag width f.poisoned f.isEmpty [l]

/-- RSUM (R178, R94). The one element of a run of one is converted to the sum's format like any other, so that a signalling NaN gives
the canonical NaN with NV: DESIGN CHOICE (log 71), the tree of one element performs no addition. -/
def execRsum (s : State) : Out :=
  ok (s.fire (fun f t =>
    if f.isEmpty then t.emit f (f.oneLane 0 0)
    else if f.isFloat then
      let ws := f.xs.map (fun x => round .f32 0 0 (value f.fmt x))
      let (c, fl) := treeSum .f32 f.rm (ws.map (fun w => w.1))
      t.withFlags f f.poisoned ((fl ||| (ws.headD (0, 0)).2) :: (ws.tail.map (fun w => w.2)))
        (fun u => u.emit f (f.oneLane 0 (BitVec.ofNat 32 c)))
    else
      let w := subWidth f.width
      let e := (f.xs.map (intOf f.isUnsigned w)).foldl (fun a b => a + b) (0 : Int)
      t.emit f (f.oneLane 0 (BitVec.ofNat 32 (deliverInt 32 f.m77 f.isUnsigned e)))))

/-- The greatest or least element (R178): its code, and each element's flags; with one element nothing is compared. -/
def Firing.extreme (f : Firing) (isMax : Bool) : Nat × List Nat :=
  match f.xs with
  | [] => (0, [])
  | x :: t =>
    if f.isFloat then
      t.foldl (fun acc y => let (c, fl) := minMax f.fmt isMax false acc.1 y; (c, acc.2 ++ [fl]))
        (x, [if t.isEmpty then 0 else (minMax f.fmt isMax false x x).2])
    else
      let w := subWidth f.width
      let u := f.isUnsigned
      (t.foldl (fun acc y =>
        if (isMax && decide (intOf u w acc < intOf u w y)) || (!isMax && decide (intOf u w y < intOf u w acc)) then y else acc) x, [])

/-- A maximum or minimum of the run (R178). -/
def State.reduceExtreme (s : State) (f : Firing) (isMax : Bool) : State :=
  if f.isEmpty then s.emit f (f.oneLane f.width 0)
  else
    let (c, fl) := f.extreme isMax
    s.withFlags f f.poisoned fl (fun u => u.emit f (f.oneLane f.width (laneOf f.width [c])))

/-- RMAX (R178). -/
def execRmax (s : State) : Out := ok (s.fire (fun f t => t.reduceExtreme f true))
/-- RMIN (R178). -/
def execRmin (s : State) : Out := ok (s.fire (fun f t => t.reduceExtreme f false))

/-- Inclusive float prefixes from p on: each element with its draw (R179). -/
def prefixFloat (fmt : Fmt) (mode : Nat) : Nat → List (Nat × Nat) → List (Nat × Nat)
  | _, [] => []
  | p, (d, x) :: t =>
    let (c, fl) := roundAdd fmt mode d (value fmt p) (value fmt x)
    (c, fl) :: prefixFloat fmt mode c t

/-- Inclusive integer prefixes: the exact sums, each delivered (R179). -/
def prefixInt (w : Nat) (sat uns : Bool) : Int → List Nat → List Nat
  | _, [] => []
  | e, x :: t => deliverInt w sat uns (e + intOf uns w x) :: prefixInt w sat uns (e + intOf uns w x) t

/-- RPREFIX (R179). -/
def execRprefix (s : State) : Out :=
  ok (s.fire (fun f t =>
    if f.isEmpty then t.emitEmpty f f.width
    else if f.isFloat then
      let (ds, t1) := t.drawFor f.ci f.rm (f.xs.length - 1)
      let x0 := f.xs.headD 0
      let rs := (x0, 0) :: prefixFloat f.fmt f.rm x0 (withDraws ds f.xs.tail)
      t1.withFlags f f.poisoned (rs.map (fun r => r.2)) (fun u =>
        u.emit f (f.out f.width f.poisoned false (lanesBack f.width f.len (rs.map (fun r => r.1)))))
    else
      t.emit f (f.out f.width f.poisoned false
        (lanesBack f.width f.len (prefixInt (subWidth f.width) f.m77 f.isUnsigned 0 f.xs)))))

/-- RSHIFT (R180): whole lanes, by literal[5:0] as a signed number. Bits [31:30] of an x5 lane are ignored and written as zero (R80). -/
def execRshift (s : State) : Out :=
  ok (s.fire (fun f t =>
    if f.isEmpty then t.emitEmpty f f.width
    else
      let sh : Int := sgn 6 (f.lit % 64)
      t.emit f (f.out f.width f.poisoned false ((upTo f.len).map (fun (j : Nat) =>
        let i : Int := (j : Int) - sh
        if 0 ≤ i ∧ i < f.len then laneOf f.width (elemsOf f.width (f.aLane i.toNat)) else 0)))))

end Sys2Proof.Machine
end

