-- ==== Sys2Proof/Machine/WorkerSparse.lean ====
section
/-! DEFINITION. Worker bitmap operations, frame access and `lit` (R181 to R187). -/

namespace Sys2Proof.Machine

/-- Count of one bits of a lane. -/
def popLane (l : Lane) : Nat := popCount 32 l.toNat

/-- The positions of the one bits of a lane, increasing. -/
def onesOf (l : Lane) : List Nat := (upTo 32).filter (fun p => l.getLsbD p)

/-- `band` and `bor` (R181): bitmaps to A, their counts to B. Where push cuts them into several tokens, all of A's leave before B's:
DESIGN CHOICE (log 71), R161 orders A before B for one token alone. -/
def State.bitmapOp (s : State) (f : Firing) (op : Lane → Lane → Lane) : State :=
  let ms := (upTo f.len).map (fun j => op (f.aLane j) (f.bLane j))
  (s.emitTo f f.cfg.fields.dstA (f.out 0 f.poisoned f.isEmpty ms)).emitTo f f.cfg.fields.dstB
    (f.out 0 f.poisoned f.isEmpty (ms.map (fun m => BitVec.ofNat 32 (popLane m))))

/-- BAND (R181). -/
def execBand (s : State) : Out := ok (s.fire (fun f t => t.bitmapOp f (fun x y => x &&& y)))
/-- BOR (R181). -/
def execBor (s : State) : Out := ok (s.fire (fun f t => t.bitmapOp f (fun x y => x ||| y)))

/-- Exclusive prefix counts from a start (R182). -/
def prefixCounts : Nat → List Lane → List Nat
  | _, [] => []
  | n, x :: t => n :: prefixCounts (n + popLane x) t

/-- PCPRE (R182). -/
def execPcpre (s : State) : Out :=
  ok (s.fire (fun f t =>
    let width := if f.arity = 0 then 0 else 1
    if f.isEmpty then t.emitEmpty f width
    else
      let xs := (upTo f.len).map f.aLane
      let ys := (upTo f.len).map f.bLane
      t.emit f (f.out width f.poisoned false
        (if f.arity = 0 then (prefixCounts f.lit xs).map (BitVec.ofNat 32)
         else List.zipWith (fun a b => BitVec.ofNat 32 (a % 65536 + (b % 65536) * 65536))
          (prefixCounts (f.lit % 65536) xs) (prefixCounts (f.lit / 65536) ys)))))

/-- One token for each fired lane, under the lane's own tag after push (R183, R184): the lanes, or none for an empty run. -/
def State.perLane (s : State) (f : Firing) (width : Nat) (poison : Bool) (lanes : Nat → List Lane) : State :=
  let sh := s.shape f.ctx
  s.sendAll f ((upTo f.len).map (fun j =>
    let ls := if f.isEmpty then [] else lanes j
    pushTag sh f.level (f.outRun (Nat.max 1 ls.length) (laneTag sh f.level f.tag j) width poison ls.isEmpty ls)))

/-- BEXP (R183). -/
def execBexp (s : State) : Out :=
  ok (s.fire (fun f t =>
    t.perLane f 0 f.poisoned (fun j =>
      (onesOf (f.aLane j)).map (fun p => BitVec.ofNat 32 (f.lit + 32 * t.laneValue f j + p)))))

/-- ISECT (R184): the ranks of every common one bit in both arrays. -/
def execIsect (s : State) : Out :=
  ok (s.fire (fun f t =>
    let (zl, zp) := t.slotRead f (f.lit % 256)
    let below (l : Lane) (p : Nat) : Nat := popCount p l.toNat
    t.perLane f 1 (f.poisoned || (!f.isEmpty && zp)) (fun j =>
      let x := f.aLane j
      let z := nth 0 zl j
      let y := (f.bLane j).toNat
      (onesOf (x &&& z)).map (fun p =>
        BitVec.ofNat 32 ((y % 65536 + below x p) % 65536 + ((y / 65536 + below z p) % 65536) * 65536)))))

/-! ## Frame access (R185) -/

/-- The element index of lane `j` of `sld` or `sst`. -/
def Firing.frameIndex (f : Firing) (j : Nat) : Nat := ((f.aLane j).toNat / 2 ^ bits f.lit 12 8) % 65536

/-- The byte of the named lines at which an element's lane stands, and its sub-element. -/
def Firing.frameByte (f : Firing) (e : Nat) : Nat × Nat :=
  (128 * (f.lit % 256) + 4 * (e / subCount f.width), e % subCount f.width)

/-- The first lane whose element lies at or beyond line P (R185). -/
def State.frameOutside (s : State) (f : Firing) : Option Nat :=
  (upTo f.len).find? (fun j => decide (128 * (s.cell f.ci).active.named ≤ (f.frameByte (f.frameIndex j)).1))

/-- The ADDR fault of a frame access (R185, R188). -/
def State.frameFault (s : State) (f : Firing) (j : Nat) : State :=
  let e := f.frameIndex j
  let a := frameAddr f.ci 0 + (f.frameByte e).1
  s.faultFiring f fADDR [BitVec.ofNat 32 a, BitVec.ofNat 32 (a / 2 ^ 32), BitVec.ofNat 32 (e + j * 65536), 0]

/-- SLD (R185): the element in sub-element 0; poison where a line read is poisoned. -/
def execSld (s : State) : Out :=
  ok (s.fire (fun f t =>
    if f.isEmpty then t.emitEmpty f f.width
    else
      match t.frameOutside f with
      | some j => t.frameFault f j
      | none =>
        let at_ (j : Nat) : Nat × Nat := f.frameByte (f.frameIndex j)
        let bad := (upTo f.len).any (fun j => (t.cell f.ci).linePoison.contains ((at_ j).1 / 128))
        t.emit f (f.out f.width (f.poisoned || bad) false ((upTo f.len).map (fun j =>
          laneOf f.width [elemOf f.width (t.lane (frameAddr f.ci 0 + (at_ j).1)) (at_ j).2])))))

/-- One element of the named lines written. -/
def State.putElement (s : State) (f : Firing) (j : Nat) : State :=
  let (b, i) := f.frameByte (f.frameIndex j)
  let a := frameAddr f.ci 0 + b
  let es := setNth (elemOf f.width (f.bLane j) 0) (elemsOf f.width (s.lane a)) i
  let s1 := s.putLE a 4 (laneOf f.width es).toNat
  if f.poisoned then s1.setLinePoison f.ci (b / 128) true else s1

/-- SST (R185): the elements written in lane order; y's values go on unchanged. -/
def execSst (s : State) : Out :=
  ok (s.fire (fun f t =>
    if f.isEmpty then t.emitEmpty f f.width
    else
      match t.frameOutside f with
      | some j => t.frameFault f j
      | none =>
        ((upTo f.len).foldl (fun u j => u.putElement f j) t).emit f
          (f.out f.width f.poisoned false ((upTo f.len).map (fun j => laneOf f.width (elemsOf f.width (f.bLane j)))))))

/-- LIT (R187). -/
def execLit (s : State) : Out :=
  ok (s.fire (fun f t =>
    if f.isEmpty then t.emitEmpty f f.width
    else
      t.emit f (f.out f.width f.poisoned false
        (List.replicate f.len (laneOf f.width (List.replicate (subCount f.width) f.lit))))))

end Sys2Proof.Machine
end

