-- ==== Sys2Proof/Machine/Dispatch.lean ====
section
/-! DEFINITION. The meaning of every instruction, by constructor. -/

namespace Sys2Proof.Machine

/-- What an instruction does. -/
def exec (i : Instr) (s : State) : Host.Outcome State Fault Refusal :=
  match i with
  | .keeperAdd d a b => Sys2Proof.Machine.execKeeperAdd d a b s
  | .keeperSub d a b => Sys2Proof.Machine.execKeeperSub d a b s
  | .keeperAnd d a b => Sys2Proof.Machine.execKeeperAnd d a b s
  | .keeperOr d a b => Sys2Proof.Machine.execKeeperOr d a b s
  | .keeperXor d a b => Sys2Proof.Machine.execKeeperXor d a b s
  | .keeperSll d a b => Sys2Proof.Machine.execKeeperSll d a b s
  | .keeperSrl d a b => Sys2Proof.Machine.execKeeperSrl d a b s
  | .keeperSra d a b => Sys2Proof.Machine.execKeeperSra d a b s
  | .keeperMul d a b => Sys2Proof.Machine.execKeeperMul d a b s
  | .keeperMulh d a b => Sys2Proof.Machine.execKeeperMulh d a b s
  | .keeperMulhn d a b => Sys2Proof.Machine.execKeeperMulhn d a b s
  | .keeperSlt d a b => Sys2Proof.Machine.execKeeperSlt d a b s
  | .keeperSltn d a b => Sys2Proof.Machine.execKeeperSltn d a b s
  | .keeperMin d a b => Sys2Proof.Machine.execKeeperMin d a b s
  | .keeperMax d a b => Sys2Proof.Machine.execKeeperMax d a b s
  | .keeperAddi d a n => Sys2Proof.Machine.execKeeperAddi d a n s
  | .keeperAndi d a n => Sys2Proof.Machine.execKeeperAndi d a n s
  | .keeperOri d a n => Sys2Proof.Machine.execKeeperOri d a n s
  | .keeperXori d a n => Sys2Proof.Machine.execKeeperXori d a n s
  | .keeperSlli d a sh => Sys2Proof.Machine.execKeeperSlli d a sh s
  | .keeperSrli d a sh => Sys2Proof.Machine.execKeeperSrli d a sh s
  | .keeperSrai d a sh => Sys2Proof.Machine.execKeeperSrai d a sh s
  | .keeperLui d n => Sys2Proof.Machine.execKeeperLui d n s
  | .keeperLd8 d a n => Sys2Proof.Machine.execKeeperLd8 d a n s
  | .keeperLd16 d a n => Sys2Proof.Machine.execKeeperLd16 d a n s
  | .keeperLd32 d a n => Sys2Proof.Machine.execKeeperLd32 d a n s
  | .keeperLd64 d a n => Sys2Proof.Machine.execKeeperLd64 d a n s
  | .keeperSt8 a b o => Sys2Proof.Machine.execKeeperSt8 a b o s
  | .keeperSt16 a b o => Sys2Proof.Machine.execKeeperSt16 a b o s
  | .keeperSt32 a b o => Sys2Proof.Machine.execKeeperSt32 a b o s
  | .keeperSt64 a b o => Sys2Proof.Machine.execKeeperSt64 a b o s
  | .keeperBeq a b o => Sys2Proof.Machine.execKeeperBeq a b o s
  | .keeperBne a b o => Sys2Proof.Machine.execKeeperBne a b o s
  | .keeperBlt a b o => Sys2Proof.Machine.execKeeperBlt a b o s
  | .keeperBge a b o => Sys2Proof.Machine.execKeeperBge a b o s
  | .keeperBltn a b o => Sys2Proof.Machine.execKeeperBltn a b o s
  | .keeperBgen a b o => Sys2Proof.Machine.execKeeperBgen a b o s
  | .keeperJal d o => Sys2Proof.Machine.execKeeperJal d o s
  | .keeperJalr d a n => Sys2Proof.Machine.execKeeperJalr d a n s
  | .keeperCsrr d c => Sys2Proof.Machine.execKeeperCsrr d c s
  | .keeperCsrw a c => Sys2Proof.Machine.execKeeperCsrw a c s
  | .keeperTrap c => Sys2Proof.Machine.execKeeperTrap c s
  | .keeperWait d a n => Sys2Proof.Machine.execKeeperWait d a n s
  | .keeperFence sc => Sys2Proof.Machine.execKeeperFence sc s
  | .kpLaunch d a => Sys2Proof.Machine.execKpLaunch d a s
  | .kpCfgp a ntf => Sys2Proof.Machine.execKpCfgp a ntf s
  | .kpCfgk a ntf => Sys2Proof.Machine.execKpCfgk a ntf s
  | .kpSend a => Sys2Proof.Machine.execKpSend a s
  | .kpEvq d a peek => Sys2Proof.Machine.execKpEvq d a peek s
  | .kpSched d rew => Sys2Proof.Machine.execKpSched d rew s
  | .kpInject a => Sys2Proof.Machine.execKpInject a s
  | .kpDrain d => Sys2Proof.Machine.execKpDrain d s
  | .illegalInstruction w => Sys2Proof.Machine.execIllegalInstruction w s
  | .keeperWaitResume ps => Sys2Proof.Machine.execKeeperWaitResume ps s
  | .keeperFenceComplete ps => Sys2Proof.Machine.execKeeperFenceComplete ps s
  | .configDeliveryComplete ps => Sys2Proof.Machine.execConfigDeliveryComplete ps s
  | .tokenArrival k => Sys2Proof.Machine.execTokenArrival k s
  | .spillRecordStore ps => Sys2Proof.Machine.execSpillRecordStore ps s
  | .overflowRoomFreed ps => Sys2Proof.Machine.execOverflowRoomFreed ps s
  | .spillReinject ps ci => Sys2Proof.Machine.execSpillReinject ps ci s
  | .spillProbe ps ci => Sys2Proof.Machine.execSpillProbe ps ci s
  | .overflowChunkReturn ps => Sys2Proof.Machine.execOverflowChunkReturn ps s
  | .eventQueueArrival k => Sys2Proof.Machine.execEventQueueArrival k s
  | .drainForward ci => Sys2Proof.Machine.execDrainForward ci s
  | .engineDrainReturn d => Sys2Proof.Machine.execEngineDrainReturn d s
  | .drainCount k => Sys2Proof.Machine.execDrainCount k s
  | .fenceMarkerReturn d => Sys2Proof.Machine.execFenceMarkerReturn d s
  | .secParkResume ps v => Sys2Proof.Machine.execSecParkResume ps v s
  | .secParkDiscard ps v => Sys2Proof.Machine.execSecParkDiscard ps v s
  | .registerWrite pa v => Sys2Proof.Machine.execRegisterWrite pa v s
  | .engineUnassignedOpcode m => Sys2Proof.Machine.execEngineUnassignedOpcode m s
  | .chainMemberLink id => Sys2Proof.Machine.execChainMemberLink id s
  | .storeBufferSend id => Sys2Proof.Machine.execStoreBufferSend id s
  | .homeAccess id j => Sys2Proof.Machine.execHomeAccess id j s
  | .memoryReply id j => Sys2Proof.Machine.execMemoryReply id j s
  | .poolCfg m => Sys2Proof.Machine.execPoolCfg m s
  | .poolMap m => Sys2Proof.Machine.execPoolMap m s
  | .poolBload m => Sys2Proof.Machine.execPoolBload m s
  | .poolBloadNm m => Sys2Proof.Machine.execPoolBloadNm m s
  | .poolA m => Sys2Proof.Machine.execPoolA m s
  | .poolMma m => Sys2Proof.Machine.execPoolMma m s
  | .poolMmaBs m => Sys2Proof.Machine.execPoolMmaBs m s
  | .poolDrain m => Sys2Proof.Machine.execPoolDrain m s
  | .poolZero m => Sys2Proof.Machine.execPoolZero m s
  | .poolSpan m => Sys2Proof.Machine.execPoolSpan m s
  | .poolFence m => Sys2Proof.Machine.execPoolFence m s
  | .poolStat m => Sys2Proof.Machine.execPoolStat m s
  | .poolCommit m => Sys2Proof.Machine.execPoolCommit m s
  | .steerToken m => Sys2Proof.Machine.execSteerToken m s
  | .bSetLoad pl id => Sys2Proof.Machine.execBSetLoad pl id s
  | .passStreamStart pl id => Sys2Proof.Machine.execPassStreamStart pl id s
  | .spanSumsArrive pl id => Sys2Proof.Machine.execSpanSumsArrive pl id s
  | .ladderDecision pl id => Sys2Proof.Machine.execLadderDecision pl id s
  | .replayStream pl id => Sys2Proof.Machine.execReplayStream pl id s
  | .poolDrainPerform pl id => Sys2Proof.Machine.execPoolDrainPerform pl id s
  | .walkEntryFetch pl => Sys2Proof.Machine.execWalkEntryFetch pl s
  | .walkPark pl => Sys2Proof.Machine.execWalkPark pl s
  | .poolWalkResume pl v => Sys2Proof.Machine.execPoolWalkResume pl v s
  | .poolWalkAbort pl v => Sys2Proof.Machine.execPoolWalkAbort pl v s
  | .ladBudget m => Sys2Proof.Machine.execLadBudget m s
  | .ladStart m => Sys2Proof.Machine.execLadStart m s
  | .ladCap m => Sys2Proof.Machine.execLadCap m s
  | .ladRetain m => Sys2Proof.Machine.execLadRetain m s
  | .ladRelease m => Sys2Proof.Machine.execLadRelease m s
  | .ladRead m => Sys2Proof.Machine.execLadRead m s
  | .ladClear m => Sys2Proof.Machine.execLadClear m s
  | .ladForce m => Sys2Proof.Machine.execLadForce m s
  | .heldWriteResume d => Sys2Proof.Machine.execHeldWriteResume d s
  | .cpLin m => Sys2Proof.Machine.execCpLin m s
  | .cp2d m => Sys2Proof.Machine.execCp2d m s
  | .cpTr m => Sys2Proof.Machine.execCpTr m s
  | .cpZip m => Sys2Proof.Machine.execCpZip m s
  | .cpUnzip m => Sys2Proof.Machine.execCpUnzip m s
  | .cpFill m => Sys2Proof.Machine.execCpFill m s
  | .cpGath m => Sys2Proof.Machine.execCpGath m s
  | .cpFence m => Sys2Proof.Machine.execCpFence m s
  | .drainHandoff pl id => Sys2Proof.Machine.execDrainHandoff pl id s
  | .stkGemv m => Sys2Proof.Machine.execStkGemv m s
  | .stkGemvAcc m => Sys2Proof.Machine.execStkGemvAcc m s
  | .stkLoad m => Sys2Proof.Machine.execStkLoad m s
  | .stkStat m => Sys2Proof.Machine.execStkStat m s
  | .stkFence m => Sys2Proof.Machine.execStkFence m s
  | .refreshInterval st ch postpone => Sys2Proof.Machine.execRefreshInterval st ch postpone s
  | .refreshPullIn st ch => Sys2Proof.Machine.execRefreshPullIn st ch s
  | .remapRebuild st => Sys2Proof.Machine.execRemapRebuild st s
  | .pgMove m => Sys2Proof.Machine.execPgMove m s
  | .pgAbort m => Sys2Proof.Machine.execPgAbort m s
  | .pgPin m => Sys2Proof.Machine.execPgPin m s
  | .pgUnpin m => Sys2Proof.Machine.execPgUnpin m s
  | .pgHot m => Sys2Proof.Machine.execPgHot m s
  | .pgViewOpen m => Sys2Proof.Machine.execPgViewOpen m s
  | .pgViewClose m => Sys2Proof.Machine.execPgViewClose m s
  | .pgInval m => Sys2Proof.Machine.execPgInval m s
  | .pgProbe m => Sys2Proof.Machine.execPgProbe m s
  | .pgFence m => Sys2Proof.Machine.execPgFence m s
  | .walk ps asid ctx va wr => Sys2Proof.Machine.execWalk ps asid ctx va wr s
  | .shootdownInvalidate id rc => Sys2Proof.Machine.execShootdownInvalidate id rc s
  | .shootdownComplete id => Sys2Proof.Machine.execShootdownComplete id s
  | .moveBegin id => Sys2Proof.Machine.execMoveBegin id s
  | .moveLineCopy id => Sys2Proof.Machine.execMoveLineCopy id s
  | .forwardApply id line => Sys2Proof.Machine.execForwardApply id line s
  | .moveCutover id => Sys2Proof.Machine.execMoveCutover id s
  | .moveCopyResume id => Sys2Proof.Machine.execMoveCopyResume id s
  | .moveTimeout id => Sys2Proof.Machine.execMoveTimeout id s
  | .moveAbort id cause => Sys2Proof.Machine.execMoveAbort id cause s
  | .moveAbortFinish id => Sys2Proof.Machine.execMoveAbortFinish id s
  | .twinLineCopy id => Sys2Proof.Machine.execTwinLineCopy id s
  | .twinFillComplete id => Sys2Proof.Machine.execTwinFillComplete id s
  | .hotHalve die => Sys2Proof.Machine.execHotHalve die s
  | .autoMoveStart die => Sys2Proof.Machine.execAutoMoveStart die s
  | .holdGrant id => Sys2Proof.Machine.execHoldGrant id s
  | .lnPut m => Sys2Proof.Machine.execLnPut m s
  | .lnGet m => Sys2Proof.Machine.execLnGet m s
  | .lnAllred m => Sys2Proof.Machine.execLnAllred m s
  | .lnRedsc m => Sys2Proof.Machine.execLnRedsc m s
  | .lnAllgath m => Sys2Proof.Machine.execLnAllgath m s
  | .lnBcast m => Sys2Proof.Machine.execLnBcast m s
  | .lnBarrier m => Sys2Proof.Machine.execLnBarrier m s
  | .lnSignal m => Sys2Proof.Machine.execLnSignal m s
  | .lnJoin m => Sys2Proof.Machine.execLnJoin m s
  | .lnJoinLeave m => Sys2Proof.Machine.execLnJoinLeave m s
  | .lnFence m => Sys2Proof.Machine.execLnFence m s
  | .lnStat m => Sys2Proof.Machine.execLnStat m s
  | .inboundRequest l r => Sys2Proof.Machine.execInboundRequest l r s
  | .remoteReply id r => Sys2Proof.Machine.execRemoteReply id r s
  | .remoteRequestTimeout id => Sys2Proof.Machine.execRemoteRequestTimeout id s
  | .flitReplay l port dropLane => Sys2Proof.Machine.execFlitReplay l port dropLane s
  | .portDown l port => Sys2Proof.Machine.execPortDown l port s
  | .joinDigestArrive gid rank dg => Sys2Proof.Machine.execJoinDigestArrive gid rank dg s
  | .collectiveDescriptor gid rank d => Sys2Proof.Machine.execCollectiveDescriptor gid rank d s
  | .collectiveTimeout gid => Sys2Proof.Machine.execCollectiveTimeout gid s
  | .signalNotice l n => Sys2Proof.Machine.execSignalNotice l n s
  | .commandWindowWrite off data => Sys2Proof.Machine.execCommandWindowWrite off data s
  | .overflowAreaReturn q => Sys2Proof.Machine.execOverflowAreaReturn q s
  | .launch c => Sys2Proof.Machine.execLaunch c s
  | .wait c => Sys2Proof.Machine.execWait c s
  | .signal c => Sys2Proof.Machine.execSignal c s
  | .preempt c => Sys2Proof.Machine.execPreempt c s
  | .saveComplete slot => Sys2Proof.Machine.execSaveComplete slot s
  | .resume c => Sys2Proof.Machine.execResume c s
  | .restoreComplete slot => Sys2Proof.Machine.execRestoreComplete slot s
  | .resetPart c => Sys2Proof.Machine.execResetPart c s
  | .query c => Sys2Proof.Machine.execQuery c s
  | .commandReserved c => Sys2Proof.Machine.execCommandReserved c s
  | .contextEnd slot => Sys2Proof.Machine.execContextEnd slot s
  | .watchdogExpire slot => Sys2Proof.Machine.execWatchdogExpire slot s
  | .drainDeadlineExpire slot => Sys2Proof.Machine.execDrainDeadlineExpire slot s
  | .partitionResetComplete id => Sys2Proof.Machine.execPartitionResetComplete id s
  | .partitionWrite n v => Sys2Proof.Machine.execPartitionWrite n v s
  | .sectorGate ps => Sys2Proof.Machine.execSectorGate ps s
  | .sectorWake ps => Sys2Proof.Machine.execSectorWake ps s
  | .sectorClockStart ps => Sys2Proof.Machine.execSectorClockStart ps s
  | .sectorStateReset ps => Sys2Proof.Machine.execSectorStateReset ps s
  | .sectorReady ps => Sys2Proof.Machine.execSectorReady ps s
  | .clockThrottleStep e => Sys2Proof.Machine.execClockThrottleStep e s
  | .hostMemoryAccess r => Sys2Proof.Machine.execHostMemoryAccess r s
  | .cxlPortEnable p ok cap => Sys2Proof.Machine.execCxlPortEnable p ok cap s
  | .cxlPortDisable p => Sys2Proof.Machine.execCxlPortDisable p s
  | .cxlLinkDown p => Sys2Proof.Machine.execCxlLinkDown p s
  | .linkDevidValid l => Sys2Proof.Machine.execLinkDevidValid l s
  | .firmwareLoad img => Sys2Proof.Machine.execFirmwareLoad img s
  | .getVersion req => Sys2Proof.Machine.execGetVersion req s
  | .getCapabilities req => Sys2Proof.Machine.execGetCapabilities req s
  | .negotiateAlgorithms req => Sys2Proof.Machine.execNegotiateAlgorithms req s
  | .getDigests req => Sys2Proof.Machine.execGetDigests req s
  | .getCertificate req => Sys2Proof.Machine.execGetCertificate req s
  | .challenge req => Sys2Proof.Machine.execChallenge req s
  | .getMeasurements req => Sys2Proof.Machine.execGetMeasurements req s
  | .keyExchange req => Sys2Proof.Machine.execKeyExchange req s
  | .finish req => Sys2Proof.Machine.execFinish req s
  | .endSession req => Sys2Proof.Machine.execEndSession req s
  | .spdmUnsupportedRequest req => Sys2Proof.Machine.execSpdmUnsupportedRequest req s
  | .ideEnable p ok => Sys2Proof.Machine.execIdeEnable p ok s
  | .ideFailure p => Sys2Proof.Machine.execIdeFailure p s
  | .debugLevelWrite lvl => Sys2Proof.Machine.execDebugLevelWrite lvl s
  | .watchpointWrite wp v => Sys2Proof.Machine.execWatchpointWrite wp v s
  | .errorDetect e => Sys2Proof.Machine.execErrorDetect e s
  | .selfTestStart rec => Sys2Proof.Machine.execSelfTestStart rec s
  | .selfTestComplete rec lasting => Sys2Proof.Machine.execSelfTestComplete rec lasting s
  | .frameLineRetire ci line => Sys2Proof.Machine.execFrameLineRetire ci line s
  | .jtagBypass dr => Sys2Proof.Machine.execJtagBypass dr s
  | .jtagSamplePreload dr => Sys2Proof.Machine.execJtagSamplePreload dr s
  | .jtagExtest dr => Sys2Proof.Machine.execJtagExtest dr s
  | .jtagIntest dr => Sys2Proof.Machine.execJtagIntest dr s
  | .jtagRegisterRead pa => Sys2Proof.Machine.execJtagRegisterRead pa s
  | .jtagWrite pa v isReg => Sys2Proof.Machine.execJtagWrite pa v isReg s
  | .jtagMemoryRead pa => Sys2Proof.Machine.execJtagMemoryRead pa s
  | .jtagKeeperHalt ps => Sys2Proof.Machine.execJtagKeeperHalt ps s
  | .jtagKeeperStep ps => Sys2Proof.Machine.execJtagKeeperStep ps s
  | .pldmSensorRead n => Sys2Proof.Machine.execPldmSensorRead n s
  | .pldmSetEffecter v => Sys2Proof.Machine.execPldmSetEffecter v s
  | .tref2xChange st hot => Sys2Proof.Machine.execTref2xChange st hot s
  | .memoryTrained lp => Sys2Proof.Machine.execMemoryTrained lp s
  | .portUp l port => Sys2Proof.Machine.execPortUp l port s
  | .deviceUnreachable id => Sys2Proof.Machine.execDeviceUnreachable id s
  | .collectiveContributionArrive gid rank c => Sys2Proof.Machine.execCollectiveContributionArrive gid rank c s
  | .engineInboxStreamFault k => Sys2Proof.Machine.execEngineInboxStreamFault k s
  | .keeperTret => Sys2Proof.Machine.execKeeperTret s
  | .add => Sys2Proof.Machine.execAdd s
  | .sub => Sys2Proof.Machine.execSub s
  | .mul => Sys2Proof.Machine.execMul s
  | .mulh => Sys2Proof.Machine.execMulh s
  | .mulhn => Sys2Proof.Machine.execMulhn s
  | .neg => Sys2Proof.Machine.execNeg s
  | .abs => Sys2Proof.Machine.execAbs s
  | .min => Sys2Proof.Machine.execMin s
  | .max => Sys2Proof.Machine.execMax s
  | .minn => Sys2Proof.Machine.execMinn s
  | .maxn => Sys2Proof.Machine.execMaxn s
  | .and => Sys2Proof.Machine.execAnd s
  | .or => Sys2Proof.Machine.execOr s
  | .xor => Sys2Proof.Machine.execXor s
  | .shl => Sys2Proof.Machine.execShl s
  | .shr => Sys2Proof.Machine.execShr s
  | .sra => Sys2Proof.Machine.execSra s
  | .rotl => Sys2Proof.Machine.execRotl s
  | .clz => Sys2Proof.Machine.execClz s
  | .popc => Sys2Proof.Machine.execPopc s
  | .brev => Sys2Proof.Machine.execBrev s
  | .ceq => Sys2Proof.Machine.execCeq s
  | .cne => Sys2Proof.Machine.execCne s
  | .clt => Sys2Proof.Machine.execClt s
  | .cle => Sys2Proof.Machine.execCle s
  | .cltn => Sys2Proof.Machine.execCltn s
  | .clen => Sys2Proof.Machine.execClen s
  | .fadd => Sys2Proof.Machine.execFadd s
  | .fsub => Sys2Proof.Machine.execFsub s
  | .fmul => Sys2Proof.Machine.execFmul s
  | .ffma => Sys2Proof.Machine.execFfma s
  | .fneg => Sys2Proof.Machine.execFneg s
  | .fabs => Sys2Proof.Machine.execFabs s
  | .fmin => Sys2Proof.Machine.execFmin s
  | .fmax => Sys2Proof.Machine.execFmax s
  | .fminp => Sys2Proof.Machine.execFminp s
  | .fmaxp => Sys2Proof.Machine.execFmaxp s
  | .fceq => Sys2Proof.Machine.execFceq s
  | .fclt => Sys2Proof.Machine.execFclt s
  | .fcle => Sys2Proof.Machine.execFcle s
  | .fcun => Sys2Proof.Machine.execFcun s
  | .frcp => Sys2Proof.Machine.execFrcp s
  | .frsq => Sys2Proof.Machine.execFrsq s
  | .fexp2 => Sys2Proof.Machine.execFexp2 s
  | .flog2 => Sys2Proof.Machine.execFlog2 s
  | .fsin => Sys2Proof.Machine.execFsin s
  | .fcos => Sys2Proof.Machine.execFcos s
  | .cvtF => Sys2Proof.Machine.execCvtF s
  | .cvtFi => Sys2Proof.Machine.execCvtFi s
  | .cvtIf => Sys2Proof.Machine.execCvtIf s
  | .pack => Sys2Proof.Machine.execPack s
  | .unpack => Sys2Proof.Machine.execUnpack s
  | .padd => Sys2Proof.Machine.execPadd s
  | .pmul => Sys2Proof.Machine.execPmul s
  | .pdot => Sys2Proof.Machine.execPdot s
  | .pmax => Sys2Proof.Machine.execPmax s
  | .rsum => Sys2Proof.Machine.execRsum s
  | .rmax => Sys2Proof.Machine.execRmax s
  | .rmin => Sys2Proof.Machine.execRmin s
  | .rprefix => Sys2Proof.Machine.execRprefix s
  | .rshift => Sys2Proof.Machine.execRshift s
  | .band => Sys2Proof.Machine.execBand s
  | .bor => Sys2Proof.Machine.execBor s
  | .pcpre => Sys2Proof.Machine.execPcpre s
  | .bexp => Sys2Proof.Machine.execBexp s
  | .isect => Sys2Proof.Machine.execIsect s
  | .sld => Sys2Proof.Machine.execSld s
  | .sst => Sys2Proof.Machine.execSst s
  | .lit => Sys2Proof.Machine.execLit s
  | .steerT => Sys2Proof.Machine.execSteerT s
  | .steerF => Sys2Proof.Machine.execSteerF s
  | .merge => Sys2Proof.Machine.execMerge s
  | .copy => Sys2Proof.Machine.execCopy s
  | .const => Sys2Proof.Machine.execConst s
  | .sink => Sys2Proof.Machine.execSink s
  | .sel => Sys2Proof.Machine.execSel s
  | .gate => Sys2Proof.Machine.execGate s
  | .loopEnter => Sys2Proof.Machine.execLoopEnter s
  | .loopNext => Sys2Proof.Machine.execLoopNext s
  | .loopExit => Sys2Proof.Machine.execLoopExit s
  | .loopClose => Sys2Proof.Machine.execLoopClose s
  | .tagPush => Sys2Proof.Machine.execTagPush s
  | .tagPop => Sys2Proof.Machine.execTagPop s
  | .tagSet => Sys2Proof.Machine.execTagSet s
  | .tagGet => Sys2Proof.Machine.execTagGet s
  | .tagInc => Sys2Proof.Machine.execTagInc s
  | .callEnter => Sys2Proof.Machine.execCallEnter s
  | .callRet => Sys2Proof.Machine.execCallRet s
  | .count => Sys2Proof.Machine.execCount s
  | .reorder => Sys2Proof.Machine.execReorder s
  | .send => Sys2Proof.Machine.execSend s
  | .post => Sys2Proof.Machine.execPost s
  | .trap => Sys2Proof.Machine.execTrap s
  | .drain => Sys2Proof.Machine.execDrain s
  | .waitDrain => Sys2Proof.Machine.execWaitDrain s
  | .fenceQ => Sys2Proof.Machine.execFenceQ s
  | .rotLd => Sys2Proof.Machine.execRotLd s
  | .rotSt => Sys2Proof.Machine.execRotSt s
  | .ld => Sys2Proof.Machine.execLd s
  | .st => Sys2Proof.Machine.execSt s
  | .ldS => Sys2Proof.Machine.execLdS s
  | .stS => Sys2Proof.Machine.execStS s
  | .ldX => Sys2Proof.Machine.execLdX s
  | .stX => Sys2Proof.Machine.execStX s
  | .atomAdd => Sys2Proof.Machine.execAtomAdd s
  | .atomFadd => Sys2Proof.Machine.execAtomFadd s
  | .atomMin => Sys2Proof.Machine.execAtomMin s
  | .atomMax => Sys2Proof.Machine.execAtomMax s
  | .atomMinn => Sys2Proof.Machine.execAtomMinn s
  | .atomMaxn => Sys2Proof.Machine.execAtomMaxn s
  | .atomAnd => Sys2Proof.Machine.execAtomAnd s
  | .atomOr => Sys2Proof.Machine.execAtomOr s
  | .atomXor => Sys2Proof.Machine.execAtomXor s
  | .atomSwap => Sys2Proof.Machine.execAtomSwap s
  | .atomCas => Sys2Proof.Machine.execAtomCas s
  | .atomFinc => Sys2Proof.Machine.execAtomFinc s
  | .mnop => Sys2Proof.Machine.execMnop s
  | .fenceRel => Sys2Proof.Machine.execFenceRel s
  | .fenceAcq => Sys2Proof.Machine.execFenceAcq s
  | .fenceFull => Sys2Proof.Machine.execFenceFull s
  | .xlat => Sys2Proof.Machine.execXlat s
  | .shapeSet => Sys2Proof.Machine.execShapeSet s
  | .flr => Sys2Proof.Machine.execFlr s
  | .moduleReset => Sys2Proof.Machine.execModuleReset s
  | .powerOn => Sys2Proof.Machine.execPowerOn s
  | .brownout => Sys2Proof.Machine.execBrownout s
  | .thermtrip => Sys2Proof.Machine.execThermtrip s
  | .authProvision => Sys2Proof.Machine.execAuthProvision s
  | .authUnlock => Sys2Proof.Machine.execAuthUnlock s
  | .authFa => Sys2Proof.Machine.execAuthFa s
  | .relock => Sys2Proof.Machine.execRelock s
  | .powerRequestP0 => Sys2Proof.Machine.execPowerRequestP0 s
  | .powerRequestP2 => Sys2Proof.Machine.execPowerRequestP2 s
  | .powerRequestP3 => Sys2Proof.Machine.execPowerRequestP3 s
  | .powerStateEntry => Sys2Proof.Machine.execPowerStateEntry s
  | .powerWake => Sys2Proof.Machine.execPowerWake s
  | .retiredList => Sys2Proof.Machine.execRetiredList s
  | .jtagIdcode => Sys2Proof.Machine.execJtagIdcode s
  | .authRequestUnknownType => Sys2Proof.Machine.execAuthRequestUnknownType s

end Sys2Proof.Machine
end

