-- ==== Sys2Proof/Machine/Turns.lean ====
section
/-! DEFINITION. The machine's turns: which may come next in a state, the instruction a turn runs, and the state it is run
on (R19, R39, R40, R54, R126). -/

namespace Sys2Proof.Machine

/-! ## The instruction of a turn -/

/-- The instruction of a message at the head of an inbox (R54, R102, R118, R220, R268). A token of class 4 stands for
a row of a drain that the copy engine writes (R285). -/
def messageInstr (m : Token) : Option Instr :=
  if m.cls = 2 then some (if nth 0 m.lanes 0 = 1 then .fenceMarkerReturn m.dest else .engineDrainReturn m.dest)
  else if m.cls = 0 then some (.steerToken m)
  else if m.cls = 4 then some (.drainHandoff (nth 0 m.lanes 0).toNat (nth 0 m.lanes 1).toNat)
  else
    match engineOf m.dest with
    | some (.pool _) => some (poolInstr m (msgOpcode m))
    | some (.copy _) => some (cpInstr m (msgOpcode m))
    | some (.ladder _) => some (ladInstr m (msgOpcode m))
    | some (.stack _) => some (stkInstr m (msgOpcode m))
    | some (.page _) => some (pgInstr m (msgOpcode m))
    | some (.link _ _) => some (lnInstr m (msgOpcode m))
    | none => none

/-- The output slots that a firing claims as it issues (R39): a forager's firing that emits by a reply claims them when the reply is
formed (log 68). -/
def Firing.claims (f : Firing) : Nat :=
  if kindOf f.ci = .forager ∧ !f.isEmpty ∧ (f.cfg.opcode ≠ 0x1B1 ∨ bitOf f.lit 5) then 0 else f.outputs

/-- The firing that a cell issues next (R40, R226): its head firing, if that can claim its output slots (R39, R165). -/
def State.nextFiring (s : State) (ci : Nat) : Option Firing :=
  match s.headFiring ci (fun f => kindOf ci != .forager || s.hasEntries f) with
  | some f => if s.slotsFor ci f.claims then some f else none
  | none => none

/-- The instruction of a queue's head command that is ready (R439, R447). -/
def State.queueInstr (s : State) (q : Nat) : Option Instr :=
  match s.readyHead q with
  | none => none
  | some c =>
    if c.line = 0 then some (.launch c)
    else if c.line = 1 then some (.wait c)
    else if c.line = 2 then some (.signal c)
    else if c.line = 3 then some (.preempt c)
    else if c.line = 4 then some (.resume c)
    else if c.line = 5 then some (.resetPart c)
    else if c.line = 6 then some (.query c)
    else none

/-- Whether a keeper may execute a word (R126, R137, R138, R139, R466, R482): it is neither halted nor waiting, and its sector is ready
and has its clock. -/
def State.keeperRuns (s : State) (ps : Nat) : Bool :=
  !s.halted ps && (s.keeper ps).waiting.isNone && (s.keeper ps).fencing.isNone && (s.reg (frontReg 0x118)).getLsbD ps && s.awake

/-- The instruction that a turn runs; none where the turn is the passing of time, a fetch that faults, or nothing. -/
def turnInstr (s : State) (t : Turn) : Option Instr :=
  match t with
  | .keeper ps =>
    if s.keeperRuns ps then
      (match s.fetchFault ps (s.keeper ps).pc with
       | some _ => none
       | none => some (decode (s.fetchWord ps)))
    else none
  | .cell ci => if s.awake then (match s.nextFiring ci with | some f => nodeInstr f.cfg.opcode | none => none) else none
  | .inbox d => if s.awake then (match s.inbox d with | (_, m) :: _ => messageInstr m | [] => none) else none
  | .queue q => s.queueInstr q
  | .event i => some i
  | .pass _ => none

/-- What stands in a keeper's injection port enters the stream switch (R147). -/
def State.portsMove (s : State) : State :=
  s.keepers.foldl (fun t e =>
    match e.2.port with
    | some tok => (t.setKeeper e.1 { t.keeper e.1 with port := none }).send (keeperDest e.1) tok
    | none => t) s

/-- The state a turn's instruction is executed on; a fetch that faults takes its trap here (R126, R135). -/
def prepare (s : State) (t : Turn) : State :=
  match t with
  | .keeper ps =>
    let s1 := { s with cur := ps }
    if s.keeperRuns ps then
      (match s.fetchFault ps (s.keeper ps).pc with
       | some c => s1.keeperFault ps c (s.keeper ps).pc
       | none => s1)
    else s1
  | .cell ci => if s.awake then (match s.nextFiring ci with | some f => s.issueFiring f | none => s) else s
  | .pass n => ((s.pass n).portsMove.switchFor n).noteReady
  | _ => s

/-- The turn that power-on takes. -/
def poweringTurn (t : Turn) : Bool := t == .event .powerOn

/-! ## The turns that may come next -/

/-- The turns of keepers and cells. -/
def coreTurns (s : State) : List Turn :=
  s.keepers.map (fun e => Turn.keeper e.1)
    ++ (s.cells.filter (fun e => !e.2.ready.isEmpty)).map (fun e => Turn.cell e.1)
    ++ (s.inboxes.filter (fun e => !e.2.isEmpty)).map (fun e => Turn.inbox e.1)

/-- The events of the fabric. -/
def fabricTurns (s : State) : List Turn :=
  ((upTo s.net.length).flatMap (fun k =>
    [Turn.event (.tokenArrival k), Turn.event (.engineInboxStreamFault k), Turn.event (.eventQueueArrival k), Turn.event (.drainCount k)]))
    ++ s.spills.flatMap (fun e =>
      [Turn.event (.spillRecordStore e.1), Turn.event (.overflowRoomFreed e.1), Turn.event (.overflowChunkReturn e.1)]
        ++ ((e.2.records.map (fun r => r.ci)).eraseDups).flatMap (fun ci =>
          [Turn.event (.spillReinject e.1 ci), Turn.event (.spillProbe e.1 ci)]))
    ++ (s.cells.filter (fun e => !e.2.drainsIn.isEmpty)).map (fun e => Turn.event (.drainForward e.1))
    ++ s.keepers.flatMap (fun e =>
      [Turn.event (.keeperWaitResume e.1), Turn.event (.keeperFenceComplete e.1), Turn.event (.configDeliveryComplete e.1)])

/-- The steps of the foragers' accesses. -/
def accessTurns (s : State) : List Turn :=
  s.accesses.flatMap (fun a =>
    [Turn.event (.chainMemberLink a.id), Turn.event (.storeBufferSend a.id)]
      ++ (upTo a.reqs.length).map (fun j => Turn.event (.homeAccess a.id j))
      ++ (upTo (Nat.max 1 a.reqs.length)).map (fun j => Turn.event (.memoryReply a.id j)))

/-- The steps of page moves, twin fills, shootdowns and holds. -/
def pageTurns (s : State) : List Turn :=
  s.moves.flatMap (fun v =>
    [Turn.event (.moveBegin v.id), Turn.event (.moveLineCopy v.id), Turn.event (.moveCutover v.id), Turn.event (.moveCopyResume v.id),
      Turn.event (.moveTimeout v.id), Turn.event (.moveAbort v.id 7), Turn.event (.moveAbortFinish v.id)]
      ++ ((v.queue.map (fun e => e.1 / 256)).eraseDups).map (fun l => Turn.event (.forwardApply v.id l)))
    ++ s.shoots.flatMap (fun x => Turn.event (.shootdownComplete x.id) :: x.waiting.map (fun r => Turn.event (.shootdownInvalidate x.id r)))
    ++ s.fills.flatMap (fun f => [Turn.event (.twinLineCopy f.id), Turn.event (.twinFillComplete f.id)])
    ++ (upTo 4).flatMap (fun d => [Turn.event (.autoMoveStart d), Turn.event (.hotHalve d)])
    ++ (s.busy.filter (fun e => e.2.phase == 98)).map (fun e => Turn.event (.holdGrant e.1))
    ++ (s.busy.filter (fun e => e.2.phase == 99)).map (fun e => Turn.event (.heldWriteResume (BitVec.ofNat 21 e.1)))

/-- The steps of the pools. -/
def poolTurns (s : State) : List Turn :=
  s.pools.flatMap (fun e =>
    e.2.passes.flatMap (fun q =>
      [Turn.event (.bSetLoad e.1 q.seq), Turn.event (.passStreamStart e.1 q.seq), Turn.event (.spanSumsArrive e.1 q.seq),
        Turn.event (.ladderDecision e.1 q.seq), Turn.event (.replayStream e.1 q.seq)])
      ++ e.2.drains.flatMap (fun d => [Turn.event (.poolDrainPerform e.1 d.seq), Turn.event (.drainHandoff e.1 d.seq)])
      ++ (if e.2.walk.isSome then [Turn.event (.walkEntryFetch e.1), Turn.event (.walkPark e.1)] else [])
      ++ (if e.2.drains.any (fun d => d.phase == 3) then
            [Turn.event (.heldWriteResume (engineDest (e.1 / 40) (e.1 / 5 % 8) (e.1 % 5) 0))] else []))

/-- The steps of the stacks. -/
def stackTurns : List Turn :=
  (upTo 12).flatMap (fun st =>
    Turn.event (.remapRebuild st) :: (upTo 32).flatMap (fun ch =>
      [Turn.event (.refreshInterval st ch true), Turn.event (.refreshInterval st ch false), Turn.event (.refreshPullIn st ch)]))

/-- The steps of the link engines. -/
def linkTurns (s : State) : List Turn :=
  s.remotes.flatMap (fun r =>
    Turn.event (.remoteRequestTimeout r.id) :: ((if r.port = 8 then [Turn.event (.deviceUnreachable r.id)] else [])
      ++ (match r.kind, r.who with
          | 4, .command d => [Turn.event (.heldWriteResume (BitVec.ofNat 21 d))]
          | _, _ => [])))
    ++ s.groups.map (fun g => Turn.event (.collectiveTimeout g.1))
    ++ s.inboundWait.map (fun e => Turn.event (.inboundRequest e.1 e.2))

/-- The steps of the front: the queue it serves next, overflow areas, contexts, saves, restores. -/
def frontTurns (s : State) : List Turn :=
  (match s.nextQueue with | some q => [Turn.queue q] | none => [])
    ++ (s.queues.filter (fun e => !e.2.overflow.isEmpty)).map (fun e => Turn.event (.overflowAreaReturn e.1))
    ++ s.contexts.flatMap (fun e => [Turn.event (.watchdogExpire e.1), Turn.event (.contextEnd e.1)])
    ++ s.fdrains.flatMap (fun f => [Turn.event (.saveComplete f.slot), Turn.event (.drainDeadlineExpire f.slot)])
    ++ s.restores.map (fun r => Turn.event (.restoreComplete r.slot))

/-- The steps of the custodian's tests and repairs. -/
def custodianTurns (s : State) : List Turn :=
  s.cust.tests.map (fun r => Turn.event (.selfTestStart r.id))
    ++ s.cust.deferred.map (fun d => Turn.event (.frameLineRetire d.1 d.2.1))

/-- The steps that a package out of P0 still takes: sectors waking, partition resets, the entry to a power state. -/
def powerTurns (s : State) : List Turn :=
  s.resets.map (fun r => Turn.event (.partitionResetComplete r.id))
    ++ s.waking.flatMap (fun e =>
      [Turn.event (.sectorClockStart e.1), Turn.event (.sectorStateReset e.1), Turn.event (.sectorReady e.1)])
    ++ (if s.cust.pwrEntry.isSome then [Turn.event .powerStateEntry] else [])

/-- The turns whose instructions the machine takes by itself. While the compute dies have no clock only the last kind is left (R482). -/
def possible (s : State) : List Turn :=
  (if s.awake then
     coreTurns s ++ fabricTurns s ++ accessTurns s ++ pageTurns s ++ poolTurns s ++ stackTurns ++ linkTurns s ++ frontTurns s
       ++ custodianTurns s
   else []) ++ powerTurns s

end Sys2Proof.Machine
end

