-- ==== Sys2Proof/Machine/Step.lean ====
section
/-! DEFINITION. One step of the machine: the next turn is the oldest input, or one of the turns that the machine's state
enables, chosen freely (R10, R19, R65); the step runs that turn's instruction. -/

namespace Sys2Proof.Machine

/-- A turn of the machine run: its instruction executed on the state prepared for it. -/
def runTurn (t : Turn) (s : State) : Host.Outcome State Fault Refusal :=
  match turnInstr s t with
  | some i => exec i (prepare s t)
  | none => .next (prepare s t)

/-- Whether a turn has an effect: what its conditions hold back changes nothing. -/
def acts (s : State) (t : Turn) : Bool :=
  match runTurn t s with
  | .next s' => { s' with cur := s.cur } != s
  | _ => true

/-- The turns that may come next: those the state enables, and the passing of one clk. -/
def candidates (s : State) : List Turn := (possible s).filter (acts s) ++ [.pass 1]

/-- The turn that comes next, and the state after it is chosen. -/
def nextTurn (s : State) : Turn × State :=
  match s.inputs with
  | t :: ts => (t, { s with inputs := ts })
  | [] =>
    match candidates s with
    | [t] => (t, s)
    | ts => (nth (.pass 1) ts (Config.choice s.free % ts.length), s.useFree)

/-- One step (R496: without power nothing runs but power-on). -/
def step (s : State) : Host.Outcome State Fault Refusal :=
  let (t, s1) := nextTurn s
  if s.power = .off ∧ !poweringTurn t then .fault .poweredOff else runTurn t s1

/-- The state with a keeper word at the place the keeper fetches next, that keeper able to run, and its turn as the next one. -/
def State.withFetchWord (s : State) (_nbits w : Nat) : State :=
  let ps := s.cur
  let a := kmemAddr ps (s.keeper ps).pc.toNat
  let s1 := (s.putLE a 4 w).clearPoison (a / 64 * 64) 64
  let s2 := ((s1.setBits (csr ps 0) 3 3 0).setBits (frontReg 0x118) ps ps 1).setBits (custReg 0x38) 3 2 0
  { s2.setKeeper ps { s2.keeper ps with waiting := none, fencing := none } with
    power := .on, inputs := [.keeper ps],
    cust := { s2.cust with badLines := s2.cust.badLines.filter (fun l => l != a / 64) } }

end Sys2Proof.Machine
end

