-- ==== Sys2Proof/Safety.lean ====
section
/-! DEFINITION. What counts as a safe step, the invariant of the machine's memory, and the words in which claims are
stated: what a keeper word writes, what a node's firing leaves behind, when an engine performs a command. -/

namespace Sys2Proof

open Sys2Proof.Machine

/-- A step is safe when the machine goes on: neither a fault nor a refusal. -/
def SafeStep (s : State) : Prop := ∃ t, step s = .next t

/-- The invariant of storage: memory stands in its canonical form. -/
def MemInv (s : State) : Prop := Memory.wf s.mem = true

/-- `t` agrees with `s` in everything but the keepers. -/
def SameButKeepers (s t : State) : Prop := { t with keepers := s.keepers } = s

/-- What a keeper word that writes `v` to `d` and goes on at `pc` leaves (R126): the register (k0 stays zero) and the pc of
the keeper that runs; every other register and field of that keeper, every other keeper and the rest of the machine stand. -/
def KeeperTo (s t : State) (d : Reg) (v pc : Word) : Prop :=
  t.kReg s.cur d = (if d = 0 then 0 else v)
    ∧ (∀ r, r ≠ d → t.kReg s.cur r = s.kReg s.cur r)
    ∧ (t.keeper s.cur).pc = pc
    ∧ { t.keeper s.cur with k := (s.keeper s.cur).k, pc := (s.keeper s.cur).pc } = s.keeper s.cur
    ∧ (∀ ps, ps ≠ s.cur → t.keeper ps = s.keeper ps)
    ∧ SameButKeepers s t

/-- The pc of the word after the one that runs. -/
def nextPc (s : State) : Word := (s.keeper s.cur).pc + 4

/-- What taking a trap leaves of a keeper that is in no trap (R135): `KRESUME`, `KFAULT` and `KADDR`, the mode saved in PRIOR and
set, INTRAP set, HALT as it was, the pc at `KHANDLER`; memory and every other register stand. -/
def TrapTaken (s t : State) (ps : Nat) (fault addr resume : Word) : Prop :=
  t.reg (csr ps 2) = resume ∧ t.reg (csr ps 3) = fault ∧ t.reg (csr ps 4) = addr
    ∧ (t.reg (csr ps 0)).getLsbD 0 = true ∧ (t.reg (csr ps 0)).getLsbD 1 = s.supervisor ps
    ∧ (t.reg (csr ps 0)).getLsbD 2 = true ∧ t.halted ps = s.halted ps
    ∧ (t.keeper ps).pc = s.reg (csr ps 1) ∧ (t.keeper ps).k = (s.keeper ps).k
    ∧ (∀ pa, pa ≠ csr ps 0 → pa ≠ csr ps 2 → pa ≠ csr ps 3 → pa ≠ csr ps 4 → t.reg pa = s.reg pa)
    ∧ (∀ q, q ≠ ps → t.keeper q = s.keeper q)
    ∧ { t with keepers := s.keepers, regs := s.regs } = s

/-- The trap of a keeper fault of the word that runs: it resumes at that word (R135). -/
def KeeperFaults (s t : State) (code : Nat) (addr : Word) : Prop :=
  TrapTaken s t s.cur (BitVec.ofNat 64 code) addr (s.keeper s.cur).pc

/-! ## Tables of what the rules say an instruction computes -/

/-- The register words of the keeper and what each gives of ka and kb (R130). -/
def registerWords : List ((Reg → Reg → Reg → Instr) × (Word → Word → Word)) :=
  [(Instr.keeperAdd, fun a b => a + b), (Instr.keeperSub, fun a b => a - b), (Instr.keeperAnd, fun a b => a &&& b),
   (Instr.keeperOr, fun a b => a ||| b), (Instr.keeperXor, fun a b => a ^^^ b), (Instr.keeperSll, fun a b => a <<< (b.toNat % 64)),
   (Instr.keeperSrl, fun a b => a >>> (b.toNat % 64)), (Instr.keeperSra, fun a b => a.sshiftRight (b.toNat % 64)),
   (Instr.keeperMul, fun a b => a * b), (Instr.keeperMulh, fun a b => BitVec.ofInt 64 (a.toInt * b.toInt / 2 ^ 64)),
   (Instr.keeperMulhn, fun a b => BitVec.ofNat 64 (a.toNat * b.toNat / 2 ^ 64)),
   (Instr.keeperSlt, fun a b => if a.toInt < b.toInt then 1 else 0), (Instr.keeperSltn, fun a b => if a.toNat < b.toNat then 1 else 0),
   (Instr.keeperMin, fun a b => if a.toInt ≤ b.toInt then a else b), (Instr.keeperMax, fun a b => if a.toInt ≤ b.toInt then b else a)]

/-- The immediate words of format RI that compute, and what each gives of ka and the immediate (R131). -/
def immediateWords : List ((Reg → Reg → BitVec 15 → Instr) × (Word → BitVec 15 → Word)) :=
  [(Instr.keeperAddi, fun a i => BitVec.ofInt 64 (a.toInt + i.toInt)), (Instr.keeperAndi, fun a i => a &&& i.signExtend 64),
   (Instr.keeperOri, fun a i => a ||| i.signExtend 64), (Instr.keeperXori, fun a i => a ^^^ i.signExtend 64)]

/-- The immediate shifts (R131). -/
def shiftWords : List ((Reg → Reg → BitVec 6 → Instr) × (Word → Nat → Word)) :=
  [(Instr.keeperSlli, fun a n => a <<< n), (Instr.keeperSrli, fun a n => a >>> n), (Instr.keeperSrai, fun a n => a.sshiftRight n)]

/-- The loads and their bytes (R132). -/
def loadWords : List ((Reg → Reg → BitVec 15 → Instr) × Nat) :=
  [(Instr.keeperLd8, 1), (Instr.keeperLd16, 2), (Instr.keeperLd32, 4), (Instr.keeperLd64, 8)]

/-- The stores and their bytes (R132): base, data, offset. -/
def storeWords : List ((Reg → Reg → BitVec 15 → Instr) × Nat) :=
  [(Instr.keeperSt8, 1), (Instr.keeperSt16, 2), (Instr.keeperSt32, 4), (Instr.keeperSt64, 8)]

/-- The conditional branches and when each is taken (R133). -/
def branchWords : List ((Reg → Reg → BitVec 15 → Instr) × (Word → Word → Bool)) :=
  [(Instr.keeperBeq, fun a b => decide (a = b)), (Instr.keeperBne, fun a b => decide (a ≠ b)),
   (Instr.keeperBlt, fun a b => decide (a.toInt < b.toInt)), (Instr.keeperBge, fun a b => decide (b.toInt ≤ a.toInt)),
   (Instr.keeperBltn, fun a b => decide (a.toNat < b.toNat)), (Instr.keeperBgen, fun a b => decide (b.toNat ≤ a.toNat))]

/-- The effective address of a keeper's load or store (R129). -/
def keeperAddr (s : State) (a : Reg) (off : BitVec 15) : Word := s.kReg s.cur a + off.signExtend 64

/-- An address of the running keeper's local memory that its mode lets it reach (R129). -/
def localOk (s : State) (ea : Word) : Prop :=
  ea.toNat < 0x40000 ∧ (s.supervisor s.cur = true ∨ (s.reg (csr s.cur 0x00B)).toNat ≤ ea.toNat)

/-- A target that a branch or jump of the running keeper may take (R133). -/
def targetOk (s : State) (t : Word) : Prop := t.toNat % 4 = 0 ∧ localOk s t

/-- A target that a branch or jump may not take, and its fault (R133). -/
def targetBad (s : State) (t : Word) (c : Nat) : Prop :=
  (t.toNat % 4 ≠ 0 ∧ c = 0xA) ∨ (t.toNat % 4 = 0 ∧ 0x40000 ≤ t.toNat ∧ c = 7)
    ∨ (t.toNat % 4 = 0 ∧ t.toNat < 0x40000 ∧ s.supervisor s.cur = false ∧ t.toNat < (s.reg (csr s.cur 0x00B)).toNat ∧ c = 9)

/-- The address that a branch or a `jal` reaches: its own plus four times its offset (R110). -/
def branchTarget {n : Nat} (s : State) (off : BitVec n) : Word := (s.keeper s.cur).pc + BitVec.ofInt 64 (4 * off.toInt)

/-- The CSRs that software may write, and the bits it may write of each (R128). -/
def csrWritable : List (Nat × Word) :=
  [(0x000, 0x6), (0x001, 0xFFFFFFFFFFFFFFFF), (0x002, 0xFFFFFFFFFFFFFFFF), (0x003, 0x1FFFF), (0x004, 0xFFFFFFFFFFFFFFFF),
   (0x005, 0xFFFFFFFFFFFFFFFF), (0x008, 0x3FFF), (0x009, 0xFFF), (0x00A, 0x3FF), (0x00B, 0x3FFFF), (0x010, 0), (0x011, 0),
   (0x012, 0xFFFFFFFF), (0x013, 0), (0x018, 0), (0x019, 0), (0x01A, 0)]

/-- The CSRs that user mode may read: `CYCLE`, `EVCNT`, `SCHEDCUR`, `SCHEDN`, `SCHEDESZ`, `LSEQ` (R134). -/
def csrOfUser : List Nat := [0x018, 0x019, 0x012, 0x011, 0x013, 0x01A]

/-! ## Firings -/

/-- A firing on the datapath that neither a watchpoint nor a fault-flagged operand diverts: the debug level is 0 (R476, R480)
and no operand has the fault flag (R26). -/
def Fires (s : State) (f : Firing) : Prop :=
  s.issue = some f ∧ s.regBits (custReg 0x18) 3 2 = 0 ∧ f.faultOf = none

/-- A token on its way to a destination; none for a destination of kind none (R27). -/
def flightTo (src d : Dest) (t : Token) : List Flight := if dKind d = 0 then [] else [{ src := src, tok := { t with dest := d } }]

/-- Finished tokens of a firing, each to destination A and then to B (R160, R161). -/
def flightsAB (f : Firing) (ts : List Token) : List Flight :=
  ts.flatMap (fun t => flightTo f.src f.cfg.fields.dstA t ++ flightTo f.src f.cfg.fields.dstB t)

/-- A token of a firing after its tag operation, to A and then to B. -/
def emitted (s : State) (f : Firing) (t : Token) : List Flight := flightsAB f (s.tagged f t)

/-- A token of a firing after its tag operation, to one destination. -/
def emittedTo (s : State) (f : Firing) (d : Dest) (t : Token) : List Flight := (s.tagged f t).flatMap (flightTo f.src d)

/-- The firing is done: its tokens are on the switch, and everything else is as in `s`. -/
def fired (s : State) (fl : List Flight) : State := { s with issue := none, net := s.net ++ fl }

/-- A result of the fired run in the node's type, from its elements in order; empty where an operand is empty (R160, R162). -/
def resultOf (f : Firing) (es : List Nat) : Token := f.out f.width f.poisoned f.isEmpty (lanesBack f.width f.len es)

/-- The elements of a dyadic operation on codes of the node's width (R158). -/
def dyadic (f : Firing) (op : Nat → Nat → Nat → Nat) : List Nat := List.zipWith (op (subWidth f.width)) f.xs f.ys

/-- The elements of a monadic operation. -/
def monadic (f : Firing) (op : Nat → Nat → Nat) : List Nat := f.xs.map (op (subWidth f.width))

/-- An exact integer delivered as R168 delivers it to signed elements. -/
def delivered (f : Firing) (e : Int) : Nat := deliverInt (subWidth f.width) f.m77 false e

/-- The worker's integer nodes and the elements each gives (R168 to R170), with `fneg` and `fabs` (R172). -/
def integerNodes : List (Instr × (Firing → List Nat)) :=
  [(Instr.add, fun f => dyadic f (fun w x y => delivered f (sgn w x + sgn w y))),
   (Instr.sub, fun f => dyadic f (fun w x y => delivered f (sgn w x - sgn w y))),
   (Instr.mul, fun f => dyadic f (fun w x y => delivered f (sgn w x * sgn w y))),
   (Instr.mulh, fun f => dyadic f (fun w x y => (sgn w x * sgn w y / 2 ^ w % 2 ^ w).toNat)),
   (Instr.mulhn, fun f => dyadic f (fun w x y => x * y / 2 ^ w % 2 ^ w)),
   (Instr.neg, fun f => monadic f (fun w x => delivered f (-sgn w x))),
   (Instr.abs, fun f => monadic f (fun w x => delivered f (if sgn w x < 0 then -sgn w x else sgn w x))),
   (Instr.min, fun f => dyadic f (fun w x y => (if sgn w x ≤ sgn w y then x else y) % 2 ^ w)),
   (Instr.max, fun f => dyadic f (fun w x y => (if sgn w y ≤ sgn w x then x else y) % 2 ^ w))] ++
  [(Instr.minn, fun f => dyadic f (fun w x y => (if x ≤ y then x else y) % 2 ^ w)),
   (Instr.maxn, fun f => dyadic f (fun w x y => (if x ≤ y then y else x) % 2 ^ w)),
   (Instr.and, fun f => dyadic f (fun w x y => (x &&& y) % 2 ^ w)), (Instr.or, fun f => dyadic f (fun w x y => (x ||| y) % 2 ^ w)),
   (Instr.xor, fun f => dyadic f (fun w x y => (x ^^^ y) % 2 ^ w)),
   (Instr.shl, fun f => dyadic f (fun w x y => x * 2 ^ (y % w) % 2 ^ w)),
   (Instr.shr, fun f => dyadic f (fun w x y => x / 2 ^ (y % w) % 2 ^ w)),
   (Instr.sra, fun f => dyadic f (fun w x y => (sgn w x / 2 ^ (y % w) % 2 ^ w).toNat)),
   (Instr.rotl, fun f => dyadic f (fun w x y => (x * 2 ^ (y % w) + x / 2 ^ (w - y % w)) % 2 ^ w))] ++
  [(Instr.clz, fun f => monadic f (fun w x => if x = 0 then w else w - 1 - Nat.log2 x)),
   (Instr.popc, fun f => monadic f (fun w x => ((List.range w).filter (fun b => x / 2 ^ b % 2 = 1)).length)),
   (Instr.brev, fun f => monadic f (fun w x => reverseBits w x)),
   (Instr.ceq, fun f => dyadic f (fun w x y => if x = y then 2 ^ w - 1 else 0)),
   (Instr.cne, fun f => dyadic f (fun w x y => if x = y then 0 else 2 ^ w - 1)),
   (Instr.clt, fun f => dyadic f (fun w x y => if sgn w x < sgn w y then 2 ^ w - 1 else 0)),
   (Instr.cle, fun f => dyadic f (fun w x y => if sgn w x ≤ sgn w y then 2 ^ w - 1 else 0)),
   (Instr.cltn, fun f => dyadic f (fun w x y => if x < y then 2 ^ w - 1 else 0)),
   (Instr.clen, fun f => dyadic f (fun w x y => if x ≤ y then 2 ^ w - 1 else 0)),
   (Instr.fneg, fun f => monadic f (fun w x => x ^^^ 2 ^ (w - 1))), (Instr.fabs, fun f => monadic f (fun w x => x % 2 ^ (w - 1)))]

/-- Flags ORed into a context's register (R91, R92). -/
def raised (s : State) (f : Firing) (all : Nat) : State := if all = 0 then s else s.raiseFlags f.ctx all

/-- A firing that rounds `n` values under a mode (R85, R90, R92): `rs` gives codes and flags from the draws, `flags` the flags by element
index, `tok` the token. Where its context traps on none of its flags it delivers the token; where it does, it faults with FPX before it
delivers anything, the record naming the lowest element that has a trapped flag. The flags are raised and the draws stand either way. -/
def RoundsAt (i : Instr) (s : State) (f : Firing) (mode n : Nat) (poison : Bool) (rs : List Nat → List (Nat × Nat))
    (flags : List (Nat × Nat) → List Nat) (tok : List (Nat × Nat) → Token) : Prop :=
  let d := s.drawFor f.ci mode n
  let r := rs d.1
  let all := if poison then 0 else (flags r).foldl (fun a b => a ||| b) 0
  let en := s.regBits (ctxFlags f.ctx.toNat) 12 8
  (all &&& en = 0 → exec i s = .next (fired (raised d.2 f all) (emitted s f (tok r))))
    ∧ (all &&& en ≠ 0 → exec i s = .next ((fired (raised d.2 f all) []).faultFiring f fFPX
        [BitVec.ofNat 32 all, BitVec.ofNat 32 (lowestFlag (all &&& en) 0 (flags r))]))

/-- A firing that rounds one value for each element. -/
def RoundsTo (i : Instr) (s : State) (f : Firing) (mode n : Nat) (poison : Bool) (rs : List Nat → List (Nat × Nat))
    (tok : List (Nat × Nat) → Token) : Prop := RoundsAt i s f mode n poison rs (fun r => r.map (fun x => x.2)) tok

/-- Element codes and flags in a result of the node's type. -/
def floatResult (f : Firing) (r : List (Nat × Nat)) : Token :=
  f.out f.width f.poisoned false (lanesBack f.width f.len (r.map (fun x => x.1)))

/-- The `i`-th draw; 0 where the mode draws nothing. -/
def draw (ds : List Nat) (i : Nat) : Nat := nth 0 ds i

/-- The dyadic float nodes: the mode, and code and flags of one element from its draw and operands (R88, R89, R171). -/
def floatDyads : List (Instr × (Firing → Nat) × (Firing → Nat → Nat → Nat → Nat × Nat)) :=
  [(Instr.fadd, fun f => f.rm, fun f d x y => roundAdd f.fmt f.rm d (value f.fmt x) (value f.fmt y)),
   (Instr.fsub, fun f => f.rm, fun f d x y => roundAdd f.fmt f.rm d (value f.fmt x) (value f.fmt y).neg),
   (Instr.fmul, fun f => f.rm, fun f d x y => round f.fmt f.rm d ((value f.fmt x).mul (value f.fmt y))),
   (Instr.fmin, fun _ => 0, fun f _ x y => minMax f.fmt false false x y), (Instr.fmax, fun _ => 0, fun f _ x y => minMax f.fmt true false x y),
   (Instr.fminp, fun _ => 0, fun f _ x y => minMax f.fmt false true x y), (Instr.fmaxp, fun _ => 0, fun f _ x y => minMax f.fmt true true x y),
   (Instr.fceq, fun _ => 0, fun f _ x y => (maskOf (subWidth f.width) (floatCmp f.fmt 0 x y).1, (floatCmp f.fmt 0 x y).2)),
   (Instr.fclt, fun _ => 0, fun f _ x y => (maskOf (subWidth f.width) (floatCmp f.fmt 1 x y).1, (floatCmp f.fmt 1 x y).2)),
   (Instr.fcle, fun _ => 0, fun f _ x y => (maskOf (subWidth f.width) (floatCmp f.fmt 2 x y).1, (floatCmp f.fmt 2 x y).2)),
   (Instr.fcun, fun _ => 0, fun f _ x y => (maskOf (subWidth f.width) (floatCmp f.fmt 3 x y).1, (floatCmp f.fmt 3 x y).2))]

/-- The special functions: the mode, and code and flags of one element from its draw and operand (R173). -/
def floatMonads : List (Instr × (Firing → Nat) × (Firing → Nat → Nat → Nat × Nat)) :=
  [(Instr.frcp, fun f => f.rm, fun f d x => ((round f.fmt f.rm d (rcpNum false (value f.fmt x)).1).1,
      (rcpNum false (value f.fmt x)).2 ||| (round f.fmt f.rm d (rcpNum false (value f.fmt x)).1).2)),
   (Instr.frsq, fun f => f.rm, fun f d x => ((round f.fmt f.rm d (rcpNum true (value f.fmt x)).1).1,
      (rcpNum true (value f.fmt x)).2 ||| (round f.fmt f.rm d (rcpNum true (value f.fmt x)).1).2)),
   (Instr.fexp2, fun _ => 0, fun f _ x => special 0 f.fmt x), (Instr.flog2, fun _ => 0, fun f _ x => special 1 f.fmt x),
   (Instr.fsin, fun _ => 0, fun f _ x => special 2 f.fmt x), (Instr.fcos, fun _ => 0, fun f _ x => special 3 f.fmt x)]

/-- The converted sub-elements of a conversion in order, each with the draw of its place among those that have a source; the
others are zero (R174). -/
def convertedFrom (tgt src : Fmt) (mode : Nat) (ds : List Nat) : Nat → List (Option Nat) → List (Nat × Nat)
  | _, [] => []
  | k, some x :: t => round tgt mode (draw ds k) (value src x) :: convertedFrom tgt src mode ds (k + 1) t
  | k, none :: t => (0, 0) :: convertedFrom tgt src mode ds k t

/-- The source element of each target sub-element of a conversion, if it has one (R174). -/
def convertSlots (f : Firing) : List (Option Nat) :=
  let src := fmtOfCode (bits f.lit 7 4)
  let tgt := fmtOfCode (f.lit % 16)
  (List.range f.len).flatMap (fun j => (List.range (subCount tgt.code)).map (fun i =>
    (cvtSource (subCount src.code) (subCount tgt.code) (bits f.lit 11 8) i).map (fun k => elemOf src.code (f.aLane j) k)))

/-- Nodes that emit one token to both destinations without a flag or a draw, and that token: run moves and bit counts of a
worker (R180, R182, R187), pass-through, constants and tags of a guard (R190, R196 to R200), and a rotating slot's load (R221). -/
def plainNodes : List (Instr × (State → Firing → Token)) :=
  [(Instr.rshift, fun _ f => f.out f.width f.poisoned f.isEmpty ((List.range f.len).map (fun (j : Nat) =>
      if 0 ≤ (j : Int) - sgn 6 (f.lit % 64) ∧ (j : Int) - sgn 6 (f.lit % 64) < f.len
      then laneOf f.width (elemsOf f.width (f.aLane ((j : Int) - sgn 6 (f.lit % 64)).toNat)) else 0))),
   (Instr.lit, fun _ f => f.out f.width f.poisoned f.isEmpty
      (List.replicate f.len (laneOf f.width (List.replicate (subCount f.width) f.lit)))),
   (Instr.pcpre, fun _ f => f.out (if f.arity = 0 then 0 else 1) f.poisoned f.isEmpty
      (if f.arity = 0 then (prefixCounts f.lit ((List.range f.len).map f.aLane)).map (BitVec.ofNat 32)
       else List.zipWith (fun a b => BitVec.ofNat 32 (a % 65536 + b % 65536 * 65536))
         (prefixCounts (f.lit % 65536) ((List.range f.len).map f.aLane))
         (prefixCounts (f.lit / 65536) ((List.range f.len).map f.bLane)))),
   (Instr.merge, fun _ f => f.pass), (Instr.copy, fun _ f => f.pass), (Instr.gate, fun _ f => f.pass), (Instr.tagPush, fun _ f => f.pass),
   (Instr.tagPop, fun _ f => f.pass), (Instr.tagSet, fun _ f => f.pass), (Instr.tagInc, fun _ f => f.pass)] ++
  [(Instr.const, fun s f => f.out f.width f.poisoned f.isEmpty
      (List.replicate f.len (Tab.get 0 (s.cell f.ci).consts (f.lit % 32)))),
   (Instr.sel, fun s f => f.out (match f.b with | some b => b.width.toNat | none => 0)
      (f.poisoned || (!f.isEmpty && (s.slotRead f (f.lit % 256)).2)) f.isEmpty ((List.range f.len).map (fun j =>
        if (f.aLane j).getLsbD 0 then f.bLane j else nth 0 (s.slotRead f (f.lit % 256)).1 j))),
   (Instr.tagGet, fun s f => f.out 0 f.poisoned f.isEmpty ((List.range f.len).map (fun j =>
      let v := tagField (s.shape f.ctx) (laneTag (s.shape f.ctx) f.level f.tag j) (f.lit % 8)
      BitVec.ofNat 32 (if bitOf f.lit 3 then v / 2 ^ 32 else v)))),
   (Instr.rotLd, fun s f => f.out f.width (f.poisoned || (!f.isEmpty && (s.slotRead f (f.lit % 256)).2)) f.isEmpty
      (s.slotRead f (f.lit % 256)).1)]

/-- A control entry as a firing makes it, before it has an arrival number and a line (R207). -/
def newCtrl (f : Firing) (kind : CtrlKind) (node : Nat) (tag : Word) (key : Nat) (nums : List Nat) (held : List Token)
    (poison : Bool) : Ctrl :=
  { kind := kind, ctx := f.ctx, node := node, tag := tag, key := key, line := 256, nums := nums, held := held, poison := poison,
    order := 0 }

/-- Forager nodes whose accesses are performed whole or not at all: opcode and kind (R115, R235). -/
def wholeAccess : List (Instr × Nat × AccessKind) :=
  [(Instr.ld, 0x180, .load), (Instr.st, 0x181, .store), (Instr.ldS, 0x182, .load), (Instr.stS, 0x183, .store)]

/-- Forager nodes whose lanes are accesses of their own (R115, R235, R239 to R241). -/
def laneAccess : List (Instr × Nat × AccessKind) :=
  [(Instr.ldX, 0x184, .load), (Instr.stX, 0x185, .store), (Instr.atomAdd, 0x190, .atomic), (Instr.atomFadd, 0x191, .atomic), (Instr.atomMin, 0x192, .atomic),
   (Instr.atomMax, 0x193, .atomic), (Instr.atomMinn, 0x194, .atomic), (Instr.atomMaxn, 0x195, .atomic), (Instr.atomAnd, 0x196, .atomic),
   (Instr.atomOr, 0x197, .atomic), (Instr.atomXor, 0x198, .atomic), (Instr.atomSwap, 0x199, .atomic), (Instr.atomCas, 0x19A, .atomic),
   (Instr.atomFinc, 0x19B, .atomic)]

/-- The slot that `atom.cas` compares with: its lanes and poison; none for another node (R240). -/
def casSlot (s : State) (f : Firing) : List Lane × Bool :=
  if f.cfg.opcode = 0x19A then s.slotRead f (f.lit % 256) else ([], false)

/-- The compare value of a lane, of one word or of a pair. -/
def casValue (f : Firing) (zl : List Lane) (j : Nat) : Nat :=
  if f.m77 then (pair64 (nth 0 zl j) (nth 0 zl (j + 1))).toNat else (nth 0 zl j).toNat

/-- Nodes that mark the order of accesses (R244, R251). -/
def markNodes : List (Instr × AccessKind) :=
  [(Instr.mnop, .mnop), (Instr.fenceRel, .fenceRel), (Instr.fenceAcq, .fenceAcq), (Instr.fenceFull, .fenceFull)]

/-! ## The spill unit -/

/-- A spill record presented to its cell again (R45): the unit's pointer stands past the cell, the record has left the unit and is
counted in `SEC.SPILLIN`, and its token comes to the cell as a re-injected class-0 token. -/
def presentedAgain (s : State) (ps : Nat) (r : Spilled) : State :=
  (((s.setSpill ps { s.spill ps with next := r.ci + 1 }).takeRecord ps r).bump (secReg ps 0 0x20) 1).present r.ci
    { r.tok with cls := 0 } true

/-- The record in an overflow chunk of a sector that comes back next (R43): of each context only the one that left the spill area
first, of those that fit there the one that left first. -/
def nextOut (s : State) (ps : Nat) : Option Spilled :=
  let out := (s.spill ps).records.filter (fun r => r.chunk.isSome)
  leastBy (fun a b : Spilled => decide (a.order < b.order))
    (out.filter (fun r => out.all (fun x => x.tok.ctx != r.tok.ctx || decide (r.order ≤ x.order))
      && (s.areaPlace ps r.tok.ctx r.tok.imageSize).isSome))

/-- A token on its way to a cell of a sector whose context is trapped may be taken now: it stands at the cell and finds room (R44). -/
def findsRoom (s : State) (ps k : Nat) (f : Flight) : Bool :=
  dKind f.tok.dest == 1 && sectorOf (dCell f.tok.dest) == ps && (s.spill ps).trapped.contains f.tok.ctx.toNat && f.tok.cls != 2
    && s.mayArrive k && decide ((State.receive 40 (s.landed k) (dCell f.tok.dest) f.tok false).1 = [])

/-! ## Engine commands -/

/-- A message passes the checks of R103: the width code is 0b000, no flag is set, its inbox takes its opcode, it has the lanes of
its command and no flag bit outside those the command defines. -/
def Passes (m : Token) (accepted : Bool) (lanes flags : Nat) : Prop :=
  m.width = 0 ∧ m.empty = false ∧ m.fault = false ∧ m.poison = false ∧ accepted = true ∧ m.runLen = lanes
    ∧ (lane0 m &&& (0xFFFFFF00 ^^^ flags)) = 0

/-- The first check of R103 that a message fails, with the status and the data of its completion. -/
def CheckFails (m : Token) (accepted : Bool) (lanes flags st data : Nat) : Prop :=
  (m.width ≠ 0 ∧ st = 3 ∧ data = 0)
    ∨ (m.width = 0 ∧ m.empty = true ∧ st = 2 ∧ data = 0)
    ∨ (m.width = 0 ∧ m.empty = false ∧ m.fault = true ∧ st = 0x11 ∧ data = m.aux.toNat)
    ∨ (m.width = 0 ∧ m.empty = false ∧ m.fault = false ∧ m.poison = true ∧ st = 7 ∧ data = 0)
    ∨ (m.width = 0 ∧ m.empty = false ∧ m.fault = false ∧ m.poison = false ∧
        ((accepted = false ∧ st = 1 ∧ data = 0) ∨ (accepted = true ∧ m.runLen ≠ lanes ∧ st = 2 ∧ data = lanes)
          ∨ (accepted = true ∧ m.runLen = lanes ∧ (lane0 m &&& (0xFFFFFF00 ^^^ flags)) ≠ 0 ∧ st = 3 ∧ data = 0)))

/-- A message of engine `e` that heads its inbox and passes its checks. -/
def Heads (s : State) (m : Token) (e : Engine) (accepted : Bool) (lanes flags : Nat) : Prop :=
  engineOf m.dest = some e ∧ s.atHead m = true ∧ Passes m accepted lanes flags

/-- Which engines are pools. -/
def isPool (e : Engine) : Bool := match e with | .pool _ => true | _ => false
/-- Which engines are ladder controllers. -/
def isLadder (e : Engine) : Bool := match e with | .ladder _ => true | _ => false
/-- Which engines are copy engines. -/
def isCopy (e : Engine) : Bool := match e with | .copy _ => true | _ => false
/-- Which engines are stack engines. -/
def isStack (e : Engine) : Bool := match e with | .stack _ => true | _ => false
/-- Which engines are page engines. -/
def isPage (e : Engine) : Bool := match e with | .page _ => true | _ => false
/-- Which engines are link engines. -/
def isLink (e : Engine) : Bool := match e with | .link _ _ => true | _ => false

/-- A command: its instruction, its engines, the inboxes that take it, its lanes, and the bits of lane 0 above its opcode that it
defines. -/
structure CommandRow where
  /-- The instruction, given its message. -/
  cmd : Token → Instr
  /-- The engines that have it. -/
  engine : Engine → Bool
  /-- The inboxes that take it. -/
  inbox : Nat → Bool
  /-- The lanes of its message. -/
  lanes : Nat
  /-- The flag bits it defines. -/
  flags : Nat

/-- The engine commands with the shape of their messages (R102, R103, R274 to R289, R315, R323, R349, R394, R418). -/
def commandTable : List CommandRow :=
  [⟨Instr.poolCfg, isPool, fun i => decide (i = 0), 4, 0x100⟩, ⟨Instr.poolMap, isPool, fun i => decide (i = 0), 4, 0x300⟩,
   ⟨Instr.poolSpan, isPool, fun i => decide (i = 0), 4, 0x300⟩, ⟨Instr.poolZero, isPool, fun i => decide (i = 0), 4, 0⟩,
   ⟨Instr.poolCommit, isPool, fun i => decide (i = 3), 4, 0⟩, ⟨Instr.poolFence, isPool, fun i => decide (i < 4), 2, 0xF00⟩,
   ⟨Instr.poolStat, isPool, fun i => decide (i < 4), 2, 0x100⟩, ⟨Instr.poolMma, isPool, fun i => decide (i = 1), 8, 0xFF00⟩,
   ⟨Instr.poolBload, isPool, fun i => decide (i = 2), 6, 0⟩, ⟨Instr.poolBloadNm, isPool, fun i => decide (i = 2), 8, 0x100⟩,
   ⟨Instr.poolA, isPool, fun i => decide (i = 1), 8, 0xFF00⟩, ⟨Instr.poolDrain, isPool, fun i => decide (i = 3), 8, 0x7F00⟩,
   ⟨Instr.poolMmaBs, isPool, fun i => decide (i = 1), 12, 0xFFF00⟩] ++
  [⟨Instr.ladBudget, isLadder, fun _ => true, 4, 0⟩, ⟨Instr.ladStart, isLadder, fun _ => true, 4, 0⟩, ⟨Instr.ladCap, isLadder, fun _ => true, 4, 0⟩,
   ⟨Instr.ladRetain, isLadder, fun _ => true, 4, 0⟩, ⟨Instr.ladRelease, isLadder, fun _ => true, 4, 0⟩, ⟨Instr.ladRead, isLadder, fun _ => true, 4, 0⟩,
   ⟨Instr.ladClear, isLadder, fun _ => true, 4, 0⟩, ⟨Instr.ladForce, isLadder, fun _ => true, 4, 0⟩] ++
  [⟨Instr.cpLin, isCopy, fun _ => true, 8, 0⟩, ⟨Instr.cp2d, isCopy, fun _ => true, 10, 0⟩, ⟨Instr.cpTr, isCopy, fun _ => true, 10, 0⟩,
   ⟨Instr.cpFill, isCopy, fun _ => true, 8, 0⟩, ⟨Instr.cpGath, isCopy, fun _ => true, 6, 0⟩, ⟨Instr.cpZip, isCopy, fun _ => true, 10, 0⟩,
   ⟨Instr.cpUnzip, isCopy, fun _ => true, 10, 0⟩, ⟨Instr.cpFence, isCopy, fun _ => true, 2, 0xF00⟩,
   ⟨Instr.stkLoad, isStack, fun _ => true, 6, 0x700⟩, ⟨Instr.stkGemv, isStack, fun _ => true, 10, 0xF00⟩,
   ⟨Instr.stkGemvAcc, isStack, fun _ => true, 10, 0xF00⟩, ⟨Instr.stkStat, isStack, fun _ => true, 2, 0x100⟩,
   ⟨Instr.stkFence, isStack, fun _ => true, 2, 0xF00⟩] ++
  [⟨Instr.pgMove, isPage, fun _ => true, 4, 0xF00⟩, ⟨Instr.pgAbort, isPage, fun _ => true, 4, 0⟩, ⟨Instr.pgPin, isPage, fun _ => true, 6, 0⟩,
   ⟨Instr.pgUnpin, isPage, fun _ => true, 6, 0⟩, ⟨Instr.pgHot, isPage, fun _ => true, 6, 0x100⟩, ⟨Instr.pgViewOpen, isPage, fun _ => true, 2, 0⟩,
   ⟨Instr.pgViewClose, isPage, fun _ => true, 2, 0⟩, ⟨Instr.pgInval, isPage, fun _ => true, 6, 0x300⟩, ⟨Instr.pgProbe, isPage, fun _ => true, 4, 0⟩,
   ⟨Instr.pgFence, isPage, fun _ => true, 2, 0xF00⟩] ++
  [⟨Instr.lnPut, isLink, fun _ => true, 8, 0⟩, ⟨Instr.lnGet, isLink, fun _ => true, 8, 0⟩, ⟨Instr.lnSignal, isLink, fun _ => true, 8, 0⟩,
   ⟨Instr.lnJoin, isLink, fun _ => true, 6, 0x1FC000⟩, ⟨Instr.lnJoinLeave, isLink, fun _ => true, 6, 0x1FC000⟩,
   ⟨Instr.lnAllred, isLink, fun _ => true, 8, 0xFFFFFF00⟩, ⟨Instr.lnRedsc, isLink, fun _ => true, 8, 0xFFFFFF00⟩,
   ⟨Instr.lnAllgath, isLink, fun _ => true, 8, 0xFFFFFF00⟩, ⟨Instr.lnBcast, isLink, fun _ => true, 8, 0xFFFFFF00⟩,
   ⟨Instr.lnBarrier, isLink, fun _ => true, 2, 0xFFFFFF00⟩, ⟨Instr.lnFence, isLink, fun _ => true, 2, 0xFF00⟩,
   ⟨Instr.lnStat, isLink, fun _ => true, 2, 0x100⟩]

/-- The pool commands performed at their place in the order of R264, with the rule of when each may be: the inbox, the lanes and
the flags. -/
def poolInOrder : List (CommandRow × (Token → Bool)) :=
  [(⟨Instr.poolCfg, isPool, fun i => decide (i = 0), 4, 0x100⟩, fun m => !extraBits (qOp m 1) 0x7FF7FFFFF && qOp m 1 % 4 == 0),
   (⟨Instr.poolMap, isPool, fun i => decide (i = 0), 4, 0x300⟩, fun m => !extraBits (qOp m 1) 0x7FFFFF && qOp m 1 % 4 == 0),
   (⟨Instr.poolSpan, isPool, fun i => decide (i = 0), 4, 0x300⟩, fun m => !extraBits (qOp m 1) 0x3FFFFF),
   (⟨Instr.poolZero, isPool, fun i => decide (i = 0), 4, 0⟩, fun m => match regionOf (qOp m 1) with | .ok _ => true | .error _ => false)]

/-- A configuration bank that has been carved into groups and has no map (R260). -/
def carved (sizes : List Nat) : Bank := { sizes := sizes, map := [], mapped := false, win := false, span := none }

/-- A pool that has taken the `pool.mma` of sequence number `n` (R268, R309). -/
def mmaNoted (p : Pool) (n : Nat) (m : Token) : Pool :=
  { p with
    lastMma := some n,
    parents := p.parents ++ [
      { seq := n, b := none, status := 0, loaded := false,
        prof := if bits (lane0 m) 11 9 = 0 then some (bits (lane0 m) 14 12) else none, fmt := 0, ladder := false, groups := [] }] }

/-- An explicit hold of a context on a range of its scratchpad (R314). -/
def explicitHold (ctx : BitVec 12) (lo hi : Nat) : LadHold :=
  { auto := false, pool := 0, seq := 0, ctx := ctx, lo := lo, hi := hi, released := false, lifted := false, saved := none }

/-- A copy command that checks every address first (R327): its instruction, its lanes, whether its operands keep their limits,
whether it reads every source byte first, and its pieces in order. -/
structure CopyRow where
  /-- The instruction, given its message. -/
  cmd : Token → Instr
  /-- The lanes of its message. -/
  lanes : Nat
  /-- Whether its operands keep their limits. -/
  good : Token → Bool
  /-- Whether every source byte is read before a destination byte is written (R328). -/
  lin : Bool
  /-- Its pieces in order. -/
  pieces : Token → List Piece

/-- The limits of a transpose's operands (R331). -/
def transposeOk (m : Token) : Bool :=
  let es := 2 ^ bits (qOp m 3) 33 32
  copyAddrOk (qOp m 1) && copyAddrOk (qOp m 2) && bits (qOp m 3) 15 0 != 0 && bits (qOp m 3) 31 16 != 0
    && bits (qOp m 3) 33 32 != 3 && decide (qOp m 3 < 2 ^ 34) && bits (qOp m 4) 31 0 % es == 0 && bits (qOp m 4) 63 32 % es == 0
    && (copyAddr (qOp m 1)).at_ % es == 0 && (copyAddr (qOp m 2)).at_ % es == 0

/-- The elements of a transpose: blocks of 32 × 32 in row order, in each its elements in row order; element (r, c) of the source goes
to (c, r) (R331). -/
def transposePieces (m : Token) : List Piece :=
  let es := 2 ^ bits (qOp m 3) 33 32
  let cb := bits (qOp m 3) 31 16
  (upTo (bits (qOp m 3) 15 0 * cb)).flatMap (fun (b : Nat) => (upTo 1024).map (fun (i : Nat) =>
    let r := 32 * (b / cb) + i / 32
    let c := 32 * (b % cb) + i % 32
    { pos := (1024 * b + i) * es, dst := (copyAddr (qOp m 1)).plus ((c * bits (qOp m 4) 63 32 + r * es : Nat) : Int), n := es,
      src := some ((copyAddr (qOp m 2)).plus ((r * bits (qOp m 4) 31 0 + c * es : Nat) : Int)), given := [], bad := false }))

/-- The copy commands that check every address first (R329 to R332). -/
def copyRows : List CopyRow :=
  [⟨Instr.cpLin, 8, fun m => copyAddrOk (qOp m 1) && copyAddrOk (qOp m 2) && qOp m 3 != 0 && decide (qOp m 3 < 2 ^ 32), true,
     fun m => cutRun (qOp m 3) 0 (copyAddr (qOp m 1)) (qOp m 3) (some (copyAddr (qOp m 2)))⟩,
   ⟨Instr.cp2d, 10, fun m => copyAddrOk (qOp m 1) && copyAddrOk (qOp m 2) && bits (qOp m 3) 23 0 != 0 && bits (qOp m 3) 47 24 != 0
       && decide (qOp m 3 < 2 ^ 48), false,
     fun m => (upTo (bits (qOp m 3) 47 24)).flatMap (fun (i : Nat) =>
       cutRun (bits (qOp m 3) 23 0) (i * bits (qOp m 3) 23 0) ((copyAddr (qOp m 1)).plus (signed32 (bits (qOp m 4) 63 32) * (i : Int)))
         (bits (qOp m 3) 23 0) (some ((copyAddr (qOp m 2)).plus (signed32 (bits (qOp m 4) 31 0) * (i : Int)))))⟩,
   ⟨Instr.cpTr, 10, transposeOk, false, transposePieces⟩,
   ⟨Instr.cpFill, 8, fun m => copyAddrOk (qOp m 1) && bits (qOp m 3) 31 0 != 0 && decide (qOp m 3 < 2 ^ 34)
       && bits (qOp m 3) 31 0 % 2 ^ bits (qOp m 3) 33 32 == 0 && (copyAddr (qOp m 1)).at_ % (2 ^ bits (qOp m 3) 33 32 : Nat) == 0, false,
     fun m => (cutRun (bits (qOp m 3) 31 0) 0 (copyAddr (qOp m 1)) (bits (qOp m 3) 31 0) none).map (fun p =>
       { p with given := (upTo p.n).map (fun i => BitVec.ofNat 8 (qOp m 2 / 2 ^ (8 * ((p.pos + i) % 2 ^ bits (qOp m 3) 33 32)))) })⟩]

/-- A copy command's progress as its next chunk moves, and the machine then: before its first, the bytes that its extents share are
noted, or, where it reads all its sources first, set aside as they are to be read (R328, R329). -/
def chunkStart (w : State) (h : CopyRun) (lin : Bool) (all : List Flow) : CopyRun × State :=
  let both := w.sharedBytes (all.flatMap (fun f => f.srcs)) (all.map (fun f => f.dst))
  if h.begun then (h, w)
  else if lin then
    ({ h with begun := true, own := (indexed 0 both).map (fun e => (e.2.1, h.either (w.free + e.1) e.2.1 e.2.2)) },
      if h.shared.isEmpty then w else { w with free := w.free + both.length })
  else ({ h with begun := true, shared := h.shared ++ both }, w)

/-- A copy command's progress after a chunk of `n` bytes. -/
def chunkDone (r : CopyRun) (n : Nat) (bad : Bool) : CopyRun :=
  { r with chunk := r.chunk + 1, bytes := r.bytes + n, bad := r.bad || bad }

/-- What the next 64-byte chunk of a copy command leaves (R322, R327, R339): `o` from `v`, where the command stands at `r` and moves
`pieces`. Every address is checked before the first chunk, and a bad one ends the command by `fail` with nothing written. A chunk
waits for its holds, for a ladder hold on its destination, and behind requests in its sector's port; an access refused in it ends the
command with nothing of the chunk written; else its bytes move and count, and the command goes on in a later turn, or by `next` after the
last chunk. -/
def ChunkGives (v : State) (m : Token) (ps : Nat) (r : CopyRun) (lin : Bool) (pieces : List Piece)
    (fail : Nat → Nat → CopyRun → State → State) (next : CopyRun → State → State) (o : State) : Prop :=
  (∀ c pos t, r.begun = false → v.resolve ps m.ctx r.asid pieces = (.error (c, pos), t) → o = fail c pos r t)
    ∧ (∀ all t fs u, (if r.begun then ((.ok [] : Except (Nat × Nat) (List Flow)), v) else v.resolve ps m.ctx r.asid pieces) = (.ok all, t) →
      t.resolve ps m.ctx r.asid (pieces.filter (fun p => p.pos / 64 == r.chunk)) = (.ok fs, u) →
      (∀ h f rest w, u.takeHolds r.holds ((flowFrames (all ++ fs)).filter (fun f => !r.holds.contains (u.holdFrame f))) = (h, f :: rest, w) →
        o = (w.keepRun m { r with holds := h }).waitHold m f [] h)
      ∧ (∀ h w, u.takeHolds r.holds ((flowFrames (all ++ fs)).filter (fun f => !r.holds.contains (u.holdFrame f))) = (h, [], w) →
        (∀ f, w.heldFlow fs = some f → o = (w.keepRun m { r with holds := h }).waitLad m f.dst.pa f.dst.n [] h)
        ∧ (w.heldFlow fs = none → w.portWaits ps (flowReaches fs) = true → o = w.keepRun m { r with holds := h })
        ∧ (w.heldFlow fs = none → w.portWaits ps (flowReaches fs) = false → ∀ r1 w1, chunkStart w { r with holds := h } lin all = (r1, w1) →
          (∀ n bad x, w1.moveChunk r1 fs = ((0, n, bad), x) →
            ((∀ p ∈ pieces, p.pos / 64 ≤ r1.chunk) → o = next (chunkDone r1 n bad) (x.bump (secReg ps 6 0x08) n))
            ∧ (∀ p ∈ pieces, r1.chunk < p.pos / 64 → o = (x.bump (secReg ps 6 0x08) n).keepRun m (chunkDone r1 n bad)))
          ∧ (∀ c n bad x, w1.moveChunk r1 fs = ((c, n, bad), x) → c ≠ 0 → o = fail c (64 * r1.chunk) r1 x))))

/-- A stack command goes on (R357): begun in its inbox's turn, from `v`, in which the turn has passed on, or resumed where it had
waited, with the numbers and holds it keeps. -/
def StkTaken (s : State) (m : Token) (st : Nat) (v : State) (nums holds : List Nat) : Prop :=
  (s.busyOf m = none ∧ s.stkTurn st (dInbox m.dest) = true ∧ v = s.stkServed st (dInbox m.dest) ∧ nums = [] ∧ holds = [])
    ∨ ((s.busyOf m).isSome = true ∧ s.resumed m = some (nums, holds) ∧ v = s)

/-- The product that a message of a stack engine asks for (R351). -/
def gemvOf (s : State) (st : Nat) (m : Token) (acc : Bool) : Gemv :=
  { acc := acc, w := qOp m 1, pitch := bits (qOp m 2) 31 0, rows := bits (qOp m 2) 47 32 + 1, y := qOp m 3, sb := qOp m 4,
    wf := bits (lane0 m) 11 10,
    x := (nth VecSlot.none (s.stack st).slots (stkSlot m)).data.take (nth VecSlot.none (s.stack st).slots (stkSlot m)).len }

/-- A vector slot after a load of `k` elements of 2 or 4 bytes, `f32`, or `bf16` widened: the elements beyond stay (R350). -/
def vectorOf (old : VecSlot) (size k : Nat) (g : Got) (ctx : BitVec 12) : VecSlot :=
  { data := (chunks size k g.data).map (fun e => BitVec.ofNat 32 (if size = 4 then leNat e else leNat e * 65536)) ++ old.data.drop k,
    len := k, poison := g.poison, ctx := ctx, valid := true }

/-- A `pg.move` that waits to begin (R379, R405). -/
def waitingMove (s : State) (m : Token) (die asid : Nat) (l : Leaf) : Move :=
  { id := 0, arr := s.headArrival (inboxKey m.dest), die := die, asid := asid, va := qOp m 1, msg := some m,
    tier := bits (lane0 m) 9 8, toDie := bits (lane0 m) 11 10, pte := l.pte, entry := l.entry, src := l.frame, dst := 0,
    phase := .waiting, copied := 0, queue := [], heldAt := none, paused := none, taken := none, cause := 0, shoot := 0, retire := false }

/-- An automatic move that waits to begin (R387). -/
def autoMove (die asid va tier : Nat) (l : Leaf) : Move :=
  { id := 0, arr := 0, die := die, asid := asid, va := va, msg := none, tier := tier, toDie := die, pte := l.pte, entry := l.entry,
    src := l.frame, dst := 0, phase := .waiting, copied := 0, queue := [], heldAt := none, paused := none, taken := none, cause := 0,
    shoot := 0, retire := false }

/-- A view's index, stamp and context entered in the descriptor of its ASID (R388). -/
def viewEntered (s : State) (m : Token) (die asid v stamp : Nat) : State :=
  let t := (((s.setDesc die asid 0x20 31 0 (stamp + 1)).setDesc die asid (0x28 + 8 * (v / 2)) (32 * (v % 2) + 31) (32 * (v % 2))
    stamp).setDesc die asid 0x38 (12 * v + 11) (12 * v) m.ctx.toNat).setDesc die asid 0x20 (32 + v) (32 + v) 1
  State.markHeld { t with viewStamps := Tab.set t.viewStamps m.ctx.toNat stamp }

/-- The shootdown that a `pg.inval` starts (R402). -/
def invalSet (m : Token) (asid : Nat) : ShootSet :=
  if bitOf (lane0 m) 8 then .all asid else .pages asid (qOp m 1 / 65536) (qOp m 2 + 1)

/-- The operands of a `pg.inval` are in form (R402). -/
def invalOk (m : Token) : Bool :=
  !(bitOf (lane0 m) 9 && !bitOf (lane0 m) 8) && (!bitOf (lane0 m) 8 || (qOp m 1 == 0 && qOp m 2 == 0)) && vaOk (qOp m 1)
    && decide (qOp m 2 < 65536)

/-- The page commands that act in the ASID of their context, with their lanes, their flags and the limits of their operands (R394, R397 to
R403). -/
def pageRows : List ((Token → Instr) × Nat × Nat × (Token → Bool)) :=
  [(Instr.pgMove, 4, 0xF00, fun m => decide (bits (lane0 m) 9 8 ≠ 3) && vaOk (qOp m 1)), (Instr.pgAbort, 4, 0, fun m => vaOk (qOp m 1)),
   (Instr.pgPin, 6, 0, fun m => vaOk (qOp m 1) && decide (qOp m 2 < 65536)),
   (Instr.pgUnpin, 6, 0, fun m => vaOk (qOp m 1) && decide (qOp m 2 < 65536)),
   (Instr.pgHot, 6, 0x100, fun m => vaOk (qOp m 1) && decide (qOp m 2 < 32)), (Instr.pgViewOpen, 2, 0, fun _ => true),
   (Instr.pgViewClose, 2, 0, fun _ => true), (Instr.pgInval, 6, 0x300, invalOk), (Instr.pgProbe, 4, 0, fun m => vaOk (qOp m 1))]

/-- The message at the head of an inbox is a `pg.move` whose move waits to begin (R405). -/
def moveWaits (s : State) (m : Token) : Bool :=
  s.moves.any (fun v => v.msg.isSome && v.phase == .waiting && v.arr == s.headArrival (inboxKey m.dest))

/-- A receiver's acknowledgement of a shootdown (R374). -/
def acked (s : State) (id rc : Nat) : State :=
  { s with shoots := s.shoots.map (fun y => if y.id = id then { y with waiting := y.waiting.filter (fun r => r != rc) } else y) }

/-- What the cut-over of a twin fill leaves: the leaf names the new frame, the old one joins the page's chain (R389, R390). -/
def twinLinked (s : State) (f : Fill) : State :=
  let e := s.devRead f.pte 8
  let ext := s.devRead (f.pte + 8192) 8
  let a := s.rdesc f.die f.asid f.desc
  let w := s.side0 f.old
  let s1 := (s.setPte f.pte (putBits e 56 16 (f.new / 65536))).devPut (f.pte + 8192) 8 (putBits ext 63 48 (f.desc + 1))
  let s2 := ((s1.devPut a 8 (1 + f.old)).devPut (a + 8) 8 (f.birth + f.next * 2 ^ 32)).devPut (a + 16) 8 f.pte
  let s3 := (s2.setSide0 f.new (putBits (putBits (s2.side0 f.new) 20 20 (bits w 20 20)) 45 32 (bits w 45 32))).setSide1 f.new
    (s2.side1 f.old)
  (s3.setSide0 f.old (putBits (putBits (putBits w 20 20 0) 45 32 0) 21 21 1)).setSide1 f.old f.new

/-- A transfer that has begun: no chunk moved, its pages found, and the bytes that its extents share noted (R422, R328). -/
def transferBusy (m : Token) (src dst : Tab (Nat × Bool)) (holds : List Nat) (copy : Option CopyRun) : Busy :=
  { msg := m, phase := 50, nums := [0, 0, 0, 0], holds := holds, data := [], copy := copy, src := src, dst := dst }

/-- The operands of a transfer are in form and in range (R422). -/
def transferOk (m : Token) : Prop :=
  qOp m 1 < 2 ^ 56 ∧ qOp m 2 < 2 ^ 56 ∧ 0 < qOp m 3 ∧ qOp m 3 < 2 ^ 32 ∧ qOp m 1 + qOp m 3 ≤ 2 ^ 56 ∧ qOp m 2 + qOp m 3 ≤ 2 ^ 56

/-- A group that a module has joined for itself and not yet heard of from the others (R425). -/
def joiningGroup (s : State) (m : Token) (list : List Nat) (heard : Tab Word) : Group :=
  { list := list, digest := Config.listDigest list, rank := list.idxOf (s.ownDev (linkDie m)), inbox := inboxKey m.dest, ctx := m.ctx,
    saved := none, seq := 0, broken := false, bound := false, heard := heard, since := s.timer, msg := m, leaving := false }

/-- The link engines' statistics registers, in the order of `ln.stat` (R433). -/
def linkCounts : List Nat := [0x80, 0x88, 0x90, 0x98, 0xA0, 0xA8]

/-! ## The command front, power and the custodian -/

/-- The head of its queue, ready, is dispatched: `t` is the machine in which it is performed (R447, R448). -/
def Dispatches (s : State) (c : Cmd) (line : Nat) (t : State) : Prop :=
  c.line = line ∧ s.readyHead c.queue = some c
    ∧ t = { s.setQueue c.queue { s.queue c.queue with onchip := (s.queue c.queue).onchip.tail, readySince := 0 } with
              served := Tab.set s.served (s.level c.queue) c.queue }

/-- The bits that a SIGNAL defines (R443). -/
def signalMasks : List Nat := [maskBits 56 0, maskBits 63 0, maskBits 20 0 + maskBits 43 32, maskBits 10 0 + 2 ^ 16]

/-- The bits that a PREEMPT and a RESUME define (R443). -/
def slotMasks : List Nat := [maskBits 11 0, maskBits 56 16, maskBits 31 0]

/-- The ADDR of a SIGNAL is one it may write: none, or 8 aligned bytes of device memory (R445, log 20). -/
def signalAddrOk (t : State) (a : Nat) : Prop := a = 0 ∨ (a % 8 = 0 ∧ isGlobal a = true ∧ t.physOk a 8 false = true)

/-- The token that a SIGNAL posts (R445). -/
def signalToken (c : Cmd) : Token :=
  { dest := BitVec.ofNat 21 (Cmd.w c 2), ctx := BitVec.ofNat 12 (bits (Cmd.w c 2) 43 32), len := 3, width := 0, poison := false,
    fault := false, empty := false, cls := 6, aux := 0, tag := 0,
    lanes := [0x02, (nth 0 c.body 1 : Word).extractLsb' 0 32, (nth 0 c.body 1 : Word).extractLsb' 32 32] }

/-- Requests that the custodian answers over SPDM, and the name of each answer (R474). -/
def spdmRequests : List ((List Byte → Instr) × String) :=
  [(Instr.getVersion, "VERSION"), (Instr.getCapabilities, "CAPABILITIES"), (Instr.negotiateAlgorithms, "ALGORITHMS"), (Instr.getDigests, "DIGESTS"),
   (Instr.challenge, "CHALLENGE_AUTH"), (Instr.keyExchange, "KEY_EXCHANGE_RSP"), (Instr.finish, "FINISH_RSP"), (Instr.endSession, "END_SESSION_ACK")]

/-- A request taken by the custodian: its bytes stand among those received. -/
def heardSpdm (s : State) (req : List Byte) : State := s.setCust { s.cust with spdm := s.cust.spdm ++ req }

/-- An answer of a management interface recorded. -/
def answered (s : State) (what : String) (data : List Nat) : State :=
  s.setCust { s.cust with answers := s.cust.answers ++ [{ what := what, data := data }] }

/-- The new nonce after a request, and its result (R478). -/
def requestEnded (s : State) (result : Nat) : State :=
  ((s.setBits (custReg 0x28) 2 1 result).setCust { s.cust with nonces := s.cust.nonces + 1 }).setReg (custReg 0x20)
    (Config.nonce (s.cust.nonces + 1))

/-- Bit 1 of the JTAG status word set; nothing else (R479). -/
def jtagTurnedAway (s t : State) : Prop :=
  bitOf t.cust.jtagStatus 1 = true ∧ { t with cust := s.cust } = s ∧ { t.cust with jtagStatus := s.cust.jtagStatus } = s.cust

end Sys2Proof
end

