-- ==== Sys2Proof/Certificates/Slice0/Obligations.lean ====
section
/-! DEFINITION. The statements for the provers: what the instructions of the KZ-A41 and its steps do, each from the rules it
names. -/

open Sys2Proof Sys2Proof.Machine

/-- O1. Keeper words written out bit by bit decode to their instructions (R110, R111, R112, R141). -/
def Obligations.KeeperWordsDecode : Prop :=
  decode 0b0000001_00011_00001_00010_0000000000#32 = .keeperAdd 3 1 2
    ∧ decode 0b0000001_00011_00001_00010_0000001110#32 = .keeperMax 3 1 2
    ∧ decode 0x0451FFF0#32 = .keeperAddi 5 3 (-16)
    ∧ decode 0b0000111_00100_00101_000000000_111111#32 = .keeperSrli 4 5 63
    ∧ decode 0b0001001_00100_10000000000000000001#32 = .keeperLui 4 0x80001
    ∧ decode 0b0010111_00001_00110_00111_0000000001#32 = .keeperSt64 6 7 1025
    ∧ decode 0x33F203FD#32 = .keeperBne 4 0 (-3)
    ∧ decode 0b0011110_00001_10000000000000000000#32 = .keeperJal 1 0x80000
    ∧ decode 0b0100000_01001_00000_000_000000011000#32 = .keeperCsrr 9 0x018
    ∧ decode 0b0100010_00000_00000_000000000000101#32 = .keeperTrap 5
    ∧ decode 0b0100101_00000_00000_00000_0000000011#32 = .keeperFence 3
    ∧ decode 0b0101100_00010_00011_00000_0000000001#32 = .kpEvq 2 3 true
    ∧ decode 0#32 = .illegalInstruction 0
    ∧ decode 0b0100011_00001_00000_00000_0000000000#32 = .illegalInstruction 0b0100011_00001_00000_00000_0000000000

/-- O2. Decoding the word of a well-formed keeper instruction gives that instruction back (R110, R111, R112, R141). -/
def Obligations.DecodeEncodedKeeperWord : Prop :=
  ∀ (i : Instr) (w : BitVec 32), i.wf = true → encode i = some w → decode w = i

/-- O3. Every 32-bit word is the word of the instruction it decodes to (R110, R111, R112). -/
def Obligations.EncodeDecodedKeeperWord : Prop :=
  ∀ w : BitVec 32, (decode w).wf = true ∧ encode (decode w) = some w

/-- O4. An illegal word decodes by its own name and takes the ILLEGAL trap, performing nothing else (R112). -/
def Obligations.IllegalWordTraps : Prop :=
  (∀ w : BitVec 32, (kMajor w = 0 ∨ (0x0A ≤ kMajor w ∧ kMajor w ≤ 0x0F) ∨ kMajor w = 0x26 ∨ kMajor w = 0x27 ∨ 0x30 ≤ kMajor w) →
      illegalWord w = true)
    ∧ (∀ w : BitVec 32, kMajor w = 1 → 0x00F ≤ (kFunc w).toNat → illegalWord w = true)
    ∧ (∀ w : BitVec 32, (kMajor w = 0x06 ∨ kMajor w = 0x07 ∨ kMajor w = 0x08) → (kImm15 w).extractLsb' 6 9 ≠ 0 → illegalWord w = true)
    ∧ (∀ w : BitVec 32, kMajor w = 0x20 → (kFieldA w ≠ 0 ∨ (kImm15 w).extractLsb' 12 3 ≠ 0) → illegalWord w = true)
    ∧ (∀ w : BitVec 32, kMajor w = 0x21 → (kFieldD w ≠ 0 ∨ (kImm15 w).extractLsb' 12 3 ≠ 0) → illegalWord w = true)
    ∧ (∀ w : BitVec 32, kMajor w = 0x22 → (kFieldD w ≠ 0 ∨ kFieldA w ≠ 0) → illegalWord w = true)
    ∧ (∀ w : BitVec 32, kMajor w = 0x23 → w.extractLsb' 0 25 ≠ 0 → illegalWord w = true)
    ∧ (∀ w : BitVec 32, kMajor w = 0x25 → w.extractLsb' 2 23 ≠ 0 → illegalWord w = true)
    ∧ (∀ w : BitVec 32, 0x28 ≤ kMajor w → kMajor w ≤ 0x2F → (kFieldB w ≠ 0 ∨ (kFunc w).extractLsb' 1 9 ≠ 0) → illegalWord w = true)
    ∧ (∀ w : BitVec 32, (kMajor w = 0x28 ∨ kMajor w = 0x2B ∨ kMajor w = 0x2E ∨ kMajor w = 0x2F) → kFunc w ≠ 0 → illegalWord w = true)
    ∧ (∀ w : BitVec 32, (kMajor w = 0x29 ∨ kMajor w = 0x2A ∨ kMajor w = 0x2B ∨ kMajor w = 0x2E) → kFieldD w ≠ 0 → illegalWord w = true)
    ∧ (∀ w : BitVec 32, (kMajor w = 0x2D ∨ kMajor w = 0x2F) → kFieldA w ≠ 0 → illegalWord w = true)
    ∧ illegalWord 0 = true
    ∧ decode 0x0451FFF0#32 = .keeperAddi 5 3 (-16) ∧ decode 0x33F203FD#32 = .keeperBne 4 0 (-3)
    ∧ (∀ w : BitVec 32, illegalWord w = true → decode w = .illegalInstruction w)
    ∧ (∀ (w : BitVec 32) (s : State), illegalWord w = true → s.inTrap s.cur = false →
        ∃ t, exec (.illegalInstruction w) s = .next t ∧ KeeperFaults s t 0xC 0)

/-- O5. Node records decode by their opcode field, and no two nodes share an opcode (R98, R113, R114, R115, R117). -/
def Obligations.NodeOpcodesDecode : Prop :=
  nodeOpcodes.Pairwise (fun a b => a.1 ≠ b.1 ∧ a.2 ≠ b.2)
    ∧ decodeNode (0b000000000#9 ++ 0#87) = some .add ∧ decodeNode (0b000100110#9 ++ 0#87) = none
    ∧ decodeNode (0b000110011#9 ++ 0#87) = some .ffma ∧ decodeNode (0b001110011#9 ++ 0#87) = some .rprefix
    ∧ decodeNode (0b010100000#9 ++ 0#87) = some .lit ∧ decodeNode (0b100000000#9 ++ 0#87) = some .steerT
    ∧ decodeNode (0b100010011#9 ++ 0#87) = some .loopClose ∧ decodeNode (0b100111001#9 ++ 0#87) = some .rotSt
    ∧ decodeNode (0b110000010#9 ++ 0#87) = some .ldS ∧ decodeNode (0b110011010#9 ++ 0#87) = some .atomCas
    ∧ decodeNode (0b110100011#9 ++ 0#87) = some .fenceFull ∧ decodeNode (0b110110001#9 ++ 0#87) = some .shapeSet
    ∧ decodeNode (0b111111111#9 ++ 0#87) = none

/-- O6. A keeper's turn runs the instruction that the word at its pc decodes to (R126, R19). -/
def Obligations.StepRunsKeeperWord : Prop :=
  ∀ (s : State) (ps : Nat) (ts : List Turn), s.power = .on → s.inputs = .keeper ps :: ts → s.keeperRuns ps = true →
    s.fetchFault ps (s.keeper ps).pc = none →
    step s = exec (decode (s.lane (kmemAddr ps (s.keeper ps).pc.toNat))) { s with inputs := ts, cur := ps }

/-- O7. A cell's, an inbox's, a queue's and an event's turn runs its instruction (R40, R54, R439). -/
def Obligations.StepRunsOtherTurns : Prop :=
  (∀ (s : State) (ci : Nat) (ts : List Turn) (f : Firing) (i : Instr), s.power = .on → s.inputs = .cell ci :: ts → s.awake = true →
      s.nextFiring ci = some f → nodeInstr f.cfg.opcode = some i →
      step s = exec i ({ s with inputs := ts }.issueFiring f))
    ∧ (∀ (s : State) (d n : Nat) (m : Token) (r : List (Nat × Token)) (ts : List Turn) (i : Instr), s.power = .on →
      s.inputs = .inbox d :: ts → s.awake = true → s.inbox d = (n, m) :: r → messageInstr m = some i →
      step s = exec i { s with inputs := ts })
    ∧ (∀ (s : State) (q : Nat) (ts : List Turn) (i : Instr), s.power = .on → s.inputs = .queue q :: ts →
      s.queueInstr q = some i → step s = exec i { s with inputs := ts })
    ∧ (∀ (s : State) (i : Instr) (ts : List Turn), s.power = .on → s.inputs = .event i :: ts →
      step s = exec i { s with inputs := ts })
    ∧ (∀ (s : State) (n : Nat) (ts : List Turn), s.power = .on → s.inputs = .pass n :: ts →
      step s = .next (({ s with inputs := ts }.pass n).portsMove.noteReady))

/-- O8. While the module has power every step gives a next state; without power only power-on does (R496, R497). -/
def Obligations.PoweredStepIsSafe : Prop :=
  (∀ s : State, s.power = .on → SafeStep s)
    ∧ (∀ (s : State) (t : Turn) (ts : List Turn), s.power = .off → s.inputs = t :: ts → t ≠ .event .powerOn →
        step s = .fault .poweredOff)
    ∧ (∀ (s : State) (ts : List Turn), s.power = .off → s.inputs = .event .powerOn :: ts →
        ∃ t, step s = .next t ∧ t.power = .on)

/-- O9. A fetch that is misaligned, beyond local memory, below KUBASE in user mode or from a bad line traps at the pc (R126, R135). -/
def Obligations.FetchFaultTraps : Prop :=
  ∀ (s : State) (ps : Nat) (ts : List Turn) (c : Nat), s.power = .on → s.inputs = .keeper ps :: ts → s.keeperRuns ps = true →
    s.inTrap ps = false →
    (let pc := (s.keeper ps).pc
     (pc.toNat % 4 ≠ 0 ∧ c = 0xA) ∨ (pc.toNat % 4 = 0 ∧ 0x40000 ≤ pc.toNat ∧ c = 7)
       ∨ (pc.toNat % 4 = 0 ∧ pc.toNat < 0x40000 ∧ s.supervisor ps = false ∧ pc.toNat < (s.reg (csr ps 0x00B)).toNat ∧ c = 9)
       ∨ (pc.toNat % 4 = 0 ∧ pc.toNat < 0x40000 ∧ (s.supervisor ps = true ∨ (s.reg (csr ps 0x00B)).toNat ≤ pc.toNat)
          ∧ s.isPoisoned (kmemAddr ps pc.toNat) 4 = true ∧ c = 0x12)) →
    ∃ t, step s = .next t ∧ KeeperFaults { s with inputs := ts, cur := ps } t c (s.keeper ps).pc

/-- O10. What module reset leaves: cells, keepers, pools, ladders, queues, contexts, CSRs and sector registers (R464, R463, R128, R48). -/
def Obligations.ResetState : Prop :=
  (∀ ci, (State.reset.cell ci).active = .none ∧ (State.reset.cell ci).stagedValid = false ∧ (State.reset.cell ci).entries = []
      ∧ (State.reset.cell ci).ctrl = [] ∧ (State.reset.cell ci).lfsr = 0 ∧ (State.reset.cell ci).linePoison = [])
    ∧ (∀ ci line k, State.reset.byte (frameAddr ci line + k) = 0)
    ∧ (∀ ps, ps < 32 → State.reset.halted ps = true ∧ State.reset.supervisor ps = true ∧ State.reset.inTrap ps = false
        ∧ (State.reset.keeper ps).evq = [] ∧ (∀ n, 1 ≤ n → n < 0x1B → State.reset.reg (csr ps n) = 0)
        ∧ State.reset.reg (secReg ps 0 0x00) = 1 ∧ State.reset.reg (secReg ps 0 0x08) = 256
        ∧ State.reset.reg (secReg ps 0 0x10) = 192 ∧ State.reset.reg (secReg ps 0 0x40) = 0)
    ∧ (∀ pl, State.reset.pool pl = .reset) ∧ (∀ ps, State.reset.ladder ps = .reset) ∧ (∀ d, State.reset.inbox d = [])
    ∧ State.reset.reg (frontReg 0x118) = 0xFFFFFFFF ∧ State.reset.contexts = []
    ∧ (∀ q, (State.reset.queue q).onchip = [] ∧ (State.reset.queue q).overflow = [])
    ∧ State.reset.power = .on ∧ State.reset.inputs = []

/-- O11. The fifteen register-register words: each writes its result to kd and moves on, and changes nothing else (R130). -/
def Obligations.KeeperRegisterWords : Prop :=
  ∀ e ∈ registerWords, ∀ (d a b : Reg) (s : State),
    ∃ t, exec (e.1 d a b) s = .next t ∧ KeeperTo s t d (e.2 (s.kReg s.cur a) (s.kReg s.cur b)) (nextPc s)

/-- O12. The immediate words: sign-extended immediates, shifts by imm[5:0], and lui sign-extended from bit 31 (R131). -/
def Obligations.KeeperImmediateWords : Prop :=
  (∀ e ∈ immediateWords, ∀ (d a : Reg) (i : BitVec 15) (s : State), -16384 ≤ i.toInt ∧ i.toInt ≤ 16383 ∧
      ∃ t, exec (e.1 d a i) s = .next t ∧ KeeperTo s t d (e.2 (s.kReg s.cur a) i) (nextPc s))
    ∧ (∀ e ∈ shiftWords, ∀ (d a : Reg) (n : BitVec 6) (s : State), n.toNat ≤ 63 ∧
      ∃ t, exec (e.1 d a n) s = .next t ∧ KeeperTo s t d (e.2 (s.kReg s.cur a) n.toNat) (nextPc s))
    ∧ (∀ (d : Reg) (i : BitVec 20) (s : State),
      ∃ t, exec (.keeperLui d i) s = .next t ∧
        KeeperTo s t d (BitVec.ofInt 64 (((i.toNat * 4096 : Nat) : Int) - (if 0x80000 ≤ i.toNat then 2 ^ 32 else 0))) (nextPc s))

/-- O13. A load from local memory sign-extends the bytes at its address into kd and changes nothing else (R126, R129, R132). -/
def Obligations.KeeperLocalLoad : Prop :=
  ∀ e ∈ loadWords, ∀ (d a : Reg) (off : BitVec 15) (s : State), s.cur < 32 →
    (keeperAddr s a off).toNat % e.2 = 0 → localOk s (keeperAddr s a off) →
    s.isPoisoned (kmemAddr s.cur (keeperAddr s a off).toNat) e.2 = false →
    ∃ t, exec (e.1 d a off) s = .next t ∧
      KeeperTo s t d ((BitVec.ofNat (8 * e.2) (s.readLE (kmemAddr s.cur (keeperAddr s a off).toNat) e.2)).signExtend 64) (nextPc s)

/-- O14. A store to local memory writes the low bytes of kb there, little-endian, and no other byte of memory (R129, R132, R155). -/
def Obligations.KeeperLocalStore : Prop :=
  ∀ e ∈ storeWords, ∀ (a b : Reg) (off : BitVec 15) (s : State), MemInv s → s.cur < 32 →
    (keeperAddr s a off).toNat % e.2 = 0 → localOk s (keeperAddr s a off) →
    ∃ t, exec (e.1 a b off) s = .next t ∧
      (∀ k, k < e.2 → t.byte (kmemAddr s.cur (keeperAddr s a off).toNat + k) =
        BitVec.ofNat 8 ((s.kReg s.cur b).toNat / 256 ^ k)) ∧
      (∀ x, ¬(kmemAddr s.cur (keeperAddr s a off).toNat ≤ x ∧ x < kmemAddr s.cur (keeperAddr s a off).toNat + e.2) →
        t.byte x = s.byte x) ∧
      KeeperTo s { t with mem := s.mem } 0 0 (nextPc s)

/-- O15. Loads and stores outside local memory: performed at the home, or sent to another module (R129, R132, R155, R410, R412). -/
def Obligations.KeeperAccessElsewhere : Prop :=
  (∀ e ∈ loadWords, ∀ (d a : Reg) (off : BitVec 15) (s s1 s2 : State) (pa p : Nat) (g : Got),
      (keeperAddr s a off).toNat % e.2 = 0 → s.keeperResolve s.cur (keeperAddr s a off) false = (.ok pa, s1) →
      s1.target (s.cur / 8) pa = .here p → s1.sectorHeld s.cur p = false → s1.portPending s.cur p = false →
      s1.load p e.2 false true ((keeperAddr s a off).getLsbD 63) = (g, s2) → g.code = 0 → g.poison = false →
      exec (e.1 d a off) s = .next ((s2.setK s.cur d (sext64 g.data)).pcNext s.cur))
    ∧ (∀ e ∈ storeWords, ∀ (a b : Reg) (off : BitVec 15) (s s1 s2 : State) (pa p : Nat),
      (keeperAddr s a off).toNat % e.2 = 0 → s.keeperResolve s.cur (keeperAddr s a off) true = (.ok pa, s1) →
      s1.target (s.cur / 8) pa = .here p → s1.sectorHeld s.cur p = false → s1.portPending s.cur p = false →
      s1.store p (leBytes e.2 (s.kReg s.cur b).toNat) false true ((keeperAddr s a off).getLsbD 63) = (0, s2) →
      exec (e.1 a b off) s = .next (s2.pcNext s.cur))
    ∧ (∀ e ∈ loadWords, ∀ (d a : Reg) (off : BitVec 15) (s s1 : State) (pa dev o : Nat),
      (keeperAddr s a off).toNat % e.2 = 0 → s.keeperResolve s.cur (keeperAddr s a off) false = (.ok pa, s1) →
      s1.target (s.cur / 8) pa = .away dev o → (s1.keeper s.cur).reply = none → (s1.keeper s.cur).pending = none →
      exec (e.1 d a off) s = .next ((s1.setKeeper s.cur { s1.keeper s.cur with pending := some s1.nextId }).remoteSend (s.cur / 8 % 2)
        (Remote.make dev o 0 0 e.2 [] 0 false (.keeper s.cur) s.cur)))
    ∧ (∀ e ∈ loadWords, ∀ (d a : Reg) (off : BitVec 15) (s s1 : State) (pa dev o : Nat) (r : RemoteData),
      (keeperAddr s a off).toNat % e.2 = 0 → s.keeperResolve s.cur (keeperAddr s a off) false = (.ok pa, s1) →
      s1.target (s.cur / 8) pa = .away dev o → (s1.keeper s.cur).reply = some r → r.code = 0 → r.poison = false →
      exec (e.1 d a off) s = .next (((s1.setKeeper s.cur { s1.keeper s.cur with reply := none, pending := none }).setK s.cur d
        (sext64 r.data)).pcNext s.cur))

/-- O16. Misaligned, unreachable and forbidden keeper addresses fault with ALIGN, ADDR and PERM and change nothing else (R129, R132, R135). -/
def Obligations.KeeperAccessFaults : Prop :=
  ∀ (s : State) (ea : Word) (c n : Nat) (i : Instr), s.inTrap s.cur = false →
    ((∃ f, (f, n) ∈ loadWords ∧ ∃ d a off, i = f d a off ∧ ea = keeperAddr s a off)
      ∨ (∃ f, (f, n) ∈ storeWords ∧ ∃ a b off, i = f a b off ∧ ea = keeperAddr s a off)) →
    ((ea.toNat % n ≠ 0 ∧ c = 0xA)
      ∨ (ea.toNat % n = 0 ∧ ea.toNat < 0x40000 ∧ s.supervisor s.cur = false ∧ ea.toNat < (s.reg (csr s.cur 0x00B)).toNat ∧ c = 9)
      ∨ (ea.toNat % n = 0 ∧ ea.getLsbD 63 = true ∧ s.supervisor s.cur = false ∧ c = 9)
      ∨ (ea.toNat % n = 0 ∧ ea.getLsbD 63 = true ∧ s.supervisor s.cur = true ∧ ea.extractLsb' 57 6 ≠ 0 ∧ c = 7)
      ∨ (ea.toNat % n = 0 ∧ ea.getLsbD 63 = false ∧ ea.extractLsb' 56 7 ≠ 0 ∧ c = 7)) →
    ∃ t, exec i s = .next t ∧ KeeperFaults s t c ea

/-- O17. Conditional branches: the six conditions, the target, and the faults of a target that may not be taken (R133, R110). -/
def Obligations.KeeperBranches : Prop :=
  ∀ e ∈ branchWords, ∀ (a b : Reg) (off : BitVec 15) (s : State),
    (e.2 (s.kReg s.cur a) (s.kReg s.cur b) = false → ∃ t, exec (e.1 a b off) s = .next t ∧ KeeperTo s t 0 0 (nextPc s))
      ∧ (e.2 (s.kReg s.cur a) (s.kReg s.cur b) = true → targetOk s (branchTarget s off) →
        ∃ t, exec (e.1 a b off) s = .next t ∧ KeeperTo s t 0 0 (branchTarget s off))
      ∧ (∀ c, e.2 (s.kReg s.cur a) (s.kReg s.cur b) = true → targetBad s (branchTarget s off) c → s.inTrap s.cur = false →
        ∃ t, exec (e.1 a b off) s = .next t ∧ KeeperFaults s t c (branchTarget s off))

/-- O18. jal and jalr link pc + 4 and jump; a target that may not be taken faults and writes nothing (R133, R110). -/
def Obligations.KeeperJumps : Prop :=
  ∀ (s : State) (i : Instr) (d : Reg) (t : Word),
    ((∃ off, i = .keeperJal d off ∧ t = branchTarget s off)
      ∨ (∃ a off, i = .keeperJalr d a off ∧ t = s.kReg s.cur a + BitVec.ofInt 64 (BitVec.toInt off))) →
    (targetOk s t → ∃ u, exec i s = .next u ∧ KeeperTo s u d (nextPc s) t)
      ∧ (∀ c, targetBad s t c → s.inTrap s.cur = false → ∃ u, exec i s = .next u ∧ KeeperFaults s u c t)

/-- O19. csrr gives the CSR's value; an unlisted CSR, or one user mode may not read, is illegal (R134, R128, R140). -/
def Obligations.CsrReads : Prop :=
  ∀ (s : State) (d : Reg) (c : BitVec 12), s.cur < 32 →
    (c.toNat ∈ csrWritable.map (·.1) → (s.supervisor s.cur = true ∨ c.toNat ∈ csrOfUser) →
      ∃ t, exec (.keeperCsrr d c) s = .next t ∧
        KeeperTo s t d (if c.toNat = 0x018 then BitVec.ofNat 64 s.clk
          else if c.toNat = 0x019 then BitVec.ofNat 64 (s.keeper s.cur).evq.length else s.reg (csr s.cur c.toNat)) (nextPc s))
      ∧ ((c.toNat ∉ csrWritable.map (·.1) ∨ (s.supervisor s.cur = false ∧ c.toNat ∉ csrOfUser)) → s.inTrap s.cur = false →
      ∃ t, exec (.keeperCsrr d c) s = .next t ∧ KeeperFaults s t 0xC 0)

/-- O20. csrw writes the writable bits of a listed CSR in supervisor mode and nothing else; otherwise it is illegal (R134, R128, R140, R6). -/
def Obligations.CsrWrites : Prop :=
  ∀ (s : State) (a : Reg) (c : BitVec 12), s.cur < 32 →
    (∀ m, (c.toNat, m) ∈ csrWritable → s.supervisor s.cur = true →
      ∃ t, exec (.keeperCsrw a c) s = .next t ∧
        t.reg (csr s.cur c.toNat) = (s.reg (csr s.cur c.toNat) &&& ~~~m) ||| (s.kReg s.cur a &&& m) ∧
        (∀ pa, pa ≠ csr s.cur c.toNat → t.reg pa = s.reg pa) ∧
        KeeperTo s { t with regs := s.regs, free := s.free } 0 0 (nextPc s))
      ∧ ((c.toNat ∉ csrWritable.map (·.1) ∨ s.supervisor s.cur = false) → s.inTrap s.cur = false →
      ∃ t, exec (.keeperCsrw a c) s = .next t ∧ KeeperFaults s t 0xC 0)

/-- O21. trap saves pc + 4 and its code with SOFT set, enters supervisor mode and goes to KHANDLER (R135). -/
def Obligations.TrapWordTaken : Prop :=
  ∀ (s : State) (c : BitVec 15), s.inTrap s.cur = false →
    ∃ t, exec (.keeperTrap c) s = .next t ∧ TrapTaken s t s.cur (BitVec.ofNat 64 (0x10000 + c.toNat)) 0 (nextPc s)

/-- O22. tret restores the mode from PRIOR, clears INTRAP and resumes at KRESUME; in user mode it is illegal (R136). -/
def Obligations.ReturnFromTrap : Prop :=
  ∀ s : State,
    (s.supervisor s.cur = true →
      ∃ t, exec .keeperTret s = .next t ∧ (t.keeper s.cur).pc = s.reg (csr s.cur 2) ∧
        t.supervisor s.cur = (s.reg (csr s.cur 0)).getLsbD 1 ∧ t.inTrap s.cur = false ∧
        (t.reg (csr s.cur 0)).getLsbD 1 = (s.reg (csr s.cur 0)).getLsbD 1 ∧ t.halted s.cur = s.halted s.cur ∧
        (∀ pa, pa ≠ csr s.cur 0 → t.reg pa = s.reg pa) ∧
        KeeperTo s { t with regs := s.regs } 0 0 (s.reg (csr s.cur 2)))
      ∧ (s.supervisor s.cur = false → s.inTrap s.cur = false →
        ∃ t, exec .keeperTret s = .next t ∧ KeeperFaults s t 0xC 0)

/-- O23. A fault or a trap instruction inside a trap handler halts the keeper instead of trapping (R137). -/
def Obligations.FaultInTrapHalts : Prop :=
  ∀ (s : State) (i : Instr) (fault : Word), s.cur < 32 → s.inTrap s.cur = true →
    ((∃ c : BitVec 15, i = .keeperTrap c ∧ fault = BitVec.ofNat 64 (0x10000 + c.toNat))
      ∨ (∃ w, i = .illegalInstruction w ∧ fault = 0xC)) →
    ∃ t, exec i s = .next t ∧ t.halted s.cur = true ∧ t.keeperRuns s.cur = false ∧ t.reg (csr s.cur 3) = fault ∧
      t.reg (csr s.cur 4) = 0 ∧ t.reg (csr s.cur 2) = s.reg (csr s.cur 2) ∧ t.keepers = s.keepers

/-- O24. wait and fence: what completes them at once, how they wait, and what ends the wait (R138, R139). -/
def Obligations.KeeperWaitAndFence : Prop :=
  (∀ (s : State) (d a : Reg) (i : BitVec 15), (s.keeper s.cur).evq ≠ [] →
      ∃ t, exec (.keeperWait d a i) s = .next t ∧ KeeperTo s t d 1 (nextPc s))
    ∧ (∀ (s : State) (d a : Reg) (i : BitVec 15), (s.keeper s.cur).evq = [] → keeperAddr s a i = 0 →
      ∃ t, exec (.keeperWait d a i) s = .next t ∧ KeeperTo s t d 0 (nextPc s))
    ∧ (∀ (s : State) (d a : Reg) (i : BitVec 15), (s.keeper s.cur).evq = [] → keeperAddr s a i ≠ 0 →
      exec (.keeperWait d a i) s = .next (s.setKeeper s.cur
        { s.keeper s.cur with waiting := some (s.clk + (keeperAddr s a i).toNat, d) }))
    ∧ (∀ (s : State) (ps limit : Nat) (d : Reg), (s.keeper ps).waiting = some (limit, d) →
      ((s.keeper ps).evq ≠ [] ∨ limit ≤ s.clk) →
      exec (.keeperWaitResume ps) s = .next (((s.setKeeper ps { s.keeper ps with waiting := none }).setK ps d
        (if (s.keeper ps).evq = [] then 0 else 1)).pcNext ps))
    ∧ (∀ (s : State) (sc : BitVec 2), (s.keeper s.cur).port = none → (s.keeper s.cur).delivery = none →
      (s.keeper s.cur).drainCells = [] → (sc = 3 → (s.keeper s.cur).domStores = []) →
      ∃ t, exec (.keeperFence sc) s = .next t ∧ KeeperTo s t 0 0 (nextPc s))
    ∧ (∀ (s : State) (sc : BitVec 2), s.fenceDone s.cur sc = false →
      exec (.keeperFence sc) s = .next (s.setKeeper s.cur { s.keeper s.cur with fencing := some sc }))
    ∧ (∀ (s : State) (ps : Nat) (sc : BitVec 2), (s.keeper ps).fencing = some sc → s.fenceDone ps sc = true →
      exec (.keeperFenceComplete ps) s = .next ((s.setKeeper ps { s.keeper ps with fencing := none }).pcNext ps))

/-- O25. The hive instructions' address operands: ADDR, ALIGN and PERM with nothing performed; four are illegal in user mode (R140, R141). -/
def Obligations.HiveOperandFaults : Prop :=
  (∀ (s : State) (i : Instr) (a : Reg) (n c : Nat), s.inTrap s.cur = false →
      ((n = 32 ∧ ((∃ ntf, i = .kpCfgp a ntf ∨ i = .kpCfgk a ntf) ∨ i = .kpSend a ∨ i = .kpInject a ∨ (∃ d peek, i = .kpEvq d a peek)))
        ∨ (n = 64 ∧ ∃ d, i = .kpLaunch d a)) →
      (s.supervisor s.cur = true ∨ i = .kpSend a ∨ i = .kpInject a ∨ ∃ d peek, i = .kpEvq d a peek) →
      ((0x40000 ≤ (s.kReg s.cur a).toNat ∧ c = 7)
        ∨ ((s.kReg s.cur a).toNat < 0x40000 ∧ (s.kReg s.cur a).toNat % n ≠ 0 ∧ c = 0xA)
        ∨ ((s.kReg s.cur a).toNat < 0x40000 ∧ (s.kReg s.cur a).toNat % n = 0 ∧ s.supervisor s.cur = false
            ∧ (s.kReg s.cur a).toNat < (s.reg (csr s.cur 0x00B)).toNat ∧ c = 9)) →
      ∃ t, exec i s = .next t ∧ KeeperFaults s t c (s.kReg s.cur a))
    ∧ (∀ (s : State) (i : Instr), s.inTrap s.cur = false → s.supervisor s.cur = false →
      ((∃ d a, i = .kpLaunch d a) ∨ (∃ a ntf, i = .kpCfgp a ntf ∨ i = .kpCfgk a ntf) ∨ ∃ d, i = .kpDrain d) →
      ∃ t, exec i s = .next t ∧ KeeperFaults s t 0xC 0)

/-- O26. kp.cfgp and kp.cfgk start a delivery; its end writes the covered cells, counts refusals and posts the completion (R142, R144, R145, R50, R53). -/
def Obligations.HiveConfiguration : Prop :=
  (∀ (s : State) (a : Reg) (ntf cfgk : Bool) (p : Pattern), s.supervisor s.cur = true →
      (s.kReg s.cur a).toNat < 0x40000 → (s.kReg s.cur a).toNat % 32 = 0 → (s.keeper s.cur).delivery = none → s.cfgHeld s.cur = false →
      (s.kReg s.cur a).toNat + patternSize (s.readLE (kmemAddr s.cur (s.kReg s.cur a).toNat) 4) ≤ 0x40000 →
      s.localBad s.cur (s.kReg s.cur a).toNat (patternSize (s.readLE (kmemAddr s.cur (s.kReg s.cur a).toNat) 4)) = false →
      p = patternOf (s.bytes (kmemAddr s.cur (s.kReg s.cur a).toNat)
        (patternSize (s.readLE (kmemAddr s.cur (s.kReg s.cur a).toNat) 4))) →
      (if cfgk then p.cfgkOk s.cur
        else p.cfgpOk s.cur ((s.live? ((s.reg (csr s.cur 9)).extractLsb' 0 12)).map (fun x => x.shape))) = true →
      exec (if cfgk then .kpCfgk a ntf else .kpCfgp a ntf) s = .next (((s.setKeeper s.cur { s.keeper s.cur with
        delivery := some (p.delivery s.cur cfgk ntf ((s.reg (secReg s.cur 0 0)).getLsbD 0) ((s.reg (csr s.cur 9)).extractLsb' 0 12)
          (s.reg (csr s.cur 8)).toNat) }).setReg (csr s.cur 0x10) 1).pcNext s.cur))
    ∧ (∀ (s t : State) (ps n : Nat) (d : Delivery), (s.keeper ps).delivery = some d → s.deliver d = (t, n) →
      exec (.configDeliveryComplete ps) s = .next (
        let u := (t.setKeeper ps { t.keeper ps with delivery := none }).setReg (csr ps 0x10)
          (BitVec.ofNat 64 (Nat.min n 65535 * 65536))
        if d.ntf then u.postOwn ps (eventToken ps d.ctx
          [BitVec.ofNat 32 ((if d.cfgk then 0x2A else 0x29) + Nat.min n 65535 * 65536)]) else u))

/-- O27. kp.send and kp.inject put a token image in the injection port; kp.evq writes the oldest event to the buffer (R147, R148, R149, R42, R57). -/
def Obligations.HiveTokens : Prop :=
  (∀ (s : State) (a : Reg) (i : Instr) (fine : Token → Bool) (n : Nat) (t : Token),
      ((i = .kpSend a ∧ fine = sendOk) ∨ (i = .kpInject a ∧ fine = injectOk)) →
      s.operandFault s.cur (s.kReg s.cur a) 32 = none → (s.keeper s.cur).port = none →
      n = 16 + 4 * (tokenOf (BitVec.ofNat 128 (s.readLE (kmemAddr s.cur (s.kReg s.cur a).toNat) 16)) []).payload →
      (s.kReg s.cur a).toNat + n ≤ 0x40000 → s.localBad s.cur (s.kReg s.cur a).toNat n = false →
      t = tokenOfImage (s.bytes (kmemAddr s.cur (s.kReg s.cur a).toNat) n) → fine t = true →
      exec i s = .next ((s.setKeeper s.cur { s.keeper s.cur with
        port := some (if s.supervisor s.cur then t else { t with ctx := (s.reg (csr s.cur 9)).extractLsb' 0 12 }) }).pcNext s.cur))
    ∧ (∀ (s : State) (d a : Reg) (peek : Bool), s.operandFault s.cur (s.kReg s.cur a) 32 = none → (s.keeper s.cur).evq = [] →
      ∃ t, exec (.kpEvq d a peek) s = .next t ∧ KeeperTo s t d 0 (nextPc s))
    ∧ (∀ (s : State) (d a : Reg) (peek : Bool) (t : Token) (rest : List Token), s.operandFault s.cur (s.kReg s.cur a) 32 = none →
      (s.keeper s.cur).evq = t :: rest → (s.kReg s.cur a).toNat + t.imageSize ≤ 0x40000 →
      exec (.kpEvq d a peek) s = .next (
        let u := s.rawStore (kmemAddr s.cur (s.kReg s.cur a).toNat) t.image false
        ((if peek then u else (u.setKeeper s.cur { u.keeper s.cur with evq := rest }).refillEvents s.cur).setK s.cur d
          (BitVec.ofNat 64 t.imageSize)).pcNext s.cur))

/-- O28. kp.sched steps the schedule, kp.launch submits the record with its ticket, kp.drain refuses or starts a drain (R150, R151, R152). -/
def Obligations.HiveSchedLaunchDrain : Prop :=
  (∀ (s : State) (d : Reg) (rew : Bool) (cur n : Nat), n = (s.reg (csr s.cur 0x11)).toNat →
      cur = (if rew then 0 else (s.reg (csr s.cur 0x12)).toNat) →
      ∃ t, exec (.kpSched d rew) s = .next t ∧
        t.reg (csr s.cur 0x12) = BitVec.ofNat 64 (if n ≤ cur then cur else (cur + 1) % 2 ^ 32) ∧
        (∀ pa, pa ≠ csr s.cur 0x12 → t.reg pa = s.reg pa) ∧
        KeeperTo s { t with regs := s.regs } d
          (if n ≤ cur then 0 else BitVec.ofNat 64 (0x20040 + cur * 2 ^ (s.reg (csr s.cur 0x13)).toNat)) (nextPc s))
    ∧ (∀ (s : State) (d a : Reg), s.supervisor s.cur = true → s.operandFault s.cur (s.kReg s.cur a) 64 = none →
      s.localBad s.cur (s.kReg s.cur a).toNat 64 = false →
      exec (.kpLaunch d a) s = .next (((((s.clearStaged (s.reg (csr s.cur 10)).toNat 0).acceptCmd (s.reg (csr s.cur 10)).toNat 0
          ((List.range 8).map (fun i => s.word (kmemAddr s.cur (s.kReg s.cur a).toNat + 8 * i)))
          (some (s.cur, (s.reg (csr s.cur 9)).extractLsb' 0 12, BitVec.ofNat 32 (s.reg (csr s.cur 0x1A)).toNat))).setReg (csr s.cur 0x1A)
          (BitVec.ofNat 64 (((s.reg (csr s.cur 0x1A)).toNat + 1) % 2 ^ 32))).setK s.cur d
          (BitVec.ofNat 64 (s.reg (csr s.cur 0x1A)).toNat)).pcNext s.cur))
    ∧ (∀ (s : State) (d : Reg), s.supervisor s.cur = true → (s.keeper s.cur).draining = true →
      ∃ t, exec (.kpDrain d) s = .next t ∧ KeeperTo s t d 1 (nextPc s))
    ∧ (∀ (s : State) (d : Reg), s.supervisor s.cur = true → (s.keeper s.cur).draining = false →
      s.regBits (secReg s.cur 0 0x40) 15 0 = 0 → ∃ t, exec (.kpDrain d) s = .next t ∧ KeeperTo s t d 2 (nextPc s))
    ∧ (∀ (s : State) (d : Reg), s.supervisor s.cur = true → (s.keeper s.cur).draining = false →
      s.regBits (secReg s.cur 0 0x40) 15 0 ≠ 0 →
      exec (.kpDrain d) s = .next (((s.setK s.cur d 0).pcNext s.cur).startDrain s.cur ((s.reg (csr s.cur 9)).extractLsb' 0 12)))

/-- O29. Worker integer, bit-count and compare nodes: each element as its rule gives it, one token to A and then B, nothing else (R158, R160, R161, R162, R168, R169, R170, R172). -/
def Obligations.IntegerNodes : Prop :=
  ∀ e ∈ integerNodes, ∀ (s : State) (f : Firing), Fires s f →
    exec e.1 s = .next (fired s (emitted s f (resultOf f (e.2 f))))

/-- O30. Run moves, prefix counts, lit, guard pass-through, const, sel, tags and rotating loads: their one token and nothing else (R180, R182, R187, R196, R197, R198, R199, R200, R221). -/
def Obligations.PlainNodes : Prop :=
  (∀ e ∈ plainNodes, ∀ (s : State) (f : Firing), Fires s f → exec e.1 s = .next (fired s (emitted s f (e.2 s f))))
    ∧ (∀ (s : State) (f : Firing), Fires s f → exec .sink s = .next (fired s []))

/-- O31. Worker float nodes: rounded elements, flags ORed, draws only under rsr; an enabled flag faults with FPX before delivery (R171, R172, R173, R85, R88, R89, R92). -/
def Obligations.FloatNodes : Prop :=
  (∀ e ∈ floatDyads, ∀ (s : State) (f : Firing), Fires s f → f.isEmpty = false →
      RoundsTo e.1 s f (e.2.1 f) (f.len * subCount f.width) f.poisoned
        (fun ds => (indexed 0 (f.xs.zip f.ys)).map (fun x => e.2.2 f (draw ds x.1) x.2.1 x.2.2)) (floatResult f))
    ∧ (∀ e ∈ floatMonads, ∀ (s : State) (f : Firing), Fires s f → f.isEmpty = false →
      RoundsTo e.1 s f (e.2.1 f) (f.len * subCount f.width) f.poisoned
        (fun ds => (indexed 0 f.xs).map (fun x => e.2.2 f (draw ds x.1) x.2)) (floatResult f))
    ∧ (∀ (s : State) (f : Firing), Fires s f → f.isEmpty = false →
      RoundsTo .ffma s f f.rm (f.len * subCount f.width) (f.poisoned || (s.slotRead f (f.lit % 256)).2)
        (fun ds => (indexed 0 ((f.xs.zip f.ys).zip ((s.slotRead f (f.lit % 256)).1.flatMap (elemsOf f.width)))).map (fun x =>
          round f.fmt f.rm (draw ds x.1)
            (sumNum f.rm [(value f.fmt x.2.1.1).mul (value f.fmt x.2.1.2), value f.fmt x.2.2])))
        (fun r => f.out f.width (f.poisoned || (s.slotRead f (f.lit % 256)).2) false
          (lanesBack f.width f.len (r.map (fun x => x.1)))))
    ∧ (∀ i ∈ floatDyads.map (·.1) ++ floatMonads.map (·.1) ++ [.ffma], ∀ (s : State) (f : Firing), Fires s f → f.isEmpty = true →
      exec i s = .next (fired s (emitted s f (f.out f.width f.poisoned true []))))

/-- O32. cvt.f, cvt.fi and cvt.if convert and place each element; pack and unpack move elements between lanes (R174, R175, R85, R87, R92). -/
def Obligations.ConversionNodes : Prop :=
  (∀ i ∈ [Instr.cvtF, .cvtFi, .cvtIf], ∀ (s : State) (f : Firing), Fires s f → f.isEmpty = false →
      RoundsAt i s f f.rm ((convertSlots f).filter (fun o => o.isSome)).length f.poisoned
        (fun ds => convertedFrom (fmtOfCode (f.lit % 16)) (fmtOfCode (bits f.lit 7 4)) f.rm ds 0 (convertSlots f))
        (fun r => (chunks (subCount (fmtOfCode (f.lit % 16)).code) f.len (r.map (fun x => x.2))).flatMap
          (cvtFlags (subCount (fmtOfCode (bits f.lit 7 4)).code) (subCount (fmtOfCode (f.lit % 16)).code) (bits f.lit 11 8)))
        (fun r => f.out (fmtOfCode (f.lit % 16)).code f.poisoned false
          (lanesBack (fmtOfCode (f.lit % 16)).code f.len (r.map (fun x => x.1)))))
    ∧ (∀ i ∈ [Instr.cvtF, .cvtFi, .cvtIf], ∀ (s : State) (f : Firing), Fires s f → f.isEmpty = true →
      exec i s = .next (fired s (emitted s f (f.out (fmtOfCode (f.lit % 16)).code f.poisoned true []))))
    ∧ (∀ (s : State) (f : Firing) (i : Instr) (es : List (Nat × Nat × Nat)), Fires s f →
      ((i = .pack ∧ es = (List.range f.len).map (fun j =>
          (s.laneValue f j / subCount f.width, s.laneValue f j % subCount f.width, elemOf f.width (f.aLane j) 0)))
        ∨ (i = .unpack ∧ es = (List.range f.len).flatMap (fun j => (List.range (subCount f.width)).map (fun k =>
          ((subCount f.width * s.laneValue f j + k) % 2 ^ fieldWidth (s.shape f.ctx) f.level, 0, elemOf f.width (f.aLane j) k))))) →
      exec i s = .next (fired s (flightsAB f ((joinRuns (gatherValues es)).map (fun r =>
        f.outRun r.2.length (setField (s.shape f.ctx) f.tag f.level r.1) f.width f.poisoned f.isEmpty
          (r.2.map (fun l => laneOf f.width ((List.range (subCount f.width)).map (fun k =>
            match l.find? (fun e => e.1 == k) with | some e => e.2 | none => 0)))))))))

/-- O33. padd, pmul, pmax and pdot: integer by U and SAT, float by RM, the dot product exact with one rounding per lane (R176, R177, R85, R92, R167). -/
def Obligations.PackedNodes : Prop :=
  (∀ (s : State) (f : Firing) (i : Instr) (op : Int → Int → Int), Fires s f → f.isFloat = false →
      ((i = .padd ∧ op = fun x y => x + y) ∨ (i = .pmul ∧ op = fun x y => x * y)) →
      exec i s = .next (fired s (emitted s f (resultOf f (dyadic f (fun w x y =>
        deliverInt w f.m77 f.isUnsigned (op (intOf f.isUnsigned w x) (intOf f.isUnsigned w y))))))))
    ∧ (∀ (s : State) (f : Firing), Fires s f → f.isFloat = false →
      exec .pmax s = .next (fired s (emitted s f (resultOf f (dyadic f (fun w x y =>
        if intOf f.isUnsigned w x < intOf f.isUnsigned w y then y else x))))))
    ∧ (∀ e ∈ [(Instr.padd, (fun f : Firing => f.rm), fun (f : Firing) d x y => roundAdd f.fmt f.rm d (value f.fmt x) (value f.fmt y)),
        (.pmul, fun f => f.rm, fun f d x y => round f.fmt f.rm d ((value f.fmt x).mul (value f.fmt y))),
        (.pmax, fun _ => 0, fun f _ x y => minMax f.fmt true false x y)],
      ∀ (s : State) (f : Firing), Fires s f → f.isFloat = true → f.isEmpty = false →
      RoundsTo e.1 s f (e.2.1 f) (f.len * subCount f.width) f.poisoned
        (fun ds => (indexed 0 (f.xs.zip f.ys)).map (fun x => e.2.2 f (draw ds x.1) x.2.1 x.2.2)) (floatResult f))
    ∧ (∀ (s : State) (f : Firing), Fires s f → f.isEmpty = false →
      let z := if f.arity = 3 then s.slotRead f (f.lit % 256) else ([], false)
      RoundsAt .pdot s f f.mode f.len (f.poisoned || z.2)
        (fun ds => (List.range f.len).map (fun j =>
          if f.isFloat then
            round .f32 f.rm (draw ds j) (sumNum f.rm (List.zipWith (fun x y => (value f.fmt x).mul (value f.fmt y))
              (elemsOf f.width (f.aLane j)) (elemsOf f.width (f.bLane j))
              ++ (if f.arity = 3 then [value .f32 (nth 0 z.1 j).toNat] else [])))
          else
            (deliverInt 32 f.m77 f.isUnsigned (f.dotInt j + (if f.arity = 3 then intOf f.isUnsigned 32 (nth 0 z.1 j).toNat else 0)), 0)))
        (fun r => r.flatMap (fun x => padTo 0 (subCount f.width) [x.2]))
        (fun r => f.out 0 (f.poisoned || z.2) false (r.map (fun x => BitVec.ofNat 32 x.1))))
    ∧ (∀ i ∈ [Instr.padd, .pmul, .pmax, .pdot], ∀ (s : State) (f : Firing), Fires s f → f.isEmpty = true →
      exec i s = .next (fired s (emitted s f (f.out (if i = .pdot then 0 else f.width) f.poisoned true []))))

/-- O34. rsum, rmax, rmin and rprefix: exact integer forms, the float forms in element order, one lane under the tag of lane 0 (R178, R179, R94, R92, R162). -/
def Obligations.ReductionNodes : Prop :=
  (∀ (s : State) (f : Firing), Fires s f → f.isEmpty = false → f.isFloat = false →
      exec .rsum s = .next (fired s (emitted s f (f.outRun 1 f.tag 0 f.poisoned false [BitVec.ofNat 32
        (deliverInt 32 f.m77 f.isUnsigned ((f.xs.map (intOf f.isUnsigned (subWidth f.width))).foldl (fun a b => a + b) 0))]))))
    ∧ (∀ (s : State) (f : Firing) (ws : List (Nat × Nat)), Fires s f → f.isEmpty = false → f.isFloat = true →
      ws = f.xs.map (fun x => round .f32 0 0 (value f.fmt x)) →
      RoundsTo .rsum s f 0 0 f.poisoned
        (fun _ => ((treeSum .f32 f.rm (ws.map (fun w => w.1))).1, (treeSum .f32 f.rm (ws.map (fun w => w.1))).2 ||| (ws.headD (0, 0)).2)
          :: ws.tail)
        (fun r => f.outRun 1 f.tag 0 f.poisoned false [BitVec.ofNat 32 (r.headD (0, 0)).1]))
    ∧ (∀ (s : State) (f : Firing) (i : Instr) (big : Bool), Fires s f → f.isEmpty = false →
      ((i = .rmax ∧ big = true) ∨ (i = .rmin ∧ big = false)) →
      RoundsTo i s f 0 0 f.poisoned (fun _ => (f.extreme big).2.map (fun fl => ((f.extreme big).1, fl)))
        (fun _ => f.outRun 1 f.tag f.width f.poisoned false [laneOf f.width [(f.extreme big).1]]))
    ∧ (∀ (s : State) (f : Firing), Fires s f → f.isEmpty = false → f.isFloat = false →
      exec .rprefix s = .next (fired s (emitted s f (f.out f.width f.poisoned false
        (lanesBack f.width f.len (prefixInt (subWidth f.width) f.m77 f.isUnsigned 0 f.xs))))))
    ∧ (∀ (s : State) (f : Firing), Fires s f → f.isEmpty = false → f.isFloat = true →
      RoundsTo .rprefix s f f.rm (f.xs.length - 1) f.poisoned
        (fun ds => (f.xs.headD 0, 0) :: prefixFloat f.fmt f.rm (f.xs.headD 0) (withDraws ds f.xs.tail)) (floatResult f))
    ∧ (∀ (s : State) (f : Firing) (i : Instr) (w : Nat), Fires s f → f.isEmpty = true →
      ((i = .rsum ∧ w = 0) ∨ ((i = .rmax ∨ i = .rmin) ∧ w = f.width)) →
      exec i s = .next (fired s (emitted s f (f.outRun 1 f.tag w f.poisoned true [0]))))
    ∧ (∀ (s : State) (f : Firing), Fires s f → f.isEmpty = true →
      exec .rprefix s = .next (fired s (emitted s f (f.out f.width f.poisoned true []))))

/-- O35. band and bor send bitmaps to A and counts to B; bexp and isect send one token for each lane under its tag after push (R181, R183, R184, R162). -/
def Obligations.BitmapNodes : Prop :=
  (∀ (s : State) (f : Firing) (i : Instr) (op : Lane → Lane → Lane), Fires s f →
      ((i = .band ∧ op = fun x y => x &&& y) ∨ (i = .bor ∧ op = fun x y => x ||| y)) →
      exec i s = .next (fired s
        (emittedTo s f f.cfg.fields.dstA (f.out 0 f.poisoned f.isEmpty ((List.range f.len).map (fun j => op (f.aLane j) (f.bLane j))))
          ++ emittedTo s f f.cfg.fields.dstB (f.out 0 f.poisoned f.isEmpty ((List.range f.len).map (fun j =>
            BitVec.ofNat 32 ((List.range 32).filter (fun b => (op (f.aLane j) (f.bLane j)).toNat / 2 ^ b % 2 = 1)).length))))))
    ∧ (∀ (s : State) (f : Firing), Fires s f →
      exec .bexp s = .next (fired s (flightsAB f ((List.range f.len).map (fun j =>
        let ls := if f.isEmpty then [] else ((List.range 32).filter (fun p => (f.aLane j).getLsbD p)).map (fun p =>
          BitVec.ofNat 32 (f.lit + 32 * s.laneValue f j + p))
        pushTag (s.shape f.ctx) f.level (f.outRun (Nat.max 1 ls.length) (laneTag (s.shape f.ctx) f.level f.tag j) 0 f.poisoned
          ls.isEmpty ls))))))
    ∧ (∀ (s : State) (f : Firing), Fires s f →
      exec .isect s = .next (fired s (flightsAB f ((List.range f.len).map (fun j =>
        let x := f.aLane j
        let z := nth 0 (s.slotRead f (f.lit % 256)).1 j
        let y := (f.bLane j).toNat
        let ls := if f.isEmpty then [] else ((List.range 32).filter (fun p => (x &&& z).getLsbD p)).map (fun p =>
          BitVec.ofNat 32 ((y % 65536 + popCount p x.toNat) % 65536 + (y / 65536 + popCount p z.toNat) % 65536 * 65536))
        pushTag (s.shape f.ctx) f.level (f.outRun (Nat.max 1 ls.length) (laneTag (s.shape f.ctx) f.level f.tag j) 1
          (f.poisoned || (!f.isEmpty && (s.slotRead f (f.lit % 256)).2)) ls.isEmpty ls))))))

/-- O36. sld, sst and rot.st: elements of the named lines and rotating slots read and written, the bytes they touch, and the ADDR fault (R185, R186, R188, R221, R162). -/
def Obligations.FrameAccessNodes : Prop :=
  (∀ (s : State) (f : Firing), Fires s f → f.isEmpty = false → s.frameOutside f = none →
      exec .sld s = .next (fired s (emitted s f (f.out f.width
        (f.poisoned || (List.range f.len).any (fun j => (s.cell f.ci).linePoison.contains ((f.frameByte (f.frameIndex j)).1 / 128))) false
        ((List.range f.len).map (fun j => laneOf f.width [elemOf f.width
          (s.lane (frameAddr f.ci 0 + (f.frameByte (f.frameIndex j)).1)) (f.frameByte (f.frameIndex j)).2]))))))
    ∧ (∀ (s : State) (f : Firing), Fires s f → f.isEmpty = false → s.frameOutside f = none →
      ∃ t, exec .sst s = .next t ∧ t = fired ((List.range f.len).foldl (fun u j => u.putElement f j) s)
          (emitted s f (f.out f.width f.poisoned false ((List.range f.len).map (fun j => laneOf f.width (elemsOf f.width (f.bLane j)))))) ∧
        (MemInv s → ∀ x, (∀ j, j < f.len → ¬(frameAddr f.ci 0 + (f.frameByte (f.frameIndex j)).1 ≤ x
          ∧ x < frameAddr f.ci 0 + (f.frameByte (f.frameIndex j)).1 + 4)) → t.byte x = s.byte x))
    ∧ (∀ (s : State) (f : Firing) (i : Instr) (j : Nat), Fires s f → f.isEmpty = false → s.frameOutside f = some j →
      (i = .sld ∨ i = .sst) → exec i s = .next ((fired s []).frameFault f j))
    ∧ (∀ (s : State) (f : Firing) (i : Instr), Fires s f → f.isEmpty = true → (i = .sld ∨ i = .sst) →
      exec i s = .next (fired s (emitted s f (f.out f.width f.poisoned true []))))
    ∧ (∀ (s : State) (f : Firing), Fires s f → f.isEmpty = false →
      ∃ t, exec .rotSt s = .next t ∧ t = fired (s.slotWrite f.ci (f.lit % 256) f.level f.ctx f.tag ((List.range f.len).map f.aLane)
          f.a.poison) (emitted s f f.pass) ∧
        (MemInv s → ∀ x, ¬(frameAddr f.ci ((s.cell f.ci).slotLine (f.lit % 256)) ≤ x
          ∧ x < frameAddr f.ci ((s.cell f.ci).slotLine (f.lit % 256)) + 128) → t.byte x = s.byte x))
    ∧ (∀ (s : State) (f : Firing), Fires s f → f.isEmpty = true → exec .rotSt s = .next (fired s (emitted s f f.pass)))

/-- O37. A fault-flagged operand faults the firing with its own code instead of running the node (R26, R69). -/
def Obligations.FaultedOperandNotComputed : Prop :=
  (∀ i ∈ integerNodes.map (·.1) ++ plainNodes.map (·.1) ++ floatDyads.map (·.1) ++ floatMonads.map (·.1)
        ++ [Instr.ffma, .cvtF, .cvtFi, .cvtIf, .pack, .unpack, .padd, .pmul, .pdot, .pmax, .rsum, .rmax, .rmin, .rprefix, .band, .bor,
          .bexp, .isect, .sld, .sst, .sink, .rotSt],
      ∀ (s : State) (f : Firing) (x : Token), s.issue = some f → s.regBits (custReg 0x18) 3 2 = 0 → f.faultOf = some x →
      kindOf f.ci ≠ .forager → exec i s = .next (((fired s []).withdraw f).fireRecord f f.tag x.aux.toNat []))
    ∧ (∀ i ∈ integerNodes.map (·.1) ++ plainNodes.map (·.1) ++ floatDyads.map (·.1) ++ floatMonads.map (·.1), ∀ s : State,
      s.issue = none → exec i s = .next s)

/-- O38. steer, call.enter, call.ret, send, post, trap and drain: which tokens go to which destination, and nothing else (R190, R192, R195, R210, R211, R214, R215, R216, R217). -/
def Obligations.GuardRouting : Prop :=
  (∀ (s : State) (f : Firing) (i : Instr) (want : Bool), Fires s f →
      ((i = .steerT ∧ want = true) ∨ (i = .steerF ∧ want = false)) →
      exec i s = .next (fired s (if f.isEmpty then emitted s f f.pass
        else (piecesBy (fun j => (f.bLane j).getLsbD 0 == want) f.len).flatMap (fun p =>
          emittedTo s f (if p.2.2 then f.cfg.fields.dstA else f.cfg.fields.dstB) (pieceOf (s.shape f.ctx) f.level f.pass p.1 p.2.1)))))
    ∧ (∀ (s : State) (f : Firing) (tag : Word), Fires s f → tag = setField (s.shape f.ctx) f.tag (f.level + 1) (f.lit % 65536) →
      (f.b = none → exec .callEnter s = .next (fired s (flightsAB f [{ f.pass with tag := tag }])))
      ∧ (∀ b, f.b = some b → exec .callEnter s = .next (fired s (flightTo f.src f.cfg.fields.dstA { f.pass with tag := tag }
          ++ flightTo f.src f.cfg.fields.dstB
            { f.out f.a.width.toNat f.poisoned f.isEmpty ((List.range f.len).map f.bLane) with tag := tag }))))
    ∧ (∀ (s : State) (f : Firing) (b r : Token), Fires s f → f.b = some b →
      r = { f.pass with tag := setField (s.shape f.ctx) f.tag f.level 0 } →
      (b.empty = true → exec .callRet s = .next (fired s (flightTo f.src f.cfg.fields.dstA r)))
      ∧ (b.empty = false → (f.bLane 0).toNat < 2 ^ 21 → (dKind ((f.bLane 0).extractLsb' 0 21) = 1 ∨ dKind ((f.bLane 0).extractLsb' 0 21) = 3) →
          exec .callRet s = .next (fired s (flightTo f.src ((f.bLane 0).extractLsb' 0 21) r ++ flightTo f.src f.cfg.fields.dstA r)))
      ∧ (b.empty = false → (2 ^ 21 ≤ (f.bLane 0).toNat ∨ dKind ((f.bLane 0).extractLsb' 0 21) = 0 ∨ dKind ((f.bLane 0).extractLsb' 0 21) = 2) →
          exec .callRet s = .next ((fired s []).faultFiring f fSTREAM [0, 0, 0, 0xFFFFFFFF])))
    ∧ (∀ (s : State) (f : Firing) (ls : List Lane), Fires s f → ls = (List.range f.len).map f.aLane →
      (f.isEmpty = true → exec .send s = .next (fired s (emittedTo s f f.cfg.fields.dstB (f.out 0 f.poisoned true []))))
      ∧ (f.isEmpty = false → exec .send s = .next (fired s (emittedTo s f f.cfg.fields.dstA { f.out 0 f.poisoned false
            (if f.lit % 2 ^ 21 = 0 then ls else setNth (BitVec.ofNat 32 (f.lit % 2 ^ 21)) ls (f.len - 1)) with cls := 5 }
          ++ emittedTo s f f.cfg.fields.dstB (f.outRun 1 f.tag 0 f.poisoned false [BitVec.ofNat 32 f.len]))))
      ∧ (f.len = 32 → exec .post s = .next ((fired s []).faultFiring f fSTREAM [0, 0, 0, 0xFFFFFFFF]))
      ∧ (f.len ≠ 32 → exec .post s = .next (fired s (emitted s f { f.outRun (f.len + 1) f.tag 0 f.poisoned f.isEmpty
            (if f.isEmpty then [0] else f.cfg.fields.lit :: ls) with cls := 6 })))
      ∧ (f.isEmpty = true → exec .trap s = .next (fired s []))
      ∧ (f.isEmpty = false → exec .trap s = .next ((fired s []).faultFiring f (0x8000 + f.lit % 32768) (padTo 0 4 (ls.take 4)))))
    ∧ (∀ (s : State) (f : Firing), s.issue = some f →
      exec .drain s = .next (((fired s []).earlyDrain f f.cfg.fields.dstA).earlyDrain f f.cfg.fields.dstB))
    ∧ (∀ (u : State) (f : Firing) (d : Dest), u.earlyDrain f d =
      if dKind d = 0 ∨ (u.cell f.ci).drained.contains (unitKey d) = true then u
      else (u.setCell f.ci { u.cell f.ci with drained := insertNat (unitKey d) (u.cell f.ci).drained }).send f.src
        { drainToken (sectorOf f.ci) d with ctx := f.ctx })

/-- O39. loop.enter, next, exit and close: one lane's effect on the window record, and lanes taken one by one (R201, R202, R203, R206, R208). -/
def Obligations.LoopNodes : Prop :=
  (∀ (s : State) (f : Firing), Fires s f →
      exec .loopEnter s = .next ((fired s []).byLane f (fun g u => u.loopEnter1 g))
        ∧ exec .loopNext s = .next ((fired s []).byLane f (fun g u => u.loopNext1 g))
        ∧ exec .loopExit s = .next ((fired s []).byLane f (fun g u => u.loopExit1 g))
        ∧ exec .loopClose s = .next ((fired s []).byLane f (fun g u => u.loopClose1 g)))
    ∧ (∀ (u : State) (g : Firing), u.window g g.level = none →
      ∀ e1 p v, u.makeCtrl g (newCtrl g .loop 0 (keepFields (u.shape g.ctx) g.tag (g.level + 1)) (g.lit % 16)
        [0, 1, 0, bits g.lit 22 16, fieldWidth (u.shape g.ctx) (g.level + 1), 0, 0] [] false) false = (some e1, p, v) → u.loopEnter1 g = v.emit g g.pass)
    ∧ (∀ (u : State) (g : Firing) (e : Ctrl), u.window g g.level = some e →
      u.loopEnter1 g = if e.isOpen ((2 ^ fieldWidth (u.shape g.ctx) (g.level + 1) - e.num 0) % 2 ^ fieldWidth (u.shape g.ctx) (g.level + 1))
        then u.emit g g.pass
        else u.faultFiring g fSTREAM [BitVec.ofNat 32 (g.lit % 16), BitVec.ofNat 32 (e.num 0), BitVec.ofNat 32 (e.num 1),
          if e.num 6 = 1 then BitVec.ofNat 32 (e.num 5) else 0xFFFFFFFF])
    ∧ (∀ (u : State) (g : Firing), u.window g (g.level - 1) = none →
      u.loopExit1 g = u.faultFiring g fSTREAM [BitVec.ofNat 32 (g.lit % 16), 0, 0, 0xFFFFFFFF]
        ∧ u.loopNext1 g = u.loopExit1 g ∧ u.loopClose1 g = u.loopExit1 g)
    ∧ (∀ (u : State) (g : Firing) (e : Ctrl) (i d m : Nat), u.window g (g.level - 1) = some e → m = 2 ^ e.num 4 →
      i = tagField (u.shape g.ctx) g.tag g.level → d = (i + m - e.num 0) % m →
      (e.isOpen d = false → g.held = false → g.reinj = false →
        u.loopNext1 g = u.loopStream g (some e) ∧ u.loopExit1 g = u.loopStream g (some e) ∧ u.loopClose1 g = u.loopStream g (some e))
      ∧ (e.isOpen d = true → g.held = false → g.reinj = false → e.num 6 = 1 → (e.num 5 + m - e.num 0) % m ≤ d →
        u.loopNext1 g = u.loopStream g (some e))
      ∧ (e.isOpen d = true → g.held = false → g.reinj = false → (e.num 6 = 1 → d < (e.num 5 + m - e.num 0) % m) →
        (i + 1 + m - e.num 0) % m = d + 1 →
        u.loopNext1 g =
          if d + 1 < e.num 1 then u.emit g g.pass
          else if d + 1 < e.num 3 then (u.putCtrl g.ci { e with nums := setNth (e.num 1 + 1) e.nums 1 }).emit g g.pass
          else u.holdOperand g)
      ∧ (e.isOpen d = true → (e.num 6 = 0 ∨ e.num 5 = i) →
        u.loopExit1 g = (u.putCtrl g.ci { e with nums := setNth 1 (setNth i e.nums 5) 6 }).emit g g.pass)
      ∧ (e.isOpen d = true → e.num 6 = 1 → e.num 5 ≠ i → u.loopExit1 g = u.loopStream g (some e))
      ∧ (∀ lo a cb k, e.isOpen d = true → advanceWindow (e.num 1) (e.num 0) (e.num 1) (e.num 2 + 2 ^ d) m = (lo, a, cb, k) →
        u.loopClose1 g =
          if e.num 6 = 1 ∧ a = 0 then
            ((u.rotateBack g.ci k).dropCtrl g.ci e).emit g (g.outRun 1 g.tag 0 g.poisoned false [BitVec.ofNat 32 (e.num 5)])
          else ((u.rotateBack g.ci k).putCtrl g.ci { e with nums := [lo, a, cb, e.num 3, e.num 4, e.num 5, e.num 6] }).representHeld g))

/-- O40. count, reorder, wait.drain and fence.q: what they emit, what they hold, and the markers that come back (R208, R212, R213, R218, R219). -/
def Obligations.GuardBarriers : Prop :=
  (∀ (s : State) (f : Firing) (key : Word) (old : Option Ctrl) (total : Nat) (poison : Bool), Fires s f →
      key = (if bitOf f.lit 16 then keepFields (s.shape f.ctx) f.tag f.level else f.tag) →
      old = (s.cell f.ci).findCtrl .count f.ctx f.node 0 key →
      total = (match old with | some e => e.num 0 | none => 0) + f.len →
      poison = (f.poisoned || (match old with | some e => e.poison | none => false)) →
      (∀ e, f.lit % 65536 ≤ total → old = some e →
        exec .count s = .next (((fired s []).dropCtrl f.ci e).emit f (f.outRun 1 key 0 poison false [BitVec.ofNat 32 total])))
      ∧ (∀ e, total < f.lit % 65536 → old = some e →
        exec .count s = .next ((fired s []).putCtrl f.ci { e with nums := [total], poison := poison }))
      ∧ (∀ e p v, old = none → (fired s []).makeCtrl f (newCtrl f .count f.node key 0 [total] [] poison) false = (some e, p, v) →
        exec .count s = .next (if f.lit % 65536 ≤ total then (v.dropCtrl f.ci e).emit f (f.outRun 1 key 0 poison false [BitVec.ofNat 32 total])
          else v.putCtrl f.ci { e with nums := [total], poison := poison })))
    ∧ (∀ (s : State) (f : Firing) (e : Ctrl) (w b : Nat), Fires s f → w = fieldWidth (s.shape f.ctx) f.level →
      b = tagField (s.shape f.ctx) f.tag f.level →
      (s.cell f.ci).findCtrl .reorder f.ctx f.node 0 (keepFields (s.shape f.ctx) f.tag f.level) = some e →
      (b ≠ e.num 0 → 2 ^ (w - 1) ≤ (b + 2 ^ w - e.num 0) % 2 ^ w →
        exec .reorder s = .next ((fired s []).faultFiring f fSTREAM [0, 0, 0, 0xFFFFFFFF]))
      ∧ (b ≠ e.num 0 → (b + 2 ^ w - e.num 0) % 2 ^ w < 2 ^ (w - 1) → exec .reorder s = .next ((fired s []).holdOperand f))
      ∧ (∀ e2 u, b = e.num 0 →
        State.reorderDrain 256 (((fired s []).putCtrl f.ci { e with nums := [(e.num 0 + f.len) % 2 ^ w, e.num 1 + f.len] }).emit f f.pass) f
          { e with nums := [(e.num 0 + f.len) % 2 ^ w, e.num 1 + f.len] } (2 ^ w) = (e2, u) →
        exec .reorder s = .next (if f.lit % 65536 ≠ 0 ∧ f.lit % 65536 ≤ e2.num 1 then u.dropCtrl f.ci e2 else u)))
    ∧ (∀ (s : State) (f : Firing) (w b : Nat), Fires s f → w = fieldWidth (s.shape f.ctx) f.level →
      b = tagField (s.shape f.ctx) f.tag f.level →
      (s.cell f.ci).findCtrl .reorder f.ctx f.node 0 (keepFields (s.shape f.ctx) f.tag f.level) = none →
      (b ≠ 0 → 2 ^ (w - 1) ≤ (b + 2 ^ w) % 2 ^ w →
        exec .reorder s = .next ((fired s []).faultFiring f fSTREAM [0, 0, 0, 0xFFFFFFFF]))
      ∧ (∀ e p v, (b = 0 ∨ (b + 2 ^ w) % 2 ^ w < 2 ^ (w - 1)) →
        (fired s []).makeCtrl f (newCtrl f .reorder f.node (keepFields (s.shape f.ctx) f.tag f.level) 0 [0, 0] [] false) false
          = (some e, p, v) → exec .reorder s = .next (v.reorderRun f e (2 ^ w) b)))
    ∧ (∀ (s : State) (f : Firing) (e : Ctrl) (p : Placed) (v : State), Fires s f →
      (fired s []).makeCtrl f (newCtrl f .waitDrain f.node f.tag 0 [] [f.pass] f.poisoned) true = (some e, p, v) → exec .waitDrain s = .next v)
    ∧ (∀ (s : State) (f : Firing) (named : List Nat) (e : Ctrl) (p : Placed) (v : State), Fires s f → f.port ≠ 1 →
      named = (List.range 8).filter (fun m => bitOf f.lit (24 + m)) →
      (fired s []).makeCtrl f (newCtrl f .fenceq f.node f.tag 0 [named.length] [f.pass] f.poisoned) true = (some e, p, v) →
      exec .fenceQ s = .next { v with net := v.net ++ named.flatMap (fun m => flightTo f.src (BitVec.ofNat 21 (f.lit % 2 ^ 21 + m * 64))
        { f.outRun 2 f.tag 0 false false [1, (cellDest f.ci f.node 1).zeroExtend 32] with cls := 2 }) })
    ∧ (∀ (s : State) (f : Firing), Fires s f → f.port = 1 →
      ((s.cell f.ci).findCtrl .fenceq f.ctx f.node 0 f.tag = none →
        exec .fenceQ s = .next ((fired s []).faultFiring f fSTREAM [0, 0, 0, 0xFFFFFFFF]))
      ∧ (∀ e, (s.cell f.ci).findCtrl .fenceq f.ctx f.node 0 f.tag = some e → 1 < e.num 0 →
        exec .fenceQ s = .next ((fired s []).putCtrl f.ci { e with nums := [e.num 0 - 1] }))
      ∧ (∀ e, (s.cell f.ci).findCtrl .fenceq f.ctx f.node 0 f.tag = some e → e.num 0 ≤ 1 →
        exec .fenceQ s = .next (((fired s []).dropCtrl f.ci e).emit
          { f with tag := (s.ctrlToken f.ci e).tag, len := (s.ctrlToken f.ci e).runLen, a := s.ctrlToken f.ci e, b := none, port := 0 }
          (s.ctrlToken f.ci e))))

/-- O41. Loads, stores and atomics: the accesses a firing issues, one for the run or one for each lane, and the whole-firing faults (R231, R232, R235, R238, R239, R240, R241, R255). -/
def Obligations.ForagerIssue : Prop :=
  (∀ e ∈ wholeAccess, ∀ (s s1 : State) (f : Firing) (rs : List (Formed × Except Nat (Nat × Bool))), Fires s f → f.cfg.opcode = e.2.1 →
      f.isEmpty = false → (f.a.poison = false ∨ e.1 = .ldS ∨ e.1 = .stS) → (fired s []).clashes f = [] →
      (fired s []).resolveAll f f.reqSize (e.2.2 == .store) false ((s.cell f.ci).addresses f (s.shape f.ctx)) = (rs, s1) →
      (faultsOf rs = [] → exec e.1 s = .next (s1.addAccess { Access.make f 0 0 f.len e.2.2 with
        reqs := f.requests rs (subCount f.width) (fun _ => 0) f.dataPoison, silent := f.isPf }))
      ∧ (faultsOf rs ≠ [] → f.isPf = false → exec e.1 s = .next (s1.faultWhole f e.2.2 (faultsOf rs)))
      ∧ (f.isPf = true → (faultsOf rs).filter (fun x => x.code == fWATCH) ≠ [] →
        exec e.1 s = .next (s1.faultWhole f e.2.2 ((faultsOf rs).filter (fun x => x.code == fWATCH))))
      ∧ (faultsOf rs ≠ [] → f.isPf = true → (faultsOf rs).filter (fun x => x.code == fWATCH) = [] → f.isOrdered = false →
        exec e.1 s = .next s1))
    ∧ (∀ e ∈ laneAccess, ∀ (s s1 : State) (f : Firing) (rs : List (Formed × Except Nat (Nat × Bool))), Fires s f → f.cfg.opcode = e.2.1 →
      f.isEmpty = false → f.a.poison = false → (f.paired = true → f.len % 2 = 0) → (fired s []).clashes f = [] →
      (fired s []).resolveAll f f.reqSize (e.2.2 != .load) (e.2.2 == .atomic) ((s.cell f.ci).addresses f (s.shape f.ctx)) = (rs, s1) →
      faultsOf rs = [] → exec e.1 s = .next ((f.requests rs 1 (casValue f (casSlot s f).1) (f.dataPoison || (casSlot s f).2)).foldl
        (fun t r => t.addAccess { Access.make f 0 r.lane (if f.paired then 2 else 1) e.2.2 with reqs := [r] }) s1))
    ∧ (∀ e ∈ wholeAccess ++ laneAccess, ∀ (s : State) (f : Firing), Fires s f → f.cfg.opcode = e.2.1 → f.isEmpty = false →
      (f.paired = true → f.len % 2 = 1 → exec e.1 s = .next ((fired s []).faultWhole f e.2.2 (f.allLanes fSTREAM)))
      ∧ ((f.paired = true → f.len % 2 = 0) → f.a.poison = true → e.2.1 < 0x182 →
        exec e.1 s = .next ((fired s []).faultWhole f e.2.2 (f.allLanes fPOISON)))
      ∧ ((f.paired = true → f.len % 2 = 0) → f.a.poison = true → 0x184 ≤ e.2.1 → exec e.1 s = .next ((fired s []).faultLanes f e.2.2
        (f.memberLanes.map (fun j => { lane := j, va := 0, code := fPOISON })) f.paired)))
    ∧ (∀ e ∈ wholeAccess ++ laneAccess, ∀ (s : State) (f : Firing), Fires s f → f.cfg.opcode = e.2.1 → f.isEmpty = true →
      f.isOrdered = false → exec e.1 s = .next (fired s (emitted s f
        { f.out f.width f.poisoned true [] with cls := 1, aux := BitVec.ofNat 16 f.wave })))

/-- O42. mnop, the fences, xlat and shape.set: the entry each makes, the field each sets, and what faults (R233, R244, R247, R251). -/
def Obligations.ForagerMarks : Prop :=
  (∀ e ∈ markNodes, ∀ (s : State) (f : Firing), Fires s f → (fired s []).clashes f = [] →
      (f.isOrdered = false → exec e.1 s = .next ((fired s []).addAccess (Access.make f 0 0 f.len e.2)))
      ∧ (f.isOrdered = true → exec e.1 s = .next (f.memberLanes.foldl (fun t j => t.addAccess (Access.make f 0 j 1 e.2)) (fired s []))))
    ∧ (∀ (s : State) (f : Firing), Fires s f →
      (f.isEmpty = true → exec .xlat s = .next (fired s (emitted s f { f.out f.width f.poisoned true [] with cls := 1 })))
      ∧ (f.isEmpty = false → f.len ≠ 2 → exec .xlat s = .next ((fired s []).faultWhole f .xlat (f.allLanes fSTREAM)))
      ∧ (f.isEmpty = false → f.len = 2 → f.a.poison = true → exec .xlat s = .next ((fired s []).faultWhole f .xlat (f.allLanes fPOISON)))
      ∧ (f.isEmpty = false → f.len = 2 → f.a.poison = false →
        exec .xlat s = .next ((fired s []).addAccess (Access.make f 0 0 f.len .xlat))))
    ∧ (∀ (s : State) (f : Firing) (xl : Bool) (fld n va : Nat), Fires s f → xl = bitOf f.lit 5 → fld = bits f.lit 4 2 →
      n = (if xl then 4 else if fld = 0 then 2 else 1) →
      va = (if xl then (pair64 (f.aLane 2) (f.aLane 3)).toNat else (pair64 (f.aLane 0) (f.aLane 1)).toNat) →
      (f.isEmpty = true → exec .shapeSet s = .next (fired s (emitted s f f.pass)))
      ∧ (f.isEmpty = false → f.len ≠ n → exec .shapeSet s = .next ((fired s []).faultWhole f .shapeSet (f.allLanes fSTREAM)))
      ∧ (f.isEmpty = false → f.len = n → f.a.poison = true →
        exec .shapeSet s = .next ((fired s []).faultWhole f .shapeSet (f.allLanes fPOISON)))
      ∧ (f.isEmpty = false → f.len = n → f.a.poison = false → (xl = true ∨ fld = 0) → 2 ^ 56 ≤ va →
        exec .shapeSet s = .next ((if xl then (fired s []).clearWindow f.ci (f.lit % 4) else fired s []).faultWhole f .shapeSet ((List.range f.len).map (fun j => { lane := j, va := va, code := fADDR }))))
      ∧ (f.isEmpty = false → f.len = n → f.a.poison = false → xl = true → va < 2 ^ 56 →
        exec .shapeSet s = .next ((fired s []).addAccess (Access.make f 0 0 f.len .shapeSet)))
      ∧ (f.isEmpty = false → f.len = n → f.a.poison = false → xl = false → fld = 0 → va < 2 ^ 56 →
        exec .shapeSet s = .next (((fired s []).setBase0 f.ci (f.lit % 4) va).emit f f.pass))
      ∧ (f.isEmpty = false → f.len = n → f.a.poison = false → xl = false → fld ≠ 0 →
        exec .shapeSet s = .next (((fired s []).setShapeWord f.ci (f.lit % 4) (if fld ≤ 3 then 6 + 3 * fld else 4 + 3 * (fld - 4))
          (f.aLane 0).toNat).emit f f.pass)))

/-- O43. Linking, entering the port, the home's performance, the reply and a walk: one step of an access each (R225, R234, R243, R245, R251, R253, R371, R410). -/
def Obligations.AccessProgress : Prop :=
  (∀ (s : State) (id : Nat) (a : Access) (c : Chain), s.access? id = some a → a.ordered = true → a.link = none → s.linkCaseOf a = .links →
      s.chainOf a.fir.ci a.fir.ctx a.fir.level (s.accessAct a) = some c →
      ∃ u v b, u = s.putChain a.fir.ci { c with last := some (waveS a.fir.lit, waveN a.fir.lit) } ∧ b = { a with link := some u.nextId } ∧
        v = ({ u with nextId := u.nextId + 1 } : State).putAccess b ∧
        exec (.chainMemberLink id) s = .next ((if a.kind = .load ∧ v.mayEnter b = true then v.enter b else v).sweep a.fir.ci))
    ∧ (∀ (s : State) (id : Nat) (a : Access), s.access? id = some a → s.mayEnter a = true →
      exec (.storeBufferSend id) s = .next ((({ s with nextId := s.nextId + 1 } : State).putAccess
        { (if a.kind = .load ∧ a.ordered then { a with reqs := a.reqs.map (s.forwardReq a) } else a) with
          port := some s.nextId }).sweep a.fir.ci))
    ∧ (∀ (s u : State) (id j p : Nat) (a : Access) (r : LaneReq), s.access? id = some a → a.reqs[j]? = some r → r.state = 0 →
      s.requestFirst a j r = true → ¬(a.kind = .load ∧ r.covered = true) → s.target (a.fir.ci / 2048) r.pa = .here p →
      s.sectorHeld (sectorOf a.fir.ci) p = false →
      (∀ g, a.kind = .load → s.load p r.size r.view r.hot = (g, u) →
        exec (.homeAccess id j) s = .next (u.answerReq a j r g.code (r.merge g.data) (g.poison || r.fwdPoison)))
      ∧ (∀ c, a.kind = .store → s.store p r.wdata r.poison r.hot = (c, u) →
        exec (.homeAccess id j) s = .next (u.answerReq a j r c [] false))
      ∧ (∀ g, a.kind = .atomic → s.atomicTurn (s.homeOf (a.fir.ci / 2048) r.pa) (sectorOf a.fir.ci) = true →
        (s.atomicServed (s.homeOf (a.fir.ci / 2048) r.pa) (sectorOf a.fir.ci)).atomic p r.size (fun old => if r.poison then none
          else (atomAct a.fir.cfg.opcode r.size (leNat r.wdata) r.cmp old).1) r.hot = (g, u) →
        exec (.homeAccess id j) s = .next (u.answerReq a j r g.code (leBytes (atomReply a.fir.cfg.opcode r.size)
          (atomAct a.fir.cfg.opcode r.size (leNat r.wdata) r.cmp (leNat g.data)).2) g.poison)))
    ∧ (∀ (s : State) (id j dev off : Nat) (a : Access) (r : LaneReq), s.access? id = some a → a.reqs[j]? = some r → r.state = 0 →
      s.requestFirst a j r = true → ¬(a.kind = .load ∧ r.covered = true) → s.target (a.fir.ci / 2048) r.pa = .away dev off →
      exec (.homeAccess id j) s = .next ((s.putReq a j { r with state := 3 }).remoteSend (a.fir.ci / 2048 % 2)
        (Remote.make dev off (match a.kind with | .load => 0 | .store => 1 | _ => 2) a.fir.cfg.opcode r.size r.wdata
          (BitVec.ofNat 64 r.cmp) r.poison (.access id j) (sectorOf a.fir.ci))))
    ∧ (∀ (s : State) (id j : Nat) (a : Access), s.access? id = some a → s.slotsFor a.fir.ci a.fir.outputs = true →
      (∀ ls, (a.kind = .load ∨ a.kind = .store) → a.emitted = [] → a.replyReady = true →
        ((a.fir.cfg.opcode = 0x180 ∧ ls = a.reqs.map (fun r => r.lane0)) ∨ (a.fir.cfg.opcode = 0x181 ∧ ls = (List.range a.fir.len).map a.fir.bLane)
          ∨ (a.fir.cfg.opcode = 0x183 ∧ ls = (List.range a.fir.len).map a.fir.aLane)) →
        exec (.memoryReply id j) s = .next (((s.markEmitted [a.id] 0).emit a.fir
          { a.fir.outRun a.fir.len a.fir.tag a.fir.width (a.poisonOut || a.fir.dataPoison) false ls with
            cls := 1, aux := BitVec.ofNat 16 a.fir.wave }).sweep a.fir.ci))
      ∧ (a.kind = .xlat →
        exec (.memoryReply id j) s = .next (({ s with accesses := s.accesses.filter (fun x => x.id != a.id) } : State).resolveXlat a.fir))
      ∧ (a.kind = .shapeSet →
        exec (.memoryReply id j) s = .next (({ s with accesses := s.accesses.filter (fun x => x.id != a.id) } : State).resolveShapeSet a.fir))
      ∧ (a.kind = .mnop → (s.groupOf a).all (fun b => b.performed) = true →
        exec (.memoryReply id j) s = .next (((s.markEmitted ((s.groupOf a).map (fun b => b.id)) 0).emit a.fir a.fir.pass).sweep a.fir.ci))
      ∧ ((a.kind = .fenceRel ∨ a.kind = .fenceAcq ∨ a.kind = .fenceFull) → (s.groupOf a).all s.fenceReady = true →
        exec (.memoryReply id j) s = .next (((s.markEmitted ((s.groupOf a).map (fun b => b.id)) 0).emit a.fir a.fir.pass).sweep a.fir.ci)))
    ∧ (∀ (s : State) (ps asid ctx va : Nat) (wr : Bool),
      exec (.walk ps asid ctx va wr) s = .next (s.translate ps asid (s.viewStamps.find? ctx) va wr).2)

/-- O44. A token's arrival at a node, an inbox, a keeper; drains counted, forwarded and returned; markers returned (R19, R29, R36, R52, R57, R67, R152, R217, R218, R220). -/
def Obligations.FabricArrivals : Prop :=
  (∀ (s : State) (k ci : Nat) (f : Flight) (cfg : Node), s.mayArrive k = true → s.net[k]? = some f → s.unroutable f.tok.dest = false →
      dKind f.tok.dest = 1 → ci = dCell f.tok.dest → (f.tok.cls = 0 ∨ f.tok.cls = 1 ∨ f.tok.cls = 6) → s.overlaid ci f.tok.ctx = false →
      ((s.cell ci).planeFor f.tok.ctx).nodes.find? (dNode f.tok.dest) = some cfg → streamBad (kindOf ci) (some cfg) f.tok = false →
      0 < f.tok.runLen →
      (dPort f.tok.dest ≠ 2 → (∀ j, j < f.tok.runLen → s.isParked ci f.tok.ctx (laneTag (s.shape f.tok.ctx) cfg.level f.tok.tag j) = false) →
        (cfg.fields.arity = 0 ∨ cfg.fields.arity = 2 ∨ cfg.opcode = 0x102) →
        exec (.tokenArrival k) s = .next ((s.landed k).makeReady ci (dNode f.tok.dest) cfg f.tok none (dPort f.tok.dest) false))
      ∧ (∀ l u n, dPort f.tok.dest < 2 → (∀ j, j < f.tok.runLen → s.isParked ci f.tok.ctx (laneTag (s.shape f.tok.ctx) cfg.level f.tok.tag j) = false) →
        cfg.fields.arity ≠ 0 → cfg.fields.arity ≠ 2 → cfg.opcode ≠ 0x102 →
        s.waiting ci f.tok (dNode f.tok.dest) (1 - dPort f.tok.dest) cfg.level = none →
        s.waiting ci f.tok (dNode f.tok.dest) (dPort f.tok.dest) cfg.level = none →
        n = (s.cell ci).arrivals → ((s.landed k).nextOrder ci).2.makeRoom ci f.tok false = (.entry l, u) →
        exec (.tokenArrival k) s = .next (u.addEntry ci l f.tok (dNode f.tok.dest) (dPort f.tok.dest) n false))
      ∧ (dPort f.tok.dest = 2 → exec (.tokenArrival k) s = .next (if f.tok.empty then s.landed k else
          (s.landed k).slotWrite ci (cfg.fields.lit.toNat % 256) cfg.level f.tok.ctx f.tok.tag f.tok.lanes f.tok.poison)))
    ∧ (∀ (s : State) (k : Nat) (f : Flight), s.mayArrive k = true → s.net[k]? = some f →
      (s.unroutable f.tok.dest = true → f.tok.cls ≠ 7 → exec (.tokenArrival k) s = .next ((s.landed k).returnToken f.src f.tok))
      ∧ (s.unroutable f.tok.dest = false → dKind f.tok.dest = 1 → f.tok.cls = 2 → nth 0 f.tok.lanes 0 = 0 →
        exec (.tokenArrival k) s = .next ((s.landed k).drainArrives (dCell f.tok.dest) f.src f.tok))
      ∧ (s.unroutable f.tok.dest = false → dKind f.tok.dest = 2 → inboxClassOk f.tok.dest f.tok = true →
        exec (.tokenArrival k) s = .next ((s.landed k).pushInbox (inboxKey f.tok.dest) f.tok))
      ∧ (s.unroutable f.tok.dest = false → dKind f.tok.dest = 2 → inboxClassOk f.tok.dest f.tok = false →
        exec (.engineInboxStreamFault k) s = .next ((s.landed k).holdStream (engineSector f.tok.dest) f.tok))
      ∧ (s.unroutable f.tok.dest = false → dKind f.tok.dest = 3 → f.tok.cls ≠ 2 → keeperClassOk f.tok = true →
        s.eventRoom (dSector f.tok.dest) f.tok = true →
        exec (.eventQueueArrival k) s = .next ((s.landed k).pushEvent (dSector f.tok.dest) f.tok))
      ∧ (s.unroutable f.tok.dest = false → dKind f.tok.dest = 3 → f.tok.cls = 2 → nth 0 f.tok.lanes 0 = 0 →
        s.regBits (secReg (dSector f.tok.dest) 0 0x48) 16 16 = 0 →
        exec (.drainCount k) s = .next (((s.landed k).bumpBits (secReg (dSector f.tok.dest) 0 0x48) 15 0 1).tileEnd (dSector f.tok.dest))))
    ∧ (∀ (s : State) (ci : Nat), s.mayForward ci = true → (s.cell ci).active.channels ci ≠ [] →
      (s.cell ci).ctrl.filter (fun e => e.kind == .waitDrain) = [] →
      ∃ t, exec (.drainForward ci) s = .next t ∧
        t.net = s.net ++ (((s.cell ci).active.channels ci).filter (fun d => !(s.cell ci).drained.contains (unitKey d))).flatMap
          (fun d => flightTo (cellDest ci 0 0) d (drainToken (sectorOf ci) d)) ∧
        t.cell ci = { (s.cell ci).switch with drainsIn := [], drained := [] } ∧
        { t with net := s.net, cells := s.cells } = s ∧ (∀ c, c ≠ ci → t.cell c = s.cell c))
    ∧ (∀ (s : State) (d : Dest) (m : Token),
      (s.headMark d 0 = some m → exec (.engineDrainReturn d) s = .next ((s.popInbox (inboxKey d)).send (portOf m.dest)
        { m with dest := keeperDest (m.aux.toNat % 32) }))
      ∧ (s.headMark d 1 = some m → exec (.fenceMarkerReturn d) s = .next ((s.popInbox (inboxKey d)).send (portOf m.dest)
        { m with dest := (nth 0 m.lanes 1).extractLsb' 0 21, cls := 6, len := 1, aux := 0, lanes := [0] })))

/-- O45. Spill records stored, returned and probed; freed room; parked activations disposed of; register writes (R6, R7, R42, R43, R44, R45, R48, R71). -/
def Obligations.FabricSpill : Prop :=
  (∀ (s : State) (ps : Nat) (r : Spilled) (rest : List Spilled), (s.spill ps).arriving = r :: rest →
      exec (.spillRecordStore ps) s = .next (((s.setSpill ps { s.spill ps with
        arriving := rest, records := (s.spill ps).records ++ [r] }).writeRecord ps r).noteHigh ps))
    ∧ (∀ (s : State) (ps ci : Nat) (r : Spilled), s.spillTurn ps ci = true →
      (s.lowRecord ps ci = some r → exec (.spillReinject ps ci) s = .next (presentedAgain s ps r))
      ∧ (s.probeRecord ps ci = some r → exec (.spillProbe ps ci) s = .next
          (presentedAgain (s.setSpill ps { s.spill ps with probe := Tab.set (s.spill ps).probe ci r }) ps r)))
    ∧ (∀ (s : State) (ps a : Nat) (r : Spilled), nextOut s ps = some r → s.areaPlace ps r.tok.ctx r.tok.imageSize = some a →
      exec (.overflowChunkReturn ps) s = .next (((s.setSpill ps { s.spill ps with
        records := (s.spill ps).records.map (fun x => if x.order = r.order then { r with chunk := none, addr := a } else x) }).writeRecord ps
          { r with chunk := none, addr := a }).noteHigh ps))
    ∧ (∀ (s : State) (ps k : Nat) (f : Flight), s.net[k]? = some f → findsRoom s ps k f = true →
      (∀ j g, j < k → s.net[j]? = some g → findsRoom s ps j g = false) →
      exec (.overflowRoomFreed ps) s = .next (State.receive 40 (s.landed k) (dCell f.tok.dest) f.tok false).2)
    ∧ (∀ (s : State) (ps : Nat) (v : Word), exec (.secParkResume ps v) s = .next (s.dispose ps v false)
      ∧ exec (.secParkDiscard ps v) s = .next (s.dispose ps v true))
    ∧ (∀ (s : State) (pa ps u off : Nat) (v : Word), placeOf pa = .sreg ps u off →
      (s.closed (.sreg ps u off) = true → exec (.registerWrite pa v) s = .next s)
      ∧ (s.closed (.sreg ps u off) = false → exec (.registerWrite pa v) s = .next (
        let m := regMask (.sreg ps u off)
        let t := if m.1 = 0 ∧ m.2 = 0 then s else
          s.setReg pa (BitVec.ofNat 64 (maskedWrite (s.reg pa).toNat m.1 m.2 (s.clampWrite (.sreg ps u off) v.toNat)))
        { t with inputs := (match s.regAction (.sreg ps u off) v with | some i => [.event i] | none => []) ++ t.inputs,
                 free := t.free + 4 })))

/-- O46. An engine checks a class-5 message in R103's order and at the first check that fails answers with its status and nothing else (R103). -/
def Obligations.EngineChecks : Prop :=
  (∀ r ∈ commandTable, ∀ (s : State) (m : Token) (e : Engine), engineOf m.dest = some e → r.engine e = true →
      (s.atHead m = false → exec (r.cmd m) s = .next s)
      ∧ (∀ st data, s.atHead m = true → CheckFails m (r.inbox (dInbox m.dest)) r.lanes r.flags st data →
          (isCopy e = false → isStack e = false → exec (r.cmd m) s = .next (s.finish m st data []))
          ∧ (∀ ps, e = .copy ps → s.copyTurn ps (dInbox m.dest) = true →
            exec (r.cmd m) s = .next ((s.copyServed ps (dInbox m.dest)).finish m st data []))
          ∧ (∀ n, e = .stack n → (r.cmd m = .stkFence m → exec (r.cmd m) s = .next (s.finish m st data []))
            ∧ (r.cmd m ≠ .stkFence m → s.busyOf m = none → s.stkTurn n (dInbox m.dest) = true →
              exec (r.cmd m) s = .next ((s.stkServed n (dInbox m.dest)).finish m st data [])))))
    ∧ (∀ (s : State) (m : Token) (st data : Nat), s.atHead m = true → CheckFails m false 0 0 st data →
      exec (.engineUnassignedOpcode m) s = .next (s.finish m st data []))
    ∧ (∀ (m : Token) (accepted : Bool) (lanes flags : Nat), Passes m accepted lanes flags ∨
      ∃ st data, CheckFails m accepted lanes flags st data)
    ∧ (∀ (s : State) (m : Token) (st data : Nat) (more : List Lane), s.atHead m = true →
    (∀ t, t = s.finish m st data more →
      t.inbox (inboxKey m.dest) = (s.inbox (inboxKey m.dest)).tail ∧ t.busyOf m = none
        ∧ (∀ k, k ≠ inboxKey m.dest → t.inbox k = s.inbox k ∧ t.busy.find? k = s.busy.find? k)
        ∧ t.cells = s.cells ∧ t.keepers = s.keepers)
      ∧ (s.muted.contains (inboxKey m.dest) = true → (s.finish m st data more).net = s.net)
      ∧ (s.muted.contains (inboxKey m.dest) = false → replyOk m = true →
          (dKind ((replyLane m).extractLsb' 0 21) ≠ 0 →
            (s.finish m st data more).net = s.net ++ [{ src := portOf m.dest, tok := completion m st data more }])
          ∧ (dKind ((replyLane m).extractLsb' 0 21) = 0 → st = 0 → (s.finish m st data more).net = s.net)
          ∧ (dKind ((replyLane m).extractLsb' 0 21) = 0 → st ≠ 0 → ∃ t : Token, (s.finish m st data more).net =
              s.net ++ [{ src := portOf m.dest, tok := t }] ∧ t.dest = keeperDest (engineSector m.dest) ∧ t.cls = 7
                ∧ t.ctx = m.ctx ∧ t.tag = m.tag ∧ t.aux = BitVec.ofNat 16 (codeOfStatus st)))
      ∧ (s.muted.contains (inboxKey m.dest) = false → replyOk m = false → ∃ t : Token, (s.finish m st data more).net =
          s.net ++ [{ src := portOf m.dest, tok := t }] ∧ t.dest = keeperDest (engineSector m.dest) ∧ t.cls = 7
            ∧ t.aux = 1 ∧ t.ctx = m.ctx ∧ t.tag = m.tag)
      ∧ ((completion m st data more).cls = 6 ∧ (completion m st data more).ctx = m.ctx ∧ (completion m st data more).tag = m.tag
          ∧ nth 0 (completion m st data more).lanes 0 =
              BitVec.ofNat 32 (lane0 m % 256 + (st % 256) * 256 + (data % 65536) * 65536)
          ∧ (completion m st data more).poison = false ∧ (completion m st data more).fault = false
          ∧ (completion m st data more).empty = false ∧ (completion m st data more).width = 0))

/-- O47. The pool's commands: taken in order, banks set, regions zeroed, passes and drains formed, pairing, fences and statistics (R260, R261, R264, R267, R268, R275, R277, R283, R285, R286, R287, R290). -/
def Obligations.PoolCommands : Prop :=
  (∀ r ∈ poolInOrder, ∀ (s : State) (m : Token) (pl : Nat), Heads s m (.pool pl) (r.1.inbox (dInbox m.dest)) r.1.lanes r.1.flags →
      r.2 m = true → s.busyOf m = none →
      exec (r.1.cmd m) s = .next ((s.setPool pl { s.pool pl with seq := (s.pool pl).seq + 1 }).waitBusy m 1 [(s.pool pl).seq + 1] []))
    ∧ (∀ (s : State) (m : Token) (pl seq bank : Nat) (b : Busy), s.busyOf m = some b → seq = nth 0 b.nums 0 →
      bank = bits (lane0 m) 8 8 →
      (∀ es, Heads s m (.pool pl) (decide (dInbox m.dest = 0)) 4 0x100 → extraBits (qOp m 1) 0x7FF7FFFFF = false → qOp m 1 % 4 = 0 →
        s.bankInUse pl bank seq = false → s.poolPort pl = false → s.poolTable pl (bits (qOp m 1) 22 0) (bits (qOp m 1) 34 24 + 1) 2 = some es →
        (∀ e ∈ es, e < 2048) → (es.map (fun e => 8 * (e % 2048 + 1))).foldl (· + ·) 0 ≤ 65536 →
        exec (.poolCfg m) s = .next ((s.setPool pl ((s.pool pl).setBank bank (carved (es.map (fun e => 8 * (e % 2048 + 1)))))).finish m 0 (bits (qOp m 1) 34 24) []))
      ∧ (∀ es, Heads s m (.pool pl) (decide (dInbox m.dest = 0)) 4 0x300 → extraBits (qOp m 1) 0x7FFFFF = false → qOp m 1 % 4 = 0 →
        s.bankInUse pl bank seq = false → s.poolPort pl = false → ((s.pool pl).bank bank).sizes ≠ [] →
        s.poolTable pl (qOp m 1) ((s.pool pl).bank bank).sizes.length 4 = some es → (∀ e ∈ es, e < 2 ^ 27) →
        (∀ e ∈ (es.map (fun e => (e % 65536, bits e 26 16))).zip ((s.pool pl).bank bank).sizes, e.1.1 + e.2 ≤ 65536) →
        exec (.poolMap m) s = .next ((s.setPool pl ((s.pool pl).setBank bank { (s.pool pl).bank bank with
          map := es.map (fun e => (e % 65536, bits e 26 16)), mapped := true, win := bitOf (lane0 m) 9 })).finish m 0 0 []))
      ∧ (Heads s m (.pool pl) (decide (dInbox m.dest = 0)) 4 0x300 → extraBits (qOp m 1) 0x3FFFFF = false →
        s.bankInUse pl bank seq = false → bits (qOp m 1) 10 0 ≤ bits (qOp m 1) 21 11 →
        bits (qOp m 1) 21 11 < ((s.pool pl).bank bank).sizes.length →
        exec (.poolSpan m) s = .next ((s.setPool pl ((s.pool pl).setBank bank { (s.pool pl).bank bank with
          span := some (bits (qOp m 1) 10 0, bits (qOp m 1) 21 11, bitOf (lane0 m) 9) })).finish m 0 0 []))
      ∧ (∀ r, Heads s m (.pool pl) (decide (dInbox m.dest = 0)) 4 0 → regionOf (qOp m 1) = .ok r →
        s.lowerPass pl seq (regionMask r) = false → s.lowerRegion pl seq (regionMask r) = false → s.poolPort pl = false →
        exec (.poolZero m) s = .next ((s.zeroRegion pl r).finish m 0 0 []))
      ∧ (∀ r, Heads s m (.pool pl) (decide (dInbox m.dest = 3)) 4 0 → regionOf (qOp m 1) = .ok r →
        s.lowerPass pl seq (regionMask r) = false →
        exec (.poolCommit m) s = .next (s.finish m 0 0 [BitVec.ofNat 32 (nth 0 b.nums 1)])))
    ∧ (∀ (s : State) (m : Token) (pl : Nat) (r : Nat × Nat × Nat × Nat), Heads s m (.pool pl) (decide (dInbox m.dest = 3)) 4 0 →
      regionOf (qOp m 1) = .ok r → s.busyOf m = none →
      exec (.poolCommit m) s = .next ((s.setPool pl { s.pool pl with seq := (s.pool pl).seq + 1 }).waitBusy m 1
        (((s.pool pl).seq + 1) :: (s.openPasses pl ((s.pool pl).seq + 1) (regionMask r)).1
          :: (s.openPasses pl ((s.pool pl).seq + 1) (regionMask r)).2) []))
    ∧ (∀ (s : State) (m : Token) (pl : Nat), (Heads s m (.pool pl) (decide (dInbox m.dest < 4)) 2 0xF00 →
        s.inboxesClear m (bits (lane0 m) 11 8) 4 = true → exec (.poolFence m) s = .next (s.finish m 0 0 []))
      ∧ (Heads s m (.pool pl) (decide (dInbox m.dest < 4)) 2 0x100 → exec (.poolStat m) s = .next
        ((if bitOf (lane0 m) 8 then [0x60, 0x68, 0x70, 0x78, 0x80].foldl (fun u o => u.setReg (poolReg pl o) 0) s else s).finish m 0 0
          [lo32 (s.reg (poolReg pl 0x60)), hi32 (s.reg (poolReg pl 0x60)), lo32 (s.reg (poolReg pl 0x68)), lo32 (s.reg (poolReg pl 0x70)),
           lo32 (s.reg (poolReg pl 0x78)), lo32 (s.reg (poolReg pl 0x80)), BitVec.ofNat 32 (s.poolStatus pl)])))
    ∧ (∀ (s t : State) (m : Token) (pl : Nat) (a : AArgs), Heads s m (.pool pl) (decide (dInbox m.dest = 1)) 8 0xFF00 →
      (s.pool pl).walk = none → fmtOk m = true → aArgs m = some a →
      t = (s.setPool pl { s.pool pl with seq := (s.pool pl).seq + 1 }).popInbox (poolInbox pl 1) →
      let n := (s.pool pl).seq + 1
      ((s.pool pl).annB.find? (fun b => sameKey b.msg m) = none → (s.pool pl).annA.length < 16 →
        (∀ x ∈ (s.pool pl).annA, sameKey x.msg m = false) →
        exec (.poolMma m) s = .next (t.setPool pl { mmaNoted (t.pool pl) n m with
          annA := (t.pool pl).annA ++ [{ seq := n, arr := s.headArrival (poolInbox pl 1), msg := m }] }))
      ∧ (∀ b x, (s.pool pl).annB.find? (fun b => sameKey b.msg m) = some b → bArgs b.msg = some x →
        exec (.poolMma m) s = .next ((t.setPool pl { mmaNoted (t.pool pl) n m with
          annB := (t.pool pl).annB.filter (fun y => y.arr != b.arr) }).formPass pl n (s.headArrival (poolInbox pl 1)) m false a x
          (some (b.arr, b.msg)) (bits (lane0 m) 8 8) (bitOf (lane0 m) 15) (bits (lane0 m) 11 9) (bits (lane0 m) 14 12))))
    ∧ (∀ (s t : State) (m : Token) (pl : Nat) (i : Instr) (x : BArgs),
      ((i = .poolBload m ∧ Heads s m (.pool pl) (decide (dInbox m.dest = 2)) 6 0)
        ∨ (i = .poolBloadNm m ∧ Heads s m (.pool pl) (decide (dInbox m.dest = 2)) 8 0x100)) → bArgs m = some x →
      t = (s.setPool pl { s.pool pl with seq := (s.pool pl).seq + 1 }).popInbox (poolInbox pl 2) →
      ((s.pool pl).annA.find? (fun a => sameKey a.msg m) = none → (s.pool pl).annB.length < 16 →
        (∀ y ∈ (s.pool pl).annB, sameKey y.msg m = false) →
        exec i s = .next (t.setPool pl { t.pool pl with
          annB := (t.pool pl).annB ++ [{ seq := (s.pool pl).seq + 1, arr := s.headArrival (poolInbox pl 2), msg := m }] }))
      ∧ (∀ a y, (s.pool pl).annA.find? (fun a => sameKey a.msg m) = some a → aArgs a.msg = some y →
        exec i s = .next ((t.setPool pl { t.pool pl with annA := (t.pool pl).annA.filter (fun z => z.seq != a.seq) }).formPass
          pl a.seq a.arr a.msg false y x (some (s.headArrival (poolInbox pl 2), m)) (bits (lane0 a.msg) 8 8) (bitOf (lane0 a.msg) 15)
          (bits (lane0 a.msg) 11 9) (bits (lane0 a.msg) 14 12))))
    ∧ (∀ (s t : State) (m : Token) (pl par : Nat) (a : AArgs) (q : Pass), Heads s m (.pool pl) (decide (dInbox m.dest = 1)) 8 0xFF00 →
      (s.pool pl).walk = none → bits (lane0 m) 14 9 = 0 → aArgs m = some a → (s.pool pl).lastMma = some par →
      t = (s.setPool pl { s.pool pl with seq := (s.pool pl).seq + 1 }).popInbox (poolInbox pl 1) →
      q = t.boundA pl ((s.pool pl).seq + 1) (s.headArrival (poolInbox pl 1)) m a par →
      exec (.poolA m) s = .next ((t.setPool pl { t.pool pl with passes := (t.pool pl).passes ++ [q] }).tryHold pl q)
        ∧ q.seq = (s.pool pl).seq + 1 ∧ q.parent = par ∧ q.msg = m ∧ q.a = a ∧ q.phase = .paired ∧ q.bank = bits (lane0 m) 8 8
        ∧ q.span = bitOf (lane0 m) 15)
    ∧ (∀ (s t : State) (m : Token) (pl : Nat) (r : Nat × Nat × Nat × Nat) (d : PoolDrain),
      Heads s m (.pool pl) (decide (dInbox m.dest = 3)) 8 0x7F00 → regionOf (qOp m 1) = .ok r → bits (lane0 m) 14 13 ≠ 3 →
      (bitOf (lane0 m) 8 = true ∨ bits (lane0 m) 11 9 = 0) → qOp m 2 < 2 ^ 56 → qOp m 3 < 2 ^ 32 →
      t = (s.setPool pl { s.pool pl with seq := (s.pool pl).seq + 1 }).popInbox (poolInbox pl 3) →
      d =
      { seq := (s.pool pl).seq + 1, arr := s.headArrival (poolInbox pl 3), msg := m, region := r, ridx := bits (lane0 m) 11 9,
        ofmt := bits (lane0 m) 14 13, zero := bitOf (lane0 m) 12, off := qOp m 2, dpitch := qOp m 3,
        phase := if bitOf (lane0 m) 8 then 1 else 0, route := 0, rows := [], next := 0, queued := false, walk := false } →
      (bitOf (lane0 m) 8 = true ∨ (s.pool pl).steers.find? (fun x => sameKey x m) = none →
        exec (.poolDrain m) s = .next (t.setPool pl { t.pool pl with drains := (t.pool pl).drains ++ [d] }))
      ∧ (∀ x, bitOf (lane0 m) 8 = false → (s.pool pl).steers.find? (fun x => sameKey x m) = some x →
        exec (.poolDrain m) s = .next ((t.setPool pl { t.pool pl with
          drains := (t.pool pl).drains ++ [d],
          steers := (t.pool pl).steers.filter (fun y => !sameKey y m) }).steerDrain pl d x)))
    ∧ (∀ (s : State) (m : Token) (pl : Nat), engineOf m.dest = some (.pool pl) → s.atHead m = true → dInbox m.dest = 4 → m.cls = 0 →
      (∀ d, (s.pool pl).drains.find? (fun d => d.phase == 0 && sameKey d.msg m) = some d →
        exec (.steerToken m) s = .next ((s.popInbox (poolInbox pl 4)).steerDrain pl d m))
      ∧ ((s.pool pl).drains.find? (fun d => d.phase == 0 && sameKey d.msg m) = none → (s.pool pl).steers.length < 16 →
        (∀ x ∈ (s.pool pl).steers, sameKey x m = false) →
        exec (.steerToken m) s = .next ((s.popInbox (poolInbox pl 4)).setPool pl { s.pool pl with
          steers := (s.pool pl).steers ++ [m] })))
    ∧ (∀ (s : State) (m : Token) (pl : Nat), Heads s m (.pool pl) (decide (dInbox m.dest = 1)) 12 0xFFF00 → (s.pool pl).walk = none →
      walkArgsOk m = true →
      (s.busyOf m = none → exec (.poolMmaBs m) s = .next
        ((s.setPool pl { s.pool pl with seq := (s.pool pl).seq + 1 }).waitBusy m 1
          [(s.pool pl).seq + 1, s.clk, match s.asid? m.ctx with | some x => x + 1 | none => 0] []))
      ∧ (∀ b bk cols, s.busyOf m = some b → bk = (s.pool pl).bank (bits (lane0 m) 8 8) →
        s.bankWaits pl (bits (lane0 m) 8 8) (nth 0 b.nums 0) = false → bk.mapped = true → (∀ g ∈ bk.groups, g.ks + g.n ≤ 32) →
        cols = bk.groups.foldl (fun n g => Nat.max n (g.c + 1)) 1 → cols ≤ bits (qOp m 4) 45 31 →
        bits (qOp m 4) 30 16 + (Nat.min (bits (qOp m 4) 15 0) 2 * 32 - 1) * bits (qOp m 4) 45 31 + cols ≤ 32768 →
        exec (.poolMmaBs m) s = .next ((s.popInbox (poolInbox pl 1)).putWalk pl
        { msg := m, arr := s.headArrival (poolInbox pl 1),
          cols := cols, row := 0, idx := 0, phase := 0, passed := 0, drained := 0, replays := 0, start := nth 0 b.nums 1,
          asid := if nth 0 b.nums 2 = 0 then none else some (nth 0 b.nums 2 - 1), rps := [], ents := [],
          rebase := none, parked := false, status := 0 })))

/-- O48. A pool's passes: loading a set, streaming, spanning, the decision to commit or squash, and the replay (R264, R265, R269, R270, R275, R278, R283, R305, R306, R307, R309, R311). -/
def Obligations.PoolPasses : Prop :=
  (∀ (s s1 : State) (pl id : Nat) (q q1 : Pass) (b : BArgs) (x : BParent) (k : Bool) (gs : List Grp) (code : Nat) (lad : Bool) (p1 : Pool),
      (s.pool pl).pass? id = some q → q.b = some b → q.phase = .paired → s.bankWaits pl q.bank q.seq = false → s.poolPort pl = false →
      (s.pool pl).parent? q.parent = some x → (q.parent ≠ q.seq → x.loaded = true ∧ (s.pool pl).setOf q.parent = none) →
      (s.pool pl).freeSet (s.lowerUnloaded pl q) = some k →
      s.passGroups pl q b (decide (q.parent = q.seq) && !q.checked) = .ok gs →
      s.takeHold pl q = some (q1, s1) → s1.streamCode pl q1 x.fmt false = (code, lad) →
      p1 = (s1.pool pl).putBSet k
        { owner := some q.parent, fmt := code, elems := s1.loadElems pl b ((passRounds code b gs).headD []), used := 0 } →
      (q.parent = q.seq → ∀ s2, s2 = (s1.setPool pl { p1 with
          parents := p1.parents.map (fun y =>
            if y.seq = q.seq then { y with loaded := true, fmt := code, ladder := lad, groups := gs } else y) }).putPass
            pl { q1 with phase := .loaded, act := gs, bann := none } →
        exec (.bSetLoad pl id) s = .next ((match q.bann with | some y => s2.answer y.2 0 0 [] | none => s2).busyClk pl))
      ∧ (q.parent ≠ q.seq → exec (.bSetLoad pl id) s = .next ((s1.setPool pl p1).busyClk pl)))
    ∧ (∀ (s s1 : State) (pl id : Nat) (q q1 : Pass) (b : BArgs) (x : BParent) (k : Bool) (gs : List Grp) (code : Nat) (lad : Bool),
      (s.pool pl).pass? id = some q → (s.pool pl).parent? q.parent = some x → (∀ y ∈ (s.pool pl).passes, y.phase ≠ .replay) →
      s.poolPort pl = false →
      (q.parent ≠ q.seq → q.phase = .paired → x.status ≠ 0 → exec (.passStreamStart pl id) s = .next (s.endPass pl q x.status 0))
      ∧ (q.b = some b → (s.pool pl).setOf q.parent = some k → s.bankWaits pl q.bank q.seq = false →
        ((q.parent = q.seq ∧ q.phase = .loaded ∧ gs = q.act)
          ∨ (q.parent ≠ q.seq ∧ q.phase = .paired ∧ x.status = 0 ∧ s.passGroups pl q b false = .ok gs)) →
        s.lowerPass pl q.seq ((s.pool pl).passWrites q) = false → s.takeHold pl q = some (q1, s1) →
        s1.streamCode pl q1 ((s.pool pl).theSet k).fmt x.ladder = (code, lad) →
        exec (.passStreamStart pl id) s = .next (s1.streamPass pl q1 b gs ((s.pool pl).setGroups q) k code lad
          (decide (q.parent = q.seq) || decide (code ≠ ((s.pool pl).theSet k).fmt)))))
    ∧ (∀ (s : State) (pl id : Nat) (q : Pass) (x : SpanSums), (s.pool pl).pass? id = some q → q.phase = .span →
      ((s.pool pl).bankOf q).secondary = false → (s.pool pl).spanFor q = some x →
      let mine := (q.act.filter (fun g => ((s.pool pl).bankOf q).spanned g.g)).map (fun g => (g.g, g.n))
      (∀ sums, x.rows = q.a.rows → x.fmt = q.fixed → x.prof = q.prof → x.groups = mine →
        sums = q.sums.map (fun y => match x.sums.find? (fun z => z.g == y.g && z.m == y.m) with
          | some z => { y with sum := BitVec.ofNat 32 (addF32 y.sum.toNat z.sum.toNat),
                               mag := BitVec.ofNat 32 (addF32 y.mag.toNat z.mag.toNat), bad := y.bad || z.bad }
          | none => y) →
        exec (.spanSumsArrive pl id) s = .next (s.putPass pl { q with
          phase := .streamed, sums := sums,
          counts := [nth 0 q.counts 0 + nth 0 x.counts 0, nth 0 q.counts 1 + nth 0 x.counts 1, nth 0 q.counts 2 + nth 0 x.counts 2 +
            (sums.filter (fun y => ((s.pool pl).bankOf q).spanned y.g && cancels y.sum.toNat y.mag.toNat)).length] }))
      ∧ (x.rows ≠ q.a.rows ∨ x.fmt ≠ q.fixed ∨ x.prof ≠ q.prof ∨ x.groups ≠ mine →
        ∀ t, t = (s.dropSpan pl x).endPass pl q 3 0 → (∀ y, (t.pool (mirrorPool pl)).pass? x.seq = some y →
          exec (.spanSumsArrive pl id) s = .next (t.putPass (mirrorPool pl) { y with phase := .streamed, ladder := false }))))
    ∧ (∀ (s : State) (pl id : Nat) (q : Pass) (past : Bool), (s.pool pl).pass? id = some q →
      ((q.phase = .streamed ∧ past = s.overBudget pl q) ∨ (q.phase = .decided ∧ past = false)) →
      (s.partner pl q = none →
        (past = true → exec (.ladderDecision pl id) s = .next ((s.liftReleased pl q.seq).squashPass pl q (s.autoReleased pl q.seq)))
        ∧ (past = false → s.atPosition pl q = true → exec (.ladderDecision pl id) s = .next (s.commitPass pl q))
        ∧ (past = false → s.atPosition pl q = false → exec (.ladderDecision pl id) s = .next
          ((s.liftReleased pl q.seq).putPass pl { q with phase := .decided })))
      ∧ (∀ x y, s.partner pl q = some (x, y) →
        (∀ r, past = true → r = (s.autoReleased pl q.seq || s.autoReleased (mirrorPool pl) y.seq) →
          exec (.ladderDecision pl id) s = .next (((((s.liftReleased pl q.seq).liftReleased (mirrorPool pl) y.seq).dropSpan pl x).squashPass
            pl q r).squashPass (mirrorPool pl) { y with step := q.step } r))
        ∧ (past = false → s.atPosition pl q = true → s.atPosition (mirrorPool pl) y = true →
          exec (.ladderDecision pl id) s = .next (((s.dropSpan pl x).commitPass pl q).commitPass (mirrorPool pl) { y with fmt := q.fmt }))))
    ∧ (∀ (s : State) (pl : Nat) (q : Pass) (r : Bool),
      (r = false → s.squashPass pl q r = ((s.bump (ladSquash pl) 1).bump (ladReplay pl (q.step + 1)) 1).putPass pl
        { q with phase := .replay, step := q.step + 1, replays := q.replays + 1, sums := [] })
      ∧ (r = true → s.squashPass pl q r = ((s.bump (ladSquash pl) 1).bump (ladNosrc pl) 1).endPass pl q 0xB 0))
    ∧ (∀ (s : State) (pl id : Nat) (q : Pass) (b : BArgs) (k lad : Bool) (code : Nat), (s.pool pl).pass? id = some q →
      q.phase = .replay → s.poolPort pl = false → q.b = some b → (s.pool pl).setOf q.parent = some k →
      s.streamCode pl q 0 false = (code, lad) →
      exec (.replayStream pl id) s = .next ((s.setPool pl ((s.pool pl).putBSet k { (s.pool pl).theSet k with
        elems := s.loadElems pl b ((passRounds code b ((s.pool pl).setGroups q)).headD []) })).streamPass pl q b q.act
          ((s.pool pl).setGroups q) k code lad true))

/-- O49. A pool's drains by each route, writes that waited on a hold, and the block-sparse walk: fetch, park, resume, abort (R66, R264, R284, R285, R290, R291, R292, R313, R340, R377). -/
def Obligations.PoolDrainsAndWalks : Prop :=
  (∀ (s : State) (pl id : Nat) (d d1 : PoolDrain) (route : Nat) (t : State), (s.pool pl).drain? id = some d → d.phase = 1 →
      s.poolPort pl = false → (s.pool pl).drainBefore d = false → s.lowerPass pl d.seq (regionMask d.region) = false →
      s.lowerRegion pl d.seq (regionMask d.region) = false → route = (s.reg (poolReg pl (8 * d.ridx))).toNat →
      d1 = { d with route := route, rows := (upTo d.region.2.2.1).map (s.drainRow pl d), next := 0 } →
      t = (if d.zero then s.zeroRegion pl d.region else s).busyClk pl →
      (∀ st, routeStatus d route = st → st ≠ 0 → exec (.poolDrainPerform pl id) s = .next (s.endDrain pl d st 0))
      ∧ (routeStatus d route = 0 → bits route 63 62 = 1 → ∀ ls, ls = s.drainLanes d1 →
        exec (.poolDrainPerform pl id) s = .next (((drainTokens (t.shape d.msg.ctx) d1 (BitVec.ofNat 21 (bits route 20 0)) ls.length 0
          ls).foldl (fun u x => u.send (engineDest (pl / 40) (pl / 5 % 8) (pl % 5) 0) x) t).endDrain pl d1 d1.status 0))
      ∧ (routeStatus d route = 0 → bits route 63 62 = 2 →
        exec (.poolDrainPerform pl id) s = .next (t.putDrain pl { d1 with phase := 2 }))
      ∧ (routeStatus d route = 0 → bits route 63 62 = 3 →
        exec (.poolDrainPerform pl id) s = .next (State.scratchRows pl (d1.rows.length + 1) t d1)))
    ∧ (∀ (s : State) (pl id : Nat) (d : PoolDrain), (s.pool pl).drain? id = some d → d.phase = 2 →
      (d.queued = false → exec (.drainHandoff pl id) s = .next
        ((s.pushInbox (inboxKey (rowToken pl d).dest) (rowToken pl d)).putDrain pl { d with queued := true }))
      ∧ (∀ m r vals bad rest, d.queued = true → m = rowToken pl d → s.atHead m = true → s.copyTurn (pl / 5) (dInbox m.dest) = true →
        s.copyRun m = some r → d.rows.drop d.next = (vals, bad) :: rest →
        ∃ o, exec (.drainHandoff pl id) s = .next o ∧
          ChunkGives (s.copyServed (pl / 5) (dInbox m.dest)) m (pl / 5) r false (rowPieces d vals bad)
            (fun c _ r1 t => t.rowDone pl d (inboxKey m.dest) r1.holds c) (fun r1 t => t.rowDone pl d (inboxKey m.dest) r1.holds 0) o))
    ∧ (∀ (s : State) (d : Dest),
      (∀ pl, engineOf d = some (.pool pl) → exec (.heldWriteResume d) s = .next
        (((s.pool pl).drains.filter (fun x => x.phase == 3)).foldl (fun t x =>
          State.scratchRows pl (x.rows.length + 1) t { x with phase := 1 }) s))
      ∧ (∀ b pa n rest, (∀ pl, engineOf d ≠ some (.pool pl)) → s.busy.find? (inboxKey d) = some b → b.phase = 99 →
        b.nums = pa :: n :: rest →
        (s.ladHeld pa n = true → exec (.heldWriteResume d) s = .next s)
        ∧ (s.ladHeld pa n = false → exec (.heldWriteResume d) s = .next (s.waitBusy b.msg 97 rest b.holds))))
    ∧ (∀ (s : State) (id n f : Nat) (m : Token) (ms : List (Nat × Token)) (b : Busy) (rest : List Nat), s.inbox id = (n, m) :: ms →
      s.busy.find? id = some b → b.phase = 98 → b.nums = f :: rest →
      (s.holdCount (s.holdFrame f) < 255 → exec (.holdGrant id) s = .next
        ((s.addHold (s.holdFrame f)).waitBusy m 97 rest (b.holds ++ [s.holdFrame f])))
      ∧ (255 ≤ s.holdCount (s.holdFrame f) → exec (.holdGrant id) s = .next s))
    ∧ (∀ (s : State) (pl : Nat) (w : BWalk), (s.pool pl).walk = some w →
      (w.parked = false → w.failed = none → w.phase ≠ 3 →
        (s.walkNext pl w = none → exec (.walkEntryFetch pl) s = .next (s.prefetch pl w))
        ∧ (∀ t, s.walkNext pl w = some t → exec (.walkEntryFetch pl) s = .next
          (if (w.nextRp.isSome || w.nextEnt.isSome) && Config.freeBool s.free then s.useFree.prefetch pl w else t.useFree)))
      ∧ (∀ rp va c, w.failed = some (rp, va, c) → w.parked = false → (∀ q ∈ (s.pool pl).passes, q.walk = false) →
        (∀ d ∈ (s.pool pl).drains, d.walk = false) →
        exec (.walkPark pl) s = .next (((s.setReg (poolReg pl 0x48)
          (BitVec.ofNat 64 (w.idx + w.row * 2 ^ 32 + (if rp then 1 else 0) * 2 ^ 48))).putWalk pl { w with parked := true }).faultRecord
            (engineDest (pl / 40) (pl / 5 % 8) (pl % 5) 0) (pl / 5) w.msg.ctx w.msg.tag 0x11
            [BitVec.ofNat 32 va, BitVec.ofNat 32 (va / 2 ^ 32), BitVec.ofNat 32 (if rp then w.row else w.idx),
              BitVec.ofNat 32 (w.row + (if rp then 1 else 0) * 2 ^ 16 + c % 256 * 2 ^ 24)] w.msg.dest.toNat 7 0 []))
      ∧ (∀ v : Word, w.parked = true → bits v.toNat 31 0 ≤ w.idx →
        exec (.poolWalkResume pl v) s = .next (s.putWalk pl { w with
          parked := false,
          rebase := if bitOf v.toNat 33 then some ((s.reg (poolReg pl 0x50)).toNat, bits v.toNat 31 0) else none,
          rps := w.keptRps, ents := [] })
        ∧ exec (.poolWalkAbort pl v) s = .next ((s.putWalk pl { w with parked := false, phase := 3, status := 0x10 }).walkOver pl)))

/-- O50. The ladder controller's commands: thresholds, START, CAP, holds, counters and the forced format (R303, R304, R310, R312, R313, R314, R315, R316, R318, R319). -/
def Obligations.LadderCommands : Prop :=
  ∀ (s : State) (m : Token) (ps q : Nat) (x : LadSet), Heads s m (.ladder ps) true 4 0 → q = qOp m 1 → x = s.theSet ps m.ctx →
    (extraBits q 7 = false → q ≠ 7 → s.canBind ps m.ctx = false → exec (.ladForce m) s = .next (s.finish m 9 0 []))
      ∧ (s.canBind ps m.ctx = true →
        (∀ p, extraBits q 0x070FFFFFFFFFFFFF = false → bits q 51 48 ≠ 0 → p = nth .default x.profs (bits q 58 56) →
          exec (.ladBudget m) s = .next ((s.putSet ps { x with profs := setNth { p with
            sat := (upTo 4).map (fun i => if bitOf q (48 + i) then bits q 15 0 else nth 0 p.sat i),
            und := (upTo 4).map (fun i => if bitOf q (48 + i) then bits q 31 16 else nth 0 p.und i),
            can := (upTo 4).map (fun i => if bitOf q (48 + i) then bits q 47 32 else nth 0 p.can i) } x.profs (bits q 58 56) }).finish
              m 0 0 []))
        ∧ (∀ p, extraBits q 0x703 = false → p = nth .default x.profs (bits q 10 8) →
          (bits q 1 0 ≤ p.cap → exec (.ladStart m) s = .next
            ((s.putSet ps { x with profs := setNth { p with start := bits q 1 0 } x.profs (bits q 10 8) }).finish m 0 0 []))
          ∧ (p.cap < bits q 1 0 → exec (.ladStart m) s = .next (s.finish m 3 0 []))
          ∧ (p.start ≤ bits q 1 0 → exec (.ladCap m) s = .next
            ((s.putSet ps { x with profs := setNth { p with cap := bits q 1 0 } x.profs (bits q 10 8) }).finish m 0 0 []))
          ∧ (bits q 1 0 < p.start → exec (.ladCap m) s = .next (s.finish m 3 0 [])))
        ∧ (∀ base len t, extraBits q 0x7FFFFF7FFFFF = false → base = bits q 22 0 → len = bits q 46 24 → len ≠ 0 → base + len ≤ 2 ^ 23 →
          t = s.putSet ps x →
          (((s.ladder ps).holds.filter (fun h => !h.auto)).length < 32 → exec (.ladRetain m) s = .next ((t.setLadder ps { t.ladder ps with
            holds := (t.ladder ps).holds ++ [explicitHold m.ctx base (base + len)] }).finish m 0 0 []))
          ∧ (32 ≤ ((s.ladder ps).holds.filter (fun h => !h.auto)).length → exec (.ladRetain m) s = .next (s.finish m 9 0 []))
          ∧ (∀ hit : LadHold → Bool, (∀ h, hit h = (h.ctx == m.ctx && h.saved.isNone && decide (h.lo < base + len ∧ base < h.hi))) →
            exec (.ladRelease m) s = .next ((t.setLadder ps { t.ladder ps with
              holds := ((t.ladder ps).holds.filter (fun h => h.auto || !hit h)).map (fun h =>
                if h.auto = true ∧ hit h = true ∧ h.released = false then
                  { h with released := true, lifted := !t.passStreams h.pool h.seq } else h) }).finish m 0 0
              [BitVec.ofNat 32 ((t.ladder ps).holds.filter (fun h => hit h && (!h.auto || !h.released))).length])))
        ∧ (∀ pl, extraBits q 0xF = false → bitOf q 0 = false → bits q 3 1 ≤ 4 → pl = 5 * ps + bits q 3 1 →
          exec (.ladRead m) s = .next ((s.putSet ps x).finish m 0 0
            ((upTo 6).map (fun f => lo32 (s.reg (ladPass pl (f + 1)))) ++ (upTo 3).map (fun k => lo32 (s.reg (ladReplay pl (k + 1))))
              ++ [lo32 (s.reg (ladSquash pl)), lo32 (s.reg (ladNosrc pl))])))
        ∧ (extraBits q 7 = false → q ≠ 7 → exec (.ladForce m) s = .next ((s.putSet ps { x with forced := q }).finish m 0 0 [])))
      ∧ (∀ p, extraBits q 0xF = false → bitOf q 0 = true → p = s.profile ps m.ctx (bits q 3 1) →
        exec (.ladRead m) s = .next (s.finish m 0 0
          (BitVec.ofNat 32 (p.start + p.cap * 256 + s.forced ps m.ctx * 65536)
            :: (upTo 4).map (fun k => BitVec.ofNat 32 (nth 0 p.sat k + nth 0 p.und k * 65536))
            ++ (upTo 4).map (fun k => BitVec.ofNat 32 (nth 0 p.can k)))))
      ∧ (extraBits q 0x1F = false → q ≠ 0 → exec (.ladClear m) s = .next (((upTo 5).foldl (fun u p =>
        if bitOf q p then (upTo 11).foldl (fun v k => v.setReg (ladReg (5 * ps + p) (8 * k)) 0) u else u) s).finish m 0 0 []))

/-- O51. The copy engine: whole copies, 2-D, transposes and fills, gathers, tiles compressed and decompressed, and its fence (R313, R323, R325, R327, R328, R329, R330, R331, R332, R333, R337, R342). -/
def Obligations.CopyCommands : Prop :=
  (∀ e ∈ commandTable, ∀ (s : State) (m : Token) (ps : Nat), e.engine (.copy ps) = true → engineOf m.dest = some (.copy ps) →
      s.copyTurn ps (dInbox m.dest) = false → exec (e.cmd m) s = .next s)
    ∧ (∀ e ∈ copyRows, ∀ (s v : State) (m : Token) (ps : Nat) (r : CopyRun), Heads s m (.copy ps) true e.lanes 0 →
      s.copyTurn ps (dInbox m.dest) = true → s.copyRun m = some r → v = s.copyServed ps (dInbox m.dest) →
      (e.good m = false → exec (e.cmd m) s = .next (v.copyEnd m ps r.holds 3 0 0 0))
      ∧ (e.good m = true → ∃ o, exec (e.cmd m) s = .next o ∧ ChunkGives v m ps r e.lin (e.pieces m)
        (fun c pos r1 t => t.copyEnd m ps r1.holds (statusOfCode c) r1.bytes pos 0)
        (fun r1 t => t.copyEnd m ps r1.holds (if r1.bad then 7 else 0) r1.bytes 0 0) o))
    ∧ (∀ (s v : State) (m : Token) (ps n elen : Nat) (list : CAddr) (r : CopyRun), Heads s m (.copy ps) true 6 0 →
      s.copyTurn ps (dInbox m.dest) = true → s.copyRun m = some r → v = s.copyServed ps (dInbox m.dest) →
      list = copyAddr (qOp m 1) → n = bits (qOp m 2) 31 0 → elen = bits (qOp m 2) 47 32 → copyAddrOk (qOp m 1) = true → list.at_ % 8 = 0 →
      n ≠ 0 → elen ≠ 0 → qOp m 2 < 2 ^ 48 →
      exec (.cpGath m) s = .next (v.gathStep m ps n elen list r)
      ∧ (∀ c d a, r.ahead.find? r.part = some (c, d, a) →
        (c ≠ 0 → exec (.cpGath m) s = .next (v.copyEnd m ps r.holds (statusOfCode c) r.bytes r.part 0))
        ∧ (c = 0 → (copyAddrOk d = false ∨ copyAddrOk a = false) → exec (.cpGath m) s = .next (v.copyEnd m ps r.holds 3 r.bytes r.part 0))
        ∧ (∀ r2 w, c = 0 → copyAddrOk d = true → copyAddrOk a = true →
          (if r.begun then (r, v) else State.gathAhead m ps n list 16 v r) = (r2, w) →
          ∃ o, exec (.cpGath m) s = .next o ∧ ChunkGives w m ps r2 true (gathPieces elen d a)
            (fun c2 _ r3 t => t.copyEnd m ps r3.holds (statusOfCode c2) r3.bytes r.part 0)
            (fun r3 t => if r.part + 1 < n then t.keepRun m { r3 with
                begun := false, chunk := 0, part := r.part + 1, own := [], ahead := r3.ahead.filter (fun x => decide (r.part < x.1)) }
              else t.copyEnd m ps r3.holds (if r3.bad then 7 else 0) r3.bytes n 0) o)))
    ∧ (∀ (s v : State) (m : Token) (ps nt esc cap : Nat) (run : Bool) (r : CopyRun), Heads s m (.copy ps) true 10 0 →
      s.copyTurn ps (dInbox m.dest) = true → s.copyRun m = some r → v = s.copyServed ps (dInbox m.dest) → tileArgsOk m = true →
      nt = bits (qOp m 3) 15 0 → esc = bits (qOp m 3) 17 16 → cap = qOp m 4 → run = bitOf (qOp m 3) 18 →
      exec (.cpZip m) s = .next (v.zipStep m ps nt esc cap run r) ∧ exec (.cpUnzip m) s = .next (v.unzipStep m ps nt esc cap run r)
      ∧ (r.need = 0 → ∀ d r1 w, v.tileRead m ps (v.tileShared m ps r (256 * 2 ^ esc * nt) cap)
          ((copyAddr (qOp m 2)).plus ((256 * 2 ^ esc * r.part : Nat) : Int)) (256 * 2 ^ esc) = (.got d r1, w) →
        exec (.cpZip m) s = .next (w.zipWrite m ps nt cap { r1 with
          tile := tileBody run (tileElems (2 ^ esc) d), header := tileHeader run esc (tileElems (2 ^ esc) d),
          need := 8 + (tileBody run (tileElems (2 ^ esc) d)).length }))
      ∧ (8 ≤ r.need →
        (cap < r.off + 8 → exec (.cpZip m) s = .next (v.copyEnd m ps r.holds 9 r.off r.part r.need))
        ∧ (r.off + 8 ≤ cap → ∃ o, exec (.cpZip m) s = .next o ∧
          ChunkGives v m ps r false (zipPieces ((copyAddr (qOp m 1)).plus (r.off : Int)) r cap)
            (fun c _ r1 t => t.copyEnd m ps r1.holds (statusOfCode c) r1.off r1.part 0)
            (fun r1 t => if cap < r.off + r.need then t.copyEnd m ps r1.holds 9 r1.off r1.part r1.need
              else if r1.part + 1 < nt then
                t.keepRun m { r1 with begun := false, chunk := 0, part := r1.part + 1, off := r1.off + r1.need, need := 0 }
              else t.copyEnd m ps r1.holds 0 (r1.off + r1.need) nt 0) o)
        ∧ (∃ o, exec (.cpUnzip m) s = .next o ∧ ChunkGives v m ps r false (cutBytes (r.tile.length + 1) 0
            ((copyAddr (qOp m 1)).plus ((256 * 2 ^ esc * r.part : Nat) : Int)) r.tile)
            (fun c _ r1 t => t.copyEnd m ps r1.holds (statusOfCode c) r1.bytes r1.part 0)
            (fun r1 t => if r1.part + 1 < nt then
                t.keepRun m { r1 with begun := false, chunk := 0, part := r1.part + 1, off := r1.off + r1.need, need := 0 }
              else t.copyEnd m ps r1.holds 0 r1.bytes nt 0) o))
      ∧ (r.need = 0 →
        (cap < r.off + 8 → exec (.cpUnzip m) s = .next (v.copyEnd m ps r.holds 3 r.bytes r.part 0))
        ∧ (∀ d r1 w hdr, r.off + 8 ≤ cap → v.tileRead m ps (v.tileShared m ps r cap (256 * 2 ^ esc * nt))
            ((copyAddr (qOp m 2)).plus (r.off : Int)) 8 = (.got d r1, w) → hdr = leNat d →
          (headerOk hdr esc run = false → exec (.cpUnzip m) s = .next (w.copyEnd m ps r1.holds 3 r1.bytes r1.part 0))
          ∧ (∀ b r2 x bytes, headerOk hdr esc run = true → r1.off + (8 + bits hdr 15 0) ≤ cap →
            w.tileRead m ps r1 (((copyAddr (qOp m 2)).plus (r.off : Int)).plus 8) (bits hdr 15 0) = (.got b r2, x) →
            tileOf run (2 ^ esc) hdr b = some bytes →
            exec (.cpUnzip m) s = .next (x.unzipWrite m ps nt esc { r2 with tile := bytes, need := 8 + bits hdr 15 0 })))))
    ∧ (∀ (s : State) (m : Token) (ps : Nat) (r : CopyRun), Heads s m (.copy ps) true 2 0xF00 → s.copyTurn ps (dInbox m.dest) = true →
      s.copyRun m = some r → s.inboxesClear m (bits (lane0 m) 11 8) 4 = true →
      exec (.cpFence m) s = .next ((s.copyServed ps (dInbox m.dest)).copyEnd m ps r.holds 0 0 0 0))

/-- O52. The stack engines: vector loads, matrix-vector products, statistics, the fence, refresh, and the remap table's rebuild (R346, R347, R349, R350, R351, R352, R353, R355, R356, R360, R362, R364). -/
def Obligations.StackEngines : Prop :=
  (∀ (s : State) (m : Token) (st : Nat) (i : Instr), engineOf m.dest = some (.stack st) → s.busyOf m = none →
      s.stkTurn st (dInbox m.dest) = false → (i = .stkLoad m ∨ i = .stkGemv m ∨ i = .stkGemvAcc m ∨ i = .stkStat m) → exec i s = .next s)
    ∧ (∀ (s : State) (st i n : Nat) (m : Token) (rest : List (Nat × Token)), s.inbox (stkInbox st i) = (n, m) :: rest → msgOpcode m = 3 →
      s.vecSlotRead st (stkSlot m) = true → s.stkTurn st i = false)
    ∧ (∀ (s v : State) (m : Token) (st : Nat) (nums holds : List Nat) (size : Nat), Heads s m (.stack st) true 6 0x700 →
      StkTaken s m st v nums holds → size = (if bitOf (lane0 m) 10 then 4 else 2) →
      (2 ^ 56 ≤ qOp m 1 ∨ qOp m 1 % size ≠ 0 ∨ qOp m 2 = 0 ∨ 16384 < qOp m 2 → exec (.stkLoad m) s = .next (v.stkEnd m holds 3 0 0))
      ∧ (qOp m 1 < 2 ^ 56 → qOp m 1 % size = 0 → qOp m 2 ≠ 0 → qOp m 2 ≤ 16384 →
        (∀ c u, v.stkReaches (st / 3) m.ctx (v.takenAsid m) false (size * qOp m 2 + 1) (qOp m 1) (size * qOp m 2) = (.error c, u) →
          exec (.stkLoad m) s = .next (u.stkEnd m holds (statusOfCode c) 0 0))
        ∧ (∀ rs u g ce ue w, v.stkReaches (st / 3) m.ctx (v.takenAsid m) false (size * qOp m 2 + 1) (qOp m 1) (size * qOp m 2) = (.ok rs, u) →
          u.readEcc rs = (g, (ce, ue), w) →
          (g.code = 0 → g.data.length = size * qOp m 2 → exec (.stkLoad m) s = .next ((w.setStack st { w.stack st with
            slots := setNth (vectorOf (nth VecSlot.none (w.stack st).slots (stkSlot m)) size (qOp m 2) g m.ctx) (w.stack st).slots
              (stkSlot m) }).stkEnd m holds (if g.poison then 7 else 0) (qOp m 2) ce))
          ∧ (g.code ≠ 0 → exec (.stkLoad m) s = .next (w.stkEnd m holds (statusOfCode g.code) 0 ce)))))
    ∧ (∀ (s v : State) (m : Token) (st : Nat) (nums holds : List Nat) (i : Instr) (acc : Bool) (g : Gemv),
      ((i = .stkGemv m ∧ acc = false) ∨ (i = .stkGemvAcc m ∧ acc = true)) → Heads s m (.stack st) true 10 0xF00 →
      StkTaken s m st v nums holds → g = gemvOf v st m acc →
      (nums = [] → g.argsOk m (nth VecSlot.none (v.stack st).slots (stkSlot m)) = false → exec i s = .next (v.stkEnd m holds 3 0 0))
      ∧ (nums = [] → g.argsOk m (nth VecSlot.none (v.stack st).slots (stkSlot m)) = true → v.asid? m.ctx = none →
        exec i s = .next (v.stkEnd m holds 5 0 0))
      ∧ (∀ asid, (nums = [asid] ∨ (nums = [] ∧ v.asid? m.ctx = some asid
            ∧ g.argsOk m (nth VecSlot.none (v.stack st).slots (stkSlot m)) = true)) →
        (∀ c u, v.gemvXlate st m.ctx asid g = (.error c, u) → exec i s = .next (u.stkEnd m holds (statusOfCode c) 0 0))
        ∧ (∀ ws ys u wide h x d w, v.gemvXlate st m.ctx asid g = (.ok (ws, ys), u) →
          wide = gemvRanges ys (4 * g.rows + 1) g.y (4 * g.rows) → (∀ r ∈ wide, u.physOk r.pa r.n false = true) →
          u.takeHolds holds (((ws ++ ys).foldl (fun l e => if isGlobal e.2.1 then insertNat e.2.1 l else l) []).filter
            (fun f => !holds.contains (u.holdFrame f))) = (h, [], x) → wide.find? (fun r => x.ladHeld r.pa r.n) = none →
          State.gemvRun g ws ys (nth VecSlot.none (v.stack st).slots (stkSlot m)).poison g.rows x
            { rows := 0, code := 0, bad := false, ecc := (0, false) } = (d, w) →
          exec i s = .next (w.stkEnd m h (if d.code ≠ 0 then statusOfCode d.code else if d.ecc.2 then 8 else if d.bad then 7 else 0) d.rows
            d.ecc.1))))
    ∧ (∀ (s v : State) (m : Token) (st : Nat),
      (Heads s m (.stack st) true 2 0x100 → StkTaken s m st v [] [] → exec (.stkStat m) s = .next ((if bitOf (lane0 m) 8 then
          ((v.setReg (stackReg st 0x10) 0).setReg (stackReg st 0x18) 0).setReg (stackReg st 0x38) 0 else v).finish m 0 0
        [lo32 (v.regRead (stackReg st 0x10)), lo32 (v.regRead (stackReg st 0x18)), lo32 (v.regRead (stackReg st 0x08)),
          hi32 (v.regRead (stackReg st 0x08)), lo32 (v.regRead (stackReg st 0x28)), lo32 (v.regRead (stackReg st 0x38)),
          lo32 (v.regRead (stackReg st 0))]))
      ∧ (Heads s m (.stack st) true 2 0xF00 → s.inboxesClear m (bits (lane0 m) 11 8) 4 = true →
        exec (.stkFence m) s = .next (s.finish m 0 0 [])))
    ∧ (∀ (s t : State) (st ch : Nat), st < 12 → ch < 32 → s.refreshing = true →
      t = s.setStack st { s.stack st with last := Tab.set (s.stack st).last ch (Tab.get 0 (s.stack st).last ch + s.refInterval st) } →
      (Tab.get 0 (s.stack st).last ch + s.refInterval st ≤ s.timer →
        exec (.refreshInterval st ch false) s = .next (t.bump (stackReg st 0x38) 1)
        ∧ (s.refD st ch < 8 → exec (.refreshInterval st ch true) s = .next (t.setRefD st ch (s.refD st ch + 1)))
        ∧ (8 ≤ s.refD st ch → exec (.refreshInterval st ch true) s = .next s))
      ∧ (-8 < s.refD st ch → s.mayPullIn st ch = true → exec (.refreshPullIn st ch) s = .next ((s.setRefD st ch (s.refD st ch - 1)).bump (stackReg st 0x38) 1))
      ∧ (s.refD st ch ≤ -8 ∨ s.mayPullIn st ch = false → exec (.refreshPullIn st ch) s = .next s))
    ∧ (∀ (s : State) (st : Nat) (hot : Bool), (st < 12 →
        exec (.tref2xChange st hot) s = .next (s.setBits (stackReg st 0) 4 4 (if hot then 1 else 0)))
      ∧ ((s.stack st).rebuild ≠ [] → exec (.remapRebuild st) s = .next
        ((s.setStack st { s.stack st with rebuild := [] }).setBits (stackReg st 0) 6 6 0)))

/-- O53. The page engine's commands: move, abort, pin, unpin, hotness, views opened and closed, invalidation, probe and fence (R374, R377, R388, R392, R394, R397, R398, R399, R400, R401, R402, R403). -/
def Obligations.PageCommands : Prop :=
  (∀ (s : State) (m : Token) (die lanes flags : Nat) (c : Token → Instr) (good : Token → Bool), Heads s m (.page die) true lanes flags →
      s.busyOf m = none → moveWaits s m = false → (c, lanes, flags, good) ∈ pageRows →
      (good m = false → exec (c m) s = .next (s.finish m 3 0 []))
      ∧ (good m = true → s.asid? m.ctx = none → exec (c m) s = .next (s.finish m 5 0 [])))
    ∧ (∀ (s t : State) (m : Token) (die a : Nat) (l : Leaf), s.takenAsid m = some a → vaOk (qOp m 1) = true →
      s.findLeaf die a (qOp m 1) = (.ok l, t) →
      (Heads s m (.page die) true 4 0xF00 → moveWaits s m = false → bits (lane0 m) 9 8 ≠ 3 →
        (l.lvl = 4 → l.st = 0 → tierOf l.frame ≠ 3 →
          (movePlaced l.frame (bits (lane0 m) 9 8) (bits (lane0 m) 11 10) = true → exec (.pgMove m) s = .next (t.finish m 0 0 []))
          ∧ (movePlaced l.frame (bits (lane0 m) 9 8) (bits (lane0 m) 11 10) = false →
            exec (.pgMove m) s = .next (t.newMove (waitingMove t m die a l))))
        ∧ (l.lvl = 4 → l.st = 0 → tierOf l.frame = 3 → exec (.pgMove m) s = .next (t.finish m 3 0 [BitVec.ofNat 32 (2 ^ 31)]))
        ∧ (l.lvl ≠ 4 ∨ l.st ≠ 0 → exec (.pgMove m) s = .next (t.finish m 3 0 [BitVec.ofNat 32 l.st])))
      ∧ (∀ (mv : Option Move) (n : Nat) (sealed : Bool), Heads s m (.page die) true 4 0 →
        mv = (if l.st = 1 then t.moves.find? (fun v => v.src == l.frame && v.phase != .waiting) else none) →
        n = (match mv with | some v => v.copied | none => 0) →
        sealed = (match mv with | some v => v.phase == .sealed || v.phase == .shooting | none => false) →
        exec (.pgProbe m) s = .next (t.finish m 0 0 [BitVec.ofNat 32 l.entry, BitVec.ofNat 32 (l.entry / 2 ^ 32), BitVec.ofNat 32 l.ext,
          BitVec.ofNat 32 (l.ext / 2 ^ 32), BitVec.ofNat 32 (t.side0 l.frame), BitVec.ofNat 32 (t.side0 l.frame / 2 ^ 32),
          BitVec.ofNat 32 (n + l.lvl * 512 + (if sealed then 4096 else 0))])))
    ∧ (∀ (s : State) (m : Token) (die a : Nat), Heads s m (.page die) true 4 0 → s.takenAsid m = some a → vaOk (qOp m 1) = true →
      (∀ v, s.busyOf m = none → s.moves.find? (fun v => v.asid == a && v.va == qOp m 1 && v.phase == .copying) = some v →
        exec (.pgAbort m) s = .next ((s.startAbort v 6).waitBusy m 1 [v.id, v.copied] []))
      ∧ (∀ l t, s.busyOf m = none → s.moves.find? (fun v => v.asid == a && v.va == qOp m 1 && v.phase == .copying) = none →
        s.findLeaf die a (qOp m 1) = (.ok l, t) → exec (.pgAbort m) s = .next (t.finish m 3 0 [BitVec.ofNat 32 l.st]))
      ∧ (∀ b, s.busyOf m = some b → (∀ v ∈ s.moves, v.id ≠ nth 0 b.nums 0) →
        exec (.pgAbort m) s = .next (s.finish m 0 0 [BitVec.ofNat 32 (nth 0 b.nums 1)])))
    ∧ (∀ (s : State) (m : Token) (die a : Nat), Heads s m (.page die) true 6 0 → s.takenAsid m = some a → vaOk (qOp m 1) = true →
      qOp m 2 < 65536 →
      (∀ nums held, s.resumed m = some (nums, held) →
        exec (.pgPin m) s = .next (State.pinPages m die a (qOp m 2 + 1 - held.length) held s))
      ∧ exec (.pgUnpin m) s = .next (State.unpinPages m die a (qOp m 2 + 1) 0 s))
    ∧ (∀ (m : Token) (die a n k f : Nat) (held : List Nat) (s t : State) (l : Leaf),
      State.pinPages m die a 0 held s = s.finish m 0 0 [BitVec.ofNat 32 held.length]
      ∧ State.unpinPages m die a 0 k s = s.finish m 0 0 [BitVec.ofNat 32 k]
      ∧ (qOp m 1 + 65536 * held.length < 2 ^ 56 → s.findLeaf die a (qOp m 1 + 65536 * held.length) = (.ok l, t) →
        f = t.holdFrame l.frame →
        (t.holdCount f ≠ 255 → State.pinPages m die a (n + 1) held s = State.pinPages m die a n (held ++ [f]) (t.addHold f))
        ∧ (t.holdCount f = 255 → State.pinPages m die a (n + 1) held s = t.waitHold m f [] held))
      ∧ (qOp m 1 + 65536 * k < 2 ^ 56 → s.findLeaf die a (qOp m 1 + 65536 * k) = (.ok l, t) → f = t.holdFrame l.frame →
        (t.holdCount f ≠ 0 → State.unpinPages m die a (n + 1) k s = State.unpinPages m die a n (k + 1) (t.dropHold f))
        ∧ (t.holdCount f = 0 → State.unpinPages m die a (n + 1) k s = t.finish m 3 0 [BitVec.ofNat 32 k])))
    ∧ (∀ (s t : State) (m : Token) (die a good hots : Nat), Heads s m (.page die) true 6 0x100 → s.takenAsid m = some a →
      vaOk (qOp m 1) = true → qOp m 2 < 32 →
      State.hotPages m die a (bitOf (lane0 m) 8) (qOp m 2 + 1) 0 0 0 s = (good, hots, t) →
      exec (.pgHot m) s = .next (t.finish m 0 0
        (BitVec.ofNat 32 good :: (upTo 8).map (fun i => BitVec.ofNat 32 (hots / 2 ^ (32 * i))))))
    ∧ (∀ (s : State) (m : Token) (die a : Nat), Heads s m (.page die) true 2 0 → s.takenAsid m = some a →
      ((∀ b, s.busyOf m = some b → b.phase ≠ 1) →
        ((s.viewOf die a m.ctx).isSome = true → exec (.pgViewOpen m) s = .next (s.finish m 3 0 []))
        ∧ (s.viewOf die a m.ctx = none → (upTo 4).find? (fun v => (s.viewStamp? die a v).isNone) = none →
          exec (.pgViewOpen m) s = .next (s.finish m 9 0 []))
        ∧ (∀ v stamp, s.viewOf die a m.ctx = none → (upTo 4).find? (fun v => (s.viewStamp? die a v).isNone) = some v →
          stamp = bits (s.desc die a 0x20) 31 0 →
          (stamp = 0xFFFFFFFF → exec (.pgViewOpen m) s = .next (s.finish m 9 0 []))
          ∧ (stamp ≠ 0xFFFFFFFF → s.pagesBusy a = true → exec (.pgViewOpen m) s = .next (s.waitBusy m 0 [] []))
          ∧ (∀ n t, stamp ≠ 0xFFFFFFFF → s.pagesBusy a = false → (viewEntered s m die a v stamp).shootdown die (.all a) = (n, t) →
            exec (.pgViewOpen m) s = .next (t.waitBusy m 1 [n, v, stamp] []))))
      ∧ (∀ b, s.busyOf m = some b → b.phase = 1 → s.shooting (nth 0 b.nums 0) = false →
        exec (.pgViewOpen m) s = .next (s.finish m 0 (nth 0 b.nums 1) [BitVec.ofNat 32 (nth 0 b.nums 2)]))
      ∧ (∀ v n t, s.busyOf m = none → s.viewOf die a m.ctx = some v →
        s.shootdown die (.stamp a ((s.viewStamp? die a v).getD 0)) = (n, t) →
        exec (.pgViewClose m) s = .next (t.waitBusy m 1 [n, v] []))
      ∧ (s.busyOf m = none → s.viewOf die a m.ctx = none → exec (.pgViewClose m) s = .next (s.finish m 3 0 []))
      ∧ (∀ b k t, s.busyOf m = some b → s.shooting (nth 0 b.nums 0) = false →
        (s.clearView die a (nth 0 b.nums 1)).sweepViews die a = (k, t) →
        exec (.pgViewClose m) s = .next (t.finish m 0 0 [BitVec.ofNat 32 k])))
    ∧ (∀ (s : State) (m : Token) (die a : Nat), Heads s m (.page die) true 6 0x300 → s.takenAsid m = some a →
      (s.busyOf m = none → invalOk m = true →
        (bitOf (lane0 m) 9 = true → exec (.pgInval m) s = .next ((s.tearMoves a).waitBusy m 1 [] []))
        ∧ (∀ n t, bitOf (lane0 m) 9 = false → s.shootdown die (invalSet m a) = (n, t) →
          exec (.pgInval m) s = .next (t.waitBusy m 3 [n] [])))
      ∧ (∀ b, s.busyOf m = some b → b.nums.any s.shooting = false →
        (b.phase = 3 → exec (.pgInval m) s = .next (s.finish m 0 0 []))
        ∧ (∀ ns t, b.phase = 1 → s.pagesBusy a = false → (s.openStamps die a).foldl (fun (r : List Nat × State) x =>
            (r.1 ++ [(r.2.shootdown die (.stamp a x)).1], (r.2.shootdown die (.stamp a x)).2)) ([], s) = (ns, t) →
          exec (.pgInval m) s = .next (t.waitBusy m 2 ns []))
        ∧ (∀ t n u, b.phase = 2 → s.pagesBusy a = false →
          t = (((upTo 4).foldl (fun u v => if (u.viewStamp? die a v).isSome then u.clearView die a v else u) s).sweepViews die a).2 →
          (t.devPutBytes (t.descAddr die a + 0x20) (List.replicate 32 0)).shootdown die (invalSet m a) = (n, u) →
          exec (.pgInval m) s = .next (u.waitBusy m 3 [n] []))))
    ∧ (∀ (s : State) (m : Token) (die : Nat), Heads s m (.page die) true 2 0xF00 →
      exec (.pgFence m) s = .next (if s.inboxesClear m (bits (lane0 m) 11 8) 4 then s.finish m 0 0 [] else s))

/-- O54. Page moves, shootdowns, twin fills, automatic moves and the halving of hotness, step by step (R374, R379, R380, R381, R382, R383, R384, R386, R387, R389, R390, R405). -/
def Obligations.PageEvents : Prop :=
  (∀ (s : State) (id : Nat) (v : Move), s.move? id = some v → v.phase = .waiting →
      (s.moveHeld v = false → (s.movesOf v.die).length < 8 →
        (∀ t, v.taken = none → s.takeFrame v.toDie v.tier = (none, t) →
          exec (.moveBegin id) s = .next (((t.bump (pageReg v.die 0x90) 1).migAbort v 2).moveDone v 0xD 0 2))
        ∧ (∀ f t, ((v.taken = none ∧ s.takeFrame v.toDie v.tier = (some f, t)) ∨ (v.taken = some f ∧ t = s)) →
          (t.leafIs v 0 = true →
            exec (.moveBegin id) s = .next ((match v.msg with
              | some m => (t.swapLeaf v 0 1).popInbox (inboxKey m.dest)
              | none => t.swapLeaf v 0 1).putMove { v with phase := .copying, dst := f, taken := some f }))
          ∧ (∀ l u, t.leafIs v 0 = false → t.findLeaf v.die v.asid v.va = (.ok l, u) → l.lvl = 4 → l.st = 0 →
            movePlaced l.frame v.tier v.toDie = false →
            exec (.moveBegin id) s = .next (u.putMove { v with
              pte := l.pte, entry := l.entry, src := l.frame, taken := some f, heldAt := none }).markHeld)))
      ∧ (s.moveHeld v = true → exec (.moveBegin id) s = .next s.markHeld
        ∧ (∀ t, v.heldAt = some t → s.moveTo v.die ≤ s.usSince t →
          exec (.moveTimeout id) s = .next (s.moveDone v 0xC (v.taken.getD 0) 3))))
    ∧ (∀ (s : State) (id : Nat) (v : Move), s.move? id = some v → v.phase = .copying →
      (v.paused = none → s.leafIs v 1 = false → exec (.moveLineCopy id) s = .next (s.startAbort v 7)
        ∧ exec (.moveAbort id 7) s = .next (s.startAbort v 7))
      ∧ exec (.moveAbort id 1) s = .next (s.startAbort v 1)
      ∧ (∀ w g v1, v.paused = none → s.leafIs v 1 = true →
        w = (s.meet (v.src + 256 * v.copied) 256).mscCount (v.src + 256 * v.copied) → g = w.rawLoad (v.src + 256 * v.copied) 256 →
        v1 = { v with copied := v.copied + 1, queue := v.queue ++ [(256 * v.copied, g.data, false)] } →
        (g.poison = true → exec (.moveLineCopy id) s = .next (w.startAbort v 4))
        ∧ (g.poison = false → v.copied ≠ 255 → exec (.moveLineCopy id) s = .next (w.putMove v1))
        ∧ (g.poison = false → v.copied = 255 →
          exec (.moveLineCopy id) s = .next ((w.moveSide v.src v.dst).putMove { v1 with phase := .sealed })))
      ∧ (∀ t, v.paused = some t →
        (s.holdCount v.src = 0 → exec (.moveCopyResume id) s = .next (s.putMove { v with paused := none })
          ∧ exec (.moveTimeout id) s = .next s)
        ∧ (0 < s.holdCount v.src → exec (.moveCopyResume id) s = .next s
          ∧ (s.moveTo v.die ≤ s.usSince t → exec (.moveTimeout id) s = .next (s.startAbort v 3)))))
    ∧ (∀ (s : State) (id line k : Nat) (v : Move) (e : Nat × List Byte × Bool), s.move? id = some v → v.phase ≠ .aborting →
      v.queue.find? (fun e => e.1 / 256 == line) = some e → k = (v.queue.takeWhile (fun x => x.1 / 256 != line)).length →
      exec (.forwardApply id line) s = .next
        (((s.rawStore (v.dst + e.1) e.2.1 e.2.2).mscCount (v.dst + e.1)).putMove { v with queue := dropNth v.queue k }))
    ∧ (∀ (s t : State) (id n : Nat) (v : Move), s.move? id = some v → v.phase = .sealed → v.queue = [] →
      (s.leafIs v 1 = true →
        ((s.setPte v.pte (putBits (v.entryIn 0) 56 16 (v.dst / 65536))).bump (pageReg v.die 0x88) 1).shootdown
          v.die (.pages v.asid (v.va / 65536) 1) = (n, t) →
        exec (.moveCutover id) s = .next (t.putMove { v with phase := .shooting, shoot := n, cause := 0 }))
      ∧ (s.leafIs v 1 = false → s.shootdown v.die (.pages v.asid (v.va / 65536) 1) = (n, t) →
        exec (.moveCutover id) s = .next (t.putMove { v with phase := .shooting, shoot := n, cause := 7 })))
    ∧ (∀ (s : State) (id : Nat) (v : Move), s.move? id = some v → v.phase = .aborting →
      exec (.moveAbortFinish id) s = .next ((((s.swapLeaf v 3 0).bump (pageReg v.die 0x90) 1).migAbort v v.cause).moveDone
        { v with queue := [] } (if v.cause = 3 then 0xC else 0xD) v.dst v.cause))
    ∧ (∀ (s : State) (id rc : Nat) (x : Shoot), s.shoots.find? (fun x => x.id == id) = some x → x.waiting.contains rc = true →
      (rc < 32 →
        (s.sectorOut rc x.what = true → exec (.shootdownInvalidate id rc) s = .next s)
        ∧ (s.sectorOut rc x.what = false →
          exec (.shootdownInvalidate id rc) s = .next (acked ((s.invalidateSector rc x.what).retranslate rc x.what) id rc)))
      ∧ (32 ≤ rc → rc < 36 → ∃ t, exec (.shootdownInvalidate id rc) s = .next t
        ∧ { t with walkCache := s.walkCache } = acked s id rc ∧ (∀ e ∈ t.walkCache, e ∈ s.walkCache)
        ∧ (∀ a, x.what = .all a → ∀ e ∈ t.walkCache, ¬ (e.die = rc - 32 ∧ e.asid = a)))
      ∧ (36 ≤ rc →
        (s.linkOut (rc - 36) x.what = true → exec (.shootdownInvalidate id rc) s = .next s)
        ∧ (s.linkOut (rc - 36) x.what = false →
          exec (.shootdownInvalidate id rc) s = .next (acked (s.invalidateLink (rc - 36) x.what) id rc))))
    ∧ (∀ (s t : State) (id : Nat) (x : Shoot), s.shoots.find? (fun x => x.id == id) = some x → x.waiting = [] →
      t = { s with shoots := s.shoots.filter (fun y => y.id != id), fills := s.fills.filter (fun f => f.shoot != some id) } →
      (t.moves.find? (fun v => v.phase == .shooting && v.shoot == id) = none → exec (.shootdownComplete id) s = .next t)
      ∧ (∀ v, t.moves.find? (fun v => v.phase == .shooting && v.shoot == id) = some v →
        (v.cause = 0 → exec (.shootdownComplete id) s = .next (t.moveDone v 0 v.src 0))
        ∧ (v.cause ≠ 0 → exec (.shootdownComplete id) s = .next
          (((t.bump (pageReg v.die 0x90) 1).migAbort v 7).moveDone v 0xD v.src 7))))
    ∧ (∀ (s : State) (id : Nat) (f : Fill), s.fills.find? (fun f => f.id == id && f.filling) = some f →
      (∀ l, (upTo 256).find? (fun l => !f.lines.contains l) = some l → exec (.twinLineCopy id) s = .next (s.copyFillLine f l))
      ∧ (256 ≤ f.lines.length →
        (∀ n t, s.devRead f.pte 8 = f.entry →
          ((twinLinked s f).bump (pageReg f.die 0x98) 1).shootdown f.die (.pages f.asid (f.va / 65536) 1) = (n, t) →
          exec (.twinFillComplete id) s = .next { t with
            fills := t.fills.map (fun x => if x.id = f.id then { x with shoot := some n } else x) })
        ∧ (s.devRead f.pte 8 ≠ f.entry →
          exec (.twinFillComplete id) s = .next { s with fills := s.fills.filter (fun x => x.id != f.id) })))
    ∧ (∀ (s t : State) (die frame asid pte tier : Nat) (rest : List (Nat × Nat × Nat × Nat)),
      Tab.get [] s.autoQ die = (frame, asid, pte, tier) :: rest → t = { s with autoQ := Tab.set s.autoQ die rest } →
      (t.leafPage die asid pte = none → exec (.autoMoveStart die) s = .next t)
      ∧ (∀ va lvl, t.leafPage die asid pte = some (va, lvl) →
        (lvl = 4 → bits (t.devRead pte 8) 7 4 ≠ 0 → exec (.autoMoveStart die) s = .next t)
        ∧ (∀ l u, (lvl = 4 → bits (t.devRead pte 8) 7 4 = 0) → t.findLeaf die asid va = (.ok l, u) →
          (l.lvl = 4 → l.st = 0 → tierOf l.frame ≠ 3 → movePlaced l.frame tier die = false →
            exec (.autoMoveStart die) s = .next (u.newMove (autoMove die asid va tier l)))
          ∧ (l.lvl ≠ 4 ∨ l.st ≠ 0 →
            exec (.autoMoveStart die) s = .next (u.autoAnswer die asid 3 [BitVec.ofNat 32 l.st])))))
    ∧ (∀ (s t : State) (die : Nat), Tab.get 0 s.halved die < s.clk / 2 ^ 20 →
      t = { s with halved := Tab.set s.halved die (Tab.get 0 s.halved die + 1) } →
      (t.regBits (pageReg die 0x10) 16 16 = 0 → exec (.hotHalve die) s = .next t)
      ∧ (∀ i u, t.regBits (pageReg die 0x10) 16 16 ≠ 0 → t.sideEntries die = [i] → u = t.setSide0 (sideFrame die i)
          (putBits (t.side0 (sideFrame die i)) 7 0 (bits (t.side0 (sideFrame die i)) 7 0 / 2)) → u.regBits (pageReg die 0x10) 17 17 = 0 →
        exec (.hotHalve die) s = .next u))

/-- O55. The link engines' commands: put, get, signal, join, leave, the collectives and the barrier, fence and statistics (R410, R418, R419, R422, R423, R425, R426, R427, R428, R431, R432, R433). -/
def Obligations.LinkCommands : Prop :=
  (∀ (s : State) (m : Token) (i : Instr) (put : Bool) (l d : Nat), ((i = .lnPut m ∧ put = true) ∨ (i = .lnGet m ∧ put = false)) →
      Heads s m (.link l d) true 8 0 →
      (∀ src t dst u h v, s.busyOf m = none → transferOk m →
        s.linkPages (dDie m.dest) m.ctx (s.takenAsid m) false (!put) (pagesOf (qOp m 2) (qOp m 3)) = (.ok src, t) →
        t.linkPages (dDie m.dest) m.ctx (s.takenAsid m) true put (pagesOf (qOp m 1) (qOp m 3)) = (.ok dst, u) →
        (if put then u.localOk src (qOp m 2) (qOp m 3) else u.localOk dst (qOp m 1) (qOp m 3)) = true →
        u.takeHolds [] (pageFrames (if put then src else dst)) = (h, [], v) →
        exec i s = .next (v.setBusy m (transferBusy m src dst h (v.transferShared m src dst))))
      ∧ (s.busyOf m = none → (2 ^ 56 ≤ qOp m 1 ∨ 2 ^ 56 ≤ qOp m 2 ∨ qOp m 3 = 0 ∨ 2 ^ 32 ≤ qOp m 3) →
        exec i s = .next (s.finish m 3 0 [0]))
      ∧ (∀ b, s.busyOf m = some b → b.phase = 50 → nth 0 b.nums 0 < qOp m 3 → nth 0 b.nums 1 = 0 →
        exec i s = .next (if put then s.putChunk b else s.getChunk b)))
    ∧ (∀ (s : State) (m : Token) (l d : Nat) (x : Xlation) (u : State), Heads s m (.link l d) true 8 0 → s.busyOf m = none →
      qOp m 1 < 2 ^ 56 → qOp m 1 % 8 = 0 → qOp m 3 < 2 ^ 44 → destForm (BitVec.ofNat 21 (bits (qOp m 3) 20 0)) = true →
      dKind (BitVec.ofNat 21 (bits (qOp m 3) 20 0)) ≠ 2 → s.engineXlate (dDie m.dest) m.ctx (s.takenAsid m) (qOp m 1) true = (.ok x, u) →
      (x.read = false → exec (.lnSignal m) s = .next (u.signalEnd m 6 0))
      ∧ (∀ pa g v, x.read = true → u.target (dDie m.dest) (x.pa (qOp m 1)) = .here pa →
        u.atomic pa 8 (fun old => (atomAct 0x190 8 (qOp m 2) 0 old).1) = (g, v) → g.code = 0 →
        (g.poison = true → exec (.lnSignal m) s = .next (v.signalEnd m 7 (leNat g.data)))
        ∧ (g.poison = false → dKind (BitVec.ofNat 21 (bits (qOp m 3) 20 0)) = 0 →
          exec (.lnSignal m) s = .next (v.signalEnd m 0 (leNat g.data)))
        ∧ (g.poison = false → dKind (BitVec.ofNat 21 (bits (qOp m 3) 20 0)) ≠ 0 → v.devValid = true →
          bits (qOp m 3) 31 21 = v.ownDev (linkDie m) →
          exec (.lnSignal m) s = .next ((v.send (portOf m.dest) (noticeToken (BitVec.ofNat 21 (bits (qOp m 3) 20 0))
            (BitVec.ofNat 12 (bits (qOp m 3) 43 32)) (bits (qOp m 3) 31 21) ((leNat g.data + qOp m 2) % 2 ^ 64))).signalEnd m 0
              (leNat g.data))))
      ∧ (∀ dev off, x.read = true → u.target (dDie m.dest) (x.pa (qOp m 1)) = .away dev off →
        exec (.lnSignal m) s = .next ((u.waitBusy m 51 [] []).remoteSend (linkDie m) (Remote.make dev off 2 0x190 8 (leBytes 8 (qOp m 2)) 0
          false (.command (inboxKey m.dest)) (linkSource m)))))
    ∧ (∀ (s u v : State) (m : Token) (l d n gid : Nat) (pages : Tab (Nat × Bool)) (bs : List (Byte × Bool)) (list : List Nat),
      Heads s m (.link l d) true 6 0x1FC000 → gid = gidOf m → n = qOp m 2 + 1 → bitOf (lane0 m) 20 = false →
      s.groups.find? gid = none → qOp m 1 < 2 ^ 56 → qOp m 1 % 2 = 0 → n ≤ 2048 → qOp m 1 + 2 * n ≤ 2 ^ 56 →
      s.linkPages (dDie m.dest) m.ctx (s.takenAsid m) false false (pagesOf (qOp m 1) (2 * n)) = (.ok pages, u) → u.localOk pages (qOp m 1) (2 * n) = true →
      u.readBytes (pageReaches pages (2 * n + 1) (qOp m 1) (2 * n)) = (bs, v) → list = listOf (bs.map (fun b => b.1)) n →
      (∀ b ∈ bs, b.2 = false) →
      (v.groups.find? gid = none → (∀ x ∈ list, x < 2048) → list.eraseDups.length = n → list.contains (v.ownDev (linkDie m)) = true →
        v.devValid = true →
        exec (.lnJoin m) s = .next ((v.setGroup gid ((v.earlyJoins.filter (fun e => e.1 == gid && decide (e.2.1 < n))).foldl (fun x e =>
          { x with heard := Tab.set x.heard e.2.1 e.2.2 }) (joiningGroup v m list
            [(list.idxOf (v.ownDev (linkDie m)), Config.listDigest list)]))).joinCheck gid))
      ∧ (list.contains (v.ownDev (linkDie m)) = false → exec (.lnJoin m) s = .next (v.collAnswer m 3 0)))
    ∧ (∀ (s : State) (m : Token) (l d : Nat), Heads s m (.link l d) true 6 0x1FC000 → bitOf (lane0 m) 20 = true → qOp m 1 = 0 →
      qOp m 2 = 0 →
      (s.groups.find? (gidOf m) = none → exec (.lnJoinLeave m) s = .next (s.collAnswer m 3 0))
      ∧ (∀ g, s.groups.find? (gidOf m) = some g →
        (g.bound = false → exec (.lnJoinLeave m) s = .next (s.collAnswer m 3 0))
        ∧ (g.bound = true → (∀ c ∈ s.colls, c.gid ≠ gidOf m) →
          exec (.lnJoinLeave m) s = .next ((s.freeGroup (gidOf m)).collAnswer m 0 0))
        ∧ (∀ c, g.bound = true → c ∈ s.colls → c.gid = gidOf m → exec (.lnJoinLeave m) s = .next s)))
    ∧ (∀ (s : State) (m : Token) (l d lanes : Nat) (c : Token → Instr),
      (c, lanes) ∈ [(Instr.lnAllred, 8), (.lnRedsc, 8), (.lnAllgath, 8), (.lnBcast, 8), (.lnBarrier, 2)] →
      Heads s m (.link l d) true lanes 0xFFFFFF00 →
      (s.groups.find? (gidOf m) = none → exec (c m) s = .next (s.collAnswer m 3 0))
      ∧ (∀ g, s.groups.find? (gidOf m) = some g → s.colls.find? (fun x => x.gid == gidOf m && x.msg == m) = none →
        (g.bound = false ∨ g.broken = true ∨ g.leaving = true ∨ g.inbox ≠ inboxKey m.dest ∨ g.ctx ≠ m.ctx →
          exec (c m) s = .next (s.collAnswer m 3 0))
        ∧ (g.bound = true → g.broken = false → g.leaving = false → g.inbox = inboxKey m.dest → g.ctx = m.ctx →
          ∀ nums holds, s.resumed m = some (nums, holds) →
          (∀ st u, s.collPages m (s.takenAsid m) (collDesc m true) g.list.length = (.error st, u) →
            exec (c m) s = .next ((u.dropHolds holds).collBegin m g st [] [] []))
          ∧ (∀ src dst u h v, s.collPages m (s.takenAsid m) (collDesc m true) g.list.length = (.ok (src, dst), u) →
            u.takeHolds holds ((pageFrames src ++ (pageFrames dst).filter (fun f => !(pageFrames src).contains f)).filter
              (fun f => !holds.contains (u.holdFrame f))) = (h, [], v) →
            exec (c m) s = .next (v.collBegin m g 0 src dst h))))
      ∧ (∀ g x, s.groups.find? (gidOf m) = some g → s.colls.find? (fun x => x.gid == gidOf m && x.msg == m) = some x →
        (s.resumed m).isSome = true →
        exec (c m) s = .next (if x.running then (s.clearBusy m).collFinish x g else s.collCheck (gidOf m))))
    ∧ (∀ (s : State) (m : Token) (l d : Nat),
      (Heads s m (.link l d) true 2 0xFF00 → s.inboxesClear m (bits (lane0 m) 15 8) 8 = true →
        exec (.lnFence m) s = .next (s.finish m 0 0 []))
      ∧ (Heads s m (.link l d) true 2 0x100 → exec (.lnStat m) s = .next ((if bitOf (lane0 m) 8 then
          linkCounts.foldl (fun u o => u.setReg (linkReg (linkDie m) 0 o) 0) s else s).finish m 0 0
        (linkCounts.map (fun o => lo32 (s.reg (linkReg (linkDie m) 0 o))) ++ [lo32 (s.regRead (linkReg (linkDie m) 0 0x10))]))))

/-- O56. Replies, timeouts and unreachable devices, inbound requests, ports, digests, descriptors, contributions and notices (R409, R411, R412, R415, R416, R417, R423, R425, R426, R427, R428, R434). -/
def Obligations.LinkEvents : Prop :=
  (∀ (s : State) (id : Nat) (r : Remote), s.remotes.find? (fun r => r.id == id && r.kind != 4) = some r →
      (∀ d : RemoteData, exec (.remoteReply id d) s = .next (s.remoteDone r { d with
        data := if d.code = 0 then padTo 0 (if r.kind = 0 then r.size else if r.kind = 2 then atomReply r.atom r.size else 0) d.data else [] }))
      ∧ (∀ f, f = (s.bump (linkReg r.die 0 0xA0) 1).remoteDone r { code := 0x13, data := [], poison := false } →
        exec (.deviceUnreachable id) s = .next f
        ∧ (Nat.max 1 (s.regBits (linkReg r.die 0 8) 15 0) ≤ s.usSince r.since → exec (.remoteRequestTimeout id) s = .next f)
        ∧ (s.usSince r.since < Nat.max 1 (s.regBits (linkReg r.die 0 8) 15 0) → exec (.remoteRequestTimeout id) s = .next s)))
    ∧ (∀ (s : State) (r : Remote) (d : RemoteData) (t : State), t = { s with remotes := s.remotes.filter (fun x => x.id != r.id) } →
      (∀ ps, r.who = .keeper ps → s.remoteDone r d = t.keeperReplied ps r d)
      ∧ (∀ id j, r.who = .access id j → s.remoteDone r d = t.accessReplied id j d)
      ∧ (∀ key, r.who = .command key → s.remoteDone r d = t.commandReplied key r d))
    ∧ (∀ (s : State) (l port : Nat), l < 2 → port < 8 →
      exec (.flitReplay l port false) s = .next (s.bump (linkReg l 0 0x98) 1)
      ∧ exec (.flitReplay l port true) s = .next ((((s.bump (linkReg l 0 0x98) 1).setBits (linkReg l 0 0x10) (8 + port) (8 + port) 1).logError
        { source := 8, severity := 0, loc := linkReg l 0 (8 * port), detail := Config.freeWord s.free % 8 }).useFree)
      ∧ (s.devValid = true → s.regBits (linkReg l 0 0x10) port port = 0 → ∃ t, exec (.portUp l port) s = .next t
        ∧ t.cust.lanes = s.cust.lanes.filter (fun x => !(x.1 == l && x.2.1 == port))
        ∧ t.regs = ((s.setBits (linkReg l 0 0x10) port port 1).setBits (linkReg l 0 0x10) (8 + port) (8 + port) 0).regs
        ∧ { t with regs := s.regs, cust := s.cust } = s)
      ∧ (s.devValid = false → exec (.portUp l port) s = .next s)
      ∧ (∀ u, u = s.setBits (linkReg l 0 0x10) port port 0 → exec (.portDown l port) s = .next { u with
        remotes := u.remotes.map (fun r => if r.die = l ∧ r.port = port then { r with port := (u.portFor l r.dev).getD 8 } else r) })
      ∧ exec (.linkDevidValid l) s = .next (s.setBits (linkReg l 0 0) 16 16 1))
    ∧ (∀ (s : State) (l : Nat) (r : Inbound), r.size ≠ 0 →
      ((s.inboundDone.any (fun x => x.1 == r.src && x.2.1 == r.req)) = true → exec (.inboundRequest l r) s = .next s)
      ∧ ((s.inboundDone.any (fun x => x.1 == r.src && x.2.1 == r.req)) = false → s.awake = true →
        ((isGlobal r.off = false ∨ s.physOk r.off r.size (decide (2 ≤ r.kind)) = false) →
          exec (.inboundRequest l r) s = .next (s.inboundRefuse l r 7))
        ∧ (isGlobal r.off = true → s.physOk r.off r.size (decide (2 ≤ r.kind)) = true →
          s.windowPermits l r.off r.size (r.kind != 1) (r.kind != 0) = false → exec (.inboundRequest l r) s = .next (s.inboundRefuse l r 9))
        ∧ (∀ h t d u, isGlobal r.off = true → s.physOk r.off r.size (decide (2 ≤ r.kind)) = true →
          s.windowPermits l r.off r.size (r.kind != 1) (r.kind != 0) = true →
          s.takeHolds [] (if r.kind = 0 then [] else (pagesOf r.off r.size).map (fun p => p * 65536)) = (h, [], t) →
          s.inboundBehind r = false →
          ((r.kind < 2 ∧ t.inboundPerform r = (d, u))
            ∨ (2 ≤ r.kind ∧ s.atomicTurn (s.homeOf 0 r.off) (32 + l) = true
              ∧ (t.atomicServed (s.homeOf 0 r.off) (32 + l)).inboundPerform r = (d, u))) →
          exec (.inboundRequest l r) s = .next (((u.dropHolds h).bump (linkReg l 0 0x88) 1).inboundAnswer r d))
        ∧ (∀ h t, isGlobal r.off = true → s.physOk r.off r.size true = true → s.windowPermits l r.off r.size true true = true →
          s.takeHolds [] ((pagesOf r.off r.size).map (fun p => p * 65536)) = (h, [], t) → 2 ≤ r.kind →
          s.atomicTurn (s.homeOf 0 r.off) (32 + l) = false → exec (.inboundRequest l r) s = .next (s.inboundHold l r)))
      ∧ ((s.inboundDone.any (fun x => x.1 == r.src && x.2.1 == r.req)) = false → s.awake = false →
        exec (.inboundRequest l r) s = .next (if s.regBits (custReg 0x38) 3 2 = 3 then s else s.inboundHold l r)))
    ∧ (∀ (s : State) (gid rank : Nat) (dg : Word),
      (∀ g, s.groups.find? gid = some g → g.bound = false → rank < g.list.length → rank ≠ g.rank →
        exec (.joinDigestArrive gid rank dg) s = .next ((s.heardFrom gid g rank dg).joinCheck gid))
      ∧ (s.groups.find? gid = none → exec (.joinDigestArrive gid rank dg) s = .next { s with
        earlyJoins := s.earlyJoins.filter (fun e => !(e.1 == gid && e.2.1 == rank)) ++ [(gid, rank, dg)] })
      ∧ (∀ g t, s.groups.find? gid = some g → g.bound = false →
        t = { s with groups := s.groups.erase gid, earlyJoins := s.earlyJoins.filter (fun e => e.1 != gid) } →
        ((∃ e ∈ g.heard, e.2 ≠ g.digest) → s.joinCheck gid = t.collAnswer g.msg 3 0)
        ∧ ((∀ e ∈ g.heard, e.2 = g.digest) → g.heard.length = g.list.length → g.leaving = false → s.joinCheck gid =
          (State.collAnswer { s with groups := Tab.set s.groups gid { g with bound := true }, earlyJoins := t.earlyJoins } g.msg 0 g.rank))
        ∧ ((∀ e ∈ g.heard, e.2 = g.digest) → g.heard.length ≠ g.list.length → s.joinCheck gid = s)
        ∧ (1000 * s.collTimeout (linkDie g.msg) ≤ s.usSince g.since →
          exec (.collectiveTimeout gid) s = .next (t.collAnswer g.msg 0xE 0))))
    ∧ (∀ (s : State) (gid rank : Nat) (d : CollDesc) (g : Group), s.groups.find? gid = some g → rank ≠ g.rank → rank < g.list.length →
      (s.colls.find? (fun c => c.gid == gid) = none →
        exec (.collectiveDescriptor gid rank d) s = .next { s with earlyDescs := s.earlyDescs ++ [(gid, rank, d)] })
      ∧ (∀ c, s.colls.find? (fun c => c.gid == gid) = some c →
        ((c.descs.find? rank).isSome = true →
          exec (.collectiveDescriptor gid rank d) s = .next { s with earlyDescs := s.earlyDescs ++ [(gid, rank, d)] })
        ∧ (c.descs.find? rank = none → exec (.collectiveDescriptor gid rank d) s = .next
          ((s.putColl { c with descs := Tab.set c.descs rank d }).collCheck gid))
        ∧ (∀ x : Contribution, c.parts.find? rank = none → c.status = 0 → exec (.collectiveContributionArrive gid rank x) s = .next
          ((s.putColl { c with parts := Tab.set c.parts rank x }).collFinish { c with parts := Tab.set c.parts rank x } g))
        ∧ (g.bound = true → c.running = false → 1000 * s.collTimeout (linkDie c.msg) ≤ s.usSince c.since →
          exec (.collectiveTimeout gid) s = .next (s.collEnd c { g with broken := true } 0xE))))
    ∧ (∀ (s : State) (l : Nat) (n : Notice), exec (.signalNotice l n) s = .next (s.useFree.send
      (engineDest (if Config.freeBool s.free then l % 2 + 2 else l % 2) 4 7 0) (noticeToken n.dest n.ctx n.dev n.value.toNat)))

/-- O57. The front: commands assembled and accepted, each command of a queue's ready head performed, contexts ended, saved, restored and reset (R438, R440, R444, R445, R446, R447, R450, R452, R454, R458, R462, R463). -/
def Obligations.FrontCommands : Prop :=
  (∀ (s : State) (c : Cmd), s.readyHead c.queue ≠ some c →
      ∀ i ∈ [Instr.launch c, .wait c, .signal c, .preempt c, .resume c, .resetPart c, .query c], exec i s = .next s)
    ∧ (∀ (s : State) (c : Cmd) (st e : Nat), s.finishCmd c st e = (s.journal c st e).completeSeq c.queue c.seq
      ∧ (s.regBits (frontReg 0x100) 0 0 = 0 → s.journal c st e = s)
      ∧ ((s.queue c.queue).done = [] → s.doneSeq c.queue = c.seq → s.completeSeq c.queue c.seq =
        (s.setQueue c.queue { s.queue c.queue with done := [] }).setBits (queueReg c.queue 0x18) 63 32 (c.seq + 1)))
    ∧ (∀ (s t : State) (c : Cmd), Dispatches s c 1 t →
      (bodyOk c [maskBits 9 0 + maskBits 63 32] = true → exec (.wait c) s = .next (t.finishCmd c 3 0))
      ∧ (bodyOk c [maskBits 9 0 + maskBits 63 32] = false → exec (.wait c) s = .next (t.finishCmd c 4 3)))
    ∧ (∀ (s t : State) (c : Cmd), Dispatches s c 2 t →
      (bodyOk c signalMasks = false → exec (.signal c) s = .next (t.finishCmd c 4 3))
      ∧ (bodyOk c signalMasks = true → ¬ signalAddrOk t (Cmd.w c 0) → exec (.signal c) s = .next (t.finishCmd c 4 4))
      ∧ (bodyOk c signalMasks = true → signalAddrOk t (Cmd.w c 0) → dKind (signalToken c).dest = 2 →
        exec (.signal c) s = .next (t.finishCmd c 4 3))
      ∧ (∀ u v, bodyOk c signalMasks = true → signalAddrOk t (Cmd.w c 0) → dKind (signalToken c).dest ≠ 2 →
        destForm (signalToken c).dest = true → u = (if Cmd.w c 0 = 0 then t else (t.store (Cmd.w c 0) (leBytes 8 (Cmd.w c 1)) false true true).2) →
        v = u.send (frontSrc c.queue) (signalToken c) →
        (bitOf (Cmd.w c 3) 16 = true → exec (.signal c) s = .next ((v.raise (bits (Cmd.w c 3) 10 0)).finishCmd c 3 0))
        ∧ (bitOf (Cmd.w c 3) 16 = false → exec (.signal c) s = .next (v.finishCmd c 3 0))))
    ∧ (∀ (s t : State) (c : Cmd) (kind i : Nat), Dispatches s c 6 t → kind = bits (Cmd.w c 0) 1 0 → i = bits (Cmd.w c 0) 15 4 →
      (bodyOk c [maskBits 1 0 + maskBits 15 4, maskBits 56 6] = false ∨ 2 ≤ kind ∨ (kind = 0 ∧ 1024 ≤ i) →
        exec (.query c) s = .next (t.finishCmd c 4 3))
      ∧ (bodyOk c [maskBits 1 0 + maskBits 15 4, maskBits 56 6] = true → (kind = 0 ∧ i < 1024 ∨ kind = 1) →
        (isGlobal (Cmd.w c 1) = false ∨ t.physOk (Cmd.w c 1) 64 false = false → exec (.query c) s = .next (t.finishCmd c 4 4))
        ∧ (isGlobal (Cmd.w c 1) = true → t.physOk (Cmd.w c 1) 64 false = true → exec (.query c) s = .next
          ((t.store (Cmd.w c 1) ((padTo 0 8 (t.queryWords kind i)).flatMap (fun w => leBytes 8 w)) false true true).2.finishCmd c 3 0))))
    ∧ (∀ (s t : State) (c : Cmd), Dispatches s c 0 t →
      (∀ st u, t.launchCheck c.body (bits (Cmd.w c 6) 31 0) (bits (Cmd.w c 5) 11 0) c.queue (sectorsOf (bits (Cmd.w c 6) 31 0)) true
          = (.error st, u) → exec (.launch c) s = .next ((u.finishCmd c 4 st).launchAnswer c st))
      ∧ (∀ d u, t.launchCheck c.body (bits (Cmd.w c 6) 31 0) (bits (Cmd.w c 5) 11 0) c.queue (sectorsOf (bits (Cmd.w c 6) 31 0)) true
          = (.ok d, u) → exec (.launch c) s = .next (u.performLaunch c d)))
    ∧ (∀ (s u : State) (c : Cmd) (toks : List Token), u = s.bindSlot (bits (Cmd.w c 5) 11 0) c c.body (bits (Cmd.w c 6) 31 0) 0 [] →
      ∀ v, v = ((((u.clearFlags (bits (Cmd.w c 5) 11 0)).seedWorkers (bits (Cmd.w c 6) 31 0) c.body).injectTokens ((sectorsOf (bits (Cmd.w c 6) 31 0)).headD 0) toks).journal c 2 0).launchAnswer c 0 →
      s.performLaunch c { sections := [], sched := [], tokens := toks } =
        { v with inputs := .event (.contextEnd (bits (Cmd.w c 5) 11 0)) :: v.inputs })
    ∧ (∀ (s t : State) (c : Cmd) (slot : Nat), Dispatches s c 3 t → slot = bits (Cmd.w c 0) 11 0 →
      (bodyOk c slotMasks = false → exec (.preempt c) s = .next (t.finishCmd c 4 3))
      ∧ (t.contexts.find? slot = none → exec (.preempt c) s = .next (t.finishCmd c 4 3))
      ∧ (∀ x, bodyOk c slotMasks = true → t.contexts.find? slot = some x →
        (x.live = false ∨ t.regBits (queueReg x.queue 0) 5 1 ≠ t.regBits (queueReg c.queue 0) 5 1
            ∨ t.restores.any (fun r => r.slot == slot) = true → exec (.preempt c) s = .next (t.finishCmd c 4 3))
        ∧ (x.live = true → t.regBits (queueReg x.queue 0) 5 1 = t.regBits (queueReg c.queue 0) 5 1 →
          t.restores.any (fun r => r.slot == slot) = false → exec (.preempt c) s = .next (t.frontDrain slot x (some c) 0))))
    ∧ (∀ (s t : State) (c : Cmd) (slot a old part : Nat) (pairs : List (Nat × Nat)), Dispatches s c 4 t →
      slot = bits (Cmd.w c 0) 11 0 → a = bits (Cmd.w c 1) 56 16 * 65536 → old = t.imageNum (a + 8) 4 →
      part = (if bits (Cmd.w c 2) 31 0 = 0 then old else bits (Cmd.w c 2) 31 0) → pairs = (sectorsOf old).zip (sectorsOf part) →
      (bodyOk c slotMasks = false → exec (.resume c) s = .next (t.finishCmd c 4 3))
      ∧ (bodyOk c slotMasks = true → (isGlobal a = false ∨ t.physOk a 0x180 false = false) → exec (.resume c) s = .next (t.finishCmd c 4 4))
      ∧ (bodyOk c slotMasks = true → isGlobal a = true → t.physOk a 0x180 false = true →
        (t.imageNum a 8 = 0 ∨ (t.live? (BitVec.ofNat 12 slot)).isSome = true ∨ popPart part ≠ popPart old
            ∨ (part &&& (t.partMask c.queue ^^^ (2 ^ 32 - 1))) ≠ 0 ∨ t.tooFewLines a pairs = true →
          exec (.resume c) s = .next (t.finishCmd c 4 3))
        ∧ (∀ r0 rec_ w7, t.imageNum a 8 ≠ 0 → (t.live? (BitVec.ofNat 12 slot)).isSome = false → popPart part = popPart old →
          (part &&& (t.partMask c.queue ^^^ (2 ^ 32 - 1))) = 0 → t.tooFewLines a pairs = false →
          r0 = (chunks 8 8 (t.imageBytes (a + 0x40) 64)).map (fun b => (BitVec.ofNat 64 (leNat b) : Word)) → w7 = (nth 0 r0 7).toNat →
          rec_ = setNth (BitVec.ofNat 64 (putBits w7 36 16 (moveDest pairs (BitVec.ofNat 21 (bits w7 36 16))).toNat)) r0 7 →
          (∀ st u, t.launchCheck r0 part slot c.queue (sectorsOf old) false = (.error st, u) →
            exec (.resume c) s = .next (u.finishCmd c 4 3))
          ∧ (∀ d u cold v, t.launchCheck r0 part slot c.queue (sectorsOf old) false = (.ok d, u) →
            cold = d.sections.map (fun x => (x, targetOf pairs x.ps)) →
            (u.bindSlot slot c rec_ part (t.imageNum (a + 0x10) 8) (cold.map (fun e => e.2))).deliverCold cold slot (bits w7 13 0) pairs
              = .error v → exec (.resume c) s = .next (({ v with contexts := v.contexts.erase slot } : State).finishCmd c 4 3))
          ∧ (∀ d u cold v, t.launchCheck r0 part slot c.queue (sectorsOf old) false = (.ok d, u) →
            cold = d.sections.map (fun x => (x, targetOf pairs x.ps)) →
            (u.bindSlot slot c rec_ part (t.imageNum (a + 0x10) 8) (cold.map (fun e => e.2))).deliverCold cold slot (bits w7 13 0) pairs
              = .ok v →
            ∃ w, exec (.resume c) s = .next { w with restores := w.restores ++ [{ slot := slot, image := a, cmd := c, pairs := pairs }] }
              ∧ w = (cold.foldl (fun y e => (((y.setBits (secReg e.2 0 0) 0 0 0).loadKeeper e.1 e.2 rec_).startKeeper e.1 e.2 slot
                (bits w7 13 0) (bits (recWordOf r0 0) 55 0) false).seedSector e.1 e.2 rec_ d.sched) (v.clearFlags slot)).seedWorkers part rec_))))
    ∧ (∀ (s t : State) (c : Cmd), Dispatches s c 5 t →
      (bodyOk c [] = true → exec (.resetPart c) s = .next (t.resetPartition (t.partMask c.queue) 0xD (some c) none))
      ∧ (bodyOk c [] = false → exec (.resetPart c) s = .next (t.finishCmd c 4 3)))
    ∧ (∀ (s : State) (c : Cmd), (c.line = 7 → s.outstanding c.queue c.seq = true → exec (.commandReserved c) s = .next (s.refuseCmd c 3))
      ∧ (s.outstanding c.queue c.seq = false → exec (.commandReserved c) s = .next s))
    ∧ (∀ (s : State) (off : Nat) (data : List Byte),
      (off < 0x80000 → s.flrHold = true → exec (.commandWindowWrite off data) s = .next s)
      ∧ (off < 0x80000 → s.flrHold = false → data.length ≤ 64 - off % 64 → data ≠ [] →
        exec (.commandWindowWrite off data) s = .next (s.stage (off / 512) (off / 64 % 8) (off % 64) data))
      ∧ (∀ q line k, data.length = 64 → k = s.queue q → k.staging.find? line = none → s.stage q line 0 data =
        (s.setQueue q { k with staging := k.staging.erase line }).acceptCmd q line (stagedBody (data.map some)) none))
    ∧ (∀ (s u : State) (q line : Nat) (body : List Word) (kp : Option (Nat × BitVec 12 × Lane)) (c : Cmd) (k : QueueSt),
      c = { queue := q, seq := s.nextSeq q, line := line, body := body, keeper := kp } →
      u = ((s.journal c 1 0).setBits (queueReg q 0x18) 31 0 (s.nextSeq q + 1)).wakeUp → k = u.queue q →
      (u.regBits (queueReg q 0) 0 0 = 0 → s.acceptCmd q line body kp = u.refuseCmd c 3)
      ∧ (u.regBits (queueReg q 0) 0 0 = 1 →
        (line = 7 → s.acceptCmd q line body kp = { u with inputs := .event (.commandReserved c) :: u.inputs })
        ∧ (line ≠ 7 → k.onchip.length < 64 → k.overflow = [] →
          s.acceptCmd q line body kp = u.setQueue q { k with onchip := k.onchip ++ [c] })
        ∧ (line ≠ 7 → 64 ≤ k.onchip.length → u.regBits (queueReg q 0x10) 23 0 ≤ k.overflow.length →
          s.acceptCmd q line body kp = (u.setBits (queueReg q 0x20) 32 32 1).refuseCmd c 9)))
    ∧ (∀ (s t : State) (q a : Nat) (c : Cmd) (rest : List Cmd) (k : QueueSt) (g : Got), k = s.queue q → k.overflow = c :: rest →
      k.onchip.length < 64 → ∀ size, size = Nat.max 1 (s.regBits (queueReg q 0x10) 23 0) →
      a = s.regBits (queueReg q 0x08) 56 12 * 4096 + 64 * (k.ovfHead % size) → s.load a 64 false true true = (g, t) → g.code = 0 →
      exec (.overflowAreaReturn q) s = .next (t.setQueue q { k with
        onchip := k.onchip ++ [{ c with body := (chunks 8 8 g.data).map (fun b => BitVec.ofNat 64 (leNat b)) }], overflow := rest,
        ovfHead := (k.ovfHead + 1) % size }))
    ∧ (∀ (s : State) (slot : Nat) (x : Context), s.contexts.find? slot = some x → x.live = true →
      (s.fdrains.find? (fun f => f.slot == slot) = none → s.restores.any (fun r => r.slot == slot) = false →
        (x.closing = true ∨ x.sections = []) → s.noEntries (BitVec.ofNat 12 slot) = true → s.cmdsRun (BitVec.ofNat 12 slot) = false →
        s.cmdsWait (BitVec.ofNat 12 slot) = false → s.accesses.any (fun a => a.fir.ctx == BitVec.ofNat 12 slot) = false →
        exec (.contextEnd slot) s = .next (s.endContext slot 0 x))
      ∧ (∀ f, s.fdrains.find? (fun f => f.slot == slot) = some f → f.cmd = none → s.quiet f = true → s.dogSave x = none →
        exec (.contextEnd slot) s = .next ((s.freeEntries (BitVec.ofNat 12 slot)).endContext slot f.status x))
      ∧ (∀ st, s.endContext slot st x =
        (((s.freeContext slot x).send (frontSrc x.queue) (endToken slot st x)).journalCtx slot x 3 st).completeSeq x.queue x.seq)
      ∧ (∀ st u, x.expired = 0 → s.restores.any (fun r => r.slot == slot) = false → s.dogStatus slot x = some st →
        u = { s with contexts := Tab.set s.contexts slot { x with expired := st } }.journalCtx slot { x with expired := st } 9 st →
        (s.fdrains.any (fun f => f.slot == slot) = true → exec (.watchdogExpire slot) s = .next u)
        ∧ (s.fdrains.any (fun f => f.slot == slot) = false →
          exec (.watchdogExpire slot) s = .next (u.frontDrain slot { x with expired := st } none st)))
      ∧ (s.dogStatus slot x = none → exec (.watchdogExpire slot) s = .next s))
    ∧ (∀ (s : State) (slot : Nat) (x : Context) (f : FrontDrain), s.contexts.find? slot = some x →
      s.fdrains.find? (fun f => f.slot == slot) = some f →
      (∀ q late, q = (match f.cmd with | some c => c.queue | none => x.queue) →
        late = Nat.max 1 (s.regBits (queueReg q 0) 63 48) →
        (s.quiet f = false → late ≤ s.usSince f.since → exec (.drainDeadlineExpire slot) s = .next
          (s.resetPartition (s.partMask x.queue) (if f.cmd = none then f.status else 0xD) none (some slot)))
        ∧ (s.usSince f.since < late → exec (.drainDeadlineExpire slot) s = .next s))
      ∧ (∀ a cap plan size, s.quiet f = true → s.savePlace f x = some (a, cap) →
        s.imagePlan (BitVec.ofNat 12 slot) true 0x180 (sectorsOf x.part) = (plan, size) →
        (size ≤ cap * 65536 → isGlobal a = true → s.physOk a size false = true →
          exec (.saveComplete slot) s = .next ((s.writeImage a slot x plan size).saved f x))
        ∧ (∀ c, f.cmd = some c → cap * 65536 < size → exec (.saveComplete slot) s = .next ((s.goOn slot x).finishCmd c 4 9)))
      ∧ (s.quiet f = false → exec (.saveComplete slot) s = .next s))
    ∧ (∀ (s : State) (slot : Nat) (x : Context) (r : Restore) (u : State), s.contexts.find? slot = some x → x.sections ≠ [] →
      s.restores.find? (fun r => r.slot == slot) = some r → (∀ p ∈ r.pairs, s.imageNum (r.image + 0x80 + 8 * p.1) 8 = 0) →
      u = ((x.sections.foldl (fun t ps => t.setBits (csr ps 0) 3 3 0) s).rebind r.image (bits (s.imageNum (r.image + 8) 8) 43 32) slot
        (frontDie x.part) x.asid).journal r.cmd 7 0 →
      exec (.restoreComplete slot) s = .next { u with
        contexts := Tab.set u.contexts slot { x with started := u.clk, mark := u.timer },
        restores := u.restores.filter (fun q => q.slot != slot) })
    ∧ (∀ (s : State) (slot : Nat) (x : Context) (r : Restore), s.contexts.find? slot = some x →
      s.restores.find? (fun r => r.slot == slot) = some r → ∃ t, exec (.restoreComplete slot) s = .next t
        ∧ ∀ q ∈ t.restores, q.slot ≠ slot)
    ∧ (∀ (s t : State) (r : PartReset), s.resets.find? (fun x => x.id == r.id) = some r →
      t = (sectorsOf r.mask).foldl (fun t ps =>
          if t.gated ps ∨ t.awake = false ∨ (t.waking.find? ps).isSome = true ∨ t.resets.any (fun x => bitOf x.mask ps) = true then t
          else t.setBits (frontReg 0x118) ps ps 1) { s with resets := s.resets.filter (fun x => x.id != r.id) } →
      ∀ u, u = (if t.resets = [] then { t with flrHold := false } else t) →
      (∀ c, r.cmd = some c → exec (.partitionResetComplete r.id) s = .next (u.finishCmd c 3 0))
      ∧ (r.cmd = none → exec (.partitionResetComplete r.id) s = .next u))
    ∧ (∀ (s : State) (n new old : Nat) (v : Word), n < 32 → new = v.toNat % 2 ^ 32 → old = s.regBits (frontReg (8 * n)) 31 0 →
      ((∃ k, k < 32 ∧ k ≠ n ∧ s.regBits (frontReg (8 * k)) 31 0 &&& new ≠ 0) ∨ (new ≠ old ∧ s.liveOn old ≠ []) →
        exec (.partitionWrite n v) s = .next (s.setBits (frontReg 0x120) 0 0 1))
      ∧ ((∀ k, k < 32 → k ≠ n → s.regBits (frontReg (8 * k)) 31 0 &&& new = 0) → (new = old ∨ s.liveOn old = []) →
        exec (.partitionWrite n v) s = .next (s.setReg (frontReg (8 * n)) (BitVec.ofNat 64 new))))
    ∧ (∀ (s t u v : State), t = (s.queues.map (fun e => e.1)).foldl (fun t q => t.abortQueue q) s →
      u = (upTo 32).foldl (fun t n => if t.regBits (frontReg (8 * n)) 31 0 = 0 then t
        else t.resetPartition (t.regBits (frontReg (8 * n)) 31 0) 0xD none none) t →
      v = (upTo 1024).foldl (fun t q => if (t.reg (queueReg q 0)).getLsbD 0 then t.setBits (queueReg q 0) 0 0 0 else t) u →
      exec .flr s = .next { v with flrHold := !v.resets.isEmpty })

/-- O58. Sector gating and waking, power states, resets, the clock, host accesses and the CXL ports (R360, R464, R466, R475, R482, R483, R490, R491, R492, R494, R495, R497). -/
def Obligations.PowerAndPorts : Prop :=
  (∀ (s : State) (ps : Nat), ps < 32 →
      ((s.liveOn (2 ^ ps) ≠ [] ∨ s.resets.any (fun r => bitOf r.mask ps) = true) →
        exec (.sectorGate ps) s = .next (s.setBits (frontReg 0x120) 1 1 1))
      ∧ (∀ u, s.liveOn (2 ^ ps) = [] → s.resets.any (fun r => bitOf r.mask ps) = false → s.gated ps = false →
        u = ((s.resetSector ps).setBits (frontReg 0x118) ps ps 0).setBits (frontReg 0x110) ps ps 1 →
        exec (.sectorGate ps) s = .next { u with waking := u.waking.erase ps }.exitDone)
      ∧ (∀ u, s.gated ps = true → s.awake = true → u = (s.setBits (frontReg 0x118) ps ps 0).setBits (frontReg 0x110) ps ps 0 →
        exec (.sectorWake ps) s = .next { u with waking := Tab.set u.waking ps (.rails, u.timer) })
      ∧ (s.gated ps = false → exec (.sectorWake ps) s = .next s)
      ∧ (∀ t, s.waking.find? ps = some (.rails, t) →
        (30 * timerScale ≤ 10 * (s.timer - t) →
          exec (.sectorClockStart ps) s = .next { s with waking := Tab.set s.waking ps (.clocks, t) })
        ∧ (10 * (s.timer - t) < 30 * timerScale → exec (.sectorClockStart ps) s = .next s))
      ∧ (∀ t, s.waking.find? ps = some (.clocks, t) → 35 * timerScale ≤ 10 * (s.timer - t) →
        exec (.sectorStateReset ps) s = .next { s.resetSector ps with waking := Tab.set (s.resetSector ps).waking ps (.cleared, t) })
      ∧ (∀ t, s.waking.find? ps = some (.cleared, t) → 40 * timerScale ≤ 10 * (s.timer - t) →
        exec (.sectorReady ps) s = .next { s.setBits (frontReg 0x118) ps ps 1 with waking := s.waking.erase ps }.exitDone))
    ∧ (∀ (s : State) (e : EnvSample) (hot beyond : Bool) (mhz cap next : Nat) (u v w : State),
      hot = decide (105 < e.die ∨ 95 < e.hbm) → mhz = s.regBits (modReg 0x20) 11 0 → cap = s.regBits (modReg 8) 11 0 →
      beyond = decide (cap < e.watts) → (hot = true ∨ beyond = true → next = Nat.max 1200 (mhz - 75)) → (hot = false → beyond = false →
        (s.regBits (modReg 0) 2 2 = 1 → 95 * cap < 100 * e.watts → next = mhz)
        ∧ ((s.regBits (modReg 0) 2 2 ≠ 1 ∨ 100 * e.watts ≤ 95 * cap) → next = Nat.min 2250 (mhz + 75))) →
      u = ((s.setReg (modReg 0x10) (BitVec.ofNat 64 (e.watts % 4096))).setReg (modReg 0x18)
        (BitVec.ofNat 64 (e.die % 256 + e.hbm % 256 * 2 ^ 8 + e.inlet % 256 * 2 ^ 16))).setReg (modReg 0x20) (BitVec.ofNat 64 next) →
      v = (if beyond = true then u.setBits (modReg 0) 2 2 1 else u) →
      w = (if next = 2250 then u.setBits (modReg 0) 3 2 0 else if hot = true then v.setBits (modReg 0) 3 3 1 else v) →
      (e.die ≤ 115 → exec (.clockThrottleStep e) s = .next w)
      ∧ (115 < e.die → exec (.clockThrottleStep e) s = .next { w with inputs := .event .thermtrip :: w.inputs }))
    ∧ (∀ (s : State) (n : Nat) (i : Instr), (i, n) ∈ [(Instr.powerRequestP2, 2), (.powerRequestP3, 3)] →
      ((∃ e ∈ s.contexts, e.2.live = true) ∨ (∃ e ∈ s.queues, e.2.onchip ≠ [] ∨ e.2.overflow ≠ []) →
        exec i s = .next (s.setBits (custReg 0x38) 4 4 1))
      ∧ ((∀ e ∈ s.contexts, e.2.live = false) → (∀ e ∈ s.queues, e.2.onchip = [] ∧ e.2.overflow = []) → ∀ u, u = s.setBits (custReg 0x38) 1 0 n →
        exec i s = .next (u.setCust { s.cust with pwrEntry := if s.regBits (custReg 0x38) 3 2 = n then none else some n })))
    ∧ (∀ (s : State), exec .powerRequestP0 s = .next (s.setBits (custReg 0x38) 1 0 0).wake ∧ exec .powerWake s = .next s.wake
      ∧ ((s.awake = true ∨ s.cust.pwrExit = true) → s.wake = s.setCust { s.cust with pwrEntry := none })
      ∧ (∀ u, s.awake = false → s.cust.pwrExit = false → u = s.setCust { s.cust with pwrEntry := none, pwrExit := true } →
        s.wake = { u with waking := (upTo 32).foldl (fun w ps => if s.gated ps then w else Tab.set w ps (.rails, s.timer)) s.waking }.exitDone))
    ∧ (∀ (s : State) (n : Nat) (u v : State), s.cust.pwrEntry = some n →
      ((s.cust.pwrExit = true ∨ (∃ r ∈ s.cust.tests, r.running = true) ∨ s.remotes ≠ [] ∨ s.inboundWait ≠ []) →
        exec .powerStateEntry s = .next s)
      ∧ (s.cust.pwrExit = false → (∀ r ∈ s.cust.tests, r.running = false) → s.remotes = [] → s.inboundWait = [] → s.accesses = [] →
        u = { ((s.setBits (custReg 0x38) 3 2 n).setReg (frontReg 0x118) 0).setCust { s.cust with pwrEntry := none } with waking := [] } →
        v = (upTo 12).foldl (fun u st => (upTo 32).foldl (fun v ch => if 0 < v.refD st ch then
          (v.setRefD st ch 0).bump (stackReg st 0x38) (v.refD st ch).toNat else v) u) u →
        (n = 2 → exec .powerStateEntry s = .next v)
        ∧ (n = 3 → exec .powerStateEntry s = .next ((upTo 8).foldl (fun u j => (u.portDrops 0 j).portDrops 1 j) v))))
    ∧ (∀ (s : State), (∃ t, exec .moduleReset s = .next t ∧ t.power = .on ∧ t.mem = [] ∧ t.contexts = [] ∧ t.queues = [] ∧ t.cells = []
        ∧ t.inputs = s.inputs ∧ t.free = s.free ∧ t.cust.minSvn = s.cust.minSvn ∧ t.cust.owner = s.cust.owner
        ∧ t.cust.repairs = s.cust.repairs ∧ t.cust.keys = s.cust.keys ∧ t.debugLevel = 0
        ∧ t.security = (if s.security = 2 then 1 else s.security) ∧ t.reg (custReg 0x20) = Config.nonce (s.cust.nonces + 1)
        ∧ exec .brownout s = .next { t with power := .off }
        ∧ exec .thermtrip s = .next { t with power := .off, thermtrip := true }
        ∧ (s.power = .off → exec .powerOn s = .next t))
      ∧ (s.power = .on → exec .powerOn s = .next s)
      ∧ (s.running = true → exec (.memoryTrained false) s = .next (s.setBits (modReg 0) 0 0 1)
        ∧ exec (.memoryTrained true) s = .next (s.setBits (modReg 0) 1 1 1))
      ∧ (s.running = false → ∀ lp, exec (.memoryTrained lp) s = .next s))
    ∧ (∀ (s : State) (r : HostAccess), s.awake = true → s.cust.pwrEntry = none →
      ((2 ^ 45 ≤ r.addr ∨ s.physOk r.addr r.size false = false ∨ s.trained r.addr = false) →
        (r.write = none → exec (.hostMemoryAccess r) s = .next
          ((answered s "Completer Abort" []).logError { source := 13, severity := 1, loc := r.addr, detail := 0 }))
        ∧ (r.write ≠ none → exec (.hostMemoryAccess r) s = .next (s.logError { source := 13, severity := 1, loc := r.addr, detail := 0 })))
      ∧ (r.addr < 2 ^ 45 → s.physOk r.addr r.size false = true → s.trained r.addr = true →
        (∀ g t, r.write = none → s.load r.addr r.size false true true = (g, t) → exec (.hostMemoryAccess r) s = .next
          (answered t (if g.poison then "read EP" else "read") (g.data.map (fun b => b.toNat))))
        ∧ (∀ bs, r.write = some bs → exec (.hostMemoryAccess r) s = .next (s.store r.addr (padTo 0 r.size bs) r.ep true true).2)))
    ∧ (∀ (s : State) (r : HostAccess), s.awake = false → s.hostNow r = false →
      exec (.hostMemoryAccess r) s = .next (s.setCust { s.cust with hostWait := s.cust.hostWait ++ [r] }).wake)
    ∧ (∀ (s : State) (p : Nat), p < 4 →
      (∀ u cap, s.regBits (cxlReg p 0) 0 0 = 0 → u = s.setBits (cxlReg p 0) 0 0 1 →
        exec (.cxlPortEnable p true cap) s = .next
          ((u.setBits (cxlReg p 8) 1 0 1).setBits (cxlReg p 8) 29 16 (Nat.min cap (2 ^ 41) / 2 ^ 28))
        ∧ exec (.cxlPortEnable p false cap) s = .next ((u.setBits (cxlReg p 8) 1 0 2).setBits (cxlReg p 8) 29 16 0)
        ∧ exec (.cxlPortDisable p) s = .next s ∧ exec (.cxlLinkDown p) s = .next s)
      ∧ (s.regBits (cxlReg p 0) 0 0 = 1 → (∀ fine cap, exec (.cxlPortEnable p fine cap) s = .next s)
        ∧ exec (.cxlPortDisable p) s = .next (((s.setBits (cxlReg p 0) 0 0 0).setBits (cxlReg p 8) 0 0 0).setBits (cxlReg p 8) 29 16 0)
        ∧ (∀ u, s.regBits (cxlReg p 8) 0 0 = 1 → u = (s.setBits (cxlReg p 8) 0 0 0).setBits (cxlReg p 8) 2 2 1 →
          exec (.cxlLinkDown p) s = .next ((u.setCust { u.cust with cxlDown := insertNat p u.cust.cxlDown }).logError
            { source := 4, severity := 2, loc := 0x100000000000 + p * 2 ^ 41, detail := BitVec.ofNat 64 p })))
      ∧ (s.regBits (custReg 0x40) p p = 1 →
        (s.regBits (custReg 0x40) (4 + p) (4 + p) = 0 →
          exec (.ideEnable p true) s = .next (s.setBits (custReg 0x40) (4 + p) (4 + p) 1)
          ∧ exec (.ideEnable p false) s = .next (s.setBits (custReg 0x40) (8 + p) (8 + p) 1))
        ∧ exec (.ideFailure p) s = .next ((s.setBits (custReg 0x40) (4 + p) (4 + p) 0).setBits (custReg 0x40) (8 + p) (8 + p) 1)))

/-- O59. The custodian: firmware checks, SPDM answers, debug level and watchpoints, errors, self-tests and repairs (R361, R362, R471, R473, R474, R477, R480, R484, R485, R486, R487). -/
def Obligations.CustodianErrorsAndAttestation : Prop :=
  (∀ (s : State), s.regBits (custReg 0) 2 1 ≠ 1 → ∀ img, exec (.firmwareLoad img) s = .next s)
    ∧ (∀ (s : State) (img : Option (List Byte)) (len why : Nat), s.regBits (custReg 0) 2 1 = 1 → len = s.regBits (custReg 0x10) 24 0 →
      ((len < 1024 ∨ 16777216 < len ∨ len % 64 ≠ 0) ∧ why = 5
        ∨ (1024 ≤ len ∧ len ≤ 16777216 ∧ len % 64 = 0 ∧
          (img = none ∧ why = 4
            ∨ ∃ bs, img = some bs ∧
              (bs.length ≠ len ∧ why = 4
                ∨ bs.length = len ∧
                  ((leNat (bs.take 4) ≠ 0x4B5A4131 ∨ leNat ((bs.drop 8).take 8) ≠ len) ∧ why = 1
                    ∨ leNat (bs.take 4) = 0x4B5A4131 ∧ leNat ((bs.drop 8).take 8) = len ∧
                      (Config.rsaVerify Config.firmwareModulus (Config.sha512 (bs.take (len - 512))) (bs.drop (len - 512)) = false ∧ why = 2
                        ∨ Config.rsaVerify Config.firmwareModulus (Config.sha512 (bs.take (len - 512))) (bs.drop (len - 512)) = true ∧
                          leNat ((bs.drop 16).take 4) < s.cust.minSvn ∧ why = 3))))) →
        exec (.firmwareLoad img) s = .next (s.setReg (custReg 0) (BitVec.ofNat 64 (6 + why * 8))))
      ∧ (∀ bs svn, img = some bs → svn = leNat ((bs.drop 16).take 4) → 1024 ≤ len → len ≤ 16777216 → len % 64 = 0 → bs.length = len →
        leNat (bs.take 4) = 0x4B5A4131 → leNat ((bs.drop 8).take 8) = len →
        Config.rsaVerify Config.firmwareModulus (Config.sha512 (bs.take (len - 512))) (bs.drop (len - 512)) = true → s.cust.minSvn ≤ svn →
        exec (.firmwareLoad img) s = .next ((s.setCust { s.cust with image := bs, minSvn := svn }).reapply.setReg (custReg 0)
          (BitVec.ofNat 64 (4 + svn * 2 ^ 32)))))
    ∧ (∀ (s : State) (req : List Byte), ∀ r ∈ spdmRequests, exec (r.1 req) s = .next (answered (heardSpdm s req) r.2
      ((Config.spdmAnswer (s.cust.spdm ++ req) ((heardSpdm s req).measurements ++ Config.certificates s.cust.image)).map (fun b => b.toNat))))
    ∧ (∀ (s : State) (req : List Byte) (u : State), u = heardSpdm s req →
      (s.security = 3 → exec (.getCertificate req) s = .next (answered u "ERROR" []))
      ∧ (s.security ≠ 3 → ∃ l, exec (.getCertificate req) s = .next (answered u "CERTIFICATE"
        ((Config.certificates s.cust.image).map (fun b => b.toNat) ++ l)))
      ∧ (∃ l, exec (.getMeasurements req) s = .next (answered u "MEASUREMENTS"
        ((Config.sha512 Config.maskRom ++ Config.sha512 s.cust.image ++ leBytes 4 (s.regBits (custReg 0) 63 32)
          ++ leBytes 1 (s.regBits (custReg 0x18) 3 0) ++ Config.sha512 (Config.fuses ++ s.cust.owner)).map (fun b => b.toNat) ++ l)))
      ∧ exec (.spdmUnsupportedRequest req) s = .next (answered u "ERROR UnsupportedRequest" []))
    ∧ (∀ (s : State) (lvl : BitVec 2) (st max : Nat), st = s.regBits (custReg 0x18) 1 0 → (st, max) ∈ [(0, 0), (1, 1), (2, 2), (3, 2)] →
      (max < lvl.toNat → exec (.debugLevelWrite lvl) s = .next (s.setBits (custReg 0x18) 5 5 1))
      ∧ (lvl.toNat ≤ max → exec (.debugLevelWrite lvl) s = .next (s.setBits (custReg 0x18) 3 2 lvl.toNat)))
    ∧ (∀ (s : State) (w : Nat) (v : Word), w < 16 →
      (v.getLsbD 1 = true → s.debugLevel < 2 → exec (.watchpointWrite w v) s = .next (s.setBits (custReg 0x18) 5 5 1))
      ∧ ((v.getLsbD 1 = false ∨ 2 ≤ s.debugLevel) → 1 ≤ s.debugLevel →
        exec (.watchpointWrite w v) s = .next (s.setReg (custReg (0x100 + 32 * w)) (BitVec.ofNat 64 (v.toNat % 2 ^ 37))))
      ∧ (v.getLsbD 1 = false → s.debugLevel = 0 → exec (.watchpointWrite w v) s = .next
        (s.setReg (custReg (0x100 + 32 * w)) (BitVec.ofNat 64 (putBits (v.toNat % 2 ^ 37) 0 0 (s.regBits (custReg (0x100 + 32 * w)) 0 0))))))
    ∧ (∀ (s : State) (e : ErrInfo),
      (∀ t, e.source ≠ 1 → s.seen e = some t → exec (.errorDetect e) s = .next (t.logError e))
      ∧ (e.source ≠ 1 → s.seen e = none → exec (.errorDetect e) s = .next s)
      ∧ (∀ t, e.source = 1 → t = s.addUpset (e.loc / 64) e.upset →
        ((t.noUpsets || t.dead e.loc) = true → exec (.errorDetect e) s = .next t)
        ∧ ((t.noUpsets || t.dead e.loc) = false → exec (.errorDetect e) s = .next (t.meetLine (e.loc / 64))))
      ∧ (∀ ci line, e.source = 5 → placeOf e.loc = .frame ci line → (e.severity = 0 → s.seen e = some s)
        ∧ (e.severity = 1 → s.seen e = some (s.setLinePoison ci line true)) ∧ (e.severity = 2 → s.seen e = none))
      ∧ (∀ st off pc, e.source = 11 → e.severity = 2 → placeOf e.loc = .hbm st off → pc = bits off 13 8 →
        s.seen e = some ((s.setBits (stackReg st 8) pc pc 1).setBits (stackReg st 0) 5 5 1)))
    ∧ (∀ (s : State) (line st off : Nat) (x : List Nat), placeOf (64 * line) = .hbm st off → s.upsetOf line = some x →
      ∀ d u, u = (s.dropUpset line).putBytes (64 * line) (d.map (BitVec.ofNat 8)) →
        (rsRead (s.readSymbols line x) = .clean d → s.meetLine line = u.clearPoison (64 * line) 64)
        ∧ (rsRead (s.readSymbols line x) = .poisoned d → s.meetLine line = u.markPoison (64 * line) 64)
        ∧ (∀ bad, rsRead (s.readSymbols line x) = .corrected d bad → s.meetLine line =
          ((u.clearPoison (64 * line) 64).stackError st off (tsvGroup bad) false).logError
            { source := 1, severity := 0, loc := 64 * line, detail := BitVec.ofNat 64 (tsvGroup bad) })
        ∧ (rsRead (s.readSymbols line x) = .uncorrectable d → s.meetLine line =
          ((u.markPoison (64 * line) 64).stackError st off 31 true).logError
            { source := 1, severity := 1, loc := 64 * line, detail := 31 }))
    ∧ (∀ (s : State) (r : TestRec),
      (s.awake = true → (s.cust.tests.filter (fun q => q.running)).length < 8 →
        s.cust.tests.find? (fun q => !q.running && s.testFree q) = some r →
        exec (.selfTestStart r.id) s = .next (s.setCust { s.cust with
          tests := s.cust.tests.map (fun q => if q.id = r.id then { q with running := true } else q) }))
      ∧ (8 ≤ (s.cust.tests.filter (fun q => q.running)).length → exec (.selfTestStart r.id) s = .next s)
      ∧ (∀ u, s.cust.tests.find? (fun q => q.id == r.id && q.running) = some r →
        u = s.setCust { s.cust with tests := s.cust.tests.filter (fun q => q.id != r.id) } →
        exec (.selfTestComplete r.id false) s = .next (u.rewriteError r 2 0)
        ∧ (∀ a t, u.repair r = (a, t) → exec (.selfTestComplete r.id true) s = .next (t.rewriteError r 3 a)))
      ∧ (∀ ci line, r.err.source = 5 → placeOf r.err.loc = .frame ci line →
        (s.cellOccupied ci = true → s.repair r = (6, (s.setLinePoison ci line true).setCust { s.cust with
          deferred := s.cust.deferred ++ [(ci, line, r)] }))
        ∧ (s.cellOccupied ci = false → s.repair r = (2, (s.keepRepair (.frameLine ci line)).setCell ci
          { s.cell ci with retired := insertNat line (s.cell ci).retired })))
      ∧ (∀ st off n, r.err.source = 1 → placeOf r.err.loc = .hbm st off → n = s.remapsOf st → n < 2048 → s.repair r =
        (1, (s.keepRepair (.remap st (bits off 13 8) (off / 65536) n)).setBits (stackReg st 0x28) 11 0 (n + 1)))
      ∧ (∀ ps off, r.err.source = 6 → placeOf r.err.loc = .scratch ps off →
        s.linesSpared (lineBank r.err.loc) < 16 →
        s.repair r = (4, s.keepRepair (.spareLine (r.err.loc / 64 * 64))))
      ∧ (∀ ps p off, r.err.source = 7 → placeOf r.err.loc = .acc ps p off →
        s.leavesSpared (5 * ps + p) < 64 →
        s.repair r = (4, s.keepRepair (.multiplier (5 * ps + p) r.err.detail.toNat))))
    ∧ (∀ (s : State) (x : Repair),
      (s.cust.repairs.length < Config.repairStore → s.keepRepair x = s.setCust { s.cust with repairs := s.cust.repairs ++ [x] })
      ∧ (Config.repairStore ≤ s.cust.repairs.length → s.keepRepair x =
        (s.setCust { s.cust with unkept := s.cust.unkept ++ [x] }).setBits (custReg 0x70) 2 2 1))
    ∧ (∀ (s : State) (ci line : Nat) (d : Nat × Nat × TestRec) (u : State),
      s.cust.deferred.find? (fun d => d.1 == ci && d.2.1 == line) = some d →
      (s.cellOccupied ci = true → exec (.frameLineRetire ci line) s = .next s)
      ∧ (s.cellOccupied ci = false →
        u = s.setCust { s.cust with deferred := s.cust.deferred.filter (fun x => !(x.1 == ci && x.2.1 == line)) } →
        exec (.frameLineRetire ci line) s = .next (((u.keepRepair (.frameLine ci line)).setCell ci
          { u.cell ci with retired := insertNat line (u.cell ci).retired }).rewriteError d.2.2 3 2)))
    ∧ (∀ (s : State) (frames : List Nat) (base : Nat), base = s.regBits (custReg 0x78) 56 12 * 4096 →
      frames = s.repairsMade.filterMap (fun r => match r with | .frame pa => some pa | _ => none) →
      exec .retiredList s = .next (((indexed 0 frames).foldl (fun t e => (t.store (base + 8 * e.1) (leBytes 8 e.2) false true true).2)
        (s.setBits (custReg 0x70) 1 1 0)).setReg (custReg 0x70)
          (BitVec.ofNat 64 (2 + s.regBits (custReg 0x70) 2 2 * 4 + frames.length * 2 ^ 32))))

/-- O60. The custodian's requests of authorisation, relock, JTAG and platform monitoring (R476, R477, R478, R479, R498, R500). -/
def Obligations.CustodianAccess : Prop :=
  (∀ (s t : State) (bs : List Byte), s.authBlock = (some bs, t) →
      ((nth 0 bs 0).toNat = 1 →
        (s.security ≠ 0 → exec .authProvision s = .next (requestEnded t 3))
        ∧ (s.security = 0 → t.authGood bs 1 Config.provisionDigest = false → exec .authProvision s = .next (requestEnded t 2))
        ∧ (s.security = 0 → t.authGood bs 1 Config.provisionDigest = true → exec .authProvision s = .next (requestEnded
          ((t.setCust { t.cust with owner := (bs.drop 0x40).take 0x40 }).setBits (custReg 0x18) 1 0 1) 1)))
      ∧ ((nth 0 bs 0).toNat = 2 →
        (s.security ≠ 1 → exec .authUnlock s = .next (requestEnded t 3))
        ∧ (s.security = 1 → t.authGood bs 2 s.cust.owner = false → exec .authUnlock s = .next (requestEnded t 2))
        ∧ (s.security = 1 → t.authGood bs 2 s.cust.owner = true →
          exec .authUnlock s = .next (requestEnded (t.setBits (custReg 0x18) 1 0 2) 1)))
      ∧ ((nth 0 bs 0).toNat = 3 →
        (t.authGood bs 3 Config.faDigest = false → exec .authFa s = .next (requestEnded t 2))
        ∧ (∀ u, t.authGood bs 3 Config.faDigest = true → u = t.zeroize → exec .authFa s = .next (requestEnded
          (((u.setCust { u.cust with keys := false }).setBits (custReg 0x40) 7 4 0).setBits (custReg 0x18) 1 0 3) 1)))
      ∧ ((nth 0 bs 0).toNat ∉ [1, 2, 3] → exec .authRequestUnknownType s = .next (requestEnded t 3))
      ∧ ((nth 0 bs 0).toNat ∈ [1, 2, 3] → exec .authRequestUnknownType s = .next s))
    ∧ (∀ (s : State) (bs : List Byte) (ty : Nat) (digest : List Byte), s.authGood bs ty digest = true →
      leNat ((bs.drop 8).take 8) = (s.reg (custReg 0x20)).toNat ∧ leNat ((bs.drop 0x10).take 8) = (s.reg (custReg 0x30)).toNat
        ∧ Config.sha512 ((bs.drop 0x80).take 0x200) = digest
        ∧ Config.rsaVerify ((bs.drop 0x80).take 0x200) (Config.sha512 (bs.take 0x280)) ((bs.drop 0x280).take 0x200) = true)
    ∧ (∀ (s : State), (s.zeroize.pools.all (fun e => e.2.set0 == .none && e.2.set1 == .none)) = true
      ∧ (∀ c ∈ s.zeroize.mem, ∃ p off, placeOf c.1 = .cxl p off))
    ∧ (∀ (s : State), (s.security ≠ 2 → exec .relock s = .next s)
      ∧ (s.security = 2 → ∃ t, exec .relock s = .next (t.setBits (custReg 0x18) 1 0 1)
        ∧ t = (upTo 16).foldl (fun t w => if (t.reg (custReg (0x100 + 32 * w))).getLsbD 1 then t.setBits (custReg (0x100 + 32 * w)) 0 0 0 else t)
          (s.setBits (custReg 0x18) 3 2 (Nat.min (s.regBits (custReg 0x18) 3 2) 1))))
    ∧ (∀ (s : State) (dr : List Bool),
      exec (.jtagBypass dr) s = .next (answered s "JTAG" (bitNums ((false :: dr).take dr.length)))
      ∧ exec .jtagIdcode s = .next (answered s "JTAG" [0x1A41D0F3])
      ∧ (∃ t, exec (.jtagSamplePreload dr) s = .next t ∧ t.cust.boundary = dr
        ∧ { t with cust := s.cust, free := s.free } = s
        ∧ (s.security = 3 → s.debugLevel = 2 → exec (.jtagExtest dr) s = .next t ∧ exec (.jtagIntest dr) s = .next t))
      ∧ ((s.security ≠ 3 ∨ s.debugLevel ≠ 2) → ∃ t, jtagTurnedAway s t ∧ exec (.jtagExtest dr) s = .next t
        ∧ exec (.jtagIntest dr) s = .next t))
    ∧ (∀ (s : State) (pa : Nat), isRegister (placeOf pa) = true → pa % 8 = 0 →
      (1 ≤ s.debugLevel → s.inScope (placeOf pa) = true →
        exec (.jtagRegisterRead pa) s = .next (answered s "JTAG" [(s.regRead pa).toNat]))
      ∧ (∀ v, 2 ≤ s.debugLevel → s.inScope (placeOf pa) = true → s.physOk pa 8 false = true →
        exec (.jtagWrite pa v true) s = .next (s.regWrite pa v)))
    ∧ (∀ (s : State) (pa : Nat), isRegister (placeOf pa) = false → placeOf pa ≠ .bad → s.physOk pa 8 false = true →
      2 ≤ s.debugLevel → s.inScope (placeOf pa) = true →
      (∀ v, exec (.jtagWrite pa v false) s = .next (s.store pa (leBytes 8 v.toNat) false true true).2)
      ∧ (∀ g t, s.load pa 8 false true true = (g, t) → exec (.jtagMemoryRead pa) s = .next
        (answered t (if g.poison then "JTAG poison" else "JTAG") (g.data.map (fun b => b.toNat)))))
    ∧ (∀ (s : State) (ps : Nat), ps < 32 → 2 ≤ s.debugLevel → s.inScope (.kmem ps 0) = true → ∀ u, u = s.setBits (csr ps 0) 3 3 0 →
      exec (.jtagKeeperHalt ps) s = .next (s.setBits (csr ps 0) 3 3 1)
      ∧ exec (.jtagKeeperStep ps) s = .next { u with inputs := [.keeper ps, .event (.jtagKeeperHalt ps)] ++ u.inputs })
    ∧ (∀ (s : State) (pa ps : Nat) (v : Word) (b : Bool),
      (s.debugLevel < 1 ∨ s.inScope (placeOf pa) = false → ∃ t, jtagTurnedAway s t ∧ exec (.jtagRegisterRead pa) s = .next t)
      ∧ (s.debugLevel < 2 ∨ s.inScope (placeOf pa) = false → ∃ t, jtagTurnedAway s t ∧ exec (.jtagWrite pa v b) s = .next t
        ∧ exec (.jtagMemoryRead pa) s = .next t)
      ∧ (s.debugLevel < 2 ∨ s.inScope (.kmem ps 0) = false → ∃ t, jtagTurnedAway s t ∧ exec (.jtagKeeperHalt ps) s = .next t
        ∧ exec (.jtagKeeperStep ps) s = .next t))
    ∧ (∀ (s : State) (p : Place) (cur : Nat), cur = s.regBits (custReg 0x38) 3 2 →
      (cur < 2 → (s.inScope p = true ↔ ∀ ps, placeSector p = some ps → s.gated ps = false))
      ∧ (cur = 2 → (s.inScope p = true ↔ ∃ u off, p = .lreg 0 u off))
      ∧ (cur = 3 → (s.inScope p = true ↔ ∃ off, p = .lreg 0 3 off)))
    ∧ (∀ (s : State) (n v : Nat),
      (∀ off, (n, off) ∈ [(0, 0x10), (1, 0x18), (2, 0x20)] →
        exec (.pldmSensorRead n) s = .next (answered s "PLDM" [(s.reg (modReg off)).toNat]))
      ∧ (2 < n → exec (.pldmSensorRead n) s = .next (answered s "PLDM" []))
      ∧ exec (.pldmSetEffecter v) s = .next (s.setReg (modReg 8) (BitVec.ofNat 64 (Nat.max 1000 (Nat.min 3600 v)))))
end

