-- ==== Sys2Proof/Laws/Commands.lean ====
section
/-! SUPPORT. What the shared operations of commands do: an engine's checks, the front's dispatch, a JTAG access. -/

namespace Sys2Proof.Laws

open Sys2Proof Sys2Proof.Machine

/-- A message that heads its inbox and passes its checks is performed. -/
theorem command_heads {s : State} {m : Token} {e : Engine} {acc : Bool} {l f : Nat} (h : Heads s m e acc l f) (g : State → State) :
    s.command m acc l f g = g s := by
  obtain ⟨_, h2, h3, h4, h5, h6, h7, h8, h9⟩ := h
  simp [State.command, messageCheck, h2, h3, h4, h5, h6, h7, h8, h9]

/-- A message that does not head its inbox waits. -/
theorem command_waits {s : State} {m : Token} {acc : Bool} {l f : Nat} (h : s.atHead m = false) (g : State → State) :
    s.command m acc l f g = s := by
  simp [State.command, h]

/-- The first check that a message fails, as `messageCheck` finds it. -/
theorem messageCheck_fails {m : Token} {acc : Bool} {l f st d : Nat} (h : CheckFails m acc l f st d) :
    messageCheck m acc l f = some (st, d) := by
  unfold CheckFails at h
  rcases h with ⟨a, rfl, rfl⟩ | ⟨a, b, rfl, rfl⟩ | ⟨a, b, c, rfl, rfl⟩ | ⟨a, b, c, e, rfl, rfl⟩ |
    ⟨a, b, c, e, ⟨k, rfl, rfl⟩ | ⟨k, k2, rfl, rfl⟩ | ⟨k, k2, k3, rfl, rfl⟩⟩ <;>
    simp [messageCheck, *, sBADARG, sFAULTIN, sPOISON, sBADOP, sBADLEN] <;> (intro hw; exact absurd hw a)

/-- A message at the head of its inbox that fails a check completes with that check's status. -/
theorem command_fails {s : State} {m : Token} {acc : Bool} {l f st d : Nat} (h : s.atHead m = true) (hf : CheckFails m acc l f st d)
    (g : State → State) : s.command m acc l f g = s.finish m st d [] := by
  simp [State.command, h, messageCheck_fails hf]

/-- The ready head of its queue is performed in the machine that has dispatched it. -/
theorem dispatch_ready {s t : State} {c : Cmd} {l : Nat} (h : Dispatches s c l t) (f : State → State) : s.dispatch c l f = f t := by
  obtain ⟨h1, h2, h3⟩ := h
  simp only [State.dispatch, h1, h2, h3, and_self, if_true]

/-- A command that is not the ready head of its queue is not dispatched. -/
theorem dispatch_other {s : State} {c : Cmd} {l : Nat} (h : s.readyHead c.queue ≠ some c) (f : State → State) : s.dispatch c l f = s := by
  simp only [State.dispatch, h, and_false, if_false]

/-- A JTAG access at its level, to a place in scope. -/
theorem jtag_allowed {s : State} {l : Nat} {p : Place} (h : l ≤ s.debugLevel) (h2 : p ≠ .bad) (h3 : s.inScope p = true)
    (f : State → State) : s.jtag l p f = f s := by
  simp only [State.jtag, if_pos (show l ≤ s.debugLevel ∧ p ≠ .bad ∧ s.inScope p = true from ⟨h, h2, h3⟩)]

/-- A JTAG access below its level, to no place or out of scope. -/
theorem jtag_refused {s : State} {l : Nat} {p : Place} (h : s.debugLevel < l ∨ p = .bad ∨ s.inScope p = false) (f : State → State) :
    s.jtag l p f = s.jtagRefused := by
  unfold State.jtag
  rw [if_neg]
  rintro ⟨a, b, c⟩
  rcases h with h | h | h
  · omega
  · exact b h
  · simp [c] at h

end Sys2Proof.Laws
end

