-- ==== Sys2Proof/Laws/Decode.lean ====
section
/-! SUPPORT. The fields of an encoded keeper word: an encoder's word as a number, and what the decoder reads from each of its
fields, one lemma for each field of each format (R110). -/

namespace Sys2Proof

/-- Joined bit vectors as a number. -/
theorem toNat_cat {m n : Nat} (x : BitVec m) (y : BitVec n) : (x ++ y).toNat = x.toNat * 2 ^ n + y.toNat := by
  rw [BitVec.toNat_append, Nat.shiftLeft_eq, Nat.mul_comm, Nat.two_pow_add_eq_or_of_lt y.isLt]

/-- A bit field as a number. -/
theorem toNat_field {k : Nat} (w : BitVec k) (i n : Nat) : (w.extractLsb' i n).toNat = w.toNat / 2 ^ i % 2 ^ n := by
  simp [Nat.shiftRight_eq_div_pow]

theorem encRR_toNat (m : BitVec 7) (d a b : Reg) (f : BitVec 10) :
    (encRR m d a b f).toNat = m.toNat * 2 ^ 25 + d.toNat * 2 ^ 20 + a.toNat * 2 ^ 15 + b.toNat * 2 ^ 10 + f.toNat := by
  have h : (encRR m d a b f).toNat = (m ++ d ++ a ++ b ++ f).toNat := rfl
  rw [h]; simp only [toNat_cat]; omega

@[simp] theorem kMajor_encRR (m : BitVec 7) (d a b : Reg) (f : BitVec 10) : kMajor (encRR m d a b f) = m.toNat := by
  simp only [kMajor, toNat_field, encRR_toNat, Nat.reducePow]; have := m.isLt; have := d.isLt; have := a.isLt; have := b.isLt; have := f.isLt; omega

@[simp] theorem kFieldD_encRR (m : BitVec 7) (d a b : Reg) (f : BitVec 10) : kFieldD (encRR m d a b f) = d := by
  apply BitVec.eq_of_toNat_eq
  simp only [kFieldD, toNat_field, encRR_toNat, Nat.reducePow]; have := m.isLt; have := d.isLt; have := a.isLt; have := b.isLt; have := f.isLt; omega

@[simp] theorem kFieldA_encRR (m : BitVec 7) (d a b : Reg) (f : BitVec 10) : kFieldA (encRR m d a b f) = a := by
  apply BitVec.eq_of_toNat_eq
  simp only [kFieldA, toNat_field, encRR_toNat, Nat.reducePow]; have := m.isLt; have := d.isLt; have := a.isLt; have := b.isLt; have := f.isLt; omega

@[simp] theorem kFieldB_encRR (m : BitVec 7) (d a b : Reg) (f : BitVec 10) : kFieldB (encRR m d a b f) = b := by
  apply BitVec.eq_of_toNat_eq
  simp only [kFieldB, toNat_field, encRR_toNat, Nat.reducePow]; have := m.isLt; have := d.isLt; have := a.isLt; have := b.isLt; have := f.isLt; omega

@[simp] theorem kFunc_encRR (m : BitVec 7) (d a b : Reg) (f : BitVec 10) : kFunc (encRR m d a b f) = f := by
  apply BitVec.eq_of_toNat_eq
  simp only [kFunc, toNat_field, encRR_toNat, Nat.reducePow]; have := m.isLt; have := d.isLt; have := a.isLt; have := b.isLt; have := f.isLt; omega

theorem encRI_toNat (m : BitVec 7) (d a : Reg) (i : BitVec 15) :
    (encRI m d a i).toNat = m.toNat * 2 ^ 25 + d.toNat * 2 ^ 20 + a.toNat * 2 ^ 15 + i.toNat := by
  have h : (encRI m d a i).toNat = (m ++ d ++ a ++ i).toNat := rfl
  rw [h]; simp only [toNat_cat]; omega

@[simp] theorem kMajor_encRI (m : BitVec 7) (d a : Reg) (i : BitVec 15) : kMajor (encRI m d a i) = m.toNat := by
  simp only [kMajor, toNat_field, encRI_toNat, Nat.reducePow]; have := m.isLt; have := d.isLt; have := a.isLt; have := i.isLt; omega

@[simp] theorem kFieldD_encRI (m : BitVec 7) (d a : Reg) (i : BitVec 15) : kFieldD (encRI m d a i) = d := by
  apply BitVec.eq_of_toNat_eq
  simp only [kFieldD, toNat_field, encRI_toNat, Nat.reducePow]; have := m.isLt; have := d.isLt; have := a.isLt; have := i.isLt; omega

@[simp] theorem kFieldA_encRI (m : BitVec 7) (d a : Reg) (i : BitVec 15) : kFieldA (encRI m d a i) = a := by
  apply BitVec.eq_of_toNat_eq
  simp only [kFieldA, toNat_field, encRI_toNat, Nat.reducePow]; have := m.isLt; have := d.isLt; have := a.isLt; have := i.isLt; omega

@[simp] theorem kImm15_encRI (m : BitVec 7) (d a : Reg) (i : BitVec 15) : kImm15 (encRI m d a i) = i := by
  apply BitVec.eq_of_toNat_eq
  simp only [kImm15, toNat_field, encRI_toNat, Nat.reducePow]; have := m.isLt; have := d.isLt; have := a.isLt; have := i.isLt; omega

theorem encWI_toNat (m : BitVec 7) (d : Reg) (i : BitVec 20) :
    (encWI m d i).toNat = m.toNat * 2 ^ 25 + d.toNat * 2 ^ 20 + i.toNat := by
  have h : (encWI m d i).toNat = (m ++ d ++ i).toNat := rfl
  rw [h]; simp only [toNat_cat]; omega

@[simp] theorem kMajor_encWI (m : BitVec 7) (d : Reg) (i : BitVec 20) : kMajor (encWI m d i) = m.toNat := by
  simp only [kMajor, toNat_field, encWI_toNat, Nat.reducePow]; have := m.isLt; have := d.isLt; have := i.isLt; omega

@[simp] theorem kFieldD_encWI (m : BitVec 7) (d : Reg) (i : BitVec 20) : kFieldD (encWI m d i) = d := by
  apply BitVec.eq_of_toNat_eq
  simp only [kFieldD, toNat_field, encWI_toNat, Nat.reducePow]; have := m.isLt; have := d.isLt; have := i.isLt; omega

@[simp] theorem kImm20_encWI (m : BitVec 7) (d : Reg) (i : BitVec 20) : kImm20 (encWI m d i) = i := by
  apply BitVec.eq_of_toNat_eq
  simp only [kImm20, toNat_field, encWI_toNat, Nat.reducePow]; have := m.isLt; have := d.isLt; have := i.isLt; omega

theorem encSD_toNat (m : BitVec 7) (a b : Reg) (o : BitVec 15) :
    (encSD m a b o).toNat = m.toNat * 2 ^ 25 + o.toNat / 2 ^ 10 * 2 ^ 20 + a.toNat * 2 ^ 15 + b.toNat * 2 ^ 10 + o.toNat % 2 ^ 10 := by
  have h : (encSD m a b o).toNat = (m ++ o.extractLsb' 10 5 ++ a ++ b ++ o.extractLsb' 0 10).toNat := rfl
  rw [h]; simp only [toNat_cat, toNat_field]; have := o.isLt; omega

@[simp] theorem kMajor_encSD (m : BitVec 7) (a b : Reg) (o : BitVec 15) : kMajor (encSD m a b o) = m.toNat := by
  simp only [kMajor, toNat_field, encSD_toNat, Nat.reducePow]; have := m.isLt; have := a.isLt; have := b.isLt; have := o.isLt
  have : o.toNat / 1024 < 32 := by omega
  have : o.toNat % 1024 < 1024 := by omega
  have : o.toNat = o.toNat / 1024 * 1024 + o.toNat % 1024 := by omega
  generalize o.toNat / 1024 = p at *; generalize o.toNat % 1024 = q at *
  rw [show (m.toNat * 33554432 + p * 1048576 + a.toNat * 32768 + b.toNat * 1024 + q) / 33554432 = m.toNat by omega]
  omega

@[simp] theorem kFieldA_encSD (m : BitVec 7) (a b : Reg) (o : BitVec 15) : kFieldA (encSD m a b o) = a := by
  apply BitVec.eq_of_toNat_eq
  simp only [kFieldA, toNat_field, encSD_toNat, Nat.reducePow]; have := m.isLt; have := a.isLt; have := b.isLt; have := o.isLt
  have : o.toNat / 1024 < 32 := by omega
  have : o.toNat % 1024 < 1024 := by omega
  have : o.toNat = o.toNat / 1024 * 1024 + o.toNat % 1024 := by omega
  generalize o.toNat / 1024 = p at *; generalize o.toNat % 1024 = q at *; omega

@[simp] theorem kFieldB_encSD (m : BitVec 7) (a b : Reg) (o : BitVec 15) : kFieldB (encSD m a b o) = b := by
  apply BitVec.eq_of_toNat_eq
  simp only [kFieldB, toNat_field, encSD_toNat, Nat.reducePow]; have := m.isLt; have := a.isLt; have := b.isLt; have := o.isLt
  have : o.toNat / 1024 < 32 := by omega
  have : o.toNat % 1024 < 1024 := by omega
  have : o.toNat = o.toNat / 1024 * 1024 + o.toNat % 1024 := by omega
  generalize o.toNat / 1024 = p at *; generalize o.toNat % 1024 = q at *; omega

@[simp] theorem kOff15_encSD (m : BitVec 7) (a b : Reg) (o : BitVec 15) : kOff15 (encSD m a b o) = o := by
  apply BitVec.eq_of_toNat_eq
  simp only [kOff15, toNat_cat, toNat_field, encSD_toNat, Nat.reducePow]; have := m.isLt; have := a.isLt; have := b.isLt; have := o.isLt
  have : o.toNat / 1024 < 32 := by omega
  have : o.toNat % 1024 < 1024 := by omega
  have : o.toNat = o.toNat / 1024 * 1024 + o.toNat % 1024 := by omega
  generalize o.toNat / 1024 = p at *; generalize o.toNat % 1024 = q at *
  rw [show (m.toNat * 33554432 + p * 1048576 + a.toNat * 32768 + b.toNat * 1024 + q) / 1048576 = m.toNat * 32 + p by omega,
    show (m.toNat * 33554432 + p * 1048576 + a.toNat * 32768 + b.toNat * 1024 + q) / 1 = m.toNat * 33554432 + p * 1048576 + a.toNat * 32768 + b.toNat * 1024 + q by omega]
  omega

/-- A short field widened with zeros: its high bits and its low ones. -/
theorem zeros_cat_high (n k : Nat) (x : BitVec k) : ((0#n : BitVec n) ++ x).extractLsb' k n = 0#n := by
  apply BitVec.eq_of_toNat_eq
  rw [toNat_field, toNat_cat]; simp [Nat.div_eq_of_lt x.isLt]

theorem zeros_cat_low (n k : Nat) (x : BitVec k) : ((0#n : BitVec n) ++ x).extractLsb' 0 k = x := by
  apply BitVec.eq_of_toNat_eq
  rw [toNat_field, toNat_cat]; simp [Nat.mod_eq_of_lt x.isLt]

@[simp] theorem zeros_high_9_6 (x : BitVec 6) : (0#9 ++ x : BitVec 15).extractLsb' 6 9 = 0#9 := zeros_cat_high 9 6 x

@[simp] theorem zeros_low_9_6 (x : BitVec 6) : (0#9 ++ x : BitVec 15).extractLsb' 0 6 = x := zeros_cat_low 9 6 x

@[simp] theorem zeros_high_3_12 (x : BitVec 12) : (0#3 ++ x : BitVec 15).extractLsb' 12 3 = 0#3 := zeros_cat_high 3 12 x

@[simp] theorem zeros_low_3_12 (x : BitVec 12) : (0#3 ++ x : BitVec 15).extractLsb' 0 12 = x := zeros_cat_low 3 12 x

@[simp] theorem zeros_high_9_1 (x : BitVec 1) : (0#9 ++ x : BitVec 10).extractLsb' 1 9 = 0#9 := zeros_cat_high 9 1 x

@[simp] theorem zeros_low_9_1 (x : BitVec 1) : (0#9 ++ x : BitVec 10).extractLsb' 0 1 = x := zeros_cat_low 9 1 x

@[simp] theorem zeros_high_8_2 (x : BitVec 2) : (0#8 ++ x : BitVec 10).extractLsb' 2 8 = 0#8 := zeros_cat_high 8 2 x

@[simp] theorem zeros_low_8_2 (x : BitVec 2) : (0#8 ++ x : BitVec 10).extractLsb' 0 2 = x := zeros_cat_low 8 2 x

@[simp] theorem zeros_bool_bit (x : Bool) : (0#9 ++ BitVec.ofBool x : BitVec 10)[0] = x := by cases x <;> rfl

/-- The low bits of a word of format RR are those of its function. -/
theorem encRR_low (m : BitVec 7) (d a b : Reg) (f : BitVec 10) (k : Nat) (hk : k ≤ 10) :
    (encRR m d a b f).extractLsb' 0 k = f.extractLsb' 0 k := by
  apply BitVec.eq_of_toNat_eq
  simp only [toNat_field, encRR_toNat, Nat.pow_zero, Nat.div_one]
  rw [show m.toNat * 2 ^ 25 + d.toNat * 2 ^ 20 + a.toNat * 2 ^ 15 + b.toNat * 2 ^ 10 + f.toNat =
    f.toNat + 2 ^ 10 * (m.toNat * 2 ^ 15 + d.toNat * 2 ^ 10 + a.toNat * 2 ^ 5 + b.toNat) by omega]
  obtain ⟨c, hc⟩ := Nat.pow_dvd_pow 2 hk
  rw [hc, Nat.mul_assoc, Nat.add_mul_mod_self_left]

@[simp] theorem encRR_bit0 (m : BitVec 7) (d a b : Reg) (f : BitVec 10) : (encRR m d a b f)[0] = f[0] := by
  have h := congrArg (fun v => v[0]) (encRR_low m d a b f 1 (by omega))
  simpa using h

/-- The `fence` word's required-zero bits. -/
@[simp] theorem encRR_fence_zero (m : BitVec 7) (sc : BitVec 2) : (encRR m 0#5 0#5 0#5 (0#8 ++ sc)).extractLsb' 2 23 = 0#23 := by
  apply BitVec.eq_of_toNat_eq
  simp only [toNat_field, encRR_toNat, toNat_cat]; have := sc.isLt; have := m.isLt; simp; omega

/-- Each word is the encoding of its own fields, in each format. -/
theorem encRR_fields (w : BitVec 32) (m : BitVec 7) (h : kMajor w = m.toNat) :
    encRR m (kFieldD w) (kFieldA w) (kFieldB w) (kFunc w) = w := by
  apply BitVec.eq_of_toNat_eq
  simp only [encRR_toNat, kFieldD, kFieldA, kFieldB, kFunc, kMajor, toNat_field] at h ⊢; have := w.isLt; omega

theorem encRI_fields (w : BitVec 32) (m : BitVec 7) (h : kMajor w = m.toNat) :
    encRI m (kFieldD w) (kFieldA w) (kImm15 w) = w := by
  apply BitVec.eq_of_toNat_eq
  simp only [encRI_toNat, kFieldD, kFieldA, kImm15, kMajor, toNat_field] at h ⊢; have := w.isLt; omega

theorem encWI_fields (w : BitVec 32) (m : BitVec 7) (h : kMajor w = m.toNat) : encWI m (kFieldD w) (kImm20 w) = w := by
  apply BitVec.eq_of_toNat_eq
  simp only [encWI_toNat, kFieldD, kImm20, kMajor, toNat_field] at h ⊢; have := w.isLt; omega

theorem encSD_fields (w : BitVec 32) (m : BitVec 7) (h : kMajor w = m.toNat) :
    encSD m (kFieldA w) (kFieldB w) (kOff15 w) = w := by
  apply BitVec.eq_of_toNat_eq
  simp only [encSD_toNat, kFieldA, kFieldB, kOff15, kMajor, toNat_cat, toNat_field] at h ⊢; have := w.isLt; omega

end Sys2Proof
end

