-- ==== Sys2Proof/Laws/State.lean ====
section
/-! SUPPORT. What each plain update of the state leaves: one lemma for each field it does not change, true by unfolding, and
reading back what it writes. -/

namespace Sys2Proof.Machine

/-! ## Tables -/

@[simp] theorem Tab.get_set {α : Type} (d : α) (t : Tab α) (k j : Nat) (v : α) :
    Tab.get d (Tab.set t k v) j = if k = j then v else Tab.get d t j := by
  induction t with
  | nil => simp [Tab.set, Tab.get]
  | cons e t ih =>
    obtain ⟨i, w⟩ := e
    by_cases h1 : i = k
    · by_cases h : k = j <;> simp [Tab.set, Tab.get, h1, h]
    · by_cases h2 : k < i
      · by_cases h : k = j
        · subst h; simp [Tab.set, Tab.get, h1, h2]
        · simp [Tab.set, Tab.get, h1, h2, h]
      · by_cases h : i = j
        · subst h; simp [Tab.set, Tab.get, h1, h2]; intro h3; omega
        · simp [Tab.set, Tab.get, h1, h2, h, ih]

@[simp] theorem Tab.set_set {α : Type} (t : Tab α) (k : Nat) (v w : α) :
    Tab.set (Tab.set t k v) k w = Tab.set t k w := by
  induction t with
  | nil => simp [Tab.set]
  | cons e t ih =>
    obtain ⟨i, u⟩ := e
    simp only [Tab.set]
    split
    · simp [Tab.set]
    · split
      · simp [Tab.set]
      · rename_i h1 h2; simp [Tab.set, h1, h2, ih]

/-! ## Reading back -/

@[simp] theorem State.reg_setReg (s : State) (pa : Nat) (v : Word) (j : Nat) :
    (s.setReg pa v).reg j = if pa = j then v else s.reg j := by
  simp only [State.reg, State.setReg, Tab.get_set]

@[simp] theorem State.cell_setCell (s : State) (ci : Nat) (c : Cell) (j : Nat) :
    (s.setCell ci c).cell j = if ci = j then c else s.cell j := by
  simp only [State.cell, State.setCell, Tab.get_set]

@[simp] theorem State.keeper_setKeeper (s : State) (ps : Nat) (k : Keeper) (j : Nat) :
    (s.setKeeper ps k).keeper j = if ps = j then k else s.keeper j := by
  simp only [State.keeper, State.setKeeper, Tab.get_set]

@[simp] theorem State.spill_setSpill (s : State) (ps : Nat) (u : SpillUnit) (j : Nat) :
    (s.setSpill ps u).spill j = if ps = j then u else s.spill j := by
  simp only [State.spill, State.setSpill, Tab.get_set]

@[simp] theorem State.pool_setPool (s : State) (pl : Nat) (p : Pool) (j : Nat) :
    (s.setPool pl p).pool j = if pl = j then p else s.pool j := by
  simp only [State.pool, State.setPool, Tab.get_set]

@[simp] theorem State.ladder_setLadder (s : State) (ps : Nat) (l : Ladder) (j : Nat) :
    (s.setLadder ps l).ladder j = if ps = j then l else s.ladder j := by
  simp only [State.ladder, State.setLadder, Tab.get_set]

@[simp] theorem State.stack_setStack (s : State) (st : Nat) (k : Stack) (j : Nat) :
    (s.setStack st k).stack j = if st = j then k else s.stack j := by
  simp only [State.stack, State.setStack, Tab.get_set]

@[simp] theorem State.queue_setQueue (s : State) (q : Nat) (k : QueueSt) (j : Nat) :
    (s.setQueue q k).queue j = if q = j then k else s.queue j := by
  simp only [State.queue, State.setQueue, Tab.get_set]

@[simp] theorem State.inbox_setInbox (s : State) (key : Nat) (ts : List (Nat × Token)) (j : Nat) :
    (s.setInbox key ts).inbox j = if key = j then ts else s.inbox j := by
  simp only [State.inbox, State.setInbox, Tab.get_set]

/-! ## What each update leaves alone -/

@[simp] theorem State.cell_setReg (s : State) (pa : Nat) (v : Word) (j : Nat) : (s.setReg pa v).cell j = s.cell j := rfl
@[simp] theorem State.keeper_setReg (s : State) (pa : Nat) (v : Word) (j : Nat) : (s.setReg pa v).keeper j = s.keeper j := rfl
@[simp] theorem State.spill_setReg (s : State) (pa : Nat) (v : Word) (j : Nat) : (s.setReg pa v).spill j = s.spill j := rfl
@[simp] theorem State.pool_setReg (s : State) (pa : Nat) (v : Word) (j : Nat) : (s.setReg pa v).pool j = s.pool j := rfl
@[simp] theorem State.ladder_setReg (s : State) (pa : Nat) (v : Word) (j : Nat) : (s.setReg pa v).ladder j = s.ladder j := rfl
@[simp] theorem State.stack_setReg (s : State) (pa : Nat) (v : Word) (j : Nat) : (s.setReg pa v).stack j = s.stack j := rfl
@[simp] theorem State.queue_setReg (s : State) (pa : Nat) (v : Word) (j : Nat) : (s.setReg pa v).queue j = s.queue j := rfl
@[simp] theorem State.inbox_setReg (s : State) (pa : Nat) (v : Word) (j : Nat) : (s.setReg pa v).inbox j = s.inbox j := rfl
@[simp] theorem State.power_setReg (s : State) (pa : Nat) (v : Word) : (s.setReg pa v).power = s.power := rfl
@[simp] theorem State.thermtrip_setReg (s : State) (pa : Nat) (v : Word) : (s.setReg pa v).thermtrip = s.thermtrip := rfl
@[simp] theorem State.clk_setReg (s : State) (pa : Nat) (v : Word) : (s.setReg pa v).clk = s.clk := rfl
@[simp] theorem State.timer_setReg (s : State) (pa : Nat) (v : Word) : (s.setReg pa v).timer = s.timer := rfl
@[simp] theorem State.free_setReg (s : State) (pa : Nat) (v : Word) : (s.setReg pa v).free = s.free := rfl
@[simp] theorem State.inputs_setReg (s : State) (pa : Nat) (v : Word) : (s.setReg pa v).inputs = s.inputs := rfl
@[simp] theorem State.cur_setReg (s : State) (pa : Nat) (v : Word) : (s.setReg pa v).cur = s.cur := rfl
@[simp] theorem State.issue_setReg (s : State) (pa : Nat) (v : Word) : (s.setReg pa v).issue = s.issue := rfl
@[simp] theorem State.mem_setReg (s : State) (pa : Nat) (v : Word) : (s.setReg pa v).mem = s.mem := rfl
@[simp] theorem State.poison_setReg (s : State) (pa : Nat) (v : Word) : (s.setReg pa v).poison = s.poison := rfl
@[simp] theorem State.keepers_setReg (s : State) (pa : Nat) (v : Word) : (s.setReg pa v).keepers = s.keepers := rfl
@[simp] theorem State.cells_setReg (s : State) (pa : Nat) (v : Word) : (s.setReg pa v).cells = s.cells := rfl
@[simp] theorem State.spills_setReg (s : State) (pa : Nat) (v : Word) : (s.setReg pa v).spills = s.spills := rfl
@[simp] theorem State.net_setReg (s : State) (pa : Nat) (v : Word) : (s.setReg pa v).net = s.net := rfl
@[simp] theorem State.inboxes_setReg (s : State) (pa : Nat) (v : Word) : (s.setReg pa v).inboxes = s.inboxes := rfl
@[simp] theorem State.busy_setReg (s : State) (pa : Nat) (v : Word) : (s.setReg pa v).busy = s.busy := rfl
@[simp] theorem State.accesses_setReg (s : State) (pa : Nat) (v : Word) : (s.setReg pa v).accesses = s.accesses := rfl
@[simp] theorem State.chains_setReg (s : State) (pa : Nat) (v : Word) : (s.setReg pa v).chains = s.chains := rfl
@[simp] theorem State.atomicNext_setReg (s : State) (pa : Nat) (v : Word) : (s.setReg pa v).atomicNext = s.atomicNext := rfl
@[simp] theorem State.copyNext_setReg (s : State) (pa : Nat) (v : Word) : (s.setReg pa v).copyNext = s.copyNext := rfl
@[simp] theorem State.nextId_setReg (s : State) (pa : Nat) (v : Word) : (s.setReg pa v).nextId = s.nextId := rfl
@[simp] theorem State.xlations_setReg (s : State) (pa : Nat) (v : Word) : (s.setReg pa v).xlations = s.xlations := rfl
@[simp] theorem State.walkCache_setReg (s : State) (pa : Nat) (v : Word) : (s.setReg pa v).walkCache = s.walkCache := rfl
@[simp] theorem State.viewStamps_setReg (s : State) (pa : Nat) (v : Word) : (s.setReg pa v).viewStamps = s.viewStamps := rfl
@[simp] theorem State.moves_setReg (s : State) (pa : Nat) (v : Word) : (s.setReg pa v).moves = s.moves := rfl
@[simp] theorem State.fills_setReg (s : State) (pa : Nat) (v : Word) : (s.setReg pa v).fills = s.fills := rfl
@[simp] theorem State.shoots_setReg (s : State) (pa : Nat) (v : Word) : (s.setReg pa v).shoots = s.shoots := rfl
@[simp] theorem State.halved_setReg (s : State) (pa : Nat) (v : Word) : (s.setReg pa v).halved = s.halved := rfl
@[simp] theorem State.autoQ_setReg (s : State) (pa : Nat) (v : Word) : (s.setReg pa v).autoQ = s.autoQ := rfl
@[simp] theorem State.contexts_setReg (s : State) (pa : Nat) (v : Word) : (s.setReg pa v).contexts = s.contexts := rfl
@[simp] theorem State.queues_setReg (s : State) (pa : Nat) (v : Word) : (s.setReg pa v).queues = s.queues := rfl
@[simp] theorem State.served_setReg (s : State) (pa : Nat) (v : Word) : (s.setReg pa v).served = s.served := rfl
@[simp] theorem State.fdrains_setReg (s : State) (pa : Nat) (v : Word) : (s.setReg pa v).fdrains = s.fdrains := rfl
@[simp] theorem State.resets_setReg (s : State) (pa : Nat) (v : Word) : (s.setReg pa v).resets = s.resets := rfl
@[simp] theorem State.restores_setReg (s : State) (pa : Nat) (v : Word) : (s.setReg pa v).restores = s.restores := rfl
@[simp] theorem State.waking_setReg (s : State) (pa : Nat) (v : Word) : (s.setReg pa v).waking = s.waking := rfl
@[simp] theorem State.muted_setReg (s : State) (pa : Nat) (v : Word) : (s.setReg pa v).muted = s.muted := rfl
@[simp] theorem State.flrHold_setReg (s : State) (pa : Nat) (v : Word) : (s.setReg pa v).flrHold = s.flrHold := rfl
@[simp] theorem State.images_setReg (s : State) (pa : Nat) (v : Word) : (s.setReg pa v).images = s.images := rfl
@[simp] theorem State.msix_setReg (s : State) (pa : Nat) (v : Word) : (s.setReg pa v).msix = s.msix := rfl
@[simp] theorem State.bar0_setReg (s : State) (pa : Nat) (v : Word) : (s.setReg pa v).bar0 = s.bar0 := rfl
@[simp] theorem State.groups_setReg (s : State) (pa : Nat) (v : Word) : (s.setReg pa v).groups = s.groups := rfl
@[simp] theorem State.colls_setReg (s : State) (pa : Nat) (v : Word) : (s.setReg pa v).colls = s.colls := rfl
@[simp] theorem State.remotes_setReg (s : State) (pa : Nat) (v : Word) : (s.setReg pa v).remotes = s.remotes := rfl
@[simp] theorem State.inboundDone_setReg (s : State) (pa : Nat) (v : Word) : (s.setReg pa v).inboundDone = s.inboundDone := rfl
@[simp] theorem State.inboundWait_setReg (s : State) (pa : Nat) (v : Word) : (s.setReg pa v).inboundWait = s.inboundWait := rfl
@[simp] theorem State.earlyJoins_setReg (s : State) (pa : Nat) (v : Word) : (s.setReg pa v).earlyJoins = s.earlyJoins := rfl
@[simp] theorem State.earlyDescs_setReg (s : State) (pa : Nat) (v : Word) : (s.setReg pa v).earlyDescs = s.earlyDescs := rfl
@[simp] theorem State.sentDescs_setReg (s : State) (pa : Nat) (v : Word) : (s.setReg pa v).sentDescs = s.sentDescs := rfl
@[simp] theorem State.cust_setReg (s : State) (pa : Nat) (v : Word) : (s.setReg pa v).cust = s.cust := rfl
@[simp] theorem State.pools_setReg (s : State) (pa : Nat) (v : Word) : (s.setReg pa v).pools = s.pools := rfl
@[simp] theorem State.ladders_setReg (s : State) (pa : Nat) (v : Word) : (s.setReg pa v).ladders = s.ladders := rfl
@[simp] theorem State.stackUnits_setReg (s : State) (pa : Nat) (v : Word) : (s.setReg pa v).stackUnits = s.stackUnits := rfl

@[simp] theorem State.reg_setCell (s : State) (ci : Nat) (c : Cell) (j : Nat) : (s.setCell ci c).reg j = s.reg j := rfl
@[simp] theorem State.keeper_setCell (s : State) (ci : Nat) (c : Cell) (j : Nat) : (s.setCell ci c).keeper j = s.keeper j := rfl
@[simp] theorem State.spill_setCell (s : State) (ci : Nat) (c : Cell) (j : Nat) : (s.setCell ci c).spill j = s.spill j := rfl
@[simp] theorem State.pool_setCell (s : State) (ci : Nat) (c : Cell) (j : Nat) : (s.setCell ci c).pool j = s.pool j := rfl
@[simp] theorem State.ladder_setCell (s : State) (ci : Nat) (c : Cell) (j : Nat) : (s.setCell ci c).ladder j = s.ladder j := rfl
@[simp] theorem State.stack_setCell (s : State) (ci : Nat) (c : Cell) (j : Nat) : (s.setCell ci c).stack j = s.stack j := rfl
@[simp] theorem State.queue_setCell (s : State) (ci : Nat) (c : Cell) (j : Nat) : (s.setCell ci c).queue j = s.queue j := rfl
@[simp] theorem State.inbox_setCell (s : State) (ci : Nat) (c : Cell) (j : Nat) : (s.setCell ci c).inbox j = s.inbox j := rfl
@[simp] theorem State.power_setCell (s : State) (ci : Nat) (c : Cell) : (s.setCell ci c).power = s.power := rfl
@[simp] theorem State.thermtrip_setCell (s : State) (ci : Nat) (c : Cell) : (s.setCell ci c).thermtrip = s.thermtrip := rfl
@[simp] theorem State.clk_setCell (s : State) (ci : Nat) (c : Cell) : (s.setCell ci c).clk = s.clk := rfl
@[simp] theorem State.timer_setCell (s : State) (ci : Nat) (c : Cell) : (s.setCell ci c).timer = s.timer := rfl
@[simp] theorem State.free_setCell (s : State) (ci : Nat) (c : Cell) : (s.setCell ci c).free = s.free := rfl
@[simp] theorem State.inputs_setCell (s : State) (ci : Nat) (c : Cell) : (s.setCell ci c).inputs = s.inputs := rfl
@[simp] theorem State.cur_setCell (s : State) (ci : Nat) (c : Cell) : (s.setCell ci c).cur = s.cur := rfl
@[simp] theorem State.issue_setCell (s : State) (ci : Nat) (c : Cell) : (s.setCell ci c).issue = s.issue := rfl
@[simp] theorem State.mem_setCell (s : State) (ci : Nat) (c : Cell) : (s.setCell ci c).mem = s.mem := rfl
@[simp] theorem State.poison_setCell (s : State) (ci : Nat) (c : Cell) : (s.setCell ci c).poison = s.poison := rfl
@[simp] theorem State.regs_setCell (s : State) (ci : Nat) (c : Cell) : (s.setCell ci c).regs = s.regs := rfl
@[simp] theorem State.keepers_setCell (s : State) (ci : Nat) (c : Cell) : (s.setCell ci c).keepers = s.keepers := rfl
@[simp] theorem State.spills_setCell (s : State) (ci : Nat) (c : Cell) : (s.setCell ci c).spills = s.spills := rfl
@[simp] theorem State.net_setCell (s : State) (ci : Nat) (c : Cell) : (s.setCell ci c).net = s.net := rfl
@[simp] theorem State.inboxes_setCell (s : State) (ci : Nat) (c : Cell) : (s.setCell ci c).inboxes = s.inboxes := rfl
@[simp] theorem State.busy_setCell (s : State) (ci : Nat) (c : Cell) : (s.setCell ci c).busy = s.busy := rfl
@[simp] theorem State.accesses_setCell (s : State) (ci : Nat) (c : Cell) : (s.setCell ci c).accesses = s.accesses := rfl
@[simp] theorem State.chains_setCell (s : State) (ci : Nat) (c : Cell) : (s.setCell ci c).chains = s.chains := rfl
@[simp] theorem State.atomicNext_setCell (s : State) (ci : Nat) (c : Cell) : (s.setCell ci c).atomicNext = s.atomicNext := rfl
@[simp] theorem State.copyNext_setCell (s : State) (ci : Nat) (c : Cell) : (s.setCell ci c).copyNext = s.copyNext := rfl
@[simp] theorem State.nextId_setCell (s : State) (ci : Nat) (c : Cell) : (s.setCell ci c).nextId = s.nextId := rfl
@[simp] theorem State.xlations_setCell (s : State) (ci : Nat) (c : Cell) : (s.setCell ci c).xlations = s.xlations := rfl
@[simp] theorem State.walkCache_setCell (s : State) (ci : Nat) (c : Cell) : (s.setCell ci c).walkCache = s.walkCache := rfl
@[simp] theorem State.viewStamps_setCell (s : State) (ci : Nat) (c : Cell) : (s.setCell ci c).viewStamps = s.viewStamps := rfl
@[simp] theorem State.moves_setCell (s : State) (ci : Nat) (c : Cell) : (s.setCell ci c).moves = s.moves := rfl
@[simp] theorem State.fills_setCell (s : State) (ci : Nat) (c : Cell) : (s.setCell ci c).fills = s.fills := rfl
@[simp] theorem State.shoots_setCell (s : State) (ci : Nat) (c : Cell) : (s.setCell ci c).shoots = s.shoots := rfl
@[simp] theorem State.halved_setCell (s : State) (ci : Nat) (c : Cell) : (s.setCell ci c).halved = s.halved := rfl
@[simp] theorem State.autoQ_setCell (s : State) (ci : Nat) (c : Cell) : (s.setCell ci c).autoQ = s.autoQ := rfl
@[simp] theorem State.contexts_setCell (s : State) (ci : Nat) (c : Cell) : (s.setCell ci c).contexts = s.contexts := rfl
@[simp] theorem State.queues_setCell (s : State) (ci : Nat) (c : Cell) : (s.setCell ci c).queues = s.queues := rfl
@[simp] theorem State.served_setCell (s : State) (ci : Nat) (c : Cell) : (s.setCell ci c).served = s.served := rfl
@[simp] theorem State.fdrains_setCell (s : State) (ci : Nat) (c : Cell) : (s.setCell ci c).fdrains = s.fdrains := rfl
@[simp] theorem State.resets_setCell (s : State) (ci : Nat) (c : Cell) : (s.setCell ci c).resets = s.resets := rfl
@[simp] theorem State.restores_setCell (s : State) (ci : Nat) (c : Cell) : (s.setCell ci c).restores = s.restores := rfl
@[simp] theorem State.waking_setCell (s : State) (ci : Nat) (c : Cell) : (s.setCell ci c).waking = s.waking := rfl
@[simp] theorem State.muted_setCell (s : State) (ci : Nat) (c : Cell) : (s.setCell ci c).muted = s.muted := rfl
@[simp] theorem State.flrHold_setCell (s : State) (ci : Nat) (c : Cell) : (s.setCell ci c).flrHold = s.flrHold := rfl
@[simp] theorem State.images_setCell (s : State) (ci : Nat) (c : Cell) : (s.setCell ci c).images = s.images := rfl
@[simp] theorem State.msix_setCell (s : State) (ci : Nat) (c : Cell) : (s.setCell ci c).msix = s.msix := rfl
@[simp] theorem State.bar0_setCell (s : State) (ci : Nat) (c : Cell) : (s.setCell ci c).bar0 = s.bar0 := rfl
@[simp] theorem State.groups_setCell (s : State) (ci : Nat) (c : Cell) : (s.setCell ci c).groups = s.groups := rfl
@[simp] theorem State.colls_setCell (s : State) (ci : Nat) (c : Cell) : (s.setCell ci c).colls = s.colls := rfl
@[simp] theorem State.remotes_setCell (s : State) (ci : Nat) (c : Cell) : (s.setCell ci c).remotes = s.remotes := rfl
@[simp] theorem State.inboundDone_setCell (s : State) (ci : Nat) (c : Cell) : (s.setCell ci c).inboundDone = s.inboundDone := rfl
@[simp] theorem State.inboundWait_setCell (s : State) (ci : Nat) (c : Cell) : (s.setCell ci c).inboundWait = s.inboundWait := rfl
@[simp] theorem State.earlyJoins_setCell (s : State) (ci : Nat) (c : Cell) : (s.setCell ci c).earlyJoins = s.earlyJoins := rfl
@[simp] theorem State.earlyDescs_setCell (s : State) (ci : Nat) (c : Cell) : (s.setCell ci c).earlyDescs = s.earlyDescs := rfl
@[simp] theorem State.sentDescs_setCell (s : State) (ci : Nat) (c : Cell) : (s.setCell ci c).sentDescs = s.sentDescs := rfl
@[simp] theorem State.cust_setCell (s : State) (ci : Nat) (c : Cell) : (s.setCell ci c).cust = s.cust := rfl
@[simp] theorem State.pools_setCell (s : State) (ci : Nat) (c : Cell) : (s.setCell ci c).pools = s.pools := rfl
@[simp] theorem State.ladders_setCell (s : State) (ci : Nat) (c : Cell) : (s.setCell ci c).ladders = s.ladders := rfl
@[simp] theorem State.stackUnits_setCell (s : State) (ci : Nat) (c : Cell) : (s.setCell ci c).stackUnits = s.stackUnits := rfl

@[simp] theorem State.reg_setKeeper (s : State) (ps : Nat) (k : Keeper) (j : Nat) : (s.setKeeper ps k).reg j = s.reg j := rfl
@[simp] theorem State.cell_setKeeper (s : State) (ps : Nat) (k : Keeper) (j : Nat) : (s.setKeeper ps k).cell j = s.cell j := rfl
@[simp] theorem State.spill_setKeeper (s : State) (ps : Nat) (k : Keeper) (j : Nat) : (s.setKeeper ps k).spill j = s.spill j := rfl
@[simp] theorem State.pool_setKeeper (s : State) (ps : Nat) (k : Keeper) (j : Nat) : (s.setKeeper ps k).pool j = s.pool j := rfl
@[simp] theorem State.ladder_setKeeper (s : State) (ps : Nat) (k : Keeper) (j : Nat) : (s.setKeeper ps k).ladder j = s.ladder j := rfl
@[simp] theorem State.stack_setKeeper (s : State) (ps : Nat) (k : Keeper) (j : Nat) : (s.setKeeper ps k).stack j = s.stack j := rfl
@[simp] theorem State.queue_setKeeper (s : State) (ps : Nat) (k : Keeper) (j : Nat) : (s.setKeeper ps k).queue j = s.queue j := rfl
@[simp] theorem State.inbox_setKeeper (s : State) (ps : Nat) (k : Keeper) (j : Nat) : (s.setKeeper ps k).inbox j = s.inbox j := rfl
@[simp] theorem State.power_setKeeper (s : State) (ps : Nat) (k : Keeper) : (s.setKeeper ps k).power = s.power := rfl
@[simp] theorem State.thermtrip_setKeeper (s : State) (ps : Nat) (k : Keeper) : (s.setKeeper ps k).thermtrip = s.thermtrip := rfl
@[simp] theorem State.clk_setKeeper (s : State) (ps : Nat) (k : Keeper) : (s.setKeeper ps k).clk = s.clk := rfl
@[simp] theorem State.timer_setKeeper (s : State) (ps : Nat) (k : Keeper) : (s.setKeeper ps k).timer = s.timer := rfl
@[simp] theorem State.free_setKeeper (s : State) (ps : Nat) (k : Keeper) : (s.setKeeper ps k).free = s.free := rfl
@[simp] theorem State.inputs_setKeeper (s : State) (ps : Nat) (k : Keeper) : (s.setKeeper ps k).inputs = s.inputs := rfl
@[simp] theorem State.cur_setKeeper (s : State) (ps : Nat) (k : Keeper) : (s.setKeeper ps k).cur = s.cur := rfl
@[simp] theorem State.issue_setKeeper (s : State) (ps : Nat) (k : Keeper) : (s.setKeeper ps k).issue = s.issue := rfl
@[simp] theorem State.mem_setKeeper (s : State) (ps : Nat) (k : Keeper) : (s.setKeeper ps k).mem = s.mem := rfl
@[simp] theorem State.poison_setKeeper (s : State) (ps : Nat) (k : Keeper) : (s.setKeeper ps k).poison = s.poison := rfl
@[simp] theorem State.regs_setKeeper (s : State) (ps : Nat) (k : Keeper) : (s.setKeeper ps k).regs = s.regs := rfl
@[simp] theorem State.cells_setKeeper (s : State) (ps : Nat) (k : Keeper) : (s.setKeeper ps k).cells = s.cells := rfl
@[simp] theorem State.spills_setKeeper (s : State) (ps : Nat) (k : Keeper) : (s.setKeeper ps k).spills = s.spills := rfl
@[simp] theorem State.net_setKeeper (s : State) (ps : Nat) (k : Keeper) : (s.setKeeper ps k).net = s.net := rfl
@[simp] theorem State.inboxes_setKeeper (s : State) (ps : Nat) (k : Keeper) : (s.setKeeper ps k).inboxes = s.inboxes := rfl
@[simp] theorem State.busy_setKeeper (s : State) (ps : Nat) (k : Keeper) : (s.setKeeper ps k).busy = s.busy := rfl
@[simp] theorem State.accesses_setKeeper (s : State) (ps : Nat) (k : Keeper) : (s.setKeeper ps k).accesses = s.accesses := rfl
@[simp] theorem State.chains_setKeeper (s : State) (ps : Nat) (k : Keeper) : (s.setKeeper ps k).chains = s.chains := rfl
@[simp] theorem State.atomicNext_setKeeper (s : State) (ps : Nat) (k : Keeper) : (s.setKeeper ps k).atomicNext = s.atomicNext := rfl
@[simp] theorem State.copyNext_setKeeper (s : State) (ps : Nat) (k : Keeper) : (s.setKeeper ps k).copyNext = s.copyNext := rfl
@[simp] theorem State.nextId_setKeeper (s : State) (ps : Nat) (k : Keeper) : (s.setKeeper ps k).nextId = s.nextId := rfl
@[simp] theorem State.xlations_setKeeper (s : State) (ps : Nat) (k : Keeper) : (s.setKeeper ps k).xlations = s.xlations := rfl
@[simp] theorem State.walkCache_setKeeper (s : State) (ps : Nat) (k : Keeper) : (s.setKeeper ps k).walkCache = s.walkCache := rfl
@[simp] theorem State.viewStamps_setKeeper (s : State) (ps : Nat) (k : Keeper) : (s.setKeeper ps k).viewStamps = s.viewStamps := rfl
@[simp] theorem State.moves_setKeeper (s : State) (ps : Nat) (k : Keeper) : (s.setKeeper ps k).moves = s.moves := rfl
@[simp] theorem State.fills_setKeeper (s : State) (ps : Nat) (k : Keeper) : (s.setKeeper ps k).fills = s.fills := rfl
@[simp] theorem State.shoots_setKeeper (s : State) (ps : Nat) (k : Keeper) : (s.setKeeper ps k).shoots = s.shoots := rfl
@[simp] theorem State.halved_setKeeper (s : State) (ps : Nat) (k : Keeper) : (s.setKeeper ps k).halved = s.halved := rfl
@[simp] theorem State.autoQ_setKeeper (s : State) (ps : Nat) (k : Keeper) : (s.setKeeper ps k).autoQ = s.autoQ := rfl
@[simp] theorem State.contexts_setKeeper (s : State) (ps : Nat) (k : Keeper) : (s.setKeeper ps k).contexts = s.contexts := rfl
@[simp] theorem State.queues_setKeeper (s : State) (ps : Nat) (k : Keeper) : (s.setKeeper ps k).queues = s.queues := rfl
@[simp] theorem State.served_setKeeper (s : State) (ps : Nat) (k : Keeper) : (s.setKeeper ps k).served = s.served := rfl
@[simp] theorem State.fdrains_setKeeper (s : State) (ps : Nat) (k : Keeper) : (s.setKeeper ps k).fdrains = s.fdrains := rfl
@[simp] theorem State.resets_setKeeper (s : State) (ps : Nat) (k : Keeper) : (s.setKeeper ps k).resets = s.resets := rfl
@[simp] theorem State.restores_setKeeper (s : State) (ps : Nat) (k : Keeper) : (s.setKeeper ps k).restores = s.restores := rfl
@[simp] theorem State.waking_setKeeper (s : State) (ps : Nat) (k : Keeper) : (s.setKeeper ps k).waking = s.waking := rfl
@[simp] theorem State.muted_setKeeper (s : State) (ps : Nat) (k : Keeper) : (s.setKeeper ps k).muted = s.muted := rfl
@[simp] theorem State.flrHold_setKeeper (s : State) (ps : Nat) (k : Keeper) : (s.setKeeper ps k).flrHold = s.flrHold := rfl
@[simp] theorem State.images_setKeeper (s : State) (ps : Nat) (k : Keeper) : (s.setKeeper ps k).images = s.images := rfl
@[simp] theorem State.msix_setKeeper (s : State) (ps : Nat) (k : Keeper) : (s.setKeeper ps k).msix = s.msix := rfl
@[simp] theorem State.bar0_setKeeper (s : State) (ps : Nat) (k : Keeper) : (s.setKeeper ps k).bar0 = s.bar0 := rfl
@[simp] theorem State.groups_setKeeper (s : State) (ps : Nat) (k : Keeper) : (s.setKeeper ps k).groups = s.groups := rfl
@[simp] theorem State.colls_setKeeper (s : State) (ps : Nat) (k : Keeper) : (s.setKeeper ps k).colls = s.colls := rfl
@[simp] theorem State.remotes_setKeeper (s : State) (ps : Nat) (k : Keeper) : (s.setKeeper ps k).remotes = s.remotes := rfl
@[simp] theorem State.inboundDone_setKeeper (s : State) (ps : Nat) (k : Keeper) : (s.setKeeper ps k).inboundDone = s.inboundDone := rfl
@[simp] theorem State.inboundWait_setKeeper (s : State) (ps : Nat) (k : Keeper) : (s.setKeeper ps k).inboundWait = s.inboundWait := rfl
@[simp] theorem State.earlyJoins_setKeeper (s : State) (ps : Nat) (k : Keeper) : (s.setKeeper ps k).earlyJoins = s.earlyJoins := rfl
@[simp] theorem State.earlyDescs_setKeeper (s : State) (ps : Nat) (k : Keeper) : (s.setKeeper ps k).earlyDescs = s.earlyDescs := rfl
@[simp] theorem State.sentDescs_setKeeper (s : State) (ps : Nat) (k : Keeper) : (s.setKeeper ps k).sentDescs = s.sentDescs := rfl
@[simp] theorem State.cust_setKeeper (s : State) (ps : Nat) (k : Keeper) : (s.setKeeper ps k).cust = s.cust := rfl
@[simp] theorem State.pools_setKeeper (s : State) (ps : Nat) (k : Keeper) : (s.setKeeper ps k).pools = s.pools := rfl
@[simp] theorem State.ladders_setKeeper (s : State) (ps : Nat) (k : Keeper) : (s.setKeeper ps k).ladders = s.ladders := rfl
@[simp] theorem State.stackUnits_setKeeper (s : State) (ps : Nat) (k : Keeper) : (s.setKeeper ps k).stackUnits = s.stackUnits := rfl

@[simp] theorem State.reg_setSpill (s : State) (ps : Nat) (u : SpillUnit) (j : Nat) : (s.setSpill ps u).reg j = s.reg j := rfl
@[simp] theorem State.cell_setSpill (s : State) (ps : Nat) (u : SpillUnit) (j : Nat) : (s.setSpill ps u).cell j = s.cell j := rfl
@[simp] theorem State.keeper_setSpill (s : State) (ps : Nat) (u : SpillUnit) (j : Nat) : (s.setSpill ps u).keeper j = s.keeper j := rfl
@[simp] theorem State.pool_setSpill (s : State) (ps : Nat) (u : SpillUnit) (j : Nat) : (s.setSpill ps u).pool j = s.pool j := rfl
@[simp] theorem State.ladder_setSpill (s : State) (ps : Nat) (u : SpillUnit) (j : Nat) : (s.setSpill ps u).ladder j = s.ladder j := rfl
@[simp] theorem State.stack_setSpill (s : State) (ps : Nat) (u : SpillUnit) (j : Nat) : (s.setSpill ps u).stack j = s.stack j := rfl
@[simp] theorem State.queue_setSpill (s : State) (ps : Nat) (u : SpillUnit) (j : Nat) : (s.setSpill ps u).queue j = s.queue j := rfl
@[simp] theorem State.inbox_setSpill (s : State) (ps : Nat) (u : SpillUnit) (j : Nat) : (s.setSpill ps u).inbox j = s.inbox j := rfl
@[simp] theorem State.power_setSpill (s : State) (ps : Nat) (u : SpillUnit) : (s.setSpill ps u).power = s.power := rfl
@[simp] theorem State.thermtrip_setSpill (s : State) (ps : Nat) (u : SpillUnit) : (s.setSpill ps u).thermtrip = s.thermtrip := rfl
@[simp] theorem State.clk_setSpill (s : State) (ps : Nat) (u : SpillUnit) : (s.setSpill ps u).clk = s.clk := rfl
@[simp] theorem State.timer_setSpill (s : State) (ps : Nat) (u : SpillUnit) : (s.setSpill ps u).timer = s.timer := rfl
@[simp] theorem State.free_setSpill (s : State) (ps : Nat) (u : SpillUnit) : (s.setSpill ps u).free = s.free := rfl
@[simp] theorem State.inputs_setSpill (s : State) (ps : Nat) (u : SpillUnit) : (s.setSpill ps u).inputs = s.inputs := rfl
@[simp] theorem State.cur_setSpill (s : State) (ps : Nat) (u : SpillUnit) : (s.setSpill ps u).cur = s.cur := rfl
@[simp] theorem State.issue_setSpill (s : State) (ps : Nat) (u : SpillUnit) : (s.setSpill ps u).issue = s.issue := rfl
@[simp] theorem State.mem_setSpill (s : State) (ps : Nat) (u : SpillUnit) : (s.setSpill ps u).mem = s.mem := rfl
@[simp] theorem State.poison_setSpill (s : State) (ps : Nat) (u : SpillUnit) : (s.setSpill ps u).poison = s.poison := rfl
@[simp] theorem State.regs_setSpill (s : State) (ps : Nat) (u : SpillUnit) : (s.setSpill ps u).regs = s.regs := rfl
@[simp] theorem State.keepers_setSpill (s : State) (ps : Nat) (u : SpillUnit) : (s.setSpill ps u).keepers = s.keepers := rfl
@[simp] theorem State.cells_setSpill (s : State) (ps : Nat) (u : SpillUnit) : (s.setSpill ps u).cells = s.cells := rfl
@[simp] theorem State.net_setSpill (s : State) (ps : Nat) (u : SpillUnit) : (s.setSpill ps u).net = s.net := rfl
@[simp] theorem State.inboxes_setSpill (s : State) (ps : Nat) (u : SpillUnit) : (s.setSpill ps u).inboxes = s.inboxes := rfl
@[simp] theorem State.busy_setSpill (s : State) (ps : Nat) (u : SpillUnit) : (s.setSpill ps u).busy = s.busy := rfl
@[simp] theorem State.accesses_setSpill (s : State) (ps : Nat) (u : SpillUnit) : (s.setSpill ps u).accesses = s.accesses := rfl
@[simp] theorem State.chains_setSpill (s : State) (ps : Nat) (u : SpillUnit) : (s.setSpill ps u).chains = s.chains := rfl
@[simp] theorem State.atomicNext_setSpill (s : State) (ps : Nat) (u : SpillUnit) : (s.setSpill ps u).atomicNext = s.atomicNext := rfl
@[simp] theorem State.copyNext_setSpill (s : State) (ps : Nat) (u : SpillUnit) : (s.setSpill ps u).copyNext = s.copyNext := rfl
@[simp] theorem State.nextId_setSpill (s : State) (ps : Nat) (u : SpillUnit) : (s.setSpill ps u).nextId = s.nextId := rfl
@[simp] theorem State.xlations_setSpill (s : State) (ps : Nat) (u : SpillUnit) : (s.setSpill ps u).xlations = s.xlations := rfl
@[simp] theorem State.walkCache_setSpill (s : State) (ps : Nat) (u : SpillUnit) : (s.setSpill ps u).walkCache = s.walkCache := rfl
@[simp] theorem State.viewStamps_setSpill (s : State) (ps : Nat) (u : SpillUnit) : (s.setSpill ps u).viewStamps = s.viewStamps := rfl
@[simp] theorem State.moves_setSpill (s : State) (ps : Nat) (u : SpillUnit) : (s.setSpill ps u).moves = s.moves := rfl
@[simp] theorem State.fills_setSpill (s : State) (ps : Nat) (u : SpillUnit) : (s.setSpill ps u).fills = s.fills := rfl
@[simp] theorem State.shoots_setSpill (s : State) (ps : Nat) (u : SpillUnit) : (s.setSpill ps u).shoots = s.shoots := rfl
@[simp] theorem State.halved_setSpill (s : State) (ps : Nat) (u : SpillUnit) : (s.setSpill ps u).halved = s.halved := rfl
@[simp] theorem State.autoQ_setSpill (s : State) (ps : Nat) (u : SpillUnit) : (s.setSpill ps u).autoQ = s.autoQ := rfl
@[simp] theorem State.contexts_setSpill (s : State) (ps : Nat) (u : SpillUnit) : (s.setSpill ps u).contexts = s.contexts := rfl
@[simp] theorem State.queues_setSpill (s : State) (ps : Nat) (u : SpillUnit) : (s.setSpill ps u).queues = s.queues := rfl
@[simp] theorem State.served_setSpill (s : State) (ps : Nat) (u : SpillUnit) : (s.setSpill ps u).served = s.served := rfl
@[simp] theorem State.fdrains_setSpill (s : State) (ps : Nat) (u : SpillUnit) : (s.setSpill ps u).fdrains = s.fdrains := rfl
@[simp] theorem State.resets_setSpill (s : State) (ps : Nat) (u : SpillUnit) : (s.setSpill ps u).resets = s.resets := rfl
@[simp] theorem State.restores_setSpill (s : State) (ps : Nat) (u : SpillUnit) : (s.setSpill ps u).restores = s.restores := rfl
@[simp] theorem State.waking_setSpill (s : State) (ps : Nat) (u : SpillUnit) : (s.setSpill ps u).waking = s.waking := rfl
@[simp] theorem State.muted_setSpill (s : State) (ps : Nat) (u : SpillUnit) : (s.setSpill ps u).muted = s.muted := rfl
@[simp] theorem State.flrHold_setSpill (s : State) (ps : Nat) (u : SpillUnit) : (s.setSpill ps u).flrHold = s.flrHold := rfl
@[simp] theorem State.images_setSpill (s : State) (ps : Nat) (u : SpillUnit) : (s.setSpill ps u).images = s.images := rfl
@[simp] theorem State.msix_setSpill (s : State) (ps : Nat) (u : SpillUnit) : (s.setSpill ps u).msix = s.msix := rfl
@[simp] theorem State.bar0_setSpill (s : State) (ps : Nat) (u : SpillUnit) : (s.setSpill ps u).bar0 = s.bar0 := rfl
@[simp] theorem State.groups_setSpill (s : State) (ps : Nat) (u : SpillUnit) : (s.setSpill ps u).groups = s.groups := rfl
@[simp] theorem State.colls_setSpill (s : State) (ps : Nat) (u : SpillUnit) : (s.setSpill ps u).colls = s.colls := rfl
@[simp] theorem State.remotes_setSpill (s : State) (ps : Nat) (u : SpillUnit) : (s.setSpill ps u).remotes = s.remotes := rfl
@[simp] theorem State.inboundDone_setSpill (s : State) (ps : Nat) (u : SpillUnit) : (s.setSpill ps u).inboundDone = s.inboundDone := rfl
@[simp] theorem State.inboundWait_setSpill (s : State) (ps : Nat) (u : SpillUnit) : (s.setSpill ps u).inboundWait = s.inboundWait := rfl
@[simp] theorem State.earlyJoins_setSpill (s : State) (ps : Nat) (u : SpillUnit) : (s.setSpill ps u).earlyJoins = s.earlyJoins := rfl
@[simp] theorem State.earlyDescs_setSpill (s : State) (ps : Nat) (u : SpillUnit) : (s.setSpill ps u).earlyDescs = s.earlyDescs := rfl
@[simp] theorem State.sentDescs_setSpill (s : State) (ps : Nat) (u : SpillUnit) : (s.setSpill ps u).sentDescs = s.sentDescs := rfl
@[simp] theorem State.cust_setSpill (s : State) (ps : Nat) (u : SpillUnit) : (s.setSpill ps u).cust = s.cust := rfl
@[simp] theorem State.pools_setSpill (s : State) (ps : Nat) (u : SpillUnit) : (s.setSpill ps u).pools = s.pools := rfl
@[simp] theorem State.ladders_setSpill (s : State) (ps : Nat) (u : SpillUnit) : (s.setSpill ps u).ladders = s.ladders := rfl
@[simp] theorem State.stackUnits_setSpill (s : State) (ps : Nat) (u : SpillUnit) : (s.setSpill ps u).stackUnits = s.stackUnits := rfl

@[simp] theorem State.reg_setPool (s : State) (pl : Nat) (p : Pool) (j : Nat) : (s.setPool pl p).reg j = s.reg j := rfl
@[simp] theorem State.cell_setPool (s : State) (pl : Nat) (p : Pool) (j : Nat) : (s.setPool pl p).cell j = s.cell j := rfl
@[simp] theorem State.keeper_setPool (s : State) (pl : Nat) (p : Pool) (j : Nat) : (s.setPool pl p).keeper j = s.keeper j := rfl
@[simp] theorem State.spill_setPool (s : State) (pl : Nat) (p : Pool) (j : Nat) : (s.setPool pl p).spill j = s.spill j := rfl
@[simp] theorem State.ladder_setPool (s : State) (pl : Nat) (p : Pool) (j : Nat) : (s.setPool pl p).ladder j = s.ladder j := rfl
@[simp] theorem State.stack_setPool (s : State) (pl : Nat) (p : Pool) (j : Nat) : (s.setPool pl p).stack j = s.stack j := rfl
@[simp] theorem State.queue_setPool (s : State) (pl : Nat) (p : Pool) (j : Nat) : (s.setPool pl p).queue j = s.queue j := rfl
@[simp] theorem State.inbox_setPool (s : State) (pl : Nat) (p : Pool) (j : Nat) : (s.setPool pl p).inbox j = s.inbox j := rfl
@[simp] theorem State.power_setPool (s : State) (pl : Nat) (p : Pool) : (s.setPool pl p).power = s.power := rfl
@[simp] theorem State.thermtrip_setPool (s : State) (pl : Nat) (p : Pool) : (s.setPool pl p).thermtrip = s.thermtrip := rfl
@[simp] theorem State.clk_setPool (s : State) (pl : Nat) (p : Pool) : (s.setPool pl p).clk = s.clk := rfl
@[simp] theorem State.timer_setPool (s : State) (pl : Nat) (p : Pool) : (s.setPool pl p).timer = s.timer := rfl
@[simp] theorem State.free_setPool (s : State) (pl : Nat) (p : Pool) : (s.setPool pl p).free = s.free := rfl
@[simp] theorem State.inputs_setPool (s : State) (pl : Nat) (p : Pool) : (s.setPool pl p).inputs = s.inputs := rfl
@[simp] theorem State.cur_setPool (s : State) (pl : Nat) (p : Pool) : (s.setPool pl p).cur = s.cur := rfl
@[simp] theorem State.issue_setPool (s : State) (pl : Nat) (p : Pool) : (s.setPool pl p).issue = s.issue := rfl
@[simp] theorem State.mem_setPool (s : State) (pl : Nat) (p : Pool) : (s.setPool pl p).mem = s.mem := rfl
@[simp] theorem State.poison_setPool (s : State) (pl : Nat) (p : Pool) : (s.setPool pl p).poison = s.poison := rfl
@[simp] theorem State.regs_setPool (s : State) (pl : Nat) (p : Pool) : (s.setPool pl p).regs = s.regs := rfl
@[simp] theorem State.keepers_setPool (s : State) (pl : Nat) (p : Pool) : (s.setPool pl p).keepers = s.keepers := rfl
@[simp] theorem State.cells_setPool (s : State) (pl : Nat) (p : Pool) : (s.setPool pl p).cells = s.cells := rfl
@[simp] theorem State.spills_setPool (s : State) (pl : Nat) (p : Pool) : (s.setPool pl p).spills = s.spills := rfl
@[simp] theorem State.net_setPool (s : State) (pl : Nat) (p : Pool) : (s.setPool pl p).net = s.net := rfl
@[simp] theorem State.inboxes_setPool (s : State) (pl : Nat) (p : Pool) : (s.setPool pl p).inboxes = s.inboxes := rfl
@[simp] theorem State.busy_setPool (s : State) (pl : Nat) (p : Pool) : (s.setPool pl p).busy = s.busy := rfl
@[simp] theorem State.accesses_setPool (s : State) (pl : Nat) (p : Pool) : (s.setPool pl p).accesses = s.accesses := rfl
@[simp] theorem State.chains_setPool (s : State) (pl : Nat) (p : Pool) : (s.setPool pl p).chains = s.chains := rfl
@[simp] theorem State.atomicNext_setPool (s : State) (pl : Nat) (p : Pool) : (s.setPool pl p).atomicNext = s.atomicNext := rfl
@[simp] theorem State.copyNext_setPool (s : State) (pl : Nat) (p : Pool) : (s.setPool pl p).copyNext = s.copyNext := rfl
@[simp] theorem State.nextId_setPool (s : State) (pl : Nat) (p : Pool) : (s.setPool pl p).nextId = s.nextId := rfl
@[simp] theorem State.xlations_setPool (s : State) (pl : Nat) (p : Pool) : (s.setPool pl p).xlations = s.xlations := rfl
@[simp] theorem State.walkCache_setPool (s : State) (pl : Nat) (p : Pool) : (s.setPool pl p).walkCache = s.walkCache := rfl
@[simp] theorem State.viewStamps_setPool (s : State) (pl : Nat) (p : Pool) : (s.setPool pl p).viewStamps = s.viewStamps := rfl
@[simp] theorem State.moves_setPool (s : State) (pl : Nat) (p : Pool) : (s.setPool pl p).moves = s.moves := rfl
@[simp] theorem State.fills_setPool (s : State) (pl : Nat) (p : Pool) : (s.setPool pl p).fills = s.fills := rfl
@[simp] theorem State.shoots_setPool (s : State) (pl : Nat) (p : Pool) : (s.setPool pl p).shoots = s.shoots := rfl
@[simp] theorem State.halved_setPool (s : State) (pl : Nat) (p : Pool) : (s.setPool pl p).halved = s.halved := rfl
@[simp] theorem State.autoQ_setPool (s : State) (pl : Nat) (p : Pool) : (s.setPool pl p).autoQ = s.autoQ := rfl
@[simp] theorem State.contexts_setPool (s : State) (pl : Nat) (p : Pool) : (s.setPool pl p).contexts = s.contexts := rfl
@[simp] theorem State.queues_setPool (s : State) (pl : Nat) (p : Pool) : (s.setPool pl p).queues = s.queues := rfl
@[simp] theorem State.served_setPool (s : State) (pl : Nat) (p : Pool) : (s.setPool pl p).served = s.served := rfl
@[simp] theorem State.fdrains_setPool (s : State) (pl : Nat) (p : Pool) : (s.setPool pl p).fdrains = s.fdrains := rfl
@[simp] theorem State.resets_setPool (s : State) (pl : Nat) (p : Pool) : (s.setPool pl p).resets = s.resets := rfl
@[simp] theorem State.restores_setPool (s : State) (pl : Nat) (p : Pool) : (s.setPool pl p).restores = s.restores := rfl
@[simp] theorem State.waking_setPool (s : State) (pl : Nat) (p : Pool) : (s.setPool pl p).waking = s.waking := rfl
@[simp] theorem State.muted_setPool (s : State) (pl : Nat) (p : Pool) : (s.setPool pl p).muted = s.muted := rfl
@[simp] theorem State.flrHold_setPool (s : State) (pl : Nat) (p : Pool) : (s.setPool pl p).flrHold = s.flrHold := rfl
@[simp] theorem State.images_setPool (s : State) (pl : Nat) (p : Pool) : (s.setPool pl p).images = s.images := rfl
@[simp] theorem State.msix_setPool (s : State) (pl : Nat) (p : Pool) : (s.setPool pl p).msix = s.msix := rfl
@[simp] theorem State.bar0_setPool (s : State) (pl : Nat) (p : Pool) : (s.setPool pl p).bar0 = s.bar0 := rfl
@[simp] theorem State.groups_setPool (s : State) (pl : Nat) (p : Pool) : (s.setPool pl p).groups = s.groups := rfl
@[simp] theorem State.colls_setPool (s : State) (pl : Nat) (p : Pool) : (s.setPool pl p).colls = s.colls := rfl
@[simp] theorem State.remotes_setPool (s : State) (pl : Nat) (p : Pool) : (s.setPool pl p).remotes = s.remotes := rfl
@[simp] theorem State.inboundDone_setPool (s : State) (pl : Nat) (p : Pool) : (s.setPool pl p).inboundDone = s.inboundDone := rfl
@[simp] theorem State.inboundWait_setPool (s : State) (pl : Nat) (p : Pool) : (s.setPool pl p).inboundWait = s.inboundWait := rfl
@[simp] theorem State.earlyJoins_setPool (s : State) (pl : Nat) (p : Pool) : (s.setPool pl p).earlyJoins = s.earlyJoins := rfl
@[simp] theorem State.earlyDescs_setPool (s : State) (pl : Nat) (p : Pool) : (s.setPool pl p).earlyDescs = s.earlyDescs := rfl
@[simp] theorem State.sentDescs_setPool (s : State) (pl : Nat) (p : Pool) : (s.setPool pl p).sentDescs = s.sentDescs := rfl
@[simp] theorem State.cust_setPool (s : State) (pl : Nat) (p : Pool) : (s.setPool pl p).cust = s.cust := rfl
@[simp] theorem State.ladders_setPool (s : State) (pl : Nat) (p : Pool) : (s.setPool pl p).ladders = s.ladders := rfl
@[simp] theorem State.stackUnits_setPool (s : State) (pl : Nat) (p : Pool) : (s.setPool pl p).stackUnits = s.stackUnits := rfl

@[simp] theorem State.reg_setLadder (s : State) (ps : Nat) (l : Ladder) (j : Nat) : (s.setLadder ps l).reg j = s.reg j := rfl
@[simp] theorem State.cell_setLadder (s : State) (ps : Nat) (l : Ladder) (j : Nat) : (s.setLadder ps l).cell j = s.cell j := rfl
@[simp] theorem State.keeper_setLadder (s : State) (ps : Nat) (l : Ladder) (j : Nat) : (s.setLadder ps l).keeper j = s.keeper j := rfl
@[simp] theorem State.spill_setLadder (s : State) (ps : Nat) (l : Ladder) (j : Nat) : (s.setLadder ps l).spill j = s.spill j := rfl
@[simp] theorem State.pool_setLadder (s : State) (ps : Nat) (l : Ladder) (j : Nat) : (s.setLadder ps l).pool j = s.pool j := rfl
@[simp] theorem State.stack_setLadder (s : State) (ps : Nat) (l : Ladder) (j : Nat) : (s.setLadder ps l).stack j = s.stack j := rfl
@[simp] theorem State.queue_setLadder (s : State) (ps : Nat) (l : Ladder) (j : Nat) : (s.setLadder ps l).queue j = s.queue j := rfl
@[simp] theorem State.inbox_setLadder (s : State) (ps : Nat) (l : Ladder) (j : Nat) : (s.setLadder ps l).inbox j = s.inbox j := rfl
@[simp] theorem State.power_setLadder (s : State) (ps : Nat) (l : Ladder) : (s.setLadder ps l).power = s.power := rfl
@[simp] theorem State.thermtrip_setLadder (s : State) (ps : Nat) (l : Ladder) : (s.setLadder ps l).thermtrip = s.thermtrip := rfl
@[simp] theorem State.clk_setLadder (s : State) (ps : Nat) (l : Ladder) : (s.setLadder ps l).clk = s.clk := rfl
@[simp] theorem State.timer_setLadder (s : State) (ps : Nat) (l : Ladder) : (s.setLadder ps l).timer = s.timer := rfl
@[simp] theorem State.free_setLadder (s : State) (ps : Nat) (l : Ladder) : (s.setLadder ps l).free = s.free := rfl
@[simp] theorem State.inputs_setLadder (s : State) (ps : Nat) (l : Ladder) : (s.setLadder ps l).inputs = s.inputs := rfl
@[simp] theorem State.cur_setLadder (s : State) (ps : Nat) (l : Ladder) : (s.setLadder ps l).cur = s.cur := rfl
@[simp] theorem State.issue_setLadder (s : State) (ps : Nat) (l : Ladder) : (s.setLadder ps l).issue = s.issue := rfl
@[simp] theorem State.mem_setLadder (s : State) (ps : Nat) (l : Ladder) : (s.setLadder ps l).mem = s.mem := rfl
@[simp] theorem State.poison_setLadder (s : State) (ps : Nat) (l : Ladder) : (s.setLadder ps l).poison = s.poison := rfl
@[simp] theorem State.regs_setLadder (s : State) (ps : Nat) (l : Ladder) : (s.setLadder ps l).regs = s.regs := rfl
@[simp] theorem State.keepers_setLadder (s : State) (ps : Nat) (l : Ladder) : (s.setLadder ps l).keepers = s.keepers := rfl
@[simp] theorem State.cells_setLadder (s : State) (ps : Nat) (l : Ladder) : (s.setLadder ps l).cells = s.cells := rfl
@[simp] theorem State.spills_setLadder (s : State) (ps : Nat) (l : Ladder) : (s.setLadder ps l).spills = s.spills := rfl
@[simp] theorem State.net_setLadder (s : State) (ps : Nat) (l : Ladder) : (s.setLadder ps l).net = s.net := rfl
@[simp] theorem State.inboxes_setLadder (s : State) (ps : Nat) (l : Ladder) : (s.setLadder ps l).inboxes = s.inboxes := rfl
@[simp] theorem State.busy_setLadder (s : State) (ps : Nat) (l : Ladder) : (s.setLadder ps l).busy = s.busy := rfl
@[simp] theorem State.accesses_setLadder (s : State) (ps : Nat) (l : Ladder) : (s.setLadder ps l).accesses = s.accesses := rfl
@[simp] theorem State.chains_setLadder (s : State) (ps : Nat) (l : Ladder) : (s.setLadder ps l).chains = s.chains := rfl
@[simp] theorem State.atomicNext_setLadder (s : State) (ps : Nat) (l : Ladder) : (s.setLadder ps l).atomicNext = s.atomicNext := rfl
@[simp] theorem State.copyNext_setLadder (s : State) (ps : Nat) (l : Ladder) : (s.setLadder ps l).copyNext = s.copyNext := rfl
@[simp] theorem State.nextId_setLadder (s : State) (ps : Nat) (l : Ladder) : (s.setLadder ps l).nextId = s.nextId := rfl
@[simp] theorem State.xlations_setLadder (s : State) (ps : Nat) (l : Ladder) : (s.setLadder ps l).xlations = s.xlations := rfl
@[simp] theorem State.walkCache_setLadder (s : State) (ps : Nat) (l : Ladder) : (s.setLadder ps l).walkCache = s.walkCache := rfl
@[simp] theorem State.viewStamps_setLadder (s : State) (ps : Nat) (l : Ladder) : (s.setLadder ps l).viewStamps = s.viewStamps := rfl
@[simp] theorem State.moves_setLadder (s : State) (ps : Nat) (l : Ladder) : (s.setLadder ps l).moves = s.moves := rfl
@[simp] theorem State.fills_setLadder (s : State) (ps : Nat) (l : Ladder) : (s.setLadder ps l).fills = s.fills := rfl
@[simp] theorem State.shoots_setLadder (s : State) (ps : Nat) (l : Ladder) : (s.setLadder ps l).shoots = s.shoots := rfl
@[simp] theorem State.halved_setLadder (s : State) (ps : Nat) (l : Ladder) : (s.setLadder ps l).halved = s.halved := rfl
@[simp] theorem State.autoQ_setLadder (s : State) (ps : Nat) (l : Ladder) : (s.setLadder ps l).autoQ = s.autoQ := rfl
@[simp] theorem State.contexts_setLadder (s : State) (ps : Nat) (l : Ladder) : (s.setLadder ps l).contexts = s.contexts := rfl
@[simp] theorem State.queues_setLadder (s : State) (ps : Nat) (l : Ladder) : (s.setLadder ps l).queues = s.queues := rfl
@[simp] theorem State.served_setLadder (s : State) (ps : Nat) (l : Ladder) : (s.setLadder ps l).served = s.served := rfl
@[simp] theorem State.fdrains_setLadder (s : State) (ps : Nat) (l : Ladder) : (s.setLadder ps l).fdrains = s.fdrains := rfl
@[simp] theorem State.resets_setLadder (s : State) (ps : Nat) (l : Ladder) : (s.setLadder ps l).resets = s.resets := rfl
@[simp] theorem State.restores_setLadder (s : State) (ps : Nat) (l : Ladder) : (s.setLadder ps l).restores = s.restores := rfl
@[simp] theorem State.waking_setLadder (s : State) (ps : Nat) (l : Ladder) : (s.setLadder ps l).waking = s.waking := rfl
@[simp] theorem State.muted_setLadder (s : State) (ps : Nat) (l : Ladder) : (s.setLadder ps l).muted = s.muted := rfl
@[simp] theorem State.flrHold_setLadder (s : State) (ps : Nat) (l : Ladder) : (s.setLadder ps l).flrHold = s.flrHold := rfl
@[simp] theorem State.images_setLadder (s : State) (ps : Nat) (l : Ladder) : (s.setLadder ps l).images = s.images := rfl
@[simp] theorem State.msix_setLadder (s : State) (ps : Nat) (l : Ladder) : (s.setLadder ps l).msix = s.msix := rfl
@[simp] theorem State.bar0_setLadder (s : State) (ps : Nat) (l : Ladder) : (s.setLadder ps l).bar0 = s.bar0 := rfl
@[simp] theorem State.groups_setLadder (s : State) (ps : Nat) (l : Ladder) : (s.setLadder ps l).groups = s.groups := rfl
@[simp] theorem State.colls_setLadder (s : State) (ps : Nat) (l : Ladder) : (s.setLadder ps l).colls = s.colls := rfl
@[simp] theorem State.remotes_setLadder (s : State) (ps : Nat) (l : Ladder) : (s.setLadder ps l).remotes = s.remotes := rfl
@[simp] theorem State.inboundDone_setLadder (s : State) (ps : Nat) (l : Ladder) : (s.setLadder ps l).inboundDone = s.inboundDone := rfl
@[simp] theorem State.inboundWait_setLadder (s : State) (ps : Nat) (l : Ladder) : (s.setLadder ps l).inboundWait = s.inboundWait := rfl
@[simp] theorem State.earlyJoins_setLadder (s : State) (ps : Nat) (l : Ladder) : (s.setLadder ps l).earlyJoins = s.earlyJoins := rfl
@[simp] theorem State.earlyDescs_setLadder (s : State) (ps : Nat) (l : Ladder) : (s.setLadder ps l).earlyDescs = s.earlyDescs := rfl
@[simp] theorem State.sentDescs_setLadder (s : State) (ps : Nat) (l : Ladder) : (s.setLadder ps l).sentDescs = s.sentDescs := rfl
@[simp] theorem State.cust_setLadder (s : State) (ps : Nat) (l : Ladder) : (s.setLadder ps l).cust = s.cust := rfl
@[simp] theorem State.pools_setLadder (s : State) (ps : Nat) (l : Ladder) : (s.setLadder ps l).pools = s.pools := rfl
@[simp] theorem State.stackUnits_setLadder (s : State) (ps : Nat) (l : Ladder) : (s.setLadder ps l).stackUnits = s.stackUnits := rfl

@[simp] theorem State.reg_setStack (s : State) (st : Nat) (k : Stack) (j : Nat) : (s.setStack st k).reg j = s.reg j := rfl
@[simp] theorem State.cell_setStack (s : State) (st : Nat) (k : Stack) (j : Nat) : (s.setStack st k).cell j = s.cell j := rfl
@[simp] theorem State.keeper_setStack (s : State) (st : Nat) (k : Stack) (j : Nat) : (s.setStack st k).keeper j = s.keeper j := rfl
@[simp] theorem State.spill_setStack (s : State) (st : Nat) (k : Stack) (j : Nat) : (s.setStack st k).spill j = s.spill j := rfl
@[simp] theorem State.pool_setStack (s : State) (st : Nat) (k : Stack) (j : Nat) : (s.setStack st k).pool j = s.pool j := rfl
@[simp] theorem State.ladder_setStack (s : State) (st : Nat) (k : Stack) (j : Nat) : (s.setStack st k).ladder j = s.ladder j := rfl
@[simp] theorem State.queue_setStack (s : State) (st : Nat) (k : Stack) (j : Nat) : (s.setStack st k).queue j = s.queue j := rfl
@[simp] theorem State.inbox_setStack (s : State) (st : Nat) (k : Stack) (j : Nat) : (s.setStack st k).inbox j = s.inbox j := rfl
@[simp] theorem State.power_setStack (s : State) (st : Nat) (k : Stack) : (s.setStack st k).power = s.power := rfl
@[simp] theorem State.thermtrip_setStack (s : State) (st : Nat) (k : Stack) : (s.setStack st k).thermtrip = s.thermtrip := rfl
@[simp] theorem State.clk_setStack (s : State) (st : Nat) (k : Stack) : (s.setStack st k).clk = s.clk := rfl
@[simp] theorem State.timer_setStack (s : State) (st : Nat) (k : Stack) : (s.setStack st k).timer = s.timer := rfl
@[simp] theorem State.free_setStack (s : State) (st : Nat) (k : Stack) : (s.setStack st k).free = s.free := rfl
@[simp] theorem State.inputs_setStack (s : State) (st : Nat) (k : Stack) : (s.setStack st k).inputs = s.inputs := rfl
@[simp] theorem State.cur_setStack (s : State) (st : Nat) (k : Stack) : (s.setStack st k).cur = s.cur := rfl
@[simp] theorem State.issue_setStack (s : State) (st : Nat) (k : Stack) : (s.setStack st k).issue = s.issue := rfl
@[simp] theorem State.mem_setStack (s : State) (st : Nat) (k : Stack) : (s.setStack st k).mem = s.mem := rfl
@[simp] theorem State.poison_setStack (s : State) (st : Nat) (k : Stack) : (s.setStack st k).poison = s.poison := rfl
@[simp] theorem State.regs_setStack (s : State) (st : Nat) (k : Stack) : (s.setStack st k).regs = s.regs := rfl
@[simp] theorem State.keepers_setStack (s : State) (st : Nat) (k : Stack) : (s.setStack st k).keepers = s.keepers := rfl
@[simp] theorem State.cells_setStack (s : State) (st : Nat) (k : Stack) : (s.setStack st k).cells = s.cells := rfl
@[simp] theorem State.spills_setStack (s : State) (st : Nat) (k : Stack) : (s.setStack st k).spills = s.spills := rfl
@[simp] theorem State.net_setStack (s : State) (st : Nat) (k : Stack) : (s.setStack st k).net = s.net := rfl
@[simp] theorem State.inboxes_setStack (s : State) (st : Nat) (k : Stack) : (s.setStack st k).inboxes = s.inboxes := rfl
@[simp] theorem State.busy_setStack (s : State) (st : Nat) (k : Stack) : (s.setStack st k).busy = s.busy := rfl
@[simp] theorem State.accesses_setStack (s : State) (st : Nat) (k : Stack) : (s.setStack st k).accesses = s.accesses := rfl
@[simp] theorem State.chains_setStack (s : State) (st : Nat) (k : Stack) : (s.setStack st k).chains = s.chains := rfl
@[simp] theorem State.atomicNext_setStack (s : State) (st : Nat) (k : Stack) : (s.setStack st k).atomicNext = s.atomicNext := rfl
@[simp] theorem State.copyNext_setStack (s : State) (st : Nat) (k : Stack) : (s.setStack st k).copyNext = s.copyNext := rfl
@[simp] theorem State.nextId_setStack (s : State) (st : Nat) (k : Stack) : (s.setStack st k).nextId = s.nextId := rfl
@[simp] theorem State.xlations_setStack (s : State) (st : Nat) (k : Stack) : (s.setStack st k).xlations = s.xlations := rfl
@[simp] theorem State.walkCache_setStack (s : State) (st : Nat) (k : Stack) : (s.setStack st k).walkCache = s.walkCache := rfl
@[simp] theorem State.viewStamps_setStack (s : State) (st : Nat) (k : Stack) : (s.setStack st k).viewStamps = s.viewStamps := rfl
@[simp] theorem State.moves_setStack (s : State) (st : Nat) (k : Stack) : (s.setStack st k).moves = s.moves := rfl
@[simp] theorem State.fills_setStack (s : State) (st : Nat) (k : Stack) : (s.setStack st k).fills = s.fills := rfl
@[simp] theorem State.shoots_setStack (s : State) (st : Nat) (k : Stack) : (s.setStack st k).shoots = s.shoots := rfl
@[simp] theorem State.halved_setStack (s : State) (st : Nat) (k : Stack) : (s.setStack st k).halved = s.halved := rfl
@[simp] theorem State.autoQ_setStack (s : State) (st : Nat) (k : Stack) : (s.setStack st k).autoQ = s.autoQ := rfl
@[simp] theorem State.contexts_setStack (s : State) (st : Nat) (k : Stack) : (s.setStack st k).contexts = s.contexts := rfl
@[simp] theorem State.queues_setStack (s : State) (st : Nat) (k : Stack) : (s.setStack st k).queues = s.queues := rfl
@[simp] theorem State.served_setStack (s : State) (st : Nat) (k : Stack) : (s.setStack st k).served = s.served := rfl
@[simp] theorem State.fdrains_setStack (s : State) (st : Nat) (k : Stack) : (s.setStack st k).fdrains = s.fdrains := rfl
@[simp] theorem State.resets_setStack (s : State) (st : Nat) (k : Stack) : (s.setStack st k).resets = s.resets := rfl
@[simp] theorem State.restores_setStack (s : State) (st : Nat) (k : Stack) : (s.setStack st k).restores = s.restores := rfl
@[simp] theorem State.waking_setStack (s : State) (st : Nat) (k : Stack) : (s.setStack st k).waking = s.waking := rfl
@[simp] theorem State.muted_setStack (s : State) (st : Nat) (k : Stack) : (s.setStack st k).muted = s.muted := rfl
@[simp] theorem State.flrHold_setStack (s : State) (st : Nat) (k : Stack) : (s.setStack st k).flrHold = s.flrHold := rfl
@[simp] theorem State.images_setStack (s : State) (st : Nat) (k : Stack) : (s.setStack st k).images = s.images := rfl
@[simp] theorem State.msix_setStack (s : State) (st : Nat) (k : Stack) : (s.setStack st k).msix = s.msix := rfl
@[simp] theorem State.bar0_setStack (s : State) (st : Nat) (k : Stack) : (s.setStack st k).bar0 = s.bar0 := rfl
@[simp] theorem State.groups_setStack (s : State) (st : Nat) (k : Stack) : (s.setStack st k).groups = s.groups := rfl
@[simp] theorem State.colls_setStack (s : State) (st : Nat) (k : Stack) : (s.setStack st k).colls = s.colls := rfl
@[simp] theorem State.remotes_setStack (s : State) (st : Nat) (k : Stack) : (s.setStack st k).remotes = s.remotes := rfl
@[simp] theorem State.inboundDone_setStack (s : State) (st : Nat) (k : Stack) : (s.setStack st k).inboundDone = s.inboundDone := rfl
@[simp] theorem State.inboundWait_setStack (s : State) (st : Nat) (k : Stack) : (s.setStack st k).inboundWait = s.inboundWait := rfl
@[simp] theorem State.earlyJoins_setStack (s : State) (st : Nat) (k : Stack) : (s.setStack st k).earlyJoins = s.earlyJoins := rfl
@[simp] theorem State.earlyDescs_setStack (s : State) (st : Nat) (k : Stack) : (s.setStack st k).earlyDescs = s.earlyDescs := rfl
@[simp] theorem State.sentDescs_setStack (s : State) (st : Nat) (k : Stack) : (s.setStack st k).sentDescs = s.sentDescs := rfl
@[simp] theorem State.cust_setStack (s : State) (st : Nat) (k : Stack) : (s.setStack st k).cust = s.cust := rfl
@[simp] theorem State.pools_setStack (s : State) (st : Nat) (k : Stack) : (s.setStack st k).pools = s.pools := rfl
@[simp] theorem State.ladders_setStack (s : State) (st : Nat) (k : Stack) : (s.setStack st k).ladders = s.ladders := rfl

@[simp] theorem State.reg_setQueue (s : State) (q : Nat) (k : QueueSt) (j : Nat) : (s.setQueue q k).reg j = s.reg j := rfl
@[simp] theorem State.cell_setQueue (s : State) (q : Nat) (k : QueueSt) (j : Nat) : (s.setQueue q k).cell j = s.cell j := rfl
@[simp] theorem State.keeper_setQueue (s : State) (q : Nat) (k : QueueSt) (j : Nat) : (s.setQueue q k).keeper j = s.keeper j := rfl
@[simp] theorem State.spill_setQueue (s : State) (q : Nat) (k : QueueSt) (j : Nat) : (s.setQueue q k).spill j = s.spill j := rfl
@[simp] theorem State.pool_setQueue (s : State) (q : Nat) (k : QueueSt) (j : Nat) : (s.setQueue q k).pool j = s.pool j := rfl
@[simp] theorem State.ladder_setQueue (s : State) (q : Nat) (k : QueueSt) (j : Nat) : (s.setQueue q k).ladder j = s.ladder j := rfl
@[simp] theorem State.stack_setQueue (s : State) (q : Nat) (k : QueueSt) (j : Nat) : (s.setQueue q k).stack j = s.stack j := rfl
@[simp] theorem State.inbox_setQueue (s : State) (q : Nat) (k : QueueSt) (j : Nat) : (s.setQueue q k).inbox j = s.inbox j := rfl
@[simp] theorem State.power_setQueue (s : State) (q : Nat) (k : QueueSt) : (s.setQueue q k).power = s.power := rfl
@[simp] theorem State.thermtrip_setQueue (s : State) (q : Nat) (k : QueueSt) : (s.setQueue q k).thermtrip = s.thermtrip := rfl
@[simp] theorem State.clk_setQueue (s : State) (q : Nat) (k : QueueSt) : (s.setQueue q k).clk = s.clk := rfl
@[simp] theorem State.timer_setQueue (s : State) (q : Nat) (k : QueueSt) : (s.setQueue q k).timer = s.timer := rfl
@[simp] theorem State.free_setQueue (s : State) (q : Nat) (k : QueueSt) : (s.setQueue q k).free = s.free := rfl
@[simp] theorem State.inputs_setQueue (s : State) (q : Nat) (k : QueueSt) : (s.setQueue q k).inputs = s.inputs := rfl
@[simp] theorem State.cur_setQueue (s : State) (q : Nat) (k : QueueSt) : (s.setQueue q k).cur = s.cur := rfl
@[simp] theorem State.issue_setQueue (s : State) (q : Nat) (k : QueueSt) : (s.setQueue q k).issue = s.issue := rfl
@[simp] theorem State.mem_setQueue (s : State) (q : Nat) (k : QueueSt) : (s.setQueue q k).mem = s.mem := rfl
@[simp] theorem State.poison_setQueue (s : State) (q : Nat) (k : QueueSt) : (s.setQueue q k).poison = s.poison := rfl
@[simp] theorem State.regs_setQueue (s : State) (q : Nat) (k : QueueSt) : (s.setQueue q k).regs = s.regs := rfl
@[simp] theorem State.keepers_setQueue (s : State) (q : Nat) (k : QueueSt) : (s.setQueue q k).keepers = s.keepers := rfl
@[simp] theorem State.cells_setQueue (s : State) (q : Nat) (k : QueueSt) : (s.setQueue q k).cells = s.cells := rfl
@[simp] theorem State.spills_setQueue (s : State) (q : Nat) (k : QueueSt) : (s.setQueue q k).spills = s.spills := rfl
@[simp] theorem State.net_setQueue (s : State) (q : Nat) (k : QueueSt) : (s.setQueue q k).net = s.net := rfl
@[simp] theorem State.inboxes_setQueue (s : State) (q : Nat) (k : QueueSt) : (s.setQueue q k).inboxes = s.inboxes := rfl
@[simp] theorem State.busy_setQueue (s : State) (q : Nat) (k : QueueSt) : (s.setQueue q k).busy = s.busy := rfl
@[simp] theorem State.accesses_setQueue (s : State) (q : Nat) (k : QueueSt) : (s.setQueue q k).accesses = s.accesses := rfl
@[simp] theorem State.chains_setQueue (s : State) (q : Nat) (k : QueueSt) : (s.setQueue q k).chains = s.chains := rfl
@[simp] theorem State.atomicNext_setQueue (s : State) (q : Nat) (k : QueueSt) : (s.setQueue q k).atomicNext = s.atomicNext := rfl
@[simp] theorem State.copyNext_setQueue (s : State) (q : Nat) (k : QueueSt) : (s.setQueue q k).copyNext = s.copyNext := rfl
@[simp] theorem State.nextId_setQueue (s : State) (q : Nat) (k : QueueSt) : (s.setQueue q k).nextId = s.nextId := rfl
@[simp] theorem State.xlations_setQueue (s : State) (q : Nat) (k : QueueSt) : (s.setQueue q k).xlations = s.xlations := rfl
@[simp] theorem State.walkCache_setQueue (s : State) (q : Nat) (k : QueueSt) : (s.setQueue q k).walkCache = s.walkCache := rfl
@[simp] theorem State.viewStamps_setQueue (s : State) (q : Nat) (k : QueueSt) : (s.setQueue q k).viewStamps = s.viewStamps := rfl
@[simp] theorem State.moves_setQueue (s : State) (q : Nat) (k : QueueSt) : (s.setQueue q k).moves = s.moves := rfl
@[simp] theorem State.fills_setQueue (s : State) (q : Nat) (k : QueueSt) : (s.setQueue q k).fills = s.fills := rfl
@[simp] theorem State.shoots_setQueue (s : State) (q : Nat) (k : QueueSt) : (s.setQueue q k).shoots = s.shoots := rfl
@[simp] theorem State.halved_setQueue (s : State) (q : Nat) (k : QueueSt) : (s.setQueue q k).halved = s.halved := rfl
@[simp] theorem State.autoQ_setQueue (s : State) (q : Nat) (k : QueueSt) : (s.setQueue q k).autoQ = s.autoQ := rfl
@[simp] theorem State.contexts_setQueue (s : State) (q : Nat) (k : QueueSt) : (s.setQueue q k).contexts = s.contexts := rfl
@[simp] theorem State.served_setQueue (s : State) (q : Nat) (k : QueueSt) : (s.setQueue q k).served = s.served := rfl
@[simp] theorem State.fdrains_setQueue (s : State) (q : Nat) (k : QueueSt) : (s.setQueue q k).fdrains = s.fdrains := rfl
@[simp] theorem State.resets_setQueue (s : State) (q : Nat) (k : QueueSt) : (s.setQueue q k).resets = s.resets := rfl
@[simp] theorem State.restores_setQueue (s : State) (q : Nat) (k : QueueSt) : (s.setQueue q k).restores = s.restores := rfl
@[simp] theorem State.waking_setQueue (s : State) (q : Nat) (k : QueueSt) : (s.setQueue q k).waking = s.waking := rfl
@[simp] theorem State.muted_setQueue (s : State) (q : Nat) (k : QueueSt) : (s.setQueue q k).muted = s.muted := rfl
@[simp] theorem State.flrHold_setQueue (s : State) (q : Nat) (k : QueueSt) : (s.setQueue q k).flrHold = s.flrHold := rfl
@[simp] theorem State.images_setQueue (s : State) (q : Nat) (k : QueueSt) : (s.setQueue q k).images = s.images := rfl
@[simp] theorem State.msix_setQueue (s : State) (q : Nat) (k : QueueSt) : (s.setQueue q k).msix = s.msix := rfl
@[simp] theorem State.bar0_setQueue (s : State) (q : Nat) (k : QueueSt) : (s.setQueue q k).bar0 = s.bar0 := rfl
@[simp] theorem State.groups_setQueue (s : State) (q : Nat) (k : QueueSt) : (s.setQueue q k).groups = s.groups := rfl
@[simp] theorem State.colls_setQueue (s : State) (q : Nat) (k : QueueSt) : (s.setQueue q k).colls = s.colls := rfl
@[simp] theorem State.remotes_setQueue (s : State) (q : Nat) (k : QueueSt) : (s.setQueue q k).remotes = s.remotes := rfl
@[simp] theorem State.inboundDone_setQueue (s : State) (q : Nat) (k : QueueSt) : (s.setQueue q k).inboundDone = s.inboundDone := rfl
@[simp] theorem State.inboundWait_setQueue (s : State) (q : Nat) (k : QueueSt) : (s.setQueue q k).inboundWait = s.inboundWait := rfl
@[simp] theorem State.earlyJoins_setQueue (s : State) (q : Nat) (k : QueueSt) : (s.setQueue q k).earlyJoins = s.earlyJoins := rfl
@[simp] theorem State.earlyDescs_setQueue (s : State) (q : Nat) (k : QueueSt) : (s.setQueue q k).earlyDescs = s.earlyDescs := rfl
@[simp] theorem State.sentDescs_setQueue (s : State) (q : Nat) (k : QueueSt) : (s.setQueue q k).sentDescs = s.sentDescs := rfl
@[simp] theorem State.cust_setQueue (s : State) (q : Nat) (k : QueueSt) : (s.setQueue q k).cust = s.cust := rfl
@[simp] theorem State.pools_setQueue (s : State) (q : Nat) (k : QueueSt) : (s.setQueue q k).pools = s.pools := rfl
@[simp] theorem State.ladders_setQueue (s : State) (q : Nat) (k : QueueSt) : (s.setQueue q k).ladders = s.ladders := rfl
@[simp] theorem State.stackUnits_setQueue (s : State) (q : Nat) (k : QueueSt) : (s.setQueue q k).stackUnits = s.stackUnits := rfl

@[simp] theorem State.reg_setInbox (s : State) (key : Nat) (ts : List (Nat × Token)) (j : Nat) : (s.setInbox key ts).reg j = s.reg j := rfl
@[simp] theorem State.cell_setInbox (s : State) (key : Nat) (ts : List (Nat × Token)) (j : Nat) : (s.setInbox key ts).cell j = s.cell j := rfl
@[simp] theorem State.keeper_setInbox (s : State) (key : Nat) (ts : List (Nat × Token)) (j : Nat) : (s.setInbox key ts).keeper j = s.keeper j := rfl
@[simp] theorem State.spill_setInbox (s : State) (key : Nat) (ts : List (Nat × Token)) (j : Nat) : (s.setInbox key ts).spill j = s.spill j := rfl
@[simp] theorem State.pool_setInbox (s : State) (key : Nat) (ts : List (Nat × Token)) (j : Nat) : (s.setInbox key ts).pool j = s.pool j := rfl
@[simp] theorem State.ladder_setInbox (s : State) (key : Nat) (ts : List (Nat × Token)) (j : Nat) : (s.setInbox key ts).ladder j = s.ladder j := rfl
@[simp] theorem State.stack_setInbox (s : State) (key : Nat) (ts : List (Nat × Token)) (j : Nat) : (s.setInbox key ts).stack j = s.stack j := rfl
@[simp] theorem State.queue_setInbox (s : State) (key : Nat) (ts : List (Nat × Token)) (j : Nat) : (s.setInbox key ts).queue j = s.queue j := rfl
@[simp] theorem State.power_setInbox (s : State) (key : Nat) (ts : List (Nat × Token)) : (s.setInbox key ts).power = s.power := rfl
@[simp] theorem State.thermtrip_setInbox (s : State) (key : Nat) (ts : List (Nat × Token)) : (s.setInbox key ts).thermtrip = s.thermtrip := rfl
@[simp] theorem State.clk_setInbox (s : State) (key : Nat) (ts : List (Nat × Token)) : (s.setInbox key ts).clk = s.clk := rfl
@[simp] theorem State.timer_setInbox (s : State) (key : Nat) (ts : List (Nat × Token)) : (s.setInbox key ts).timer = s.timer := rfl
@[simp] theorem State.free_setInbox (s : State) (key : Nat) (ts : List (Nat × Token)) : (s.setInbox key ts).free = s.free := rfl
@[simp] theorem State.inputs_setInbox (s : State) (key : Nat) (ts : List (Nat × Token)) : (s.setInbox key ts).inputs = s.inputs := rfl
@[simp] theorem State.cur_setInbox (s : State) (key : Nat) (ts : List (Nat × Token)) : (s.setInbox key ts).cur = s.cur := rfl
@[simp] theorem State.issue_setInbox (s : State) (key : Nat) (ts : List (Nat × Token)) : (s.setInbox key ts).issue = s.issue := rfl
@[simp] theorem State.mem_setInbox (s : State) (key : Nat) (ts : List (Nat × Token)) : (s.setInbox key ts).mem = s.mem := rfl
@[simp] theorem State.poison_setInbox (s : State) (key : Nat) (ts : List (Nat × Token)) : (s.setInbox key ts).poison = s.poison := rfl
@[simp] theorem State.regs_setInbox (s : State) (key : Nat) (ts : List (Nat × Token)) : (s.setInbox key ts).regs = s.regs := rfl
@[simp] theorem State.keepers_setInbox (s : State) (key : Nat) (ts : List (Nat × Token)) : (s.setInbox key ts).keepers = s.keepers := rfl
@[simp] theorem State.cells_setInbox (s : State) (key : Nat) (ts : List (Nat × Token)) : (s.setInbox key ts).cells = s.cells := rfl
@[simp] theorem State.spills_setInbox (s : State) (key : Nat) (ts : List (Nat × Token)) : (s.setInbox key ts).spills = s.spills := rfl
@[simp] theorem State.net_setInbox (s : State) (key : Nat) (ts : List (Nat × Token)) : (s.setInbox key ts).net = s.net := rfl
@[simp] theorem State.busy_setInbox (s : State) (key : Nat) (ts : List (Nat × Token)) : (s.setInbox key ts).busy = s.busy := rfl
@[simp] theorem State.accesses_setInbox (s : State) (key : Nat) (ts : List (Nat × Token)) : (s.setInbox key ts).accesses = s.accesses := rfl
@[simp] theorem State.chains_setInbox (s : State) (key : Nat) (ts : List (Nat × Token)) : (s.setInbox key ts).chains = s.chains := rfl
@[simp] theorem State.atomicNext_setInbox (s : State) (key : Nat) (ts : List (Nat × Token)) : (s.setInbox key ts).atomicNext = s.atomicNext := rfl
@[simp] theorem State.copyNext_setInbox (s : State) (key : Nat) (ts : List (Nat × Token)) : (s.setInbox key ts).copyNext = s.copyNext := rfl
@[simp] theorem State.nextId_setInbox (s : State) (key : Nat) (ts : List (Nat × Token)) : (s.setInbox key ts).nextId = s.nextId := rfl
@[simp] theorem State.xlations_setInbox (s : State) (key : Nat) (ts : List (Nat × Token)) : (s.setInbox key ts).xlations = s.xlations := rfl
@[simp] theorem State.walkCache_setInbox (s : State) (key : Nat) (ts : List (Nat × Token)) : (s.setInbox key ts).walkCache = s.walkCache := rfl
@[simp] theorem State.viewStamps_setInbox (s : State) (key : Nat) (ts : List (Nat × Token)) : (s.setInbox key ts).viewStamps = s.viewStamps := rfl
@[simp] theorem State.moves_setInbox (s : State) (key : Nat) (ts : List (Nat × Token)) : (s.setInbox key ts).moves = s.moves := rfl
@[simp] theorem State.fills_setInbox (s : State) (key : Nat) (ts : List (Nat × Token)) : (s.setInbox key ts).fills = s.fills := rfl
@[simp] theorem State.shoots_setInbox (s : State) (key : Nat) (ts : List (Nat × Token)) : (s.setInbox key ts).shoots = s.shoots := rfl
@[simp] theorem State.halved_setInbox (s : State) (key : Nat) (ts : List (Nat × Token)) : (s.setInbox key ts).halved = s.halved := rfl
@[simp] theorem State.autoQ_setInbox (s : State) (key : Nat) (ts : List (Nat × Token)) : (s.setInbox key ts).autoQ = s.autoQ := rfl
@[simp] theorem State.contexts_setInbox (s : State) (key : Nat) (ts : List (Nat × Token)) : (s.setInbox key ts).contexts = s.contexts := rfl
@[simp] theorem State.queues_setInbox (s : State) (key : Nat) (ts : List (Nat × Token)) : (s.setInbox key ts).queues = s.queues := rfl
@[simp] theorem State.served_setInbox (s : State) (key : Nat) (ts : List (Nat × Token)) : (s.setInbox key ts).served = s.served := rfl
@[simp] theorem State.fdrains_setInbox (s : State) (key : Nat) (ts : List (Nat × Token)) : (s.setInbox key ts).fdrains = s.fdrains := rfl
@[simp] theorem State.resets_setInbox (s : State) (key : Nat) (ts : List (Nat × Token)) : (s.setInbox key ts).resets = s.resets := rfl
@[simp] theorem State.restores_setInbox (s : State) (key : Nat) (ts : List (Nat × Token)) : (s.setInbox key ts).restores = s.restores := rfl
@[simp] theorem State.waking_setInbox (s : State) (key : Nat) (ts : List (Nat × Token)) : (s.setInbox key ts).waking = s.waking := rfl
@[simp] theorem State.muted_setInbox (s : State) (key : Nat) (ts : List (Nat × Token)) : (s.setInbox key ts).muted = s.muted := rfl
@[simp] theorem State.flrHold_setInbox (s : State) (key : Nat) (ts : List (Nat × Token)) : (s.setInbox key ts).flrHold = s.flrHold := rfl
@[simp] theorem State.images_setInbox (s : State) (key : Nat) (ts : List (Nat × Token)) : (s.setInbox key ts).images = s.images := rfl
@[simp] theorem State.msix_setInbox (s : State) (key : Nat) (ts : List (Nat × Token)) : (s.setInbox key ts).msix = s.msix := rfl
@[simp] theorem State.bar0_setInbox (s : State) (key : Nat) (ts : List (Nat × Token)) : (s.setInbox key ts).bar0 = s.bar0 := rfl
@[simp] theorem State.groups_setInbox (s : State) (key : Nat) (ts : List (Nat × Token)) : (s.setInbox key ts).groups = s.groups := rfl
@[simp] theorem State.colls_setInbox (s : State) (key : Nat) (ts : List (Nat × Token)) : (s.setInbox key ts).colls = s.colls := rfl
@[simp] theorem State.remotes_setInbox (s : State) (key : Nat) (ts : List (Nat × Token)) : (s.setInbox key ts).remotes = s.remotes := rfl
@[simp] theorem State.inboundDone_setInbox (s : State) (key : Nat) (ts : List (Nat × Token)) : (s.setInbox key ts).inboundDone = s.inboundDone := rfl
@[simp] theorem State.inboundWait_setInbox (s : State) (key : Nat) (ts : List (Nat × Token)) : (s.setInbox key ts).inboundWait = s.inboundWait := rfl
@[simp] theorem State.earlyJoins_setInbox (s : State) (key : Nat) (ts : List (Nat × Token)) : (s.setInbox key ts).earlyJoins = s.earlyJoins := rfl
@[simp] theorem State.earlyDescs_setInbox (s : State) (key : Nat) (ts : List (Nat × Token)) : (s.setInbox key ts).earlyDescs = s.earlyDescs := rfl
@[simp] theorem State.sentDescs_setInbox (s : State) (key : Nat) (ts : List (Nat × Token)) : (s.setInbox key ts).sentDescs = s.sentDescs := rfl
@[simp] theorem State.cust_setInbox (s : State) (key : Nat) (ts : List (Nat × Token)) : (s.setInbox key ts).cust = s.cust := rfl
@[simp] theorem State.pools_setInbox (s : State) (key : Nat) (ts : List (Nat × Token)) : (s.setInbox key ts).pools = s.pools := rfl
@[simp] theorem State.ladders_setInbox (s : State) (key : Nat) (ts : List (Nat × Token)) : (s.setInbox key ts).ladders = s.ladders := rfl
@[simp] theorem State.stackUnits_setInbox (s : State) (key : Nat) (ts : List (Nat × Token)) : (s.setInbox key ts).stackUnits = s.stackUnits := rfl

end Sys2Proof.Machine
end

