-- ==== Sys2Proof/Laws/Firing.lean ====
section
/-! SUPPORT. A node's firing: with the watchpoints off its meaning runs, and emitting a token puts exactly its flights on the
stream switch. -/

namespace Sys2Proof

open Sys2Proof.Machine

/-- At debug level 0 no watchpoint matches. -/
theorem watchMatch_off (s : State) (h : s.regBits (custReg 0x18) 3 2 = 0) (w kind : Nat) (f : Firing) (vals : List (Word × Word)) :
    s.watchMatch w kind f vals = none := by
  have hl : ¬((if bitOf (s.reg (custReg (0x100 + 32 * w))).toNat 1 then 2 else 1) ≤ 0) := by split <;> omega
  simp only [State.watchMatch, h, decide_eq_false hl, Bool.and_false, Bool.false_and, Bool.false_eq_true, if_false]

/-- At debug level 0 the watchpoints change nothing and divert nothing. -/
theorem watch_off (s : State) (h : s.regBits (custReg 0x18) 3 2 = 0) (kind : Nat) (f : Firing) (vals : List (Word × Word)) :
    s.watch kind f vals = (false, s) := by
  unfold State.watch
  induction upTo 16 with
  | nil => rfl
  | cons w ws ih => rw [List.foldl_cons]; simp only [watchMatch_off s h]; exact ih

/-- The meaning of a node runs on a firing that nothing diverts, however the node faults. -/
theorem fireOr_fires {s : State} {f : Firing} (h : Fires s f) (bad : Firing → Nat → List Lane → State → State)
    (g : Firing → State → State) : s.fireOr bad g = g f { s with issue := none } := by
  obtain ⟨hi, hw, hf⟩ := h
  have hw' : ({ s with issue := none } : State).regBits (custReg 0x18) 3 2 = 0 := hw
  simp [State.fireOr, hi, watch_off _ hw', hf]

/-- The meaning of a worker or guard node runs on a firing that nothing diverts. -/
theorem fire_fires {s : State} {f : Firing} (h : Fires s f) (g : Firing → State → State) :
    s.fire g = g f { s with issue := none } := fireOr_fires h _ g

/-- The meaning of a forager node runs on a firing that nothing diverts. -/
theorem fireMem_fires {s : State} {f : Firing} (h : Fires s f) (g : Firing → State → State) :
    s.fireMem g = g f { s with issue := none } := fireOr_fires h _ g

/-- Flights added to the switch. -/
theorem send_flightTo (s : State) (src d : Dest) (t : Token) :
    s.send src { t with dest := d } = { s with net := s.net ++ flightTo src d t } := by
  unfold State.send flightTo
  by_cases h : dKind d = 0 <;> simp [h]

theorem sendBoth_flights (s : State) (f : Firing) (t : Token) :
    s.sendBoth f t = { s with net := s.net ++ (flightTo f.src f.cfg.fields.dstA t ++ flightTo f.src f.cfg.fields.dstB t) } := by
  simp [State.sendBoth, State.sendFrom, send_flightTo, List.append_assoc]

/-- Emitting finished tokens puts their flights on the switch, in order, and changes nothing else. -/
theorem sendAll_flights (s : State) (f : Firing) (ts : List Token) :
    s.sendAll f ts = { s with net := s.net ++ flightsAB f ts } := by
  unfold State.sendAll
  induction ts generalizing s with
  | nil => simp [flightsAB]
  | cons t ts ih => rw [List.foldl_cons, ih, sendBoth_flights]; simp [flightsAB, List.append_assoc]

/-- Emitting a token with the node's tag operation. -/
theorem emit_flights (s : State) (f : Firing) (t : Token) : s.emit f t = { s with net := s.net ++ emitted s f t } :=
  sendAll_flights s f _

/-- Emitting a token to one destination. -/
theorem emitTo_flights (s : State) (f : Firing) (d : Dest) (t : Token) :
    s.emitTo f d t = { s with net := s.net ++ emittedTo s f d t } := by
  unfold State.emitTo emittedTo
  induction s.tagged f t generalizing s with
  | nil => simp
  | cons x xs ih =>
    rw [List.foldl_cons, ih]; simp [State.sendFrom, send_flightTo, List.append_assoc]

/-- The end of a firing that emits one token. -/
theorem emit_fired (s : State) (f : Firing) (t : Token) :
    ({ s with issue := none } : State).emit f t = fired s (emitted s f t) := emit_flights _ f t

/-- A firing's draws leave everything but its cell. -/
theorem drawFor_none (s : State) (ci n : Nat) {mode : Nat} (h : mode ≠ 5) : s.drawFor ci mode n = ([], s) := by
  simp [State.drawFor, h]

end Sys2Proof
end

