-- ==== Sys2Proof/Laws/Keeper.lean ====
section
/-! SUPPORT. What the shared operations of the keeper's words leave: writing a register and moving on, going to a target, and
taking a trap. -/

namespace Sys2Proof

open Sys2Proof.Machine

/-- A write of a register other than k0. -/
theorem setK_ne (s : State) (ps : Nat) (d : Reg) (v : Word) (h : d ≠ 0) :
    s.setK ps d v = s.setKeeper ps { s.keeper ps with k := (s.keeper ps).k.set d.toNat v d.isLt } := if_neg h

/-- A register written and the pc set, in one keeper. -/
theorem setK_setPc_to (s : State) (d : Reg) (v pc : Word) : KeeperTo s ((s.setK s.cur d v).setPc s.cur pc) d v pc := by
  unfold KeeperTo SameButKeepers
  by_cases h : d = 0#5
  · subst h
    refine ⟨by simp [State.kReg], ?_, by simp [State.setPc], ?_, ?_, rfl⟩
    · intro r _; simp [State.kReg, State.setK, State.setPc]
    · simp [State.setK, State.setPc]
    · intro ps hps; simp [State.setK, State.setPc, Ne.symm hps]
  · refine ⟨by simp [State.kReg, State.setK, State.setPc, h], ?_, by simp [State.setPc], ?_, ?_, ?_⟩
    · intro r hr
      have hne : d.toNat ≠ r.toNat := fun e => hr (BitVec.eq_of_toNat_eq e).symm
      simp [State.kReg, State.setK, State.setPc, h, hne]
    · simp [State.setK, State.setPc, h]
    · intro ps hps; simp [State.setK, State.setPc, h, Ne.symm hps]
    · rw [setK_ne s s.cur d v h]; rfl

/-- kd := v, and the pc moves on. -/
theorem kWrite_to (s : State) (d : Reg) (v : Word) : KeeperTo s (s.kWrite d v) d v (nextPc s) := by
  have h : s.kWrite d v = (s.setK s.cur d v).setPc s.cur (nextPc s) := by
    unfold State.kWrite State.pcNext nextPc
    by_cases hd : d = 0#5 <;> simp [State.setK, hd]
  rw [h]; exact setK_setPc_to s d v _

/-- The pc set, and nothing else. -/
theorem setPc_to (s : State) (pc : Word) : KeeperTo s (s.setPc s.cur pc) 0 0 pc := setK_setPc_to s 0 0 pc

/-- The pc moves on, and nothing else. -/
theorem pcNext_to (s : State) : KeeperTo s (s.pcNext s.cur) 0 0 (nextPc s) := setPc_to s _

/-- Different CSRs of one keeper stand at different addresses. -/
theorem csr_ne (ps : Nat) {m n : Nat} (h : m ≠ n) : csr ps m ≠ csr ps n := by
  simp only [csr, secReg]; omega

theorem bits_one (n i : Nat) : bits n i i % 2 = n / 2 ^ i % 2 := by
  simp [bits]

theorem bits_one_eq (n i : Nat) : bits n i i = n / 2 ^ i % 2 := by
  simp [bits]

theorem kstat_bit (m p i h k : Nat) (hk : k < 4) : (kstatWord m p i h).getLsbD k =
    decide ((nth 0 [m, p, i, h] k) % 2 = 1) := by
  have e : (kstatWord m p i h).getLsbD k = Nat.testBit (m % 2 + 2 * (p % 2) + 4 * (i % 2) + 8 * (h % 2)) k := by
    simp [kstatWord, BitVec.getLsbD_ofNat]; intros; omega
  rw [e, Nat.testBit_eq_decide_div_mod_eq]
  have hc : k = 0 ∨ k = 1 ∨ k = 2 ∨ k = 3 := by omega
  rcases Nat.mod_two_eq_zero_or_one m with a | a <;> rcases Nat.mod_two_eq_zero_or_one p with b | b <;>
    rcases Nat.mod_two_eq_zero_or_one i with c | c <;> rcases Nat.mod_two_eq_zero_or_one h with d | d <;>
    rcases hc with rfl | rfl | rfl | rfl <;> simp [nth, a, b, c, d]

theorem word_bit (w : Word) (k : Nat) : decide (w.toNat / 2 ^ k % 2 = 1) = w.getLsbD k := by
  rw [← BitVec.testBit_toNat, Nat.testBit_eq_decide_div_mod_eq]

/-- A keeper that is in no trap takes one. -/
theorem takeTrap_taken (s : State) (ps : Nat) (soft : Bool) (code : BitVec 16) (addr resume : Word) (h : s.inTrap ps = false) :
    TrapTaken s (s.takeTrap ps soft code addr resume) ps
      (BitVec.ofNat 64 (code.toNat + (if soft then 0x10000 else 0))) addr resume := by
  have e : s.takeTrap ps soft code addr resume =
      ((((s.setReg (csr ps 2) resume).setReg (csr ps 3) (BitVec.ofNat 64 (code.toNat + (if soft then 0x10000 else 0)))).setReg
        (csr ps 4) addr).setReg (csr ps 0) (kstatWord 1 (bits (s.reg (csr ps 0)).toNat 0 0) 1
          (bits (s.reg (csr ps 0)).toNat 3 3))).setPc ps (s.reg (csr ps 1)) := by
    simp [State.takeTrap, h]
  rw [e]
  have h02 := csr_ne ps (m := 0) (n := 2) (by decide)
  have h03 := csr_ne ps (m := 0) (n := 3) (by decide)
  have h04 := csr_ne ps (m := 0) (n := 4) (by decide)
  have h23 := csr_ne ps (m := 2) (n := 3) (by decide)
  have h24 := csr_ne ps (m := 2) (n := 4) (by decide)
  have h34 := csr_ne ps (m := 3) (n := 4) (by decide)
  have m0 : bits (s.reg (csr ps 0)).toNat 0 0 = (s.reg (csr ps 0)).toNat / 2 ^ 0 % 2 := bits_one_eq ..
  have m3 : bits (s.reg (csr ps 0)).toNat 3 3 = (s.reg (csr ps 0)).toNat / 2 ^ 3 % 2 := bits_one_eq ..
  refine ⟨?_, ?_, ?_, ?_, ?_, ?_, ?_, ?_, ?_, ?_, ?_, ?_⟩
  · simp [State.setPc, h02, h23.symm, h24.symm]
  · simp [State.setPc, h03, h34.symm]
  · simp [State.setPc, h04]
  · simp only [State.setPc, State.reg_setKeeper, State.reg_setReg, if_true]
    rw [kstat_bit _ _ _ _ _ (by decide)]; rfl
  · simp only [State.setPc, State.reg_setKeeper, State.reg_setReg, if_true]
    rw [kstat_bit _ _ _ _ 1 (by decide), State.supervisor, ← word_bit _ 0]
    simp [nth, m0]
  · simp only [State.setPc, State.reg_setKeeper, State.reg_setReg, if_true]
    rw [kstat_bit _ _ _ _ _ (by decide)]; rfl
  · simp only [State.halted, State.setPc, State.reg_setKeeper, State.reg_setReg, if_true]
    rw [kstat_bit _ _ _ _ 3 (by decide), ← word_bit _ 3]
    simp [nth, m3]
  · simp [State.setPc]
  · simp [State.setPc]
  · intro pa p0 p2 p3 p4; simp [State.setPc, Ne.symm p0, Ne.symm p2, Ne.symm p3, Ne.symm p4]
  · intro q hq; simp [State.setPc, Ne.symm hq]
  · cases s; rfl

/-- A fault of the word that runs, outside a trap handler. -/
theorem keeperFault_faults (s : State) (c : Nat) (addr : Word) (hc : c < 65536) (h : s.inTrap s.cur = false) :
    KeeperFaults s (s.keeperFault s.cur c addr) c addr := by
  have := takeTrap_taken s s.cur false (BitVec.ofNat 16 c) addr (s.keeper s.cur).pc h
  simpa [KeeperFaults, State.keeperFault, Nat.mod_eq_of_lt hc] using this

end Sys2Proof
end

