-- ==== Sys2Proof/Laws/Memory.lean ====
section
/-! SUPPORT. Memory keeps its canonical form under every operation, and reads give back what was last written. -/

namespace Sys2Proof.Machine

/-! ## The canonical form -/

theorem Memory.wfFrom_cons (lo j : Nat) (b : Byte) (t : List Host.Cell) :
    Memory.wfFrom lo ((j, b) :: t) = true ↔ lo ≤ j ∧ b ≠ unwritten ∧ Memory.wfFrom (j + 1) t = true := by
  simp [Memory.wfFrom, and_assoc]

theorem Memory.wfFrom_mono {lo hi : Nat} {m : List Host.Cell} (h : lo ≤ hi) (w : Memory.wfFrom hi m = true) :
    Memory.wfFrom lo m = true := by
  cases m with
  | nil => rfl
  | cons e t =>
    obtain ⟨j, b⟩ := e
    rw [Memory.wfFrom_cons] at w ⊢
    exact ⟨by omega, w.2⟩

/-- Below the first listed address nothing is listed. -/
theorem Memory.get_below {lo a : Nat} {m : List Host.Cell} (w : Memory.wfFrom lo m = true) (h : a < lo) :
    Memory.get m a = unwritten := by
  induction m generalizing lo with
  | nil => rfl
  | cons e t ih =>
    obtain ⟨j, b⟩ := e
    rw [Memory.wfFrom_cons] at w
    have hj : j ≠ a := by omega
    simp only [Memory.get, hj, if_false]
    exact ih w.2.2 (by omega)

theorem Memory.put_wfFrom {lo a : Nat} {m : List Host.Cell} (b : Byte) (w : Memory.wfFrom lo m = true) (h : lo ≤ a) :
    Memory.wfFrom lo (Memory.put m a b) = true := by
  induction m generalizing lo with
  | nil =>
    simp only [Memory.put]
    split
    · rfl
    · rename_i hb; rw [Memory.wfFrom_cons]; exact ⟨h, hb, rfl⟩
  | cons e t ih =>
    obtain ⟨j, c⟩ := e
    obtain ⟨w1, w2, w3⟩ := (Memory.wfFrom_cons ..).1 w
    simp only [Memory.put]
    split
    · split
      · exact Memory.wfFrom_mono (by omega) w3
      · rename_i hj hb; subst hj; rw [Memory.wfFrom_cons]; exact ⟨h, hb, w3⟩
    · split
      · split
        · exact w
        · rename_i hb; rw [Memory.wfFrom_cons]; exact ⟨h, hb, (Memory.wfFrom_cons ..).2 ⟨by omega, w2, w3⟩⟩
      · rw [Memory.wfFrom_cons]; exact ⟨w1, w2, ih w3 (by omega)⟩

/-- A write keeps the canonical form. -/
theorem Memory.put_wf {m : List Host.Cell} (a : Nat) (b : Byte) (w : Memory.wf m = true) :
    Memory.wf (Memory.put m a b) = true := Memory.put_wfFrom b w (Nat.zero_le a)

/-- A write of several bytes keeps the canonical form. -/
theorem Memory.putAll_wf {m : List Host.Cell} (a : Nat) (bs : List Byte) (w : Memory.wf m = true) :
    Memory.wf (Memory.putAll m a bs) = true := by
  induction bs generalizing m a with
  | nil => exact w
  | cons b bs ih => exact ih (a + 1) (Memory.put_wf a b w)

theorem Memory.filter_wfFrom {lo : Nat} {m : List Host.Cell} (p : Host.Cell → Bool) (w : Memory.wfFrom lo m = true) :
    Memory.wfFrom lo (m.filter p) = true := by
  induction m generalizing lo with
  | nil => rfl
  | cons e t ih =>
    obtain ⟨j, b⟩ := e
    obtain ⟨w1, w2, w3⟩ := (Memory.wfFrom_cons ..).1 w
    rw [List.filter_cons]
    split
    · exact (Memory.wfFrom_cons ..).2 ⟨w1, w2, ih w3⟩
    · exact Memory.wfFrom_mono (by omega) (ih w3)

/-- Clearing a range keeps the canonical form. -/
theorem Memory.clear_wf {m : List Host.Cell} (lo hi : Nat) (w : Memory.wf m = true) :
    Memory.wf (Memory.clear m lo hi) = true := Memory.filter_wfFrom _ w

/-! ## Reading back -/

theorem Memory.get_putFrom {lo a : Nat} {m : List Host.Cell} (b : Byte) (w : Memory.wfFrom lo m = true) (x : Nat) :
    Memory.get (Memory.put m a b) x = if a = x then b else Memory.get m x := by
  induction m generalizing lo with
  | nil =>
    simp only [Memory.put]
    by_cases hx : a = x <;> by_cases hb : b = unwritten <;> simp [Memory.get, hx, hb]
  | cons e t ih =>
    obtain ⟨j, c⟩ := e
    obtain ⟨w1, w2, w3⟩ := (Memory.wfFrom_cons ..).1 w
    by_cases hj : j = a
    · subst hj
      by_cases hx : j = x
      · subst hx
        by_cases hb : b = unwritten
        · simp [Memory.put, hb, Memory.get_below w3 (Nat.lt_succ_self j)]
        · simp [Memory.put, Memory.get, hb]
      · by_cases hb : b = unwritten <;> simp [Memory.put, Memory.get, hx, hb]
    · by_cases hl : a < j
      · have hg : Memory.get ((j, c) :: t) a = unwritten :=
          Memory.get_below (lo := j) ((Memory.wfFrom_cons ..).2 ⟨Nat.le_refl j, w2, w3⟩) hl
        by_cases hx : a = x
        · subst hx; by_cases hb : b = unwritten
          · simp [Memory.put, hj, hl, hb, hg]
          · simp [Memory.put, Memory.get, hj, hl, hb]
        · by_cases hb : b = unwritten <;> simp [Memory.put, Memory.get, hj, hl, hb, hx]
      · have hp : Memory.put ((j, c) :: t) a b = (j, c) :: Memory.put t a b := by simp [Memory.put, hj, hl]
        rw [hp, Memory.get, Memory.get, ih w3]
        by_cases hx : j = x
        · have : a ≠ x := by omega
          simp [hx, this]
        · simp [hx]

/-- Reading after a write of one byte. -/
theorem Memory.get_put {m : List Host.Cell} (w : Memory.wf m = true) (a : Nat) (b : Byte) (x : Nat) :
    Memory.get (Memory.put m a b) x = if a = x then b else Memory.get m x := Memory.get_putFrom b w x

/-- Reading outside a write of several bytes. -/
theorem Memory.get_putAll_out {m : List Host.Cell} (w : Memory.wf m = true) (a : Nat) (bs : List Byte) (x : Nat)
    (h : ¬(a ≤ x ∧ x < a + bs.length)) : Memory.get (Memory.putAll m a bs) x = Memory.get m x := by
  induction bs generalizing m a with
  | nil => rfl
  | cons b bs ih =>
    simp only [List.length_cons] at h
    rw [Memory.putAll, ih (Memory.put_wf a b w) (a + 1) (by omega), Memory.get_put w, if_neg (by omega)]

/-- Reading inside a write of several bytes. -/
theorem Memory.get_putAll_in {m : List Host.Cell} (w : Memory.wf m = true) (a : Nat) (bs : List Byte) (k : Nat)
    (h : k < bs.length) : Memory.get (Memory.putAll m a bs) (a + k) = bs[k] := by
  induction bs generalizing m a k with
  | nil => simp at h
  | cons b bs ih =>
    cases k with
    | zero => rw [Memory.putAll, Memory.get_putAll_out (Memory.put_wf a b w) (a + 1) bs (a + 0) (by omega), Memory.get_put w]; simp
    | succ k =>
      have e : a + (k + 1) = a + 1 + k := by omega
      rw [Memory.putAll, e, ih (Memory.put_wf a b w) (a + 1) k (by simpa using h)]; rfl

/-- The bytes that a number is written as. -/
theorem leBytes_getElem (n v k : Nat) (h : k < (leBytes n v).length) : (leBytes n v)[k] = BitVec.ofNat 8 (v / 256 ^ k) := by
  induction n generalizing v k with
  | zero => simp [leBytes] at h
  | succ n ih =>
    cases k with
    | zero => simp [leBytes]
    | succ k =>
      simp only [leBytes, List.getElem_cons_succ]
      rw [ih, Nat.div_div_eq_div_mul, Nat.pow_succ, Nat.mul_comm]

@[simp] theorem leBytes_length (n v : Nat) : (leBytes n v).length = n := by
  induction n generalizing v with
  | zero => rfl
  | succ n ih => simp [leBytes, ih]

/-- Storage after a write of bytes: the written bytes inside, the old ones outside. -/
theorem State.byte_putBytes_out {s : State} (w : Memory.wf s.mem = true) (a : Nat) (bs : List Byte) (x : Nat)
    (h : ¬(a ≤ x ∧ x < a + bs.length)) : (s.putBytes a bs).byte x = s.byte x := Memory.get_putAll_out w a bs x h

theorem State.byte_putBytes_in {s : State} (w : Memory.wf s.mem = true) (a : Nat) (bs : List Byte) (k : Nat) (h : k < bs.length) :
    (s.putBytes a bs).byte (a + k) = bs[k] := Memory.get_putAll_in w a bs k h

/-- Every write of storage keeps its canonical form. -/
theorem State.putBytes_wf {s : State} (a : Nat) (bs : List Byte) (w : Memory.wf s.mem = true) :
    Memory.wf (s.putBytes a bs).mem = true := Memory.putAll_wf a bs w

theorem State.putLE_wf {s : State} (a n v : Nat) (w : Memory.wf s.mem = true) : Memory.wf (s.putLE a n v).mem = true :=
  State.putBytes_wf a _ w

theorem State.wipe_wf {s : State} (lo hi : Nat) (w : Memory.wf s.mem = true) : Memory.wf (s.wipe lo hi).mem = true :=
  Memory.clear_wf lo hi w

@[simp] theorem State.mem_markPoison (s : State) (a n : Nat) : (s.markPoison a n).mem = s.mem := rfl

@[simp] theorem State.mem_clearPoison (s : State) (a n : Nat) : (s.clearPoison a n).mem = s.mem := rfl

end Sys2Proof.Machine
end

