-- ==== Sys2Proof/Laws/Results.lean ====
section
/-! SUPPORT. The shapes of worker results: element by element without flags, and rounded with draws, flags and the FPX fault. -/

namespace Sys2Proof

open Sys2Proof.Machine

/-- A dyadic result without flags. -/
theorem elementwise_fired {s : State} {f : Firing} (h : Fires s f) (op : Nat → Nat → Nat) :
    s.fire (fun f t => t.elementwise f op) = fired s (emitted s f (resultOf f (List.zipWith op f.xs f.ys))) := by
  rw [fire_fires h]
  unfold State.elementwise State.emitEmpty
  split
  · rename_i he; rw [emit_fired]; simp [resultOf, Firing.out, he]
  · rename_i he; rw [emit_fired]; simp [resultOf, Firing.out, he]
/-- A monadic result without flags. -/
theorem elementwise1_fired {s : State} {f : Firing} (h : Fires s f) (op : Nat → Nat) :
    s.fire (fun f t => t.elementwise1 f op) = fired s (emitted s f (resultOf f (f.xs.map op))) := by
  rw [fire_fires h]
  unfold State.elementwise1 State.emitEmpty
  split
  · rename_i he; rw [emit_fired]; simp [resultOf, Firing.out, he]
  · rename_i he; rw [emit_fired]; simp [resultOf, Firing.out, he]

/-- Raising flags leaves the trap enables of the context. -/
theorem regBits_raise (s : State) (c : BitVec 12) (fl : Nat) : (s.raiseFlags c fl).regBits (ctxFlags c.toNat) 12 8 = s.regBits (ctxFlags c.toNat) 12 8 := by
  have h : (s.raiseFlags c fl).reg (ctxFlags c.toNat) = s.reg (ctxFlags c.toNat) ||| BitVec.ofNat 64 (fl % 32) := by
    simp [State.raiseFlags, State.reg, State.setReg]
  simp only [State.regBits, bits, h, BitVec.toNat_or, BitVec.toNat_ofNat]
  have hl : fl % 32 % 2 ^ 64 = fl % 32 := Nat.mod_eq_of_lt (by omega)
  rw [hl, ← Nat.shiftRight_eq_div_pow, ← Nat.shiftRight_eq_div_pow, Nat.shiftRight_or_distrib]
  have hz : (fl % 32) >>> 8 = 0 := by rw [Nat.shiftRight_eq_div_pow]; omega
  simp [hz]

/-- The end of a rounding firing: delivery, or the FPX fault. -/
theorem withFlags_rounds (s d2 : State) (f : Firing) (poison : Bool) (r : List (Nat × Nat)) (tok : Token)
   (hc : d2.contexts = s.contexts) (hi : d2.issue = none) (hr : d2.regs = s.regs) :
   let all := if poison then 0 else (r.map (fun x => x.2)).foldl (fun a b => a ||| b) 0
   let en := s.regBits (ctxFlags f.ctx.toNat) 12 8
   (all &&& en = 0 → d2.withFlags f poison (r.map (fun x => x.2)) (fun u => u.emit f tok) = fired (raised d2 f all) (emitted s f tok)) ∧
   (all &&& en ≠ 0 → d2.withFlags f poison (r.map (fun x => x.2)) (fun u => u.emit f tok) =
     ((fired (raised d2 f all) []).faultFiring f fFPX
        [BitVec.ofNat 32 all, BitVec.ofNat 32 (lowestFlag (all &&& en) 0 (r.map (fun x => x.2)))])) := by
  intro all en
  have hen : (raised d2 f all).regBits (ctxFlags f.ctx.toNat) 12 8 = en := by
    unfold raised; split
    · simp [en, State.regBits, State.reg, hr]
    · rw [regBits_raise]; simp [en, State.regBits, State.reg, hr]
  have hem : ∀ t, emitted (raised d2 f all) f t = emitted s f t := by
    intro t; unfold emitted State.tagged State.shape raised
    have e : (if all = 0 then d2 else d2.raiseFlags f.ctx all).contexts = s.contexts := by split <;> simp [State.raiseFlags, hc]
    simp only [e]
  have hiss : ∀ l, fired (raised d2 f all) l = { raised d2 f all with net := (raised d2 f all).net ++ l } := by
    intro l
    have : (raised d2 f all).issue = none := by unfold raised; split <;> simp [State.raiseFlags, hi]
    unfold fired; rw [← this]
  have hw : d2.withFlags f poison (r.map (fun x => x.2)) (fun u => u.emit f tok) =
     if all &&& en ≠ 0 then (raised d2 f all).faultFiring f fFPX [BitVec.ofNat 32 all, BitVec.ofNat 32 (lowestFlag (all &&& en) 0 (r.map (fun x => x.2)))] else (raised d2 f all).emit f tok := by
    rw [← hen]; rfl
  rw [hw]
  constructor
  · intro h0; rw [if_neg (by simpa using h0), emit_flights, hem, hiss]
  · intro h0; rw [if_pos (by simpa using h0), hiss]; simp

/-- Draws do not depend on the datapath, and leave the contexts and the registers. -/
theorem draw_frame (s : State) (ci m n : Nat) : ((({ s with issue := none } : State).drawFor ci m n).1 = (s.drawFor ci m n).1) ∧ ((({ s with issue := none } : State).drawFor ci m n).2 = { (s.drawFor ci m n).2 with issue := none }) ∧ (s.drawFor ci m n).2.contexts = s.contexts ∧ (s.drawFor ci m n).2.regs = s.regs := by
  unfold State.drawFor; split <;> simp [State.setCell, State.cell]

/-- A meaning that draws, rounds and ends in `withFlags` rounds as `RoundsTo` says. -/
theorem rounds_of {i : Instr} {s : State} {f : Firing} {mode n : Nat} {poison : Bool} {rs : List Nat → List (Nat × Nat)} {tok : List (Nat × Nat) → Token}
   (h : exec i s = .next ((({ s with issue := none } : State).drawFor f.ci mode n).2.withFlags f poison ((rs (s.drawFor f.ci mode n).1).map (fun x => x.2)) (fun u => u.emit f (tok (rs (s.drawFor f.ci mode n).1))))) :
   RoundsTo i s f mode n poison rs tok := by
  have D := draw_frame s f.ci mode n
  have W := withFlags_rounds s (({ s with issue := none } : State).drawFor f.ci mode n).2 f poison (rs (s.drawFor f.ci mode n).1) (tok (rs (s.drawFor f.ci mode n).1)) (by simp [D]) (by simp [D]) (by simp [D])
  unfold RoundsTo
  simp only [D.2.1] at W h
  have R : ∀ a l, fired (raised { (s.drawFor f.ci mode n).2 with issue := none } f a) l = fired (raised (s.drawFor f.ci mode n).2 f a) l := by
    intro a l; unfold raised fired; split <;> simp [State.raiseFlags, State.setReg] <;> rfl
  simp only [R] at W
  refine ⟨fun h0 => ?_, fun h0 => ?_⟩
  · rw [h, W.1 h0]
  · rw [h, W.2 h0]

end Sys2Proof
end

