-- ==== Sys2Proof/Tests/Slice0.lean ====
section
/-! SUPPORT. Small tests: well-formedness, decoding, single steps, and for every claim with hypotheses a state that meets them.
Each word and result is written out from the rule of the manual that its docstring or section names. -/

namespace Sys2Proof.Tests

set_option Elab.async false

open Sys2Proof Sys2Proof.Machine

/-! ## Small states -/

/-- The state after reset. -/
def s0 : State := State.reset
/-- Keeper 0 in user mode. -/
def user (s : State) : State := s.setBits (csr 0 0) 0 0 0
/-- Keeper 0 in a trap handler. -/
def trapped (s : State) : State := s.setBits (csr 0 0) 2 2 1
/-- A general register of keeper 0. -/
def kr (r : Reg) (v : Word) (s : State) : State := s.setK 0 r v
/-- The pc of keeper 0. -/
def pc (v : Word) (s : State) : State := s.setKeeper 0 { s.keeper 0 with pc := v }
/-- `KUBASE` of keeper 0. -/
def base (v : Word) (s : State) : State := s.setReg (csr 0 0x00B) v
/-- A turn as the next input. -/
def turn (t : Turn) (s : State) : State := { s with inputs := [t] }
/-- Keeper 0 may run. -/
def runs (s : State) : State := s.setBits (csr 0 0) 3 3 0
/-- Fields of keeper 0 changed. -/
def kp (f : Keeper → Keeper) (s : State) : State := s.setKeeper 0 (f (s.keeper 0))
/-- Keeper 0 executes words of local memory from 0 on: the words are placed, and it may run. -/
def words (ws : List (BitVec 32)) (s : State) : State :=
  runs ((indexed 0 ws).foldl (fun t e => t.putLE (kmemAddr 0 (4 * e.1)) 4 e.2.toNat) s)
/-- The state after a step; the state itself where the step stops. -/
def after (s : State) : State :=
  match step s with
  | .next t => t
  | _ => s
/-- The state after an instruction. -/
def did (i : Instr) (s : State) : State :=
  match exec i s with
  | .next t => t
  | _ => s
/-- An event of one class-6 token for keeper 0. -/
def evt : Token := eventToken 0 0 [1]

/-! ## Well-formedness: a term that each check refuses -/

/-- The all-ones word is illegal; `add k3, k1, k2` is not (R112). -/
theorem test_wf_illegal : (Instr.illegalInstruction 0xFFFFFFFF).wf = true ∧ (Instr.illegalInstruction 0x02308800).wf = false := by
  decide
/-- There are 32 sectors, 8,192 cells, 160 pools, 12 stacks, 4 compute dies, 2 link dies (R12 to R16, R101). -/
theorem test_wf_units : (Instr.keeperWaitResume 32).wf = false ∧ (Instr.keeperFenceComplete 32).wf = false
    ∧ (Instr.configDeliveryComplete 32).wf = false ∧ (Instr.spillRecordStore 32).wf = false ∧ (Instr.overflowRoomFreed 32).wf = false
    ∧ (Instr.overflowChunkReturn 32).wf = false ∧ (Instr.spillReinject 0 8192).wf = false ∧ (Instr.spillProbe 32 0).wf = false
    ∧ (Instr.drainForward 8192).wf = false ∧ (Instr.secParkResume 32 0).wf = false ∧ (Instr.secParkDiscard 32 0).wf = false
    ∧ (Instr.registerWrite 4 0).wf = false ∧ (Instr.walkEntryFetch 160).wf = false ∧ (Instr.walkPark 160).wf = false := by decide
theorem test_wf_units2 : (Instr.bSetLoad 160 0).wf = false ∧ (Instr.passStreamStart 160 0).wf = false
    ∧ (Instr.spanSumsArrive 160 0).wf = false ∧ (Instr.ladderDecision 160 0).wf = false ∧ (Instr.replayStream 160 0).wf = false
    ∧ (Instr.poolDrainPerform 160 0).wf = false ∧ (Instr.drainHandoff 160 0).wf = false
    ∧ (Instr.poolWalkResume 160 0).wf = false ∧ (Instr.poolWalkAbort 160 0).wf = false ∧ (Instr.refreshInterval 12 0 true).wf = false
    ∧ (Instr.refreshPullIn 0 32).wf = false ∧ (Instr.remapRebuild 12).wf = false ∧ (Instr.tref2xChange 12 true).wf = false
    ∧ (Instr.hotHalve 4).wf = false ∧ (Instr.autoMoveStart 4).wf = false := by decide
theorem test_wf_units3 : (Instr.shootdownInvalidate 0 38).wf = false ∧ (Instr.moveAbort 0 0).wf = false ∧ (Instr.moveAbort 0 8).wf = false
    ∧ (Instr.flitReplay 2 0 true).wf = false ∧ (Instr.portDown 0 8).wf = false ∧ (Instr.portUp 2 0).wf = false
    ∧ (Instr.linkDevidValid 2).wf = false ∧ (Instr.joinDigestArrive 0 2048 0).wf = false ∧ (Instr.overflowAreaReturn 1024).wf = false
    ∧ (Instr.commandWindowWrite 0x3FFFFF [0, 0]).wf = false ∧ (Instr.saveComplete 4096).wf = false
    ∧ (Instr.restoreComplete 4096).wf = false ∧ (Instr.contextEnd 4096).wf = false ∧ (Instr.watchdogExpire 4096).wf = false
    ∧ (Instr.drainDeadlineExpire 4096).wf = false ∧ (Instr.partitionWrite 32 0).wf = false := by decide
theorem test_wf_units4 : (Instr.sectorGate 32).wf = false ∧ (Instr.sectorWake 32).wf = false ∧ (Instr.sectorClockStart 32).wf = false
    ∧ (Instr.sectorStateReset 32).wf = false ∧ (Instr.sectorReady 32).wf = false ∧ (Instr.cxlPortEnable 4 true 0).wf = false
    ∧ (Instr.cxlPortDisable 4).wf = false ∧ (Instr.cxlLinkDown 4).wf = false ∧ (Instr.ideEnable 4 true).wf = false
    ∧ (Instr.ideFailure 4).wf = false ∧ (Instr.watchpointWrite 16 0).wf = false ∧ (Instr.frameLineRetire 8192 0).wf = false
    ∧ (Instr.frameLineRetire 0 256).wf = false ∧ (Instr.jtagKeeperHalt 32).wf = false ∧ (Instr.jtagKeeperStep 32).wf = false := by decide
/-- A token has the lanes its header says: 32 for a run length field of 0, one for an empty run (R21, R22). -/
theorem test_wf_tokens : (Token.wf { Token.zero with len := 2, lanes := [0] }) = false ∧ (Token.wf { Token.zero with lanes := [] }) = false
    ∧ (Token.wf { Token.zero with len := 2, empty := true, lanes := [0, 0] }) = false
    ∧ (Token.wf { Token.zero with len := 2, empty := true, lanes := [0] }) = true
    ∧ (Token.wf { Token.zero with lanes := List.replicate 32 0 }) = true
    ∧ (Instr.poolCfg Token.zero).wf = false ∧ (Instr.steerToken Token.zero).wf = false ∧ (Instr.lnPut Token.zero).wf = false := by decide
/-- A command has a queue below 1,024, a line below 8 and eight words (R437, R439). -/
theorem test_wf_commands : (Instr.wait ⟨1024, 0, 1, List.replicate 8 0, none⟩).wf = false
    ∧ (Instr.wait ⟨1023, 0, 8, List.replicate 8 0, none⟩).wf = false ∧ (Instr.wait ⟨1023, 0, 1, [0], none⟩).wf = false
    ∧ (Instr.wait ⟨1023, 0, 1, List.replicate 8 0, none⟩).wf = true := by decide
/-- Error records, host accesses, walks and remote requests (R484, R490, R58, R62). -/
theorem test_wf_records : (Instr.errorDetect { source := 0, severity := 0, loc := 0, detail := 0 }).wf = false
    ∧ (Instr.errorDetect { source := 1, severity := 3, loc := 0, detail := 0 }).wf = false
    ∧ (Instr.hostMemoryAccess { addr := 0, size := 0, write := none, ep := false }).wf = false
    ∧ (Instr.walk 0 0 0 (2 ^ 56) true).wf = false ∧ (Instr.walk 0 16384 0 0 true).wf = false := by decide

/-! ## Decoding, from the encodings of R110, R111, R141 and the opcode fields of R113 to R115 -/

theorem test_decode_register : decode 0b0000001_11111_00001_00010_0000000001#32 = .keeperSub 31 1 2 := by decide +kernel
theorem test_decode_immediate : decode 0b0000011_00100_00101_111111111111111#32 = .keeperAndi 4 5 (-1) := by decide +kernel
theorem test_decode_load : decode 0b0010001_00110_00111_000000000000010#32 = .keeperLd16 6 7 2 := by decide +kernel
theorem test_decode_store : decode 0b0010100_00000_00110_00111_1111111111#32 = .keeperSt8 6 7 1023 := by decide +kernel
theorem test_decode_branch : decode 0b0011000_10000_00001_00010_0000000000#32 = .keeperBeq 1 2 0x4000 := by decide +kernel
theorem test_decode_jump : decode 0b0011111_00001_00010_100000000000000#32 = .keeperJalr 1 2 0x4000 := by decide +kernel
theorem test_decode_system : decode 0b0100011_00000_00000_000000000000000#32 = .keeperTret
    ∧ decode 0b0100001_00000_00011_000000000000101#32 = .keeperCsrw 3 5 := by decide +kernel
theorem test_decode_hive : decode 0b0101101_00101_00000_00000_0000000001#32 = .kpSched 5 true
    ∧ decode 0b0101001_00000_00100_00000_0000000001#32 = .kpCfgp 4 true := by decide +kernel
theorem test_decode_node : decodeNode (0b001010000#9 ++ 0#87) = nodeInstr 0x050 ∧ nodeInstr 0x012 = some .clz := by decide +kernel
/-- A word shorter than its instruction is read with zeros above (the table gives 32 bits to a keeper word). -/
theorem test_decode_table : decodeTableWord 32 0x02308800 = some (.keeperAdd 3 1 2) := by decide +kernel

/-! ## Keeper words -/

/-- A run of the word at the pc: 7 + 5, then the pc has moved by 4 (R126, R130). -/
theorem test_add : let t := after (State.withFetchWord (kr 1 7 (kr 2 5 s0)) 32 0x02308800)
    t.kReg 0 3 = 12 ∧ (t.keeper 0).pc = 4 := by decide +kernel
/-- 64-bit subtraction wraps (R130). -/
theorem test_sub_wraps : (did (.keeperSub 3 0 2) (kr 2 1 s0)).kReg 0 3 = 0xFFFFFFFFFFFFFFFF := by decide +kernel
/-- The high half of (−1) · (−1) is 0; unsigned it is 2^64 − 2 (R130). -/
theorem test_mulh : (did (.keeperMulh 3 1 1) (kr 1 (-1) s0)).kReg 0 3 = 0
    ∧ (did (.keeperMulhn 3 1 1) (kr 1 (-1) s0)).kReg 0 3 = 0xFFFFFFFFFFFFFFFE := by decide +kernel
/-- Shifts take b[5:0]; `sra` keeps the sign (R130). -/
theorem test_shift : (did (.keeperSra 3 1 2) (kr 1 (-8) (kr 2 65 s0))).kReg 0 3 = -4
    ∧ (did (.keeperSll 3 1 2) (kr 1 1 (kr 2 127 s0))).kReg 0 3 = 0x8000000000000000 := by decide +kernel
/-- k0 reads zero and discards writes (R126). -/
theorem test_k0 : (did (.keeperAddi 0 0 5) s0).kReg 0 0 = 0 := by decide +kernel
/-- `lui` sign-extends from bit 31 (R131). -/
theorem test_lui : (did (.keeperLui 4 0x80000) s0).kReg 0 4 = 0xFFFFFFFF80000000 := by decide +kernel
/-- A byte 0x80 loads as −128 (R132). -/
theorem test_ld8 : (did (.keeperLd8 4 0 16) (s0.putLE (kmemAddr 0 16) 1 0x80)).kReg 0 4 = -128 := by decide +kernel
/-- A store and a load of 64 bits, little-endian (R132, R155). -/
theorem test_st64 : (did (.keeperSt64 0 1 8) (kr 1 0x0102030405060708 s0)).byte (kmemAddr 0 8) = 8
    ∧ (did (.keeperSt64 0 1 8) (kr 1 0x0102030405060708 s0)).byte (kmemAddr 0 15) = 1 := by decide +kernel
/-- A misaligned load takes the ALIGN trap: KFAULT 0xA, KADDR the address (R135). -/
theorem test_align : (did (.keeperLd64 4 0 4) s0).reg (csr 0 3) = 0xA ∧ (did (.keeperLd64 4 0 4) s0).reg (csr 0 4) = 4 := by decide +kernel
/-- A taken branch reaches pc + 4 · off; one not taken moves on (R133, R110). -/
theorem test_branch : ((did (.keeperBne 1 0 (-2)) (kr 1 1 (pc 16 s0))).keeper 0).pc = 8
    ∧ ((did (.keeperBeq 1 0 (-2)) (kr 1 1 (pc 16 s0))).keeper 0).pc = 20 := by decide +kernel
/-- `jalr` reads ka before it writes kd (R133). -/
theorem test_jalr : ((did (.keeperJalr 1 1 4) (kr 1 32 s0)).keeper 0).pc = 36 ∧ (did (.keeperJalr 1 1 4) (kr 1 32 s0)).kReg 0 1 = 4 := by
  decide +kernel
/-- `trap` saves pc + 4 and sets SOFT (R135); `tret` goes back (R136). -/
theorem test_trap : (did (.keeperTrap 5) (pc 8 s0)).reg (csr 0 3) = 0x10005 ∧ ((did .keeperTret (did (.keeperTrap 5) (pc 8 s0))).keeper 0).pc = 12 := by
  decide +kernel
/-- `csrr` of EVCNT counts the event queue (R128). -/
theorem test_csrr : (did (.keeperCsrr 4 0x019) (kp (fun x => { x with evq := [evt, evt] }) s0)).kReg 0 4 = 2 := by decide +kernel

/-! ## Witnesses: words of a keeper -/

theorem wit_DecodeEncodedKeeperWord : (Instr.keeperAdd 3 1 2).wf = true ∧ encode (.keeperAdd 3 1 2) = some 0x02308800#32 := by
  decide +kernel
theorem wit_IllegalWordTraps :
    kMajor 0 = 0 ∧ kMajor 0x14000000 = 0x0A ∧ kMajor 0x1E000000 = 0x0F ∧ kMajor 0x4C000000 = 0x26 ∧ kMajor 0x4E000000 = 0x27
      ∧ 0x30 ≤ kMajor 0x60000000 ∧ (kMajor 0x0200000F = 1 ∧ 0x00F ≤ (kFunc 0x0200000F).toNat)
      ∧ (kMajor 0x0C000040 = 0x06 ∧ (kImm15 0x0C000040).extractLsb' 6 9 ≠ 0)
      ∧ (kMajor 0x40008000 = 0x20 ∧ kFieldA 0x40008000 ≠ 0) ∧ (kMajor 0x42100000 = 0x21 ∧ kFieldD 0x42100000 ≠ 0)
      ∧ (kMajor 0x44008000 = 0x22 ∧ kFieldA 0x44008000 ≠ 0) ∧ (kMajor 0x46000001 = 0x23 ∧ (0x46000001#32).extractLsb' 0 25 ≠ 0)
      ∧ (kMajor 0x4A000004 = 0x25 ∧ (0x4A000004#32).extractLsb' 2 23 ≠ 0)
      ∧ (0x28 ≤ kMajor 0x50000400 ∧ kMajor 0x50000400 ≤ 0x2F ∧ kFieldB 0x50000400 ≠ 0)
      ∧ (kMajor 0x50000001 = 0x28 ∧ kFunc 0x50000001 ≠ 0) ∧ (kMajor 0x52100000 = 0x29 ∧ kFieldD 0x52100000 ≠ 0)
      ∧ (kMajor 0x5A008000 = 0x2D ∧ kFieldA 0x5A008000 ≠ 0) ∧ illegalWord 0 = true ∧ s0.inTrap s0.cur = false := by
  decide +kernel
theorem wit_StepRunsKeeperWord : let s := turn (.keeper 0) (runs s0)
    s.power = .on ∧ s.inputs = [.keeper 0] ∧ s.keeperRuns 0 = true ∧ s.fetchFault 0 (s.keeper 0).pc = none := by
  decide +kernel
theorem wit_PoweredStepIsSafe : s0.power = .on ∧ (let s := { turn (.keeper 0) s0 with power := .off }
    s.power = .off ∧ s.inputs = [.keeper 0] ∧ Turn.keeper 0 ≠ .event .powerOn)
    ∧ (let s := { turn (.event .powerOn) s0 with power := .off }
      s.power = .off ∧ s.inputs = [.event .powerOn]) := by decide +kernel
theorem wit_FetchFaultTraps : (turn (.keeper 0) (runs s0)).inTrap 0 = false
    ∧ (let s := turn (.keeper 0) (runs (pc 2 s0)); s.keeperRuns 0 = true ∧ (s.keeper 0).pc.toNat % 4 ≠ 0)
    ∧ (let s := turn (.keeper 0) (runs (pc 0x40000 s0)); s.keeperRuns 0 = true ∧ 0x40000 ≤ (s.keeper 0).pc.toNat)
    ∧ (let s := turn (.keeper 0) (runs (base 4 (user s0)))
      s.keeperRuns 0 = true ∧ s.supervisor 0 = false ∧ (s.keeper 0).pc.toNat < (s.reg (csr 0 0x00B)).toNat)
    ∧ (let s := turn (.keeper 0) (runs ((s0.markPoison (kmemAddr 0 0) 64)))
      s.keeperRuns 0 = true ∧ s.supervisor 0 = true ∧ s.isPoisoned (kmemAddr 0 (s.keeper 0).pc.toNat) 4 = true) := by decide +kernel
theorem wit_KeeperLocalLoad : s0.cur < 32 ∧ ∀ e ∈ loadWords, (keeperAddr s0 0 16).toNat % e.2 = 0
    ∧ ((keeperAddr s0 0 16).toNat < 0x40000 ∧ s0.supervisor s0.cur = true)
    ∧ s0.isPoisoned (kmemAddr s0.cur (keeperAddr s0 0 16).toNat) e.2 = false := by
  simp only [loadWords, List.mem_cons, List.not_mem_nil, or_false, forall_eq_or_imp, forall_eq]; decide +kernel
theorem wit_KeeperLocalLoad_user : (let s := base 16 (user s0)
    (keeperAddr s 0 16).toNat < 0x40000 ∧ s.supervisor s.cur = false ∧ (s.reg (csr s.cur 0x00B)).toNat ≤ (keeperAddr s 0 16).toNat) := by
  decide +kernel
theorem wit_KeeperLocalStore : MemInv s0 ∧ s0.cur < 32 ∧ (keeperAddr s0 0 16).toNat % 8 = 0 ∧ localOk s0 (keeperAddr s0 0 16) := by
  unfold MemInv localOk; decide +kernel
theorem wit_KeeperAccessFaults : s0.inTrap s0.cur = false ∧ (keeperAddr s0 0 1).toNat % 2 ≠ 0
    ∧ (let s := base 16 (user s0)
      (keeperAddr s 0 8).toNat < 0x40000 ∧ s.supervisor s.cur = false ∧ (keeperAddr s 0 8).toNat < (s.reg (csr s.cur 0x00B)).toNat)
    ∧ (let s := kr 1 0x8000000000000000 (user s0); (keeperAddr s 1 0).getLsbD 63 = true ∧ s.supervisor s.cur = false)
    ∧ (let s := kr 1 0x8200000000000000 s0
      (keeperAddr s 1 0).getLsbD 63 = true ∧ s.supervisor s.cur = true ∧ (keeperAddr s 1 0).extractLsb' 57 6 ≠ 0)
    ∧ (let s := kr 1 0x0100000000000000 s0; (keeperAddr s 1 0).getLsbD 63 = false ∧ (keeperAddr s 1 0).extractLsb' 56 7 ≠ 0) := by
  decide +kernel
/-- A home of this module, and one of another (R129, R410). -/
theorem wit_KeeperAccessElsewhere : (let s := kr 1 0x8000000000000000 s0
    ∃ s1 s2 g, s.keeperResolve s.cur (keeperAddr s 1 0) false = (.ok 0, s1) ∧ s1.target (s.cur / 8) 0 = .here 0
      ∧ s1.sectorHeld s.cur 0 = false ∧ s1.portPending s.cur 0 = false ∧ s1.load 0 8 false = (g, s2) ∧ g.code = 0 ∧ g.poison = false) :=
  ⟨_, _, _, rfl, by decide +kernel, by decide +kernel, by decide +kernel, rfl, by decide +kernel, by decide +kernel⟩
theorem wit_KeeperAccessElsewhere_store : (let s := kr 1 0x8000000000000000 s0
    ∃ s1 s2, s.keeperResolve s.cur (keeperAddr s 1 0) true = (.ok 0, s1) ∧ s1.target (s.cur / 8) 0 = .here 0
      ∧ s1.store 0 (leBytes 8 0) false = (0, s2)) :=
  ⟨_, _, rfl, by decide +kernel, by rw [Prod.ext_iff]; exact ⟨by decide +kernel, rfl⟩⟩
/-- A branch that is not taken, one taken to a good target, and each bad one (R133). -/
theorem wit_KeeperBranches : decide (s0.kReg s0.cur 0 = s0.kReg s0.cur 1) = true ∧ decide (s0.kReg s0.cur 0 ≠ s0.kReg s0.cur 1) = false
    ∧ targetOk s0 (branchTarget s0 (4#15)) ∧ targetBad (pc 2 s0) (branchTarget (pc 2 s0) (4#15)) 0xA
    ∧ targetBad (pc 0x3FFFC s0) (branchTarget (pc 0x3FFFC s0) (1#15)) 7
    ∧ targetBad (base 16 (user s0)) (branchTarget (base 16 (user s0)) (3#15)) 9 ∧ (base 16 (user s0)).inTrap (base 16 (user s0)).cur = false := by
  unfold targetOk targetBad localOk; decide +kernel
theorem wit_KeeperJumps : targetOk s0 (s0.kReg s0.cur 0 + BitVec.ofInt 64 (BitVec.toInt (8#15)))
    ∧ targetBad s0 (s0.kReg s0.cur 0 + BitVec.ofInt 64 (BitVec.toInt (-4#15))) 7 ∧ targetOk s0 (branchTarget s0 (8#20))
    ∧ s0.inTrap s0.cur = false := by
  unfold targetOk targetBad localOk; decide +kernel
theorem wit_CsrReads : s0.cur < 32 ∧ 0x018 ∈ csrWritable.map (·.1) ∧ s0.supervisor s0.cur = true
    ∧ (user s0).supervisor (user s0).cur = false ∧ 0x018 ∈ csrOfUser ∧ 0x000 ∉ csrOfUser ∧ 0x006 ∉ csrWritable.map (·.1)
    ∧ (user s0).inTrap (user s0).cur = false := by decide +kernel
theorem wit_CsrWrites : ((0x003 : Nat), (0x1FFFF : Word)) ∈ csrWritable ∧ s0.supervisor s0.cur = true ∧ 0x006 ∉ csrWritable.map (·.1)
    ∧ (user s0).supervisor (user s0).cur = false ∧ (user s0).inTrap (user s0).cur = false := by decide +kernel
theorem wit_TrapWordTaken : s0.inTrap s0.cur = false := by decide +kernel
theorem wit_ReturnFromTrap : s0.supervisor s0.cur = true ∧ (user s0).supervisor (user s0).cur = false
    ∧ (user s0).inTrap (user s0).cur = false := by decide +kernel
theorem wit_FaultInTrapHalts : (trapped s0).cur < 32 ∧ (trapped s0).inTrap (trapped s0).cur = true := by decide +kernel
/-- `wait` with an event, without one and without a limit, with a limit; the wait over by its limit; `fence` done and not (R138, R139). -/
theorem wit_KeeperWaitAndFence : ((kp (fun x => { x with evq := [evt] }) s0).keeper 0).evq ≠ []
    ∧ ((s0.keeper s0.cur).evq = [] ∧ keeperAddr s0 0 0 = 0 ∧ keeperAddr s0 0 1 ≠ 0)
    ∧ (let s := kp (fun x => { x with waiting := some (0, 4) }) s0; (s.keeper 0).waiting = some (0, 4) ∧ 0 ≤ s.clk)
    ∧ ((s0.keeper s0.cur).port = none ∧ (s0.keeper s0.cur).delivery = none ∧ (s0.keeper s0.cur).drainCells = []
      ∧ (s0.keeper s0.cur).domStores = [])
    ∧ (kp (fun x => { x with port := some evt }) s0).fenceDone 0 0 = false
    ∧ (let s := kp (fun x => { x with fencing := some 0 }) s0; (s.keeper 0).fencing = some 0 ∧ s.fenceDone 0 0 = true) := by
  decide +kernel
/-- Each fault of an address operand, at its edge (R141). -/
theorem wit_HiveOperandFaults : s0.inTrap s0.cur = false ∧ s0.supervisor s0.cur = true
    ∧ 0x40000 ≤ ((kr 1 0x40000 s0).kReg 0 1).toNat
    ∧ (((kr 1 0x3FFE1 s0).kReg 0 1).toNat < 0x40000 ∧ ((kr 1 0x3FFE1 s0).kReg 0 1).toNat % 32 ≠ 0)
    ∧ (let s := base 64 (kr 1 32 (user s0)); s.inTrap s.cur = false ∧ s.supervisor s.cur = false ∧ (s.kReg 0 1).toNat < 0x40000
      ∧ (s.kReg 0 1).toNat % 32 = 0 ∧ (s.kReg 0 1).toNat < (s.reg (csr 0 0x00B)).toNat) := by decide +kernel
/-- A pattern of one constant word for the cell in the corner of the sector stands in local memory from 0 on (R142). -/
def patterned (s : State) : State := (s.putLE (kmemAddr 0 0) 4 0x00010100).putLE (kmemAddr 0 32) 4 7
theorem wit_HiveConfiguration : (let s := patterned s0; let p := patternOf (s.bytes (kmemAddr 0 0) 68)
    s.supervisor s.cur = true ∧ (s.kReg s.cur 0).toNat < 0x40000 ∧ (s.kReg s.cur 0).toNat % 32 = 0 ∧ (s.keeper s.cur).delivery = none
      ∧ s.cfgHeld s.cur = false ∧ patternSize (s.readLE (kmemAddr s.cur (s.kReg s.cur 0).toNat) 4) = 68
      ∧ s.localBad s.cur 0 68 = false ∧ p.cfgkOk s.cur = true) := by decide +kernel
/-- A pattern of one `add` node for that cell (R142, R144). -/
def patterned2 (s : State) : State := ((s.putLE (kmemAddr 0 0) 4 0x00000101).putLE (kmemAddr 0 32) 12 (2 * 2 ^ 85)).putLE (kmemAddr 0 64) 4 0
theorem wit_HiveConfiguration_cfgp : (let s := patterned2 s0; let p := patternOf (s.bytes (kmemAddr 0 0) 68)
    patternSize (s.readLE (kmemAddr 0 0) 4) = 68 ∧ p.nrec = 1 ∧ s.live? ((s.reg (csr s.cur 9)).extractLsb' 0 12) = none
      ∧ p.cfgpOk s.cur none = true) := by decide +kernel
theorem wit_HiveConfiguration_end : ∃ d t n, (let s := kp (fun x => { x with delivery := some d }) s0
    (s.keeper 0).delivery = some d ∧ s.deliver d = (t, n)) :=
  ⟨(patternOf ((patterned s0).bytes (kmemAddr 0 0) 68)).delivery 0 true true true 0 0, _, _, rfl, rfl⟩
/-- A class-0 token of one lane for a cell, as `kp.inject` takes it, and a class-5 message, as `kp.send` takes it (R147). -/
def injected : Token := { Token.zero with dest := cellDest 0 0 0, len := 1, lanes := [5] }
def sent : Token := { Token.zero with dest := engineDest 0 0 5 0, len := 3, cls := 5, lanes := [0, 0, 0] }
def imaged (t : Token) (s : State) : State := s.rawStore (kmemAddr 0 0) t.image false
theorem wit_HiveTokens : (let s := imaged injected s0; let t := tokenOfImage (s.bytes (kmemAddr 0 0) 20)
    s.operandFault s.cur (s.kReg s.cur 0) 32 = none ∧ (s.keeper s.cur).port = none
      ∧ 16 + 4 * (tokenOf (BitVec.ofNat 128 (s.readLE (kmemAddr 0 0) 16)) []).payload = 20 ∧ s.localBad s.cur 0 20 = false
      ∧ injectOk t = true) := by decide +kernel
theorem wit_HiveTokens_send : sendOk (tokenOfImage ((imaged sent s0).bytes (kmemAddr 0 0) 28)) = true := by decide +kernel
theorem wit_HiveTokens_evq : s0.operandFault s0.cur (s0.kReg s0.cur 0) 32 = none ∧ (s0.keeper s0.cur).evq = []
    ∧ (let s := kp (fun x => { x with evq := [evt] }) s0; (s.keeper s.cur).evq = [evt] ∧ (s.kReg s.cur 0).toNat + evt.imageSize ≤ 0x40000) := by
  decide +kernel
theorem wit_HiveSchedLaunchDrain : (s0.supervisor s0.cur = true ∧ s0.operandFault s0.cur (s0.kReg s0.cur 0) 64 = none
      ∧ s0.localBad s0.cur (s0.kReg s0.cur 0).toNat 64 = false)
    ∧ ((kp (fun x => { x with draining := true }) s0).keeper 0).draining = true
    ∧ ((s0.keeper s0.cur).draining = false ∧ s0.regBits (secReg s0.cur 0 0x40) 15 0 = 0)
    ∧ (s0.setReg (secReg 0 0 0x40) 1).regBits (secReg 0 0 0x40) 15 0 ≠ 0 := by decide +kernel

/-! ## Firings -/

/-- A token of lanes. -/
def run (w : BitVec 3) (ls : List Lane) : Token := { Token.zero with len := BitVec.ofNat 5 ls.length, width := w, lanes := ls }
/-- A node record whose result goes to port 0 of node 1 of cell 8. -/
def record (n : BitVec 2) (w : BitVec 3) (m : BitVec 4) (lit : BitVec 32) : NodeRec :=
  { arity := n, tagop := 0, urg := false, width := w, mod := m, dstA := cellDest 8 1 0, dstB := 0, lit := lit }
/-- A firing of a node of cell `ci`. -/
def fire (ci op : Nat) (w : BitVec 3) (m : BitVec 4) (lit : BitVec 32) (a : List Lane) (b : Option (List Lane)) : Firing :=
  { ci := ci, node := 0, cfg := { opcode := op, fields := record (if b.isSome then 1 else 0) w m lit, level := 0 }, ctx := 0, tag := 0,
    len := a.length, a := run w a, b := b.map (run w), port := 0, reinj := false, held := false, since := 0, order := 0 }
/-- That firing on the datapath. -/
def fly (f : Firing) (s : State) : State := { s with issue := some f }
/-- The lanes of what the firing sends. -/
def gives (i : Instr) (f : Firing) : List (List Lane) := (did i (fly f s0)).net.map (fun e => e.tok.lanes)
/-- An empty run for the first operand. -/
def emptied (f : Firing) : Firing := { f with a := { f.a with empty := true, lanes := [0] } }
/-- A fault-flagged first operand with code ADDR. -/
def faulted (f : Firing) : Firing := { f with a := { f.a with fault := true, aux := 7 } }

/-- 0x7FFFFFFF + 1 wraps; with SAT it stays (R168, R169). -/
theorem test_node_add : gives .add (fire 0 0 0 0 0 [0x7FFFFFFF] (some [1])) = [[0x80000000]]
    ∧ gives .add (fire 0 0 0 8 0 [0x7FFFFFFF] (some [1])) = [[0x7FFFFFFF]] := by decide +kernel
/-- −1 < 1 signed, not unsigned (R170). -/
theorem test_node_compare : gives .clt (fire 0 0x018 0 0 0 [0xFFFFFFFF] (some [1])) = [[0xFFFFFFFF]]
    ∧ gives .cltn (fire 0 0x01A 0 0 0 [0xFFFFFFFF] (some [1])) = [[0]] := by decide +kernel
/-- 1.5 + 1.5 = 3.0 and 2.0 · −0.5 = −1.0 in f32 (R87, R171). -/
theorem test_node_float : gives .fadd (fire 0 0x030 0 0 0 [0x3FC00000] (some [0x3FC00000])) = [[0x40400000]]
    ∧ gives .fmul (fire 0 0x032 0 0 0 [0x40000000] (some [0xBF000000])) = [[0xBF800000]] := by decide +kernel
/-- The one bits of 0b1010 at positions 1 and 3, plus the literal 4 (R183). -/
theorem test_node_bexp : gives .bexp (fire 0 0x070 0 0 4 [0b1010] none) = [[5, 7]] := by decide +kernel

/-! ## Witnesses: firings -/

theorem wit_IntegerNodes : ∀ e ∈ integerNodes, Fires (fly (fire 0 0 0 0 0 [1] (some [2])) s0) (fire 0 0 0 0 0 [1] (some [2])) := by
  intro e _; exact ⟨rfl, by decide +kernel, by decide +kernel⟩
theorem wit_PlainNodes : Fires (fly (fire 64 0x103 0 0 0 [1] none) s0) (fire 64 0x103 0 0 0 [1] none) :=
  ⟨rfl, by decide +kernel, by decide +kernel⟩
theorem wit_FloatNodes : (let f := fire 0 0x030 0 0 0 [1] (some [2]); Fires (fly f s0) f ∧ f.isEmpty = false)
    ∧ (let f := emptied (fire 0 0x030 0 0 0 [1] (some [2])); Fires (fly f s0) f ∧ f.isEmpty = true) :=
  ⟨⟨⟨rfl, by decide +kernel, by decide +kernel⟩, by decide +kernel⟩, ⟨⟨rfl, by decide +kernel, by decide +kernel⟩, by decide +kernel⟩⟩
/-- A context that traps on inexact, and one that traps on nothing (R91, R92). -/
theorem wit_FloatNodes_traps : s0.regBits (ctxFlags 0) 12 8 = 0 ∧ (s0.setBits (ctxFlags 0) 12 12 1).regBits (ctxFlags 0) 12 8 = 16 := by
  decide +kernel
theorem wit_ConversionNodes : (let f := fire 0 0x050 0 0 0 [1] none; Fires (fly f s0) f ∧ f.isEmpty = false)
    ∧ (let f := emptied (fire 0 0x050 0 0 0 [1] none); Fires (fly f s0) f ∧ f.isEmpty = true) :=
  ⟨⟨⟨rfl, by decide +kernel, by decide +kernel⟩, by decide +kernel⟩, ⟨⟨rfl, by decide +kernel, by decide +kernel⟩, by decide +kernel⟩⟩
/-- F is literal bit 31 (R167). -/
theorem wit_PackedNodes : (let f := fire 0 0x040 0 0 0x80000000 [1] (some [2]); f.isFloat = true ∧ f.isEmpty = false ∧ Fires (fly f s0) f)
    ∧ (let f := fire 0 0x040 0 0 0 [1] (some [2]); f.isFloat = false ∧ Fires (fly f s0) f) :=
  ⟨⟨by decide +kernel, by decide +kernel, rfl, by decide +kernel, by decide +kernel⟩, by decide +kernel, rfl, by decide +kernel, by decide +kernel⟩
theorem wit_ReductionNodes : (let f := fire 0 0x060 0 0 0 [1, 2] none; f.isFloat = false ∧ f.isEmpty = false ∧ Fires (fly f s0) f)
    ∧ (let f := fire 0 0x060 0 0 0x80000000 [1, 2] none; f.isFloat = true ∧ f.isEmpty = false ∧ Fires (fly f s0) f)
    ∧ (let f := emptied (fire 0 0x060 0 0 0 [1, 2] none); f.isEmpty = true ∧ Fires (fly f s0) f) :=
  ⟨⟨by decide +kernel, by decide +kernel, rfl, by decide +kernel, by decide +kernel⟩,
    ⟨by decide +kernel, by decide +kernel, rfl, by decide +kernel, by decide +kernel⟩,
    by decide +kernel, rfl, by decide +kernel, by decide +kernel⟩
theorem wit_BitmapNodes : (let f := fire 0 0x072 0 0 0 [1] (some [3]); Fires (fly f s0) f) := ⟨rfl, by decide +kernel, by decide +kernel⟩
/-- A cell with one named line: an element inside it, and one beyond it (R185). -/
def lined (s : State) : State := s.setCell 0 { s.cell 0 with active := { (s.cell 0).active with named := 1 } }
theorem wit_FrameAccessNodes : (let f := fire 0 0x080 0 0 0 [0] none; let s := fly f (lined s0)
      Fires s f ∧ f.isEmpty = false ∧ s.frameOutside f = none)
    ∧ (let f := fire 0 0x080 0 0 0 [32] none; let s := fly f (lined s0); Fires s f ∧ f.isEmpty = false ∧ s.frameOutside f = some 0)
    ∧ (let f := emptied (fire 0 0x080 0 0 0 [32] none); Fires (fly f s0) f ∧ f.isEmpty = true) ∧ MemInv (lined s0) :=
  ⟨⟨⟨rfl, by decide +kernel, by decide +kernel⟩, by decide +kernel, by decide +kernel⟩,
    ⟨⟨rfl, by decide +kernel, by decide +kernel⟩, by decide +kernel, by decide +kernel⟩,
    ⟨⟨rfl, by decide +kernel, by decide +kernel⟩, by decide +kernel⟩, by unfold MemInv; decide +kernel⟩
theorem wit_FaultedOperandNotComputed : (let f := faulted (fire 0 0 0 0 0 [1] (some [2])); let s := fly f s0
    s.issue = some f ∧ s.regBits (custReg 0x18) 3 2 = 0 ∧ f.faultOf = some f.a ∧ kindOf f.ci ≠ .forager) ∧ s0.issue = none :=
  ⟨⟨rfl, by decide +kernel, by decide +kernel, by decide +kernel⟩, rfl⟩
/-- A ready firing of cell 0 on its turn; a message at the head of an inbox; a ready command (R40, R54, R447). -/
def aCmd : Cmd := { queue := 1, seq := 0, line := 6, body := List.replicate 8 0, keeper := none }
def queued (c : Cmd) (s : State) : State := s.setQueue c.queue { s.queue c.queue with onchip := [c] }
def readied (f : Firing) (s : State) : State := s.setCell f.ci { s.cell f.ci with ready := [f] }
theorem wit_StepRunsOtherTurns : (let f := fire 0 0 0 0 0 [1] (some [2]); let s := turn (.cell 0) (readied f s0)
      s.power = .on ∧ s.inputs = [.cell 0] ∧ s.awake = true ∧ s.nextFiring 0 = some f ∧ nodeInstr f.cfg.opcode = some .add)
    ∧ (let d := (engineDest 0 0 5 0).toNat; let s := turn (.inbox d) { s0 with inboxes := [(d, [(0, sent)])] }
      s.inputs = [.inbox d] ∧ s.awake = true ∧ s.inbox d = [(0, sent)] ∧ (messageInstr sent).isSome = true)
    ∧ (let s := turn (.queue 1) (queued aCmd s0); s.inputs = [.queue 1] ∧ s.queueInstr 1 = some (.query aCmd))
    ∧ (let s := turn (.pass 1) s0; s.power = .on ∧ s.inputs = [.pass 1]) := by decide +kernel

/-! ## Witnesses: guard nodes -/

/-- A second operand for a firing. -/
def second (f : Firing) (b : Token) : Firing := { f with b := some b }
/-- The node of a firing at a level. -/
def level (n : Nat) (f : Firing) : Firing := { f with cfg := { f.cfg with level := n } }
/-- A guard's firing of one lane. -/
def guard (op : Nat) (lit : BitVec 32) : Firing := fire 4 op 0 0 lit [7] none
/-- `steer.t` and `steer.f` on data and on an empty run; `call.enter` with and without b (R195, R210). -/
theorem wit_GuardRouting : (let f := fire 4 0x100 0 0 0 [7] (some [1]); Fires (fly f s0) f ∧ f.isEmpty = false)
    ∧ (let f := guard 0x120 3; Fires (fly f s0) f ∧ f.b = none) ∧ (let f := second (guard 0x120 3) (run 0 [1]); Fires (fly f s0) f) :=
  ⟨⟨⟨rfl, by decide +kernel, by decide +kernel⟩, by decide +kernel⟩, ⟨⟨rfl, by decide +kernel, by decide +kernel⟩, rfl⟩,
    rfl, by decide +kernel, by decide +kernel⟩
/-- Linkages of `call.ret`: well formed at the last word below 2^21, an engine port, a word of 2^21, and an empty run (R211). -/
theorem wit_GuardRouting_ret : (let f := second (guard 0x121 0) (run 0 [(keeperDest 31).zeroExtend 32])
      (f.bLane 0).toNat < 2 ^ 21 ∧ dKind ((f.bLane 0).extractLsb' 0 21) = 3)
    ∧ (let f := second (guard 0x121 0) (run 0 [(cellDest 0 0 0).zeroExtend 32]); dKind ((f.bLane 0).extractLsb' 0 21) = 1)
    ∧ (let f := second (guard 0x121 0) (run 0 [(engineDest 0 0 0 0).zeroExtend 32]); dKind ((f.bLane 0).extractLsb' 0 21) = 2)
    ∧ (let f := second (guard 0x121 0) (run 0 [0x200000]); 2 ^ 21 ≤ (f.bLane 0).toNat)
    ∧ (second (guard 0x121 0) { run 0 [0] with empty := true }).b = some { run 0 [0] with empty := true } := by decide +kernel
/-- `post` of 31 and of 32 lanes; `send` and `trap` on data and on an empty run (R214 to R216). -/
theorem wit_GuardRouting_send : (fire 4 0x126 0 0 0 (List.replicate 32 1) none).len = 32 ∧ (fire 4 0x126 0 0 0 (List.replicate 31 1) none).len ≠ 32
    ∧ (guard 0x125 0).isEmpty = false ∧ (emptied (guard 0x125 0)).isEmpty = true
    ∧ (let f := emptied (guard 0x125 0); Fires (fly f s0) f) :=
  ⟨rfl, by decide, by decide +kernel, by decide +kernel, rfl, by decide +kernel, by decide +kernel⟩
/-- A channel of kind none, one drained already, and one that is not (R217). -/
theorem wit_GuardRouting_drain : dKind (0 : Dest) = 0 ∧ dKind (cellDest 8 1 0) = 1
    ∧ (s0.setCell 4 { s0.cell 4 with drained := [unitKey (cellDest 8 1 0)] }).cell 4 ≠ s0.cell 4 := by decide +kernel

/-- A loop's window record: lo, A, CB, K, field width, END value, END seen (R202). -/
def window (nums : List Nat) : Ctrl :=
  { kind := .loop, ctx := 0, node := 0, tag := 0, key := 0, line := 256, nums := nums, held := [], poison := false, order := 0 }
/-- A live context 0 with three 8-bit tag fields, and control entries in cell 4. -/
def ctx0 : Context :=
  { queue := 0, seq := 0, line := 0, digest := 0, record := [], part := 1, asid := 0, sections := [0], ended := [], bounds := 0,
    started := 0, mark := 0, spill := [], prio := 0, shape := 0x080808, seed := 0, live := true, overlaid := false, savedByDog := false,
    closing := false, expired := 0 }
def shaped (s : State) : State := { s with contexts := [(0, ctx0)] }
def ctrled (e : Ctrl) (s : State) : State := s.setCell 4 { s.cell 4 with ctrl := [e] }
theorem wit_LoopNodes : (let g := guard 0x110 0; (shaped s0).window g g.level = none ∧ Fires (fly g s0) g
      ∧ ((shaped s0).makeCtrl g (newCtrl g .loop 0 (setField ((shaped s0).shape g.ctx) g.tag (g.level + 1) 0) (g.lit % 16)
        [0, 1, 0, bits g.lit 22 16, fieldWidth ((shaped s0).shape g.ctx) (g.level + 1), 0, 0] [] false) false).1.isSome = true) :=
  ⟨by decide +kernel, ⟨rfl, by decide +kernel, by decide +kernel⟩, by decide +kernel⟩
/-- A record found for the lane: iteration 0 open with room for the next, with none; closed; END seen at 0; every lane closed. -/
theorem wit_LoopNodes_records : (let g := level 1 (guard 0x111 0)
    (∀ ns ∈ [[0, 1, 0, 4, 8, 0, 0], [0, 2, 0, 4, 8, 0, 0], [0, 4, 0, 4, 8, 0, 0], [0, 1, 1, 4, 8, 0, 0], [0, 1, 0, 4, 8, 0, 1], [1, 1, 0, 4, 8, 0, 0]],
      (ctrled (window ns) (shaped s0)).window g (g.level - 1) = some (window ns))
    ∧ tagField ((shaped s0).shape 0) g.tag g.level = 0 ∧ g.held = false ∧ g.reinj = false
    ∧ (window [0, 1, 0, 4, 8, 0, 0]).isOpen 0 = true ∧ (window [1, 1, 0, 4, 8, 0, 0]).isOpen 255 = false
    ∧ (0 + 1 + 2 ^ 8 - 0) % 2 ^ 8 = 0 + 1) ∧ (shaped s0).window (level 1 (guard 0x111 0)) 0 = none := by decide +kernel
/-- An accumulator short of N, at N, and none; a reorder entry that is due, one ahead, one behind; markers (R212, R213, R219). -/
theorem wit_GuardBarriers : (let f := guard 0x122 2; let s := fly f (shaped s0)
      Fires s f ∧ (s.cell f.ci).findCtrl .count f.ctx f.node 0 f.tag = none ∧ 0 + f.len < f.lit % 65536
      ∧ ((fired s []).makeCtrl f (newCtrl f .count f.node f.tag 0 [1] [] false) false).1.isSome = true)
    ∧ (let f := guard 0x122 3; let e : Ctrl := { window [1] with kind := .count }; let s := fly f (ctrled e (shaped s0))
      (s.cell f.ci).findCtrl .count f.ctx f.node 0 f.tag = some e ∧ e.num 0 + f.len < f.lit % 65536)
    ∧ (let f := guard 0x122 1; f.lit % 65536 ≤ 0 + f.len) :=
  ⟨⟨⟨rfl, by decide +kernel, by decide +kernel⟩, by decide +kernel, by decide +kernel, by decide +kernel⟩, by decide +kernel, by decide +kernel⟩
theorem wit_GuardBarriers_reorder : (let f := guard 0x123 0; let w := fieldWidth ((shaped s0).shape 0) 0
    (∀ n ∈ [0, 1, 128, 255], (let e : Ctrl := { window [n, 0] with kind := .reorder }; let s := fly f (ctrled e (shaped s0))
      (s.cell f.ci).findCtrl .reorder f.ctx f.node 0 (setField (s.shape f.ctx) f.tag f.level 0) = some e))
    ∧ w = 8 ∧ tagField ((shaped s0).shape 0) f.tag 0 = 0 ∧ 2 ^ (w - 1) ≤ (0 + 2 ^ w - 1) % 2 ^ w ∧ (0 + 2 ^ w - 255) % 2 ^ w < 2 ^ (w - 1)
    ∧ (let s := fly f (shaped s0); (s.cell f.ci).findCtrl .reorder f.ctx f.node 0 (setField (s.shape f.ctx) f.tag f.level 0) = none
      ∧ ((fired s []).makeCtrl f (newCtrl f .reorder f.node (setField (s.shape f.ctx) f.tag f.level 0) 0 [0, 0] [] false) false).1.isSome = true)) := by
  decide +kernel
theorem wit_GuardBarriers_fence : (let f := guard 0x139 0x01000000; let s := fly f (shaped s0); f.port ≠ 1
      ∧ ((fired s []).makeCtrl f (newCtrl f .fenceq f.node f.tag 0 [1] [f.pass] f.poisoned) true).1.isSome = true)
    ∧ (let f := { guard 0x139 0 with port := 1 }; f.port = 1 ∧ ((shaped s0).cell f.ci).findCtrl .fenceq f.ctx f.node 0 f.tag = none
      ∧ (∀ n ∈ [0, 1, 2], (let e : Ctrl := { window [n] with kind := .fenceq }
        ((ctrled e (shaped s0)).cell f.ci).findCtrl .fenceq f.ctx f.node 0 f.tag = some e)))
    ∧ (let f := guard 0x138 0; let s := fly f (shaped s0)
      ((fired s []).makeCtrl f (newCtrl f .waitDrain f.node f.tag 0 [] [f.pass] f.poisoned) true).1.isSome = true) := by decide +kernel

/-! ## Witnesses: forager nodes and their accesses -/

/-- Forager 3 of sector 0 with record 0 of 16 elements of 4 bytes at 0 (R230); page 0 of ASID 0 translates to frame 0; context 0 lives. -/
def shapedForager (s : State) : State :=
  { (s.setCell 3 { s.cell 3 with consts := [(36, 16), (37, 4)] }) with
      contexts := [(0, ctx0)],
      xlations := [{ owner := 0, asid := 0, page := 0, stamp := none, frame := 0, read := true, write := true, view := false, large := false }] }
/-- A forager's firing of one lane; its literal names record 0 and, ordered, wave number 1. -/
def forage (op : Nat) (lit : BitVec 32) (a : List Lane) : Firing := fire 3 op 0 0 lit a none
/-- What the addresses of a firing resolve to. -/
def resolved (f : Firing) (wr at_ : Bool) : List Formed :=
  let s := fly f (shapedForager s0)
  faultsOf ((fired s []).resolveAll f f.reqSize wr at_ ((s.cell f.ci).addresses f (s.shape f.ctx))).1
theorem wit_ForagerIssue : (let f := forage 0x180 0 [0]; let s := fly f (shapedForager s0)
      Fires s f ∧ f.isEmpty = false ∧ f.a.poison = false ∧ (fired s []).clashes f = [] ∧ resolved f false false = [] ∧ f.isPf = false) :=
  ⟨⟨rfl, by decide +kernel, by decide +kernel⟩, by decide +kernel⟩
/-- The last element of the record resolves and the next does not (R231). -/
theorem wit_ForagerIssue_edges : resolved (forage 0x180 0 [60]) false false = [] ∧ resolved (forage 0x180 0 [64]) false false ≠ []
    ∧ resolved (forage 0x181 0 [60]) true false = [] ∧ resolved (forage 0x184 0 [15]) false false = []
    ∧ resolved (forage 0x184 0 [16]) false false ≠ [] ∧ resolved (forage 0x190 0 [15]) true true = [] := by decide +kernel
theorem wit_ForagerIssue_faults : (let f := { forage 0x190 0 [1] with cfg := { opcode := 0x190, fields := record 0 0 8 0, level := 0 } }
      f.paired = true ∧ f.len % 2 = 1)
    ∧ (let f := { forage 0x180 0 [1] with a := { run 0 [1] with poison := true } }; f.paired = false ∧ f.a.poison = true)
    ∧ (emptied (forage 0x180 0 [1])).isEmpty = true ∧ (emptied (forage 0x180 0 [1])).isOrdered = false
    ∧ (forage 0x180 0x400 [1]).isOrdered = true := by decide +kernel
theorem wit_ForagerMarks : (let f := forage 0x1A0 0 [1]; let s := fly f (shapedForager s0)
      Fires s f ∧ (fired s []).clashes f = [] ∧ f.isOrdered = false)
    ∧ (let f := forage 0x1A0 0x400 [1]; let s := fly f (shapedForager s0); (fired s []).clashes f = [] ∧ f.isOrdered = true) :=
  ⟨⟨⟨rfl, by decide +kernel, by decide +kernel⟩, by decide +kernel⟩, by decide +kernel⟩
theorem wit_ForagerMarks_xlat : (forage 0x1B0 0 [1]).len ≠ 2 ∧ (forage 0x1B0 0 [1, 2]).len = 2
    ∧ (forage 0x1B0 0 [1, 2]).a.poison = false ∧ (forage 0x1B0 0 [1, 2]).isEmpty = false := by decide +kernel
/-- BASE0 of 56 bits at its edge, and one of 57; a field that is no base; XL with four lanes (R233). -/
theorem wit_ForagerMarks_shape : (let f := forage 0x1B1 0 [0xFFFFFFFF, 0x00FFFFFF]; bits f.lit 4 2 = 0 ∧ bitOf f.lit 5 = false
      ∧ (pair64 (f.aLane 0) (f.aLane 1)).toNat < 2 ^ 56 ∧ f.len = 2)
    ∧ (let f := forage 0x1B1 0 [0, 0x01000000]; 2 ^ 56 ≤ (pair64 (f.aLane 0) (f.aLane 1)).toNat)
    ∧ (let f := forage 0x1B1 4 [9]; bits f.lit 4 2 = 1 ∧ f.len = 1)
    ∧ (let f := forage 0x1B1 0x20 [0, 0, 0, 0]; bitOf f.lit 5 = true ∧ f.len = 4) := by decide +kernel

/-- One request of an access, and the access of number 7 in the forager. -/
def req (pa st : Nat) : LaneReq :=
  { lane := 0, va := 0, pa := pa, size := 4, wdata := [1, 0, 0, 0], cmp := 0, fwd := [], fwdPoison := false, state := st, rdata := [0, 0, 0, 0],
    poison := false, code := 0, view := false, away := false, hot := true }
def acc (op : Nat) (lit : BitVec 32) (kd : AccessKind) (st : Nat) (port : Option Nat) : Access :=
  { Access.make (forage op lit [0]) 7 0 1 kd with reqs := [req 0 st], port := port }
def accessing (a : Access) (s : State) : State := { shapedForager s with accesses := [a] }
theorem wit_AccessProgress : (∀ e ∈ [(0x180, AccessKind.load), (0x181, .store), (0x190, .atomic)],
    (let a := acc e.1 0 e.2 0 (some 1); let s := accessing a s0
      s.access? 7 = some a ∧ a.reqs[0]? = some (req 0 0) ∧ (req 0 0).state = 0 ∧ s.requestFirst a 0 (req 0 0) = true
        ∧ (req 0 0).covered = false ∧ s.target (a.fir.ci / 2048) 0 = .here 0 ∧ s.sectorHeld (sectorOf a.fir.ci) 0 = false
        ∧ s.atomicTurn (s.homeOf (a.fir.ci / 2048) 0) (sectorOf a.fir.ci) = true)) := by
  decide +kernel
/-- An unordered load that may enter its port; an ordered one that begins its chain (R243, R251). -/
theorem wit_AccessProgress_enter : (let a := acc 0x180 0 .load 0 none; (accessing a s0).mayEnter a = true)
    ∧ (let a := acc 0x180 0x400 .load 0 none; let c : Chain := { ctx := 0, level := 0, tag := 0, last := none, waves := [1] }
      let s := { accessing a s0 with chains := [(3, [c])] }
      s.access? 7 = some a ∧ a.ordered = true ∧ a.link = none ∧ s.linkCaseOf a = .links
        ∧ s.chainOf a.fir.ci a.fir.ctx a.fir.level (s.accessAct a) = some c) := by decide +kernel
/-- Performed accesses ready to reply; `xlat`, `shape.set`, `mnop` and a fence (R235, R247, R251). -/
theorem wit_AccessProgress_reply : (let a := acc 0x180 0 .load 1 (some 1); a.emitted = [] ∧ a.replyReady = true
      ∧ (accessing a s0).slotsFor a.fir.ci a.fir.outputs = true)
    ∧ (let a := acc 0x181 0 .store 1 (some 1); a.emitted = [] ∧ a.replyReady = true)
    ∧ (let a := acc 0x1B0 0 .xlat 1 none; (accessing a s0).access? 7 = some a ∧ a.kind = .xlat)
    ∧ (let a := acc 0x1A0 0 .mnop 1 none; ((accessing a s0).groupOf a).all (fun b => b.performed) = true)
    ∧ (let a := acc 0x1A3 0 .fenceFull 1 none; ((accessing a s0).groupOf a).all (accessing a s0).fenceReady = true) := by decide +kernel
/-- An address of another module (R62, R410): bit 56 set. -/
theorem wit_AccessProgress_away : (let a := { acc 0x180 0 .load 0 (some 1) with reqs := [req (2 ^ 56 + 5 * 2 ^ 45) 0] }; let s := accessing a s0
    ∃ dev off, s.target (a.fir.ci / 2048) (2 ^ 56 + 5 * 2 ^ 45) = .away dev off) := ⟨5, 0, by decide +kernel⟩

/-! ## Witnesses: arrivals at cells, inboxes and keepers, and the spill unit -/

/-- Every sector is ready (R466), and context 0 lives. -/
def live (s : State) : State := (shaped s).setReg (frontReg 0x118) 0xFFFFFFFF
/-- A plane whose node 0 has an opcode and an arity, in cell 4. -/
def noded (op : Nat) (ar : BitVec 2) (s : State) : State :=
  s.setCell 4 { s.cell 4 with active := { (s.cell 4).active with
    nodes := [(0, { opcode := op, fields := record ar 0 0 5, level := 0 })] } }
/-- A token under way to port `p` of node 0 of cell 4. -/
def toCell (p : Nat) : Token := { run 0 [7] with dest := cellDest 4 0 p }
def flying (t : Token) (s : State) : State := { s with net := [{ src := cellDest 0 0 0, tok := t, pos := 100 }] }
/-- What the first clause asks at a node: the flight may arrive, and the token and its node are well formed. -/
def arrives (op : Nat) (ar : BitVec 2) (p : Nat) : Bool :=
  let s := flying (toCell p) (noded op ar (live s0))
  s.mayArrive 0 && !s.unroutable (toCell p).dest && dKind (toCell p).dest == 1 && dCell (toCell p).dest == 4 && !s.overlaid 4 0
    && ((s.cell 4).planeFor 0).nodes.find? 0 == some { opcode := op, fields := record ar 0 0 5, level := 0 }
    && !streamBad (kindOf 4) (some { opcode := op, fields := record ar 0 0 5, level := 0 }) (toCell p)
    && !s.isParked 4 0 (laneTag (s.shape 0) 0 0 0)
/-- A monadic guard node; the two ports of a dyadic one, which find no partner and room for an entry; the slot port. -/
theorem wit_FabricArrivals : arrives 0x120 2 0 = true ∧ arrives 0x100 1 0 = true ∧ arrives 0x100 1 1 = true ∧ arrives 0x120 3 2 = true
    ∧ (let s := flying (toCell 1) (noded 0x100 1 (live s0))
      s.waiting 4 (toCell 1) 0 0 0 = none ∧ s.waiting 4 (toCell 1) 0 1 0 = none
        ∧ (match ((s.landed 0).nextOrder 4).2.makeRoom 4 (toCell 1) false with | (.entry _, _) => true | _ => false) = true) := by
  decide +kernel
/-- A sector that is fused off; a drain at a cell; inboxes of a class they take and of one they do not; a keeper; a keeper's drain. -/
theorem wit_FabricArrivals_units :
    (let t := toCell 0; let s := (flying t (live s0)).setReg (frontReg 0x110) 0xFFFFFFFF
      s.mayArrive 0 = true ∧ s.unroutable t.dest = true ∧ t.cls ≠ 7)
    ∧ (let t := { toCell 0 with cls := 2, lanes := [0] }; let s := flying t (live s0)
      s.mayArrive 0 = true ∧ s.unroutable t.dest = false ∧ dKind t.dest = 1 ∧ nth 0 t.lanes 0 = 0)
    ∧ (let t := sent; let s := flying t (live s0)
      s.mayArrive 0 = true ∧ s.unroutable t.dest = false ∧ dKind t.dest = 2 ∧ inboxClassOk t.dest t = true)
    ∧ (let t := { sent with cls := 6 }; inboxClassOk t.dest t = false ∧ (flying t (live s0)).mayArrive 0 = true)
    ∧ (let s := flying evt (live s0); s.mayArrive 0 = true ∧ s.unroutable evt.dest = false ∧ dKind evt.dest = 3 ∧ evt.cls ≠ 2
      ∧ keeperClassOk evt = true ∧ s.eventRoom 0 evt = true)
    ∧ (let t := { evt with cls := 2, lanes := [0] }; (flying t (live s0)).mayArrive 0 = true ∧ nth 0 t.lanes 0 = 0) := by decide +kernel
/-- A class-2 token at the head of the inbox. -/
def marked (v : Lane) : State := { s0 with inboxes := [(inboxKey sent.dest, [(0, { sent with cls := 2, lanes := [v, 0] })])] }
/-- A cell whose fan-in of one drain is in; drains and fence markers at an inbox head. -/
theorem wit_FabricArrivals_marks :
    (let s := (noded 0x120 2 s0); let s := s.setCell 4 { s.cell 4 with drainsIn := [1], active := { (s.cell 4).active with fanin := 1 } }
      s.mayForward 4 = true ∧ (s.cell 4).active.channels 4 ≠ [] ∧ (s.cell 4).ctrl.filter (fun e => e.kind == .waitDrain) = [])
    ∧ (marked 0).headMark sent.dest 0 = some { sent with cls := 2, lanes := [0, 0] }
    ∧ (marked 1).headMark sent.dest 1 = some { sent with cls := 2, lanes := [1, 0] } := by decide +kernel

/-- A spilled token of node 0 of cell 4, and a spill unit of sector 0 that holds it. -/
def spilled : Spilled := { tok := toCell 0, ci := 4, how := .spilled, order := 0, chunk := none, addr := 0 }
def spilling (s : State) : State := s.setSpill 0 { s.spill 0 with records := [spilled] }
theorem wit_FabricSpill : (let s := (spilling (noded 0x120 2 (live s0))).setBits (secReg 0 0 0x10) 8 0 1
      s.spillTurn 0 4 = true ∧ s.lowRecord 0 4 = some spilled)
    ∧ (let s := (spilling (noded 0x120 2 (live s0))).setReg (secReg 0 0 0x10) 0; s.spillTurn 0 4 = true ∧ s.probeRecord 0 4 = some spilled)
    ∧ (let s := s0.setSpill 0 { s0.spill 0 with arriving := [spilled] }; (s.spill 0).arriving = spilled :: []) := by
  decide +kernel
/-- The probes of a cell go on after the one probed last, and wrap round (R45). -/
theorem test_probe_wraps : (let r1 := { spilled with order := 1, tok := { toCell 0 with dest := cellDest 4 1 0 } }
    let z := s0.setReg (secReg 0 0 0x10) 0; let s := z.setSpill 0 { z.spill 0 with records := [spilled, r1], probe := [(4, spilled)] }
    let u := z.setSpill 0 { z.spill 0 with records := [spilled, r1], probe := [(4, r1)] }
    s.probeRecord 0 4 = some r1 ∧ u.probeRecord 0 4 = some spilled) := by decide +kernel
/-- A context with a spill area of 32 KiB in sector 0, and a record of it in an overflow chunk. -/
def spillCtx : Context := { ctx0 with spill := [(0, 0)], record := [0x0100000000000000, 0, 0, 0, 0, 0, 0, 0] }
theorem wit_FabricSpill_return : (let r := { spilled with chunk := some 3 }
    let s := (s0.setSpill 0 { s0.spill 0 with records := [r] }); let s := { s with contexts := [(0, spillCtx)] }
    nextOut s 0 = some r ∧ (s.areaPlace 0 r.tok.ctx r.tok.imageSize).isSome = true) := by decide +kernel
/-- A token at the switch whose context trapped with OVERFLOW and which now finds room; another context's token ahead of it does not count. -/
theorem wit_FabricSpill_freed : (let s := flying (toCell 0) (noded 0x120 2 (live s0)); let s := s.setSpill 0 { s.spill 0 with trapped := [0] }
    let g := flying { toCell 0 with ctx := 1 } s
    s.net = [{ src := cellDest 0 0 0, tok := toCell 0, pos := 100 }] ∧ findsRoom s 0 0 { src := cellDest 0 0 0, tok := toCell 0, pos := 100 } = true
      ∧ findsRoom g 0 0 { src := cellDest 0 0 0, tok := { toCell 0 with ctx := 1 }, pos := 100 } = false) := by decide +kernel
/-- An open register and one of an absent unit. -/
theorem wit_FabricSpill_register : placeOf (secReg 3 0 0x10) = .sreg 3 0 0x10 ∧ s0.closed (.sreg 3 0 0x10) = false := by decide +kernel

/-- From die 0 to die 3 the east–west edge comes first: 63 links, the edge, 18 clk, then 31 links, the edge and 18 clk (R12, R18, R20). -/
theorem test_route : diesTo 0 3 = [1, 3] ∧ diesTo 1 2 = [0, 2]
    ∧ (routeOf (cellDest 0 0 0) (cellDest (3 * 2048) 0 0)).length = 63 + 1 + 18 + (31 + 1 + 18) := by decide +kernel
/-- Nine lanes take a header beat and two more; lane 8 is the lowest of the last (R22). -/
theorem test_beats : (let t := run 0 [1, 2, 3, 4, 5, 6, 7, 8, 9]; t.beats = 3 ∧ (t.beat 0).toNat < 2 ^ 128 ∧ t.beat 2 = 9
    ∧ (t.beat 1).toNat / 2 ^ 224 = 8) := by decide +kernel
/-- A cell whose four output slots are full issues no firing with an output, and one with three full does (R39, R40). -/
theorem test_slots : (let f : Flight := { src := cellDest 4 0 0, tok := { toCell 0 with dest := cellDest 5 0 0 } }
    ({ s0 with net := [f, f, f, f] }).slotsFor 4 1 = false ∧ ({ s0 with net := [f, f, f] }).slotsFor 4 1 = true) := by decide +kernel

/-! ## Witnesses: engine messages -/

/-- A message for an inbox of an engine: lane 0, 64-bit operands, and keeper 0 for the reply (R54). -/
def message (eng inbox : Nat) (l0 : Lane) (qs : List Nat) : Token :=
  let ls := l0 :: (qs.flatMap (fun q => [BitVec.ofNat 32 q, BitVec.ofNat 32 (q / 2 ^ 32)]) ++ [(keeperDest 0).zeroExtend 32])
  { Token.zero with dest := engineDest 0 0 eng inbox, len := BitVec.ofNat 5 ls.length, cls := 5, lanes := ls }
/-- The message heads its inbox; it has been taken and waits with a phase and numbers. -/
def heads (m : Token) (s : State) : State := { s with inboxes := [(inboxKey m.dest, [(0, m)])] }
def taken (m : Token) (phase : Nat) (nums : List Nat) (s : State) : State := (heads m s).waitBusy m phase nums []
/-- A result that is a value. -/
def okIs {ε α : Type} [DecidableEq α] (x : Except ε α) (a : α) : Bool := match x with | .ok b => b == a | .error _ => false
/-- A pool of sector 0, `pool.zero` of the last element of the accumulator, of one beyond it (R255, R286). -/
def zeroMsg (base : Nat) : Token := message 0 0 0x09 [base + 2 ^ 16 + 2 ^ 32 + 2 ^ 48]
/-- Each check that fails, and a message that passes them all (R103). -/
theorem wit_EngineChecks : (let m := zeroMsg 0; engineOf m.dest = some (.pool 0) ∧ (heads m s0).atHead m = true ∧ s0.atHead m = false
      ∧ Passes m true 4 0 ∧ replyOk m = true ∧ dKind ((replyLane m).extractLsb' 0 21) = 3)
    ∧ CheckFails { zeroMsg 0 with width := 1 } true 4 0 3 0 ∧ CheckFails { zeroMsg 0 with empty := true } true 4 0 2 0
    ∧ CheckFails { zeroMsg 0 with fault := true, aux := 7 } true 4 0 0x11 7 ∧ CheckFails { zeroMsg 0 with poison := true } true 4 0 7 0
    ∧ CheckFails (zeroMsg 0) false 0 0 1 0 ∧ CheckFails (zeroMsg 0) true 6 0 2 6 ∧ CheckFails (message 0 0 0x109 [0]) true 4 0 3 0 := by
  unfold Passes CheckFails; refine ⟨?_, ?_, ?_, ?_, ?_, ?_, ?_, ?_⟩ <;> decide +kernel
theorem wit_EngineChecks_rows : (commandTable.all (fun r => r.engine (.pool 0) || r.engine (.ladder 0) || r.engine (.copy 0)
    || r.engine (.stack 0) || r.engine (.page 0) || r.engine (.link 0 0))) = true := by decide +kernel
/-- A reply destination of kind none, an engine port, and an inbox whose answers are discarded (R103, R463). -/
theorem wit_EngineChecks_reply : (let m := { zeroMsg 0 with lanes := [9, 0, 0, 0] }; replyOk m = true ∧ dKind ((replyLane m).extractLsb' 0 21) = 0)
    ∧ (let m := { zeroMsg 0 with lanes := [9, 0, 0, (engineDest 0 0 0 0).zeroExtend 32] }; replyOk m = false)
    ∧ (let m := zeroMsg 0; ({ heads m s0 with muted := [inboxKey m.dest] }).muted.contains (inboxKey m.dest) = true
      ∧ s0.muted.contains (inboxKey m.dest) = false) := by decide +kernel

/-- Pool 0 changed. -/
def pooled (f : Pool → Pool) (s : State) : State := s.setPool 0 (f (s.pool 0))
/-- A bank of one group of 8 products that starts at 0 of its activation and adds to element column 0 (R260, R261). -/
def bank1 : Bank := { sizes := [8], map := [(0, 0)], mapped := true, win := false, span := none }
def banked (s : State) : State := pooled (fun p => p.setBank 0 bank1) s
theorem wit_PoolCommands : (let m := message 0 0 0x01 [0]; let s := taken m 1 [1] s0
      Heads s m (.pool 0) (decide (dInbox m.dest = 0)) 4 0x100 ∧ extraBits (qOp m 1) 0x7FF7FFFFF = false ∧ qOp m 1 % 4 = 0
      ∧ s.bankInUse 0 0 1 = false ∧ s.poolTable 0 (bits (qOp m 1) 22 0) (bits (qOp m 1) 34 24 + 1) 2 = some [0]
      ∧ (s.busyOf m).isSome = true ∧ (heads m s0).busyOf m = none)
    ∧ (let m := message 0 0 0x02 [0]; let s := taken m 1 [1] (banked s0)
      Heads s m (.pool 0) (decide (dInbox m.dest = 0)) 4 0x300 ∧ extraBits (qOp m 1) 0x7FFFFF = false ∧ s.bankInUse 0 0 1 = false
      ∧ ((s.pool 0).bank 0).sizes ≠ [] ∧ s.poolTable 0 (qOp m 1) ((s.pool 0).bank 0).sizes.length 4 = some [0])
    ∧ (let m := message 0 0 0x0A [0]; let s := taken m 1 [1] (banked s0)
      Heads s m (.pool 0) (decide (dInbox m.dest = 0)) 4 0x300 ∧ extraBits (qOp m 1) 0x3FFFFF = false ∧ s.bankInUse 0 0 1 = false
      ∧ bits (qOp m 1) 10 0 ≤ bits (qOp m 1) 21 11 ∧ bits (qOp m 1) 21 11 < ((s.pool 0).bank 0).sizes.length) := by
  unfold Heads Passes; decide +kernel
/-- `pool.zero` and `pool.commit` of the accumulator's last element; the fence; the statistics. -/
theorem wit_PoolCommands_regions : (let m := zeroMsg 32767; let s := taken m 1 [1] s0
      Heads s m (.pool 0) (decide (dInbox m.dest = 0)) 4 0 ∧ okIs (regionOf (qOp m 1)) (32767, 1, 1, 1) = true
      ∧ s.lowerPass 0 1 (regionMask (32767, 1, 1, 1)) = false ∧ s.lowerRegion 0 1 (regionMask (32767, 1, 1, 1)) = false)
    ∧ (let m := message 0 3 0x0D [qOp (zeroMsg 0) 1]; let s := heads m s0
      Heads s m (.pool 0) (decide (dInbox m.dest = 3)) 4 0 ∧ okIs (regionOf (qOp m 1)) (0, 1, 1, 1) = true ∧ s.busyOf m = none
      ∧ (taken m 1 [1, 0] s0).lowerPass 0 1 (regionMask (0, 1, 1, 1)) = false)
    ∧ (let m := message 0 0 0x10B []; let s := heads m s0
      Heads s m (.pool 0) (decide (dInbox m.dest < 4)) 2 0xF00 ∧ s.inboxesClear m (bits (lane0 m) 11 8) 4 = true)
    ∧ (let m := message 0 0 0x10C []; Heads (heads m s0) m (.pool 0) (decide (dInbox m.dest < 4)) 2 0x100) := by
  unfold Heads Passes; decide +kernel
/-- An A announcement of one row of 8 elements, and a B announcement (R267, R275 to R277). -/
def aMsg (op : Lane) : Token := message 0 1 op [0, 1 + 8 * 2 ^ 16, 2 ^ 16]
def bMsg : Token := message 0 2 0x03 [0, 1]
def aArg : AArgs := { base := 0, pitch := 0, wide := false, rows := 1, kw := 8, koff := 0, acc := 0, accPitch := 1 }
def bArg : BArgs := { base := 0, pitch := 0, wide := false, kb := 1, nm := none }
theorem wit_PoolCommands_pairing : (let m := aMsg 0x06; let s := heads m s0
      Heads s m (.pool 0) (decide (dInbox m.dest = 1)) 8 0xFF00 ∧ (s.pool 0).walk = none ∧ fmtOk m = true ∧ aArgs m = some aArg
      ∧ (s.pool 0).annB.find? (fun b => sameKey b.msg m) = none ∧ (s.pool 0).annA.length < 16
      ∧ (let b : Ann := { seq := 0, arr := 5, msg := bMsg }; let s := pooled (fun p => { p with annB := [b] }) s
        (s.pool 0).annB.find? (fun b => sameKey b.msg m) = some b ∧ bArgs b.msg = some bArg))
    ∧ (let m := bMsg; let s := heads m s0; Heads s m (.pool 0) (decide (dInbox m.dest = 2)) 6 0 ∧ bArgs m = some bArg
      ∧ (s.pool 0).annA.find? (fun a => sameKey a.msg m) = none ∧ (s.pool 0).annB.length < 16
      ∧ (let a : Ann := { seq := 1, arr := 5, msg := aMsg 0x06 }; let s := pooled (fun p => { p with annA := [a] }) s
        (s.pool 0).annA.find? (fun a => sameKey a.msg m) = some a ∧ aArgs a.msg = some aArg))
    ∧ (let m := message 0 2 0x04 [0, 1, 0]; Heads (heads m s0) m (.pool 0) (decide (dInbox m.dest = 2)) 8 0x100 ∧ (bArgs m).isSome = true)
    ∧ (let m := aMsg 0x05; let s := heads m (pooled (fun p => { p with lastMma := some 1 }) s0)
      Heads s m (.pool 0) (decide (dInbox m.dest = 1)) 8 0xFF00 ∧ (s.pool 0).walk = none ∧ bits (lane0 m) 14 9 = 0 ∧ aArgs m = some aArg
      ∧ (s.pool 0).lastMma = some 1) := by
  unfold Heads Passes; decide +kernel
/-- A drain that names a route and one that a steering token steers; the token, before and after its drain (R284, R285). -/
def drainMsg (l0 : Lane) : Token := message 0 3 l0 [qOp (zeroMsg 0) 1, 0, 0]
def steerTok : Token := { Token.zero with dest := engineDest 0 0 0 4, len := 1, lanes := [0] }
def aDrain (ph : Nat) : PoolDrain :=
  { seq := 1, arr := 0, msg := drainMsg 8, region := (0, 1, 1, 1), ridx := 0, ofmt := 0, zero := false, off := 0, dpitch := 0,
    phase := ph, route := 0, rows := [], next := 0, queued := false, walk := false }
theorem wit_PoolCommands_drain : (let m := drainMsg 0x108; let s := heads m s0
      Heads s m (.pool 0) (decide (dInbox m.dest = 3)) 8 0x7F00 ∧ okIs (regionOf (qOp m 1)) (0, 1, 1, 1) = true ∧ bits (lane0 m) 14 13 ≠ 3
      ∧ bitOf (lane0 m) 8 = true ∧ qOp m 2 < 2 ^ 56 ∧ qOp m 3 < 2 ^ 32)
    ∧ (let m := drainMsg 8; bitOf (lane0 m) 8 = false ∧ bits (lane0 m) 11 9 = 0 ∧ (s0.pool 0).steers.find? (fun x => sameKey x m) = none
      ∧ ((pooled (fun p => { p with steers := [steerTok] }) s0).pool 0).steers.find? (fun x => sameKey x m) = some steerTok)
    ∧ (let m := steerTok; let s := heads m s0; engineOf m.dest = some (.pool 0) ∧ s.atHead m = true ∧ dInbox m.dest = 4 ∧ m.cls = 0
      ∧ (s.pool 0).drains.find? (fun d => d.phase == 0 && sameKey d.msg m) = none ∧ (s.pool 0).steers.length < 16
      ∧ ((pooled (fun p => { p with drains := [aDrain 0] }) s).pool 0).drains.find? (fun d => d.phase == 0 && sameKey d.msg m)
        = some (aDrain 0)) := by
  unfold Heads Passes; decide +kernel
/-- A walk of one block-row whose rows are one element wide (R290). -/
def walkMsg : Token := message 0 1 0x07 [0, 0, 0, 1 + 2 ^ 31, 0]
theorem wit_PoolCommands_walk : (let m := walkMsg; let s := heads m s0
      Heads s m (.pool 0) (decide (dInbox m.dest = 1)) 12 0xFFF00 ∧ (s.pool 0).walk = none ∧ walkArgsOk m = true ∧ s.busyOf m = none)
    ∧ (let m := walkMsg; let s := taken m 1 [1] (banked s0); (s.busyOf m).isSome = true ∧ s.bankWaits 0 0 1 = false
      ∧ ((s.pool 0).bank 0).mapped = true ∧ ((s.pool 0).bank 0).groups = [{ g := 0, n := 8, ks := 0, c := 0 }]
      ∧ bits (qOp m 4) 45 31 = 1
      ∧ bits (qOp m 4) 30 16 + (Nat.min (bits (qOp m 4) 15 0) 2 * 32 - 1) * bits (qOp m 4) 45 31 + 1 ≤ 32768) := by
  unfold Heads Passes; decide +kernel

/-! ## Witnesses: passes, drains and walks of a pool -/

/-- A pass of sequence number 1 of pool 0, formed with its B operands (R277). -/
def aPass (ph : PassPhase) : Pass :=
  { seq := 1, arr := 0, msg := aMsg 0x206, walk := false, a := aArg, b := some bArg, bann := none, bank := 0, span := false, prof := none,
    fixed := 1, step := 0, fmt := 1, ladder := false, needs := false, held := false, replays := 0, phase := ph, parent := 1,
    act := [{ g := 0, n := 8, ks := 0, c := 0 }], counts := [0, 0, 0], sums := [], moved := 0, start := 0,
    used := none, checked := false }
def aParent : BParent :=
  { seq := 1, b := some bArg, status := 0, loaded := false, prof := none, fmt := 1, ladder := false,
    groups := [{ g := 0, n := 8, ks := 0, c := 0 }] }
/-- Pool 0 with that pass, its B operands known and a mapped bank; its set loaded. -/
def passing (q : Pass) (s : State) : State := pooled (fun p => { p with passes := [q], parents := [aParent] }) (banked s)
def loaded (s : State) : State := pooled (fun p => { p with set0 := { BSet.none with owner := some 1 } }) s
theorem wit_PoolPasses_load : (let q := aPass .paired; let s := passing q s0
      (s.pool 0).pass? 1 = some q ∧ q.b = some bArg ∧ q.phase = .paired ∧ s.bankWaits 0 q.bank q.seq = false
      ∧ (s.pool 0).parent? q.parent = some aParent ∧ ((s.pool 0).freeSet (s.lowerUnloaded 0 q)).isSome = true ∧ s.poolPort 0 = false
      ∧ okIs (s.passGroups 0 q bArg false) [{ g := 0, n := 8, ks := 0, c := 0 }] = true
      ∧ (s.takeHold 0 q).isSome = true ∧ q.parent = q.seq)
    ∧ (let q := { aPass .paired with seq := 2 }; let s := passing q s0
      q.parent ≠ q.seq ∧ (s.pool 0).setOf q.parent = none ∧ (s.pool 0).pass? 2 = some q)
    ∧ (let q := { aPass .paired with seq := 2 }; let s := pooled (fun p => { p with parents := [{ aParent with loaded := true }] }) (passing q s0)
      (s.pool 0).parent? q.parent = some { aParent with loaded := true } ∧ (s.pool 0).setOf q.parent = none
      ∧ ((s.pool 0).freeSet (s.lowerUnloaded 0 q)).isSome = true ∧ (s.takeHold 0 q).isSome = true) := by decide +kernel
theorem wit_PoolPasses_stream : (let q := aPass .loaded; let s := loaded (passing q s0)
      (s.pool 0).pass? 1 = some q ∧ ((s.pool 0).passes.all (fun y => y.phase != .replay)) = true ∧ s.poolPort 0 = false ∧ (s.pool 0).setOf q.parent = some false
      ∧ s.bankWaits 0 q.bank q.seq = false ∧ s.lowerPass 0 q.seq ((s.pool 0).passWrites q) = false ∧ (s.takeHold 0 q).isSome = true)
    ∧ (let q := { aPass .paired with seq := 2 }; let s := loaded (passing q s0); q.parent ≠ q.seq ∧ q.phase = .paired
      ∧ (s.pool 0).setOf q.parent = some false ∧ okIs (s.passGroups 0 q bArg false) [{ g := 0, n := 8, ks := 0, c := 0 }] = true)
    ∧ (let q := { aPass .paired with seq := 2 }; let s := pooled (fun p => { p with parents := [{ aParent with status := 3 }] }) (passing q s0)
      (s.pool 0).parent? q.parent = some { aParent with status := 3 } ∧ ((s.pool 0).passes.all (fun y => y.phase != .replay)) = true)
    ∧ (let q := aPass .replay; let s := loaded (passing q s0); s.poolPort 0 = false ∧ (s.pool 0).pass? 1 = some q ∧ q.phase = .replay
      ∧ (s.pool 0).setOf q.parent = some false) := by decide +kernel
/-- A span of group 0: the primary, pool 0, and the sums its secondary, pool 40, has sent; they agree, or differ in M (R283). -/
def spanBank (sec : Bool) : Bank := { bank1 with span := some (0, 0, sec) }
def spanPass (ph : PassPhase) : Pass := { aPass ph with span := true }
def spanSums (rows : Nat) : SpanSums :=
  { ctx := 0, tag := 0, seq := 1, rows := rows, fmt := 1, prof := none, groups := [(0, 8)], counts := [0, 0, 0], sums := [] }
def spanning (ph : PassPhase) (rows : Nat) (s : State) : State :=
  (pooled (fun p => { p.setBank 0 (spanBank false) with passes := [spanPass ph], spanIn := [spanSums rows] }) s).setPool 40
    { (s.pool 40).setBank 0 (spanBank true) with passes := [spanPass .span] }
theorem wit_PoolPasses_span : (let q := spanPass .span; let s := spanning .span 1 s0
      (s.pool 0).pass? 1 = some q ∧ q.phase = .span ∧ ((s.pool 0).bankOf q).secondary = false ∧ (s.pool 0).spanFor q = some (spanSums 1)
      ∧ (spanSums 1).rows = q.a.rows ∧ (spanSums 1).fmt = q.fixed ∧ (spanSums 1).prof = q.prof
      ∧ (spanSums 1).groups = (q.act.filter (fun g => ((s.pool 0).bankOf q).spanned g.g)).map (fun g => (g.g, g.n))
      ∧ (spanning .span 2 s0 |>.pool 0).spanFor q = some (spanSums 2) ∧ (spanSums 2).rows ≠ q.a.rows)
    ∧ (let q := spanPass .streamed; let s := spanning .streamed 1 s0
      s.partner 0 q = some (spanSums 1, spanPass .span) ∧ s.overBudget 0 q = false ∧ s.atPosition 0 q = true
      ∧ s.atPosition (mirrorPool 0) (spanPass .span) = true) := by decide +kernel
/-- A streamed pass that may commit; one behind a lower pass of the same elements; one over the budget of its profile, and not at CAP (R306). -/
theorem wit_PoolPasses_decide : (let q := aPass .streamed; let s := passing q s0
      (s.pool 0).pass? 1 = some q ∧ q.phase = .streamed ∧ s.partner 0 q = none ∧ s.overBudget 0 q = false ∧ s.atPosition 0 q = true)
    ∧ (let q := aPass .decided; let s := passing q s0; (s.pool 0).pass? 1 = some q ∧ s.partner 0 q = none ∧ s.atPosition 0 q = true)
    ∧ (let q := { aPass .streamed with seq := 2 }; let s := pooled (fun p => { p with passes := [aPass .paired, q] }) (passing q s0)
      s.partner 0 q = none ∧ s.overBudget 0 q = false ∧ s.atPosition 0 q = false)
    ∧ (let q := { aPass .streamed with prof := some 0, ladder := true, counts := [1, 0, 0] }; let s := passing q s0
      s.partner 0 q = none ∧ s.overBudget 0 q = true ∧ s.overBudget 0 { q with step := 3 } = false) := by decide +kernel

/-- A route to keeper 0, to global memory through copy inbox 0, to scratchpad bytes 0, and a bad one (R284). -/
theorem wit_PoolDrainsAndWalks : (let d := aDrain 1; let s := pooled (fun p => { p with drains := [d] }) s0
      (s.pool 0).drain? 1 = some d ∧ d.phase = 1 ∧ s.poolPort 0 = false ∧ (s.pool 0).drainBefore d = false ∧ s.lowerPass 0 d.seq (regionMask d.region) = false
      ∧ s.lowerRegion 0 d.seq (regionMask d.region) = false
      ∧ routeStatus d (2 ^ 62 + (keeperDest 0).toNat) = 0 ∧ bits (2 ^ 62 + (keeperDest 0).toNat) 63 62 = 1
      ∧ routeStatus d (2 ^ 63) = 0 ∧ bits (2 ^ 63) 63 62 = 2 ∧ routeStatus d (3 * 2 ^ 62) = 0 ∧ bits (3 * 2 ^ 62) 63 62 = 3
      ∧ routeStatus d 0 ≠ 0 ∧ routeStatus d (3 * 2 ^ 62 + 0x7FFFFC) = 0 ∧ routeStatus d (3 * 2 ^ 62 + 0x7FFFFF) ≠ 0) := by decide +kernel
/-- A row for the copy engine, and the row at its place in the inbox (R340). -/
theorem wit_PoolDrainsAndWalks_rows : (let d := { aDrain 2 with route := 2 ^ 63, rows := [([5], [false])] }
      ((pooled (fun p => { p with drains := [d] }) s0).pool 0).drain? 1 = some d ∧ d.phase = 2 ∧ d.queued = false)
    ∧ (let d := { aDrain 2 with route := 2 ^ 63, rows := [([5], [false])], queued := true }; let s := heads (rowToken 0 d) (pooled (fun p => { p with drains := [d] }) s0)
      (s.pool 0).drain? 1 = some d ∧ s.atHead (rowToken 0 d) = true ∧ s.copyTurn 0 (dInbox (rowToken 0 d).dest) = true
      ∧ s.copyRun (rowToken 0 d) = some (.fresh (s.asid? 0)) ∧ d.rows.drop d.next = [([5], [false])]) := by
  decide +kernel
/-- A write that waits on a ladder hold, held and no longer held; a command that waits for a page hold at 254 and at 255 (R313, R377). -/
theorem wit_PoolDrainsAndWalks_holds : engineOf (engineDest 0 0 3 0) = some (.pool 3) ∧ engineOf (engineDest 0 0 5 0) = some (.copy 0)
    ∧ (let m := message 5 0 0 [0]; let s := taken m 99 [scratchAddr 0 64, 8] s0; ((s.busy.find? (inboxKey m.dest)).map (·.nums)) = some [scratchAddr 0 64, 8]
      ∧ (live s).ladHeld (scratchAddr 0 64) 8 = false
      ∧ (s.setLadder 0 { Ladder.reset with holds := [explicitHold 0 64 72] }).ladHeld (scratchAddr 0 64) 8 = true)
    ∧ (let m := message 5 0 0 [0]; let s := taken m 98 [0] s0; ((s.busy.find? (inboxKey m.dest)).map (·.nums)) = some [0]
      ∧ s.holdCount (s.holdFrame 0) < 255) := by decide +kernel
/-- A walk that fetches; one that failed and parks; one parked (R290 to R292). -/
def aWalk : BWalk :=
  { msg := walkMsg, arr := 0, cols := 1, row := 0, idx := 0, phase := 0, passed := 0, drained := 0, replays := 0, start := 0, asid := none, rps := [], ents := [],
    rebase := none, parked := false, status := 0 }
theorem wit_PoolDrainsAndWalks_walk : (let w := { aWalk with phase := 4 }; let s := pooled (fun p => { p with walk := some w }) s0
      (s.pool 0).walk = some w ∧ w.parked = false ∧ w.failed = none ∧ w.phase ≠ 3 ∧ (s.walkNext 0 w).isNone = true)
    ∧ (let w := { aWalk with phase := 4, rps := [(0, 0, 0), (1, 0, 1)] }; (((pooled (fun p => { p with walk := some w }) (banked s0)).walkNext 0 w).isSome = true))
    ∧ (let w := { aWalk with phase := 4, rps := [(0, 5, 0)] }; w.failed = some (true, 0, 5) ∧ w.parked = false)
    ∧ (let w := { aWalk with parked := true }; w.parked = true ∧ bits (0 : Word).toNat 31 0 ≤ w.idx ∧ bits (2 ^ 33 : Word).toNat 33 33 = 1) := by
  decide +kernel
/-- A resume keeps no row pointer at or beyond the parked index, fetched or not (R292). -/
theorem test_walk_resume : ({ aWalk with phase := 4, rps := [(0, 5, 0), (1, 0, 9)], parked := true } : BWalk).keptRps = []
    ∧ ({ aWalk with phase := 4, rps := [(0, 0, 3), (1, 5, 0)], parked := true } : BWalk).keptRps = [(0, 0, 3)] := by decide +kernel

/-! ## Witnesses: the ladder controller -/

def ladMsg (q : Nat) : Token := message 6 0 0 [q]
/-- A free set; every set bound to another context (R304). -/
theorem wit_LadderCommands : (let m := ladMsg 0; let s := heads m s0; Heads s m (.ladder 0) true 4 0 ∧ s.canBind 0 m.ctx = true)
    ∧ (let m := ladMsg 0; let s := heads m (s0.setLadder 0 { Ladder.reset with sets := [.fresh 1, .fresh 2, .fresh 3, .fresh 4] })
      Heads s m (.ladder 0) true 4 0 ∧ s.canBind 0 m.ctx = false ∧ extraBits (qOp m 1) 7 = false ∧ qOp m 1 ≠ 7) := by
  unfold Heads Passes; decide +kernel
/-- A budget of step 0; START and CAP at 3 of the default CAP 3, and beyond the other (R316). -/
theorem wit_LadderCommands_set : (extraBits (2 ^ 48) 0x070FFFFFFFFFFFFF = false ∧ bits (2 ^ 48) 51 48 ≠ 0)
    ∧ (extraBits 3 0x703 = false ∧ bits 3 1 0 ≤ Profile.default.cap ∧ Profile.default.start ≤ bits 3 1 0)
    ∧ (({ Profile.default with cap := 2 } : Profile).cap < bits 3 1 0) ∧ bits 0 1 0 < ({ Profile.default with start := 1 } : Profile).start
    ∧ (extraBits 0x703 0x703 = false ∧ bits 0x703 10 8 = 7) := by decide +kernel
/-- A hold on the last byte of the scratchpad, with 31 and 32 explicit holds; both readings; a clear of pool 4; forcing format 6 (R310, R316). -/
theorem wit_LadderCommands_rest : (let q := 0x7FFFFF + 2 ^ 24; extraBits q 0x7FFFFF7FFFFF = false ∧ bits q 46 24 = 1 ∧ bits q 22 0 + bits q 46 24 ≤ 2 ^ 23)
    ∧ (((List.replicate 31 (explicitHold 0 0 1)).filter (fun h => !h.auto)).length < 32
      ∧ 32 ≤ ((List.replicate 32 (explicitHold 0 0 1)).filter (fun h => !h.auto)).length)
    ∧ (extraBits 8 0xF = false ∧ bitOf 8 0 = false ∧ bits 8 3 1 ≤ 4) ∧ (extraBits 15 0xF = false ∧ bitOf 15 0 = true)
    ∧ (extraBits 0x10 0x1F = false ∧ (0x10 : Nat) ≠ 0) ∧ (extraBits 6 7 = false ∧ (6 : Nat) ≠ 7) := by decide +kernel

/-! ## Witnesses: the copy engine -/

/-- Scratchpad byte `n` as an address operand (R325). -/
def scr (n : Nat) : Nat := 2 ^ 63 + n
/-- A copy command as it is taken, for a context with ASID 0. -/
def taking : CopyRun := .fresh (some 0)
/-- The message is its inbox's head, and its inbox's turn has come (R322). -/
def copyGoes (m : Token) (s : State) : Bool := s.copyTurn 0 (dInbox m.dest) && s.copyRun m == some (.fresh (s.asid? m.ctx))
/-- A command's next chunk finds every address, takes its holds and moves its bytes. -/
def moves (ctx : BitVec 12) (r : CopyRun) (lin : Bool) (pieces : List Piece) (v : State) : Bool :=
  match (if r.begun then ((.ok [] : Except (Nat × Nat) (List Flow)), v) else v.resolve 0 ctx r.asid pieces) with
  | (.ok all, t) =>
    (match t.resolve 0 ctx r.asid (pieces.filter (fun p => p.pos / 64 == r.chunk)) with
      | (.ok fs, u) =>
        (match u.takeHolds r.holds ((flowFrames (all ++ fs)).filter (fun f => !r.holds.contains (u.holdFrame f))) with
          | (h, [], w) => (w.heldFlow fs).isNone && !w.portWaits 0 (flowReaches fs)
              && (((chunkStart w { r with holds := h } lin all).2.moveChunk (chunkStart w { r with holds := h } lin all).1 fs).1.1 == 0)
          | _ => false)
      | _ => false)
  | _ => false
/-- A row of `copyRows` whose message passes and whose first chunk moves. -/
def copies (r : CopyRow) (m : Token) (s : State) : Bool :=
  r.good m && messageCheck m true r.lanes 0 == none && s.atHead m && copyGoes m s && moves m.ctx taking r.lin (r.pieces m) (s.copyServed 0 (dInbox m.dest))
def row (n : Nat) : CopyRow := copyRows.getD n (copyRows.headD ⟨.cpLin, 8, fun _ => false, false, fun _ => []⟩)
def linMsg : Token := message 5 0 1 [scr 0, scr 64, 8]
theorem wit_CopyCommands : engineOf linMsg.dest = some (.copy 0) ∧ copies (row 0) linMsg (heads linMsg (live s0)) = true
    ∧ (let m := message 5 0 2 [scr 0, scr 64, 8 + 2 ^ 24, 0]; copies (row 1) m (heads m (live s0)) = true)
    ∧ (let m := message 5 0 6 [scr 0, 5, 8]; copies (row 3) m (heads m (live s0)) = true) := by decide +kernel
theorem wit_CopyCommands_tr : (let m := message 5 0 3 [scr 0x7FFFFF, scr 4096, 1 + 2 ^ 16, 32 + 32 * 2 ^ 32]; (row 2).good m = true
    ∧ (match (heads m s0).resolve 0 0 none ((row 2).pieces m) with | (.error (c, pos), _) => c == fADDR && pos == 1 | _ => false) = true) := by decide +kernel
/-- An inbox that waits its turn; length 0; an address beyond the scratchpad; a destination under a ladder hold; another chunk to come
(R322, R323, R327). -/
theorem wit_CopyCommands_fail : (({ heads linMsg s0 with copyNext := [(0, 1)], inboxes := [(inboxKey linMsg.dest, [(0, linMsg)]),
      (inboxKey (engineDest 0 0 5 1), [(1, message 5 1 1 [scr 0, scr 64, 8])])] } : State).copyTurn 0 0 = false)
    ∧ (row 0).good (message 5 0 1 [scr 0, scr 64, 0]) = false
    ∧ (match (heads linMsg s0).resolve 0 0 none ((row 0).pieces (message 5 0 1 [scr 0x7FFFFF, scr 64, 2])) with | (.error _, _) => true | _ => false) = true
    ∧ (let s := (live s0).setLadder 0 { Ladder.reset with holds := [explicitHold 0 0 1] }
      match s.resolve 0 0 none ((row 0).pieces linMsg) with | (.ok fs, t) => (t.heldFlow fs).isSome | _ => false) = true
    ∧ ((row 0).pieces (message 5 0 1 [scr 0, scr 64, 65])).any (fun p => decide (0 < p.pos / 64)) = true := by decide +kernel
/-- A gather of one entry of 8 bytes; its list at scratchpad 128 (R333). -/
def gathMsg : Token := message 5 0 7 [scr 128, 1 + 8 * 2 ^ 32]
theorem wit_CopyCommands_gath : (let m := gathMsg; let s := heads m (live s0); Heads s m (.copy 0) true 6 0 ∧ copyGoes m s = true
      ∧ copyAddrOk (qOp m 1) = true ∧ (copyAddr (qOp m 1)).at_ % 8 = 0 ∧ bits (qOp m 2) 31 0 ≠ 0 ∧ bits (qOp m 2) 47 32 ≠ 0 ∧ qOp m 2 < 2 ^ 48)
    ∧ (let r : CopyRun := { taking with ahead := [(0, 0, scr 0, scr 64)] }; r.ahead.find? r.part = some (0, scr 0, scr 64)
      ∧ copyAddrOk (scr 0) = true ∧ copyAddrOk (scr 64) = true ∧ copyAddrOk (2 ^ 62) = false
      ∧ moves 0 { r with begun := true } true (gathPieces 8 (scr 0) (scr 64)) (live s0) = true) := by
  unfold Heads Passes; decide +kernel
/-- Tiles of 256 bytes, one zero tile: read, written, no room; a header that is in form and its body; a header that is not (R335, R337). -/
def zipMsg (op : Lane) : Token := message 5 0 op [scr 0, scr 4096, 1, 64]
def zeroTile : List (List Byte) := tileElems 1 (List.replicate 256 0)
def gotten (n : Nat) (x : TileGot × State) : Bool := match x.1 with | .got d _ => d.length == n | _ => false
theorem wit_CopyCommands_zip : (let m := zipMsg 4; let s := heads m (live s0); Heads s m (.copy 0) true 10 0 ∧ copyGoes m s = true ∧ tileArgsOk m = true
      ∧ gotten 256 (s.tileRead m 0 (s.tileShared m 0 taking 256 64) (copyAddr (qOp m 2)) 256) = true
      ∧ (tileBody false zeroTile).length = 32 ∧ (40 : Nat) ≤ qOp m 4
      ∧ moves 0 { taking with tile := tileBody false zeroTile, need := 40 } false
        (zipPieces (copyAddr (qOp m 1)) { taking with tile := tileBody false zeroTile, need := 40 } 64) s = true) := by
  unfold Heads Passes; decide +kernel
theorem wit_CopyCommands_unzip : headerOk (tileHeader false 0 zeroTile) 0 false = true ∧ headerOk 0 0 false = false
    ∧ bits (tileHeader false 0 zeroTile) 15 0 = 32 ∧ (tileOf false 1 (tileHeader false 0 zeroTile) (tileBody false zeroTile)).isSome = true
    ∧ (let m := zipMsg 5; let s := (heads m (live s0)).putLE (scratchAddr 0 4096) 8 (tileHeader false 0 zeroTile)
      (match s.tileRead m 0 taking (copyAddr (qOp m 2)) 8 with | (.got d _, _) => leNat d == tileHeader false 0 zeroTile | _ => false) = true) := by decide +kernel
theorem wit_CopyCommands_fence : (let m := message 5 0 0x108 []; let s := heads m s0
    Heads s m (.copy 0) true 2 0xF00 ∧ copyGoes m s = true ∧ s.inboxesClear m (bits (lane0 m) 11 8) 4 = true)
    ∧ (let m := message 5 0 0x208 []; let s := { heads m s0 with nextId := 1, inboxes := [(inboxKey m.dest, [(1, m)]), (inboxKey (engineDest 0 0 5 1), [(0, m)])] }
      s.atHead m = true ∧ s.inboxesClear m (bits (lane0 m) 11 8) 4 = false) := by
  unfold Heads Passes; decide +kernel

/-! ## Witnesses: the stack engines -/

/-- Page tables of ASID 0 on die 0: page 0 is frame 0x300000 of stack 0, readable and writable (R366 to R371). -/
def paged (s : State) : State :=
  (((((((shaped s).setReg (pageReg 0 0) 0x100000).putLE 0x100000 8 0x200001).putLE 0x200000 8 0x204001).putLE 0x204000 8 0x208001).putLE
    0x208000 8 0x20C001).putLE 0x20C000 8 0x30000F)
def stkLoadMsg : Token := message 7 0 0x403 [0, 1]
theorem wit_StackEngines : (let m := stkLoadMsg; let s := heads m (paged s0); engineOf m.dest = some (.stack 0)
      ∧ Heads s m (.stack 0) true 6 0x700 ∧ s.busyOf m = none ∧ s.stkTurn 0 (dInbox m.dest) = true ∧ qOp m 1 < 2 ^ 56 ∧ qOp m 1 % 4 = 0 ∧ qOp m 2 ≠ 0
      ∧ qOp m 2 ≤ 16384 ∧ s.vecSlotRead 0 (stkSlot m) = false
      ∧ (match s.stkReaches 0 m.ctx (s.takenAsid m) false (4 * qOp m 2 + 1) (qOp m 1) (4 * qOp m 2) with
        | (.ok rs, u) => (u.readEcc rs).1.code == 0 && (u.readEcc rs).1.data.length == 4 | _ => false) = true
      ∧ (match (heads m s0).stkReaches 0 m.ctx none false 5 0 4 with | (.error _, _) => true | _ => false) = true) := by
  unfold Heads Passes; decide +kernel
/-- A count of 0, of 16,384 and one more; a product that waits for a hold reads the slot, and a load of that slot waits (R346, R350). -/
theorem wit_StackEngines_load : qOp (message 7 0 3 [0, 0]) 2 = 0 ∧ qOp (message 7 0 3 [0, 16384]) 2 ≤ 16384 ∧ 16384 < qOp (message 7 0 3 [0, 16385]) 2
    ∧ (let g := message 7 1 1 [0, 64, 0x1000, 0]; let m := stkLoadMsg; let s := taken g 98 [0] s0; s.vecSlotRead 0 0 = true
      ∧ (let u := { s with inboxes := [(inboxKey m.dest, [(0, m)]), (inboxKey g.dest, [(1, g)])] }; u.inbox (stkInbox 0 0) = [(0, m)]
        ∧ msgOpcode m = 3 ∧ u.vecSlotRead 0 (stkSlot m) = true ∧ u.stkTurn 0 0 = false)) := by decide +kernel
/-- One row of one `bf16` weight at 0 with Y at 0x1000; slot 0 holds 1.0 (R351 to R353). -/
def gemvMsg (op : Lane) : Token := message 7 0 op [0, 64, 0x1000, 0]
def slotted (s : State) : State :=
  s.setStack 0 { s.stack 0 with slots := setNth { data := [0x3F800000], len := 1, poison := false, ctx := 0, valid := true } (s.stack 0).slots 0 }
def gemvs (op : Lane) (acc : Bool) : Bool :=
  let m := gemvMsg op
  let s := heads m (slotted (paged s0))
  let g := gemvOf s 0 m acc
  messageCheck m true 10 0xF00 == none && s.atHead m && s.busyOf m == none && s.stkTurn 0 0 && s.asid? m.ctx == some 0
    && g.argsOk m (nth VecSlot.none (s.stack 0).slots 0)
    && (match s.gemvXlate 0 m.ctx 0 g with
      | (.ok (ws, ys), u) =>
        let wide := gemvRanges ys (4 * g.rows + 1) g.y (4 * g.rows)
        wide.all (fun r => u.physOk r.pa r.n false) && (match u.takeHolds [] (((ws ++ ys).foldl (fun l e => if isGlobal e.2.1 then insertNat e.2.1 l else l) []).filter
            (fun f => !([] : List Nat).contains (u.holdFrame f))) with
          | (_, [], v) => (wide.find? (fun r => v.ladHeld r.pa r.n)).isNone
              && ((State.gemvRun g ws ys false g.rows v { rows := 0, code := 0, bad := false, ecc := (0, false) }).1.code == 0)
          | _ => false)
      | _ => false)
theorem wit_StackEngines_gemv : gemvs 1 false = true ∧ gemvs 2 true = true
    ∧ (let m := gemvMsg 1; (gemvOf s0 0 m false).argsOk m (nth VecSlot.none (s0.stack 0).slots (stkSlot m)) = false)
    ∧ (let m := gemvMsg 1; let s := slotted s0; s.asid? m.ctx = none
      ∧ (gemvOf s 0 m false).argsOk m (nth VecSlot.none (s.stack 0).slots (stkSlot m)) = true)
    ∧ (let m := gemvMsg 1; let s := slotted { s0 with contexts := [(0, ctx0)] }; match s.gemvXlate 0 m.ctx 0 (gemvOf s 0 m false) with | (.error _, _) => true | _ => false) = true := by
  decide +kernel
theorem wit_StackEngines_stat : (let m := message 7 0 0x104 []; let s := heads m s0; Heads s m (.stack 0) true 2 0x100 ∧ s.busyOf m = none ∧ s.stkTurn 0 0 = true)
    ∧ (let m := message 7 0 0x105 []; let s := heads m s0; Heads s m (.stack 0) true 2 0xF00 ∧ s.inboxesClear m (bits (lane0 m) 11 8) 4 = true) := by
  unfold Heads Passes; decide +kernel
/-- A channel at D = 7, 8, −7 and −8, idle and not (R360); a stack with a table to rebuild (R364). -/
theorem wit_StackEngines_refresh : s0.refreshing = true ∧ s0.refD 11 31 = 0 ∧ (s0.setRefD 11 31 7).refD 11 31 < 8 ∧ 8 ≤ (s0.setRefD 11 31 8).refD 11 31
    ∧ -8 < (s0.setRefD 11 31 (-7)).refD 11 31 ∧ (s0.setRefD 11 31 (-8)).refD 11 31 ≤ -8
    ∧ ({ s0 with timer := timerScale }).mayPullIn 11 31 = true ∧ s0.mayPullIn 11 31 = false
    ∧ Tab.get 0 (s0.stack 11).last 31 + s0.refInterval 11 ≤ ({ s0 with timer := s0.refInterval 11 }).timer
    ∧ ((s0.setStack 11 { s0.stack 11 with rebuild := [0] }).stack 11).rebuild ≠ [] := by decide +kernel
/-- A code word has no syndrome; four wrong symbols of TSV group 2 are put right, with their group; a poisoned line's pattern is known;
three whole groups are not corrected (R361, R362). -/
def lineData : List Nat := (upTo 64).map (fun i => 3 * i + 1)
def wrong (n : Nat) : List Nat := (indexed 0 (rsStored lineData false)).map (fun e => if 8 ≤ e.1 ∧ e.1 < 8 + n then e.2 ^^^ (0x5A + e.1) else e.2)
theorem test_line_code : rsRead (rsStored lineData false) = .clean lineData ∧ rsRead (rsStored lineData true) = .poisoned lineData
    ∧ rsRead (wrong 4) = .corrected lineData [8, 9, 10, 11] ∧ tsvGroup [8, 9, 10, 11] = 2 ∧ tsvGroup [11, 12] = 31 := by decide +kernel
theorem test_line_uncorrectable : rsRead (wrong 12) = .uncorrectable ((wrong 12).take 64) := by decide +kernel

/-! ## Witnesses: the page engines -/

/-- The leaf of page 0, at 0x20C000 (R368), with a state; a move of the page in a phase. -/
def leafed (st : Nat) (s : State) : State := (paged s).putLE 0x20C000 8 (0x30000F + 16 * st)
def aMove (ph : MovePhase) : Move :=
  { id := 1, arr := 9, die := 0, asid := 0, va := 0, msg := none, tier := 1, toDie := 0, pte := 0x20C000, entry := 0x30000F, src := 0x300000, dst := 0x10000000000,
    phase := ph, copied := 0, queue := [], heldAt := none, paused := none, taken := none, cause := 0, shoot := 0, retire := false }
def moving (v : Move) (s : State) : State := { s with moves := [v] }
def pgMoveMsg : Token := message 7 0 0x101 [0]
/-- The destination of a page engine of die 0 is engine 7 of sector 3 (R101). -/
def toPage (m : Token) : Token := { m with dest := engineDest 0 3 7 0 }
theorem wit_PageCommands : (let m := toPage pgMoveMsg; Heads (heads m s0) m (.page 0) true 4 0xF00 ∧ (heads m s0).asid? m.ctx = none
      ∧ (heads m s0).busyOf m = none ∧ moveWaits (heads m s0) m = false ∧ vaOk (qOp m 1) = true ∧ vaOk (2 ^ 56) = false)
    ∧ (let m := toPage pgMoveMsg; let s := heads m (paged s0); s.asid? m.ctx = some 0 ∧ s.takenAsid m = some 0 ∧ vaOk (qOp m 1) = true
      ∧ (match s.findLeaf 0 0 (qOp m 1) with | (.ok l, _) => l.lvl == 4 && l.st == 0 && tierOf l.frame == 0 && l.frame == 0x300000 | _ => false) = true
      ∧ s.moves = [] ∧ bits (lane0 m) 9 8 ≠ 3 ∧ movePlaced 0x300000 (bits (lane0 m) 9 8) (bits (lane0 m) 11 10) = false
      ∧ movePlaced 0x300000 0 0 = true)
    ∧ (match (heads (toPage pgMoveMsg) (leafed 1 s0)).findLeaf 0 0 0 with | (.ok l, _) => l.lvl == 4 && l.st == 1 | _ => false) = true := by
  unfold Heads Passes; decide +kernel
theorem wit_PageCommands_abort : (let m := toPage (message 7 0 2 [0]); let s := heads m (moving (aMove .copying) (leafed 1 s0))
      Heads s m (.page 0) true 4 0 ∧ s.takenAsid m = some 0 ∧ s.busyOf m = none
      ∧ s.moves.find? (fun v => v.asid == 0 && v.va == qOp m 1 && v.phase == .copying) = some (aMove .copying))
    ∧ (let m := toPage (message 7 0 2 [0]); let s := taken m 1 [1, 0] (paged s0); (s.busyOf m).isSome = true ∧ s.moves = [])
    ∧ (let m := toPage (message 7 0 9 [0]); Heads (heads m (paged s0)) m (.page 0) true 4 0) := by
  unfold Heads Passes; decide +kernel
/-- Holds: a side table at 0x40000000 with HOLD 0, 254, 255 and 1 for frame 0x300000 (R376, R377). -/
def sided (h : Nat) (s : State) : State := ((s.setReg (pageReg 0 8) 0x40000000).setSide0 0x300000 (h * 4096))
theorem wit_PageCommands_pins : (let m := toPage (message 7 0 3 [0, 0]); let s := heads m (paged s0); Heads s m (.page 0) true 6 0 ∧ qOp m 2 < 65536
      ∧ s.resumed m = some ([], []))
    ∧ (sided 254 (paged s0)).holdCount 0x300000 ≠ 255 ∧ (sided 255 (paged s0)).holdCount 0x300000 = 255 ∧ (sided 1 (paged s0)).holdCount 0x300000 ≠ 0
    ∧ (sided 0 (paged s0)).holdCount 0x300000 = 0 ∧ (match (sided 0 (paged s0)).findLeaf 0 0 0 with | (.ok _, _) => true | _ => false) = true
    ∧ qOp (toPage pgMoveMsg) 1 + 65536 * 0 < 2 ^ 56
    ∧ (let m := toPage (message 7 0 0x105 [0, 31]); Heads (heads m (paged s0)) m (.page 0) true 6 0x100 ∧ qOp m 2 < 32) := by
  unfold Heads Passes; decide +kernel
/-- Views: none open; view 0 open for context 0; the shootdown over (R388, R392). -/
def viewed (s : State) : State := s.putLE 0x100020 8 (2 ^ 32 + 1)
theorem wit_PageCommands_views : (let m := toPage (message 7 0 6 []); let s := heads m (paged s0); Heads s m (.page 0) true 2 0 ∧ s.busyOf m = none
      ∧ s.viewOf 0 0 m.ctx = none ∧ (upTo 4).find? (fun v => (s.viewStamp? 0 0 v).isNone) = some 0 ∧ bits (s.desc 0 0 0x20) 31 0 ≠ 0xFFFFFFFF
      ∧ s.pagesBusy 0 = false)
    ∧ (let m := toPage (message 7 0 7 []); (heads m (viewed (paged s0))).viewOf 0 0 m.ctx = some 0)
    ∧ (let m := toPage (message 7 0 6 []); let s := taken m 1 [0, 0, 0] (paged s0); (s.busyOf m).isSome = true ∧ s.shooting 0 = false) := by
  unfold Heads Passes; decide +kernel
theorem wit_PageCommands_inval : (let m := toPage (message 7 0 0x308 [0, 0]); let s := heads m (paged s0); Heads s m (.page 0) true 6 0x300 ∧ invalOk m = true
      ∧ bitOf (lane0 m) 9 = true)
    ∧ (let m := toPage (message 7 0 8 [0, 65535]); invalOk m = true ∧ bitOf (lane0 m) 9 = false) ∧ invalOk (toPage (message 7 0 8 [0, 65536])) = false
    ∧ invalOk (toPage (message 7 0 0x208 [0, 0])) = false
    ∧ (let m := toPage (message 7 0 0x308 [0, 0]); (∀ ph ∈ [1, 2, 3], (let s := taken m ph [] (paged s0)
      ((s.busyOf m).map (fun b => (b.phase, b.nums))) = some (ph, []) ∧ s.pagesBusy 0 = false)))
    ∧ (let m := toPage (message 7 0 0x10A []); let s := heads m (paged s0); Heads s m (.page 0) true 2 0xF00
      ∧ s.inboxesClear m (bits (lane0 m) 11 8) 4 = true) := by
  unfold Heads Passes; decide +kernel

/-- A ring of one free LPDDR-6 frame, and none (R379). -/
def ringed (s : State) : State :=
  (((s.setReg (pageReg 0 0x40) 0x50000000).setReg (pageReg 0 0x48) 2).setReg (pageReg 0 0x58) 1).putLE 0x50000000 8 0x10000000000
theorem wit_PageEvents_begin : (let v := aMove .waiting; let s := moving v (leafed 0 s0); s.move? 1 = some v ∧ s.moveHeld v = false
      ∧ (s.movesOf 0).length < 8 ∧ v.taken = none ∧ (s.takeFrame 0 1).1 = none
      ∧ ((ringed s).takeFrame 0 1).1 = some 0x10000000000 ∧ (ringed s).leafIs v 0 = true)
    ∧ (let v := { aMove .waiting with heldAt := some 0 }; let s := moving v (sided 1 (leafed 0 s0)); s.moveHeld v = true
      ∧ s.moveTo 0 ≤ ({ s with timer := 100 * timerScale }).usSince 0) := by decide +kernel
/-- A copying move: the entry stands, or software rewrote it; poison; the last line; paused with and without holds (R380 to R383). -/
theorem wit_PageEvents_copy : (let v := aMove .copying; let s := moving v (leafed 1 s0); s.move? 1 = some v ∧ v.paused = none ∧ s.leafIs v 1 = true
      ∧ (s.rawLoad v.src 256).poison = false ∧ ((s.markPoison v.src 64).rawLoad v.src 256).poison = true ∧ v.copied ≠ 255
      ∧ (moving v (leafed 0 s0)).leafIs v 1 = false)
    ∧ (let v := { aMove .copying with copied := 255 }; (moving v (leafed 1 s0)).move? 1 = some v)
    ∧ (let v := { aMove .copying with paused := some 0 }; (moving v (leafed 1 s0)).holdCount v.src = 0 ∧ 0 < (moving v (sided 255 (leafed 1 s0))).holdCount v.src)
    ∧ (let v := { aMove .sealed with queue := [(256, [1], false)] }; v.queue.find? (fun e => e.1 / 256 == 1) = some (256, [1], false) ∧ v.phase ≠ .aborting) := by
  decide +kernel
theorem wit_PageEvents_end : (let v := aMove .sealed; let s := moving v (leafed 1 s0); s.move? 1 = some v ∧ v.queue = [] ∧ s.leafIs v 1 = true
      ∧ (moving v (leafed 0 s0)).leafIs v 1 = false)
    ∧ (let v := aMove .aborting; (moving v s0).move? 1 = some v ∧ v.phase = .aborting) := by decide +kernel
/-- A shootdown that waits for sector 31 and page engine 3; one no receiver of which is left, with and without its move (R374, R384). -/
theorem wit_PageEvents_shoot : (let x : Shoot := { id := 5, die := 0, what := .all 0, waiting := [31, 35] }; let s := { s0 with shoots := [x] }
      s.shoots.find? (fun x => x.id == 5) = some x ∧ x.waiting.contains 31 = true ∧ x.waiting.contains 35 = true ∧ s.sectorOut 31 x.what = false
      ∧ s.linkOut 0 x.what = false)
    ∧ (let x : Shoot := { id := 5, die := 0, what := .all 0, waiting := [] }; let s := { s0 with shoots := [x] }; x.waiting = []
      ∧ s.moves.find? (fun v => v.phase == .shooting && v.shoot == 5) = none
      ∧ (let v := { aMove .shooting with shoot := 5 }; (moving v s).moves.find? (fun v => v.phase == .shooting && v.shoot == 5) = some v ∧ v.cause = 0)) := by
  decide +kernel
/-- A fill with line 0 to copy; one with all 256, whose leaf stands and was rewritten (R389, R390). -/
def aFill (ls : List Nat) : Fill :=
  { id := 3, die := 0, asid := 0, va := 0, pte := 0x20C000, entry := 0x30002F, old := 0x300000, new := 0x310000, desc := 0, birth := 0, next := 0, lines := ls, shoot := none }
theorem wit_PageEvents_fill : (let f := aFill []; ({ s0 with fills := [f] }).fills.find? (fun f => f.id == 3 && f.filling) = some f
      ∧ (upTo 256).find? (fun l => !f.lines.contains l) = some 0)
    ∧ (let f := aFill (upTo 256); 256 ≤ f.lines.length ∧ ({ s0 with fills := [f] }).fills.find? (fun f => f.id == 3 && f.filling) = some f)
    ∧ (leafed 2 s0).devRead 0x20C000 8 = (aFill []).entry ∧ (leafed 0 s0).devRead 0x20C000 8 ≠ (aFill []).entry := by decide +kernel
theorem wit_PageEvents_auto : (let s := { leafed 0 s0 with autoQ := [(0, [(0x300000, 0, 0x20C000, 1)])] }; Tab.get [] s.autoQ 0 = [(0x300000, 0, 0x20C000, 1)]
      ∧ s0.leafPage 0 0 0x20C000 = none ∧ s.leafPage 0 0 0x20C000 = some (0, 4) ∧ bits (s.devRead 0x20C000 8) 7 4 = 0
      ∧ bits ((leafed 2 s0).devRead 0x20C000 8) 7 4 ≠ 0
      ∧ (match s.findLeaf 0 0 0 with | (.ok l, _) => l.lvl == 4 && l.st == 0 && tierOf l.frame == 0 | _ => false) = true)
    ∧ (let s := { sided 1 s0 with clk := 2 ^ 20 }; Tab.get 0 s.halved 0 < s.clk / 2 ^ 20 ∧ s.regBits (pageReg 0 0x10) 16 16 ≠ 0
      ∧ s.regBits (pageReg 0 0x10) 17 17 = 0 ∧ (s.setReg (pageReg 0 0x10) 0).regBits (pageReg 0 0x10) 16 16 = 0 ∧ s.sideEntries 0 = [0x30]) := by decide +kernel

/-! ## Witnesses: the link engines -/

/-- The module has device id 3 on both link dies; page 1 of ASID 0 is byte 0 of device 5's window (R409, R410). -/
def domained (s : State) : State :=
  (((paged s).putLE 0x20C008 8 (2 ^ 56 + 5 * 2 ^ 45 + 0xF)).setReg (linkReg 0 0 0) 0x10003).setReg (linkReg 1 0 0) 0x10003
/-- The destination of the link engine of die 0 is engine 7 of sector 4 (R101). -/
def toLink (m : Token) : Token := { m with dest := engineDest 0 4 7 0 }
/-- A put of 8 bytes of page 0 into page 1, and the get that reads them back: pages found and local bytes present (R422). -/
def transfers (put : Bool) : Bool :=
  let m := toLink (message 7 0 (if put then 1 else 2) (if put then [65536, 0, 8] else [0, 65536, 8]))
  let s := heads m (domained s0)
  engineOf m.dest == some (.link 0 0) && s.atHead m && messageCheck m true 8 0 == none && s.busyOf m == none
    && (match s.linkPages 0 m.ctx (s.takenAsid m) false (!put) (pagesOf (qOp m 2) (qOp m 3)) with
      | (.ok src, t) => (match t.linkPages 0 m.ctx (s.takenAsid m) true put (pagesOf (qOp m 1) (qOp m 3)) with
        | (.ok dst, u) => (if put then u.localOk src (qOp m 2) (qOp m 3) else u.localOk dst (qOp m 1) (qOp m 3))
            && (u.takeHolds [] (pageFrames (if put then src else dst))).2.1 == []
        | _ => false)
      | _ => false)
theorem wit_LinkCommands : transfers true = true ∧ transfers false = true
    ∧ transferOk (toLink (message 7 0 1 [65536, 0, 8])) ∧ transferOk (toLink (message 7 0 1 [2 ^ 56 - 8, 0, 8]))
    ∧ (let m := toLink (message 7 0 1 [65536, 0, 0]); qOp m 3 = 0) ∧ (let m := toLink (message 7 0 1 [2 ^ 56, 0, 8]); 2 ^ 56 ≤ qOp m 1)
    ∧ (let m := toLink (message 7 0 1 [65536, 0, 8]); ((taken m 50 [0, 0, 0, 0] s0).busyOf m).map (fun b => b.phase) = some 50) := by
  unfold transferOk; decide +kernel
/-- A signal at 0 of page 0 with no notice, with a notice to keeper 0 of this module; to page 1; poisoned; a page that is not readable (R423). -/
def signals (va : Nat) (q3 : Nat) : Token := toLink (message 7 0 8 [va, 1, q3])
def reached (m : Token) (s : State) : Bool × Bool × Option Target :=
  match s.engineXlate 0 m.ctx (s.takenAsid m) (qOp m 1) true with | (.ok x, u) => (true, x.read, some (u.target 0 (x.pa (qOp m 1)))) | _ => (false, false, none)
theorem wit_LinkCommands_signal : (let m := signals 0 0; let s := heads m (domained s0); Heads s m (.link 0 0) true 8 0 ∧ s.busyOf m = none
      ∧ qOp m 1 < 2 ^ 56 ∧ qOp m 1 % 8 = 0 ∧ qOp m 3 < 2 ^ 44 ∧ destForm (BitVec.ofNat 21 (bits (qOp m 3) 20 0)) = true
      ∧ dKind (BitVec.ofNat 21 (bits (qOp m 3) 20 0)) = 0 ∧ reached m s = (true, true, some (.here 0x300000))
      ∧ reached m (s.putLE 0x20C000 8 0x30000D) = (true, false, some (.here 0x300000))
      ∧ (s.atomic 0x300000 8 (fun old => (atomAct 0x190 8 1 0 old).1)).1.code = 0
      ∧ (s.atomic 0x300000 8 (fun old => (atomAct 0x190 8 1 0 old).1)).1.poison = false
      ∧ ((s.markPoison 0x300000 64).atomic 0x300000 8 (fun old => (atomAct 0x190 8 1 0 old).1)).1.poison = true)
    ∧ (let m := signals 0 ((keeperDest 0).toNat + 3 * 2 ^ 21); dKind (BitVec.ofNat 21 (bits (qOp m 3) 20 0)) ≠ 0
      ∧ bits (qOp m 3) 31 21 = (domained s0).ownDev (linkDie m) ∧ (domained s0).devValid = true)
    ∧ (let m := signals 65536 0; reached m (heads m (domained s0)) = (true, true, some (.away 5 0))) := by
  unfold Heads Passes; decide +kernel
/-- A join of the list [3, 5] in page 0, one that this module is not in, a leave, and a collective on a bound group (R425 to R428). -/
def listed (a b : Nat) (s : State) : State := (s.putLE 0x300000 2 a).putLE 0x300002 2 b
def joins (a b : Nat) : Option (List Nat) :=
  let m := toLink (message 7 0 9 [0, 1])
  let s := heads m (listed a b (domained s0))
  if messageCheck m true 6 0x1FC000 == none && s.atHead m && (s.groups.find? (gidOf m)).isNone then
    (match s.linkPages 0 m.ctx (s.takenAsid m) false false (pagesOf 0 4) with
      | (.ok ps, u) => if u.localOk ps 0 4 && (u.readBytes (pageReaches ps 5 0 4)).1.all (fun b => !b.2)
          then some (listOf ((u.readBytes (pageReaches ps 5 0 4)).1.map (fun b => b.1)) 2) else none
      | _ => none)
  else none
theorem wit_LinkCommands_join : joins 3 5 = some [3, 5] ∧ ([3, 5] : List Nat).contains 3 = true ∧ joins 5 6 = some [5, 6]
    ∧ ([5, 6] : List Nat).contains 3 = false ∧ ([3, 5] : List Nat).eraseDups.length = 2 := by decide +kernel
def aGroup (m : Token) (b : Bool) : Group :=
  { list := [3, 5], digest := 7, rank := 0, inbox := inboxKey m.dest, ctx := 0, seq := 0, broken := false, bound := b, heard := [(0, 7)], since := 0,
    msg := m, leaving := false, saved := none }
def aColl (m : Token) : Coll :=
  { gid := 0, msg := m, status := 0, descs := [(0, collDesc m true)], parts := [], holds := [], since := 0, running := false, asid := some 0, src := [], dst := [] }
theorem wit_LinkCommands_leave : (let m := toLink (message 7 0 0x100009 [0, 0]); let s := heads m (domained s0); Heads s m (.link 0 0) true 6 0x1FC000
      ∧ bitOf (lane0 m) 20 = true ∧ s.groups.find? (gidOf m) = none
      ∧ ({ s with groups := [(0, aGroup m true)] }).groups.find? (gidOf m) = some (aGroup m true) ∧ (aGroup m false).bound = false ∧ s.colls = []
      ∧ (aColl m).gid = gidOf m) := by
  unfold Heads Passes; decide +kernel
/-- An all-reduce of 8 `i32` elements between two members; a barrier (R427, R428, R431). -/
def collMsg : Token := toLink (message 7 0 3 [4096, 0, 7])
theorem wit_LinkCommands_coll : (let m := collMsg; let s := heads m { domained s0 with groups := [(0, aGroup m true)] }
      Heads s m (.link 0 0) true 8 0xFFFFFF00 ∧ s.groups.find? (gidOf m) = some (aGroup m true) ∧ s.colls.find? (fun x => x.gid == gidOf m && x.msg == m) = none
      ∧ s.resumed m = some ([], []) ∧ (aGroup m true).inbox = inboxKey m.dest
      ∧ (match s.collPages m (s.takenAsid m) (collDesc m true) 2 with
        | (.ok (src, dst), u) => (u.takeHolds [] (pageFrames src ++ (pageFrames dst).filter (fun f => !(pageFrames src).contains f))).2.1 == [] | _ => false) = true
      ∧ (match (heads m s0).collPages m none (collDesc m true) 2 with | (.error _, _) => true | _ => false) = true
      ∧ ({ s with colls := [aColl m] }).colls.find? (fun x => x.gid == gidOf m && x.msg == m) = some (aColl m))
    ∧ (let m := toLink (message 7 0 7 []); Heads (heads m s0) m (.link 0 0) true 2 0xFFFFFF00) := by
  unfold Heads Passes; decide +kernel
theorem wit_LinkCommands_stat : (let m := toLink (message 7 0 0x10A []); let s := heads m s0; Heads s m (.link 0 0) true 2 0xFF00
      ∧ s.inboxesClear m (bits (lane0 m) 15 8) 8 = true)
    ∧ (let m := toLink (message 7 0 0x10B []); Heads (heads m s0) m (.link 0 0) true 2 0x100) := by
  unfold Heads Passes; decide +kernel

/-- A load under way to device 5, asked for by keeper 0, by request 0 of access 7, by a command (R410 to R413). -/
def aRemote (w : Requester) : Remote :=
  { id := 4, die := 0, port := 0, dev := 5, off := 0, kind := 0, atom := 0, size := 8, data := [], arg := 0, poison := false, who := w, source := 0, since := 0 }
theorem wit_LinkEvents : (let r := aRemote (.keeper 0); let s := { s0 with remotes := [r] }; s.remotes.find? (fun r => r.id == 4 && r.kind != 4) = some r
      ∧ s.usSince r.since < Nat.max 1 (s.regBits (linkReg r.die 0 8) 15 0)
      ∧ Nat.max 1 (s.regBits (linkReg r.die 0 8) 15 0) ≤ ({ s with timer := 200 * timerScale }).usSince r.since)
    ∧ (aRemote (.access 7 0)).who = .access 7 0 ∧ (aRemote (.command 0)).who = .command 0
    ∧ ((domained s0).devValid = true ∧ (domained s0).regBits (linkReg 1 0 0x10) 7 7 = 0) ∧ s0.devValid = false := by decide +kernel
/-- A store from device 5 to bytes 0 of HBM4E: no window, a window that permits it, a place that does not exist, one already answered (R411, R416). -/
def anInbound (off : Nat) : Inbound := { src := 5, req := 1, off := off, size := 8, kind := 1, atom := 0, data := List.replicate 8 0, arg := 0, poison := false }
def windowed (s : State) : State := s.setReg (linkReg 0 0 0x48) 7
theorem wit_LinkEvents_inbound : (let r := anInbound 0; r.size ≠ 0 ∧ isGlobal r.off = true ∧ s0.physOk r.off r.size (decide (2 ≤ r.kind)) = true
      ∧ s0.windowPermits 0 r.off r.size (r.kind != 1) (r.kind != 0) = false
      ∧ (windowed s0).windowPermits 0 r.off r.size (r.kind != 1) (r.kind != 0) = true
      ∧ (s0.takeHolds [] ((pagesOf r.off r.size).map (fun p => p * 65536))).2.1 = [] ∧ s0.awake = true
      ∧ (s0.inboundDone.any (fun x => x.1 == r.src && x.2.1 == r.req)) = false ∧ s0.inboundBehind r = false)
    ∧ (let s := { s0 with inboundDone := [(5, 1, { code := 0, data := [], poison := false })] }
      (s.inboundDone.any (fun x => x.1 == (anInbound 0).src && x.2.1 == (anInbound 0).req)) = true)
    ∧ (let h := s0.homeOf 0 0; s0.atomicTurn h 32 = true
      ∧ ({ s0 with inboundWait := [(1, { anInbound 0 with kind := 2 })], atomicNext := [(h, 33)] } : State).atomicTurn h 32 = false)
    ∧ isGlobal (scratchAddr 0 0) = false ∧ (s0.setBits (custReg 0x38) 3 2 2).awake = false := by decide +kernel
/-- A digest that comes first, that is the last and equal, that differs; a descriptor before and after its collective; a contribution (R425 to R428). -/
theorem wit_LinkEvents_groups : (let m := toLink (message 7 0 9 [0, 1]); let g := aGroup m false; let s := { s0 with groups := [(0, g)] }
      s.groups.find? 0 = some g ∧ g.bound = false ∧ 1 < g.list.length ∧ 1 ≠ g.rank ∧ g.heard.length ≠ g.list.length
      ∧ ({ g with heard := [(0, 7), (1, 7)] } : Group).heard.length = g.list.length ∧ (8 : Word) ≠ g.digest
      ∧ 1000 * s.collTimeout (linkDie g.msg) ≤ ({ s with timer := 100000 * timerScale }).usSince g.since)
    ∧ (let m := collMsg; let c := aColl m; let s := { s0 with groups := [(0, aGroup m true)] }; s.colls.find? (fun c => c.gid == 0) = none
      ∧ ({ s with colls := [c] }).colls.find? (fun c => c.gid == 0) = some c ∧ c.descs.find? 1 = none ∧ (c.descs.find? 0).isSome = true
      ∧ c.parts.find? 1 = none ∧ c.status = 0 ∧ c.running = false) := by decide +kernel

/-! ## Witnesses: the command front -/

/-- A command of queue 1 on a line, and the state in which it is the ready head (R439, R447). -/
def cmd (line : Nat) (ws : List Nat) : Cmd := { queue := 1, seq := 0, line := line, body := ws.map (fun w => BitVec.ofNat 64 w), keeper := none }
def ready (c : Cmd) (s : State) : State := queued c s
/-- The command is the head and ready; the state after its dispatch. -/
def dispatches (c : Cmd) (line : Nat) (s : State) : Bool := c.line == line && (ready c s).readyHead c.queue == some c
def dispatched (c : Cmd) (s : State) : State :=
  let s := ready c s
  { s.setQueue c.queue { s.queue c.queue with onchip := [], readySince := 0 } with served := Tab.set s.served (s.level c.queue) c.queue }
/-- WAIT on queue 0's sequence number 2³² − 1, which counts as done (R444); one with a reserved bit; a command that is no head. -/
theorem wit_FrontCommands : dispatches (cmd 1 [(2 ^ 32 - 1) * 2 ^ 32]) 1 s0 = true ∧ bodyOk (cmd 1 [(2 ^ 32 - 1) * 2 ^ 32]) [maskBits 9 0 + maskBits 63 32] = true
    ∧ bodyOk (cmd 1 [(2 ^ 32 - 1) * 2 ^ 32 + 1024]) [maskBits 9 0 + maskBits 63 32] = false ∧ s0.readyHead 1 ≠ some (cmd 1 [0])
    ∧ s0.regBits (frontReg 0x100) 0 0 = 0 ∧ (s0.queue 1).done = [] ∧ s0.doneSeq 1 = 0 := by decide +kernel
/-- SIGNAL with no store, with a store to HBM4E and one that is misaligned; a notice to keeper 0 and an engine port (R445). -/
theorem wit_FrontCommands_signal : dispatches (cmd 2 [0, 0, (keeperDest 0).toNat, 2 ^ 16]) 2 s0 = true ∧ bodyOk (cmd 2 [0, 0, (keeperDest 0).toNat, 2 ^ 16]) signalMasks = true
    ∧ dKind (signalToken (cmd 2 [0, 0, (keeperDest 0).toNat, 2 ^ 16])).dest = 3 ∧ destForm (signalToken (cmd 2 [0, 0, (keeperDest 0).toNat, 2 ^ 16])).dest = true
    ∧ dKind (signalToken (cmd 2 [0, 0, (engineDest 0 0 0 0).toNat])).dest = 2 ∧ bodyOk (cmd 2 [2 ^ 57]) signalMasks = false := by decide +kernel
theorem wit_FrontCommands_signalAddr : signalAddrOk s0 0 ∧ signalAddrOk s0 8 ∧ ¬ signalAddrOk s0 4 := by
  unfold signalAddrOk; decide +kernel
/-- QUERY of queue 1,023 and of 1,024, and of a slot; a RESULT inside and outside global memory (R446). -/
theorem wit_FrontCommands_query : dispatches (cmd 6 [1023 * 16, 64]) 6 s0 = true ∧ bodyOk (cmd 6 [1023 * 16, 64]) [maskBits 1 0 + maskBits 15 4, maskBits 56 6] = true
    ∧ bits (Cmd.w (cmd 6 [1023 * 16, 64]) 0) 15 4 < 1024 ∧ bits (Cmd.w (cmd 6 [1024 * 16, 64]) 0) 15 4 = 1024
    ∧ isGlobal 64 = true ∧ s0.physOk 64 64 false = true ∧ isGlobal (scratchAddr 0 0) = false
    ∧ bits (Cmd.w (cmd 6 [4095 * 16 + 1, 64]) 0) 1 0 = 1 := by decide +kernel
/-- Partition 0 holds sector 0 and memory is trained; a graph of no section at 0 of ASID 0; slot 1 is free (R107, R108, R449). -/
def parted (s : State) : State := ((paged s).setReg (frontReg 0) 1).setReg (modReg 0) 3
def launchCmd : Cmd := cmd 0 [0, 0x080808, 0, 0, 0, 1, 1, 0]
theorem wit_FrontCommands_launch : dispatches launchCmd 0 (parted s0) = true
    ∧ okIs ((dispatched launchCmd (parted s0)).launchCheck launchCmd.body 1 1 1 (sectorsOf 1) true).1 { sections := [], sched := [], tokens := [] } = true
    ∧ (match ((dispatched launchCmd s0).launchCheck launchCmd.body 1 1 1 (sectorsOf 1) true).1 with | .error e => e == 0x21 | .ok _ => false) = true := by
  decide +kernel
/-- PREEMPT of slot 0, which is live, and of slot 1, which is not bound (R454). -/
theorem wit_FrontCommands_preempt : dispatches (cmd 3 [0, 0x400000, 1000]) 3 (parted s0) = true ∧ bodyOk (cmd 3 [0, 0x400000, 1000]) slotMasks = true
    ∧ (dispatched (cmd 3 [0]) (parted s0)).contexts.find? 0 = some ctx0 ∧ (dispatched (cmd 3 [1]) (parted s0)).contexts.find? 1 = none
    ∧ ctx0.live = true ∧ (parted s0).regBits (queueReg 0 0) 5 1 = (parted s0).regBits (queueReg 1 0) 5 1 ∧ (parted s0).restores = []
    ∧ bodyOk (cmd 3 [4096]) slotMasks = false := by decide +kernel
/-- A saved context of sector 0 at 0x400000, with no section (R457, R458). -/
def savedImage (s : State) : State := ((((parted s).putLE 0x400000 8 1).putLE 0x400008 4 1).putLE 0x400048 8 0x080808)
def resumeCmd : Cmd := cmd 4 [1, 0x400000, 1]
theorem wit_FrontCommands_resume : dispatches resumeCmd 4 (savedImage s0) = true ∧ bodyOk resumeCmd slotMasks = true
    ∧ (let t := dispatched resumeCmd (savedImage s0); let a := bits (Cmd.w resumeCmd 1) 56 16 * 65536
      isGlobal a = true ∧ t.physOk a 0x180 false = true ∧ t.imageNum a 8 ≠ 0 ∧ t.imageNum (a + 8) 4 = 1 ∧ (t.live? 1).isSome = false
      ∧ popPart 1 = popPart 1 ∧ (1 &&& (t.partMask 1 ^^^ (2 ^ 32 - 1))) = 0 ∧ t.tooFewLines a ((sectorsOf 1).zip (sectorsOf 1)) = false
      ∧ (let r0 := (chunks 8 8 (t.imageBytes (a + 0x40) 64)).map (fun b => (BitVec.ofNat 64 (leNat b) : Word))
        okIs (t.launchCheck r0 1 1 1 (sectorsOf 1) false).1 { sections := [], sched := [], tokens := [] } = true
        ∧ (match (t.bindSlot 1 resumeCmd r0 1 0 []).deliverCold [] 1 0 [(0, 0)] with | .ok _ => true | .error _ => false) = true)) := by
  decide +kernel
theorem wit_FrontCommands_rest : dispatches (cmd 5 []) 5 s0 = true ∧ bodyOk (cmd 5 []) [] = true ∧ bodyOk (cmd 5 [1]) [] = false
    ∧ (let c := cmd 7 []; c.line = 7 ∧ s0.outstanding c.queue c.seq = false ∧ (s0.setReg (queueReg 1 0x18) 1).outstanding c.queue c.seq = true)
    ∧ s0.flrHold = false ∧ ([] : List Byte).length ≤ 64 - 511 % 64 ∧ (List.replicate 64 (0 : Byte)).length = 64 ∧ (s0.queue 1).staging.find? 0 = none := by
  decide +kernel
/-- A queue that is off, one that is on with room, with 64 commands on chip and an overflow area of none; a command in the area (R440, R441). -/
theorem wit_FrontCommands_accept : (s0.wakeUp).regBits (queueReg 1 0) 0 0 = 0
    ∧ (let s := s0.setReg (queueReg 1 0) 1; s.wakeUp.regBits (queueReg 1 0) 0 0 = 1 ∧ (s.wakeUp.queue 1).onchip.length < 64 ∧ (s.wakeUp.queue 1).overflow = [])
    ∧ (let s := s0.setQueue 1 { s0.queue 1 with onchip := List.replicate 64 (cmd 1 []) }; 64 ≤ (s.queue 1).onchip.length
      ∧ s.regBits (queueReg 1 0x10) 23 0 ≤ (s.queue 1).overflow.length)
    ∧ (let s := s0.setQueue 1 { s0.queue 1 with overflow := [cmd 1 []] }; (s.queue 1).overflow = [cmd 1 []] ∧ (s.queue 1).onchip.length < 64
      ∧ (s.load 0 64 false).1.code = 0) := by decide +kernel
/-- A context that closes and holds nothing; one that is drained and quiet without storage; a watchdog that is past; a slot of a PREEMPT (R452, R454, R462). -/
theorem wit_FrontCommands_end : (let x := { ctx0 with closing := true }; let s := { s0 with contexts := [(0, x)] }; s.contexts.find? 0 = some x ∧ x.live = true
      ∧ s.fdrains = [] ∧ s.restores = [] ∧ s.noEntries 0 = true ∧ s.cmdsRun 0 = false ∧ s.cmdsWait 0 = false ∧ s.accesses = [])
    ∧ (let f : FrontDrain := { slot := 0, cmd := none, since := 0, sectors := [], status := 9 }; let s := { shaped s0 with fdrains := [f] }
      s.fdrains.find? (fun f => f.slot == 0) = some f ∧ s.quiet f = true ∧ s.dogSave ctx0 = none)
    ∧ (let s := (shaped s0).setSpill 0 { s0.spill 0 with trapped := [0] }; ctx0.expired = 0 ∧ s.dogStatus 0 ctx0 = some 9 ∧ s0.dogStatus 0 ctx0 = none)
    ∧ (let f : FrontDrain := { slot := 0, cmd := some (cmd 3 [0, 0x400000, 1000]), since := 0, sectors := [], status := 0 }; let s := shaped s0
      s.quiet f = true ∧ s.savePlace f ctx0 = some (0x400000, 1000) ∧ (s.imagePlan 0 true 0x180 (sectorsOf 1)).2 ≤ 1000 * 65536
        ∧ isGlobal 0x400000 = true ∧ s.physOk 0x400000 (s.imagePlan 0 true 0x180 (sectorsOf 1)).2 false = true
        ∧ 1 * 65536 < (s.imagePlan 0 true 0x180 (sectorsOf 1)).2 ∧ s.quiet { f with sectors := [0] } = false
        ∧ Nat.max 1 (s.regBits (queueReg 1 0) 63 48) ≤ ({ s with timer := 100 * timerScale }).usSince f.since
        ∧ s.usSince f.since < Nat.max 1 (s.regBits (queueReg 1 0) 63 48)) := by decide +kernel
theorem wit_FrontCommands_restore : (let r : Restore := { slot := 0, image := 0x400000, cmd := resumeCmd, pairs := [(0, 0)] }; let s := { savedImage s0 with restores := [r] }
      s.contexts.find? 0 = some ctx0 ∧ ctx0.sections ≠ [] ∧ s.restores.find? (fun r => r.slot == 0) = some r ∧ s.imageNum (0x400000 + 0x80 + 8 * 0) 8 = 0)
    ∧ (let r : PartReset := { id := 4, mask := 1, cmd := some (cmd 5 []) }; ({ s0 with resets := [r] }).resets.find? (fun x => x.id == r.id) = some r)
    ∧ (let s := shaped (s0.setReg (frontReg 8) 1); (s.regBits (frontReg 8) 31 0 &&& 1) ≠ 0 ∧ (s.regBits (frontReg 8) 31 0 &&& 2) = 0 ∧ s.liveOn 1 ≠ [] ∧ s.liveOn 2 = []) := by
  decide +kernel

/-! ## Witnesses: power and the ports of the host -/

theorem wit_PowerAndPorts : s0.liveOn (2 ^ 31) = [] ∧ (shaped s0).liveOn (2 ^ 0) ≠ [] ∧ s0.gated 31 = false ∧ s0.awake = true
    ∧ (s0.setReg (frontReg 0x110) 0x80000000).gated 31 = true
    ∧ (∀ ph ∈ [WakePhase.rails, .clocks, .cleared], ({ s0 with waking := [(31, ph, 0)] }).waking.find? 31 = some (ph, 0))
    ∧ 40 * timerScale ≤ 10 * (4 * timerScale - 0) ∧ 10 * (2 * timerScale) < 30 * timerScale := by decide +kernel
/-- The edges of 105, 95 and 115 °C, of 2,250, 1,275 and 1,200 MHz, and of 95 % of a limit of 1,000 W (R497). -/
theorem wit_PowerAndPorts_clock : ¬ (105 < 105 ∨ 95 < 95) ∧ 105 < 106 ∧ Nat.max 1200 (1275 - 75) = 1200 ∧ Nat.min 2250 (2250 + 75) = 2250
    ∧ 100 * 950 ≤ 95 * 1000 ∧ 95 * 1000 < 100 * 951 ∧ (s0.setBits (modReg 0) 2 2 1).regBits (modReg 0) 2 2 = 1 := by decide +kernel
theorem wit_PowerAndPorts_states : (shaped s0).contexts = [(0, ctx0)] ∧ ctx0.live = true ∧ (queued (cmd 1 []) s0).queues ≠ [] ∧ s0.contexts = [] ∧ s0.queues = []
    ∧ (let s := (s0.setCust { s0.cust with pwrEntry := some 2 }); s.cust.pwrEntry = some 2 ∧ s.cust.pwrExit = false ∧ s.cust.tests = [] ∧ s.remotes = []
      ∧ s.inboundWait = [] ∧ s.accesses = [])
    ∧ ({ s0 with remotes := [aRemote (.keeper 0)] }).remotes ≠ [] ∧ (s0.setBits (custReg 0x38) 3 2 2).awake = false ∧ s0.power = .on
    ∧ (s0.setBits (custReg 0) 2 1 2).running = true ∧ s0.running = false := by decide +kernel
/-- A host read of trained HBM4E, of HBM4E not trained, beyond 2^45; in P2; a port off and on; IDE required (R490, R491, R494). -/
theorem wit_PowerAndPorts_host : s0.cust.pwrEntry = none ∧ s0.trained 0 = false ∧ (s0.setReg (modReg 0) 3).trained 0 = true ∧ s0.physOk 0 64 false = true
    ∧ (s0.setBits (custReg 0x38) 3 2 2).hostNow { addr := 0, size := 64, write := none, ep := false } = false
    ∧ s0.regBits (cxlReg 3 0) 0 0 = 0 ∧ (s0.setReg (cxlReg 3 0) 1).regBits (cxlReg 3 0) 0 0 = 1 ∧ (s0.setReg (cxlReg 3 8) 1).regBits (cxlReg 3 8) 0 0 = 1
    ∧ (s0.setReg (custReg 0x40) 8).regBits (custReg 0x40) 3 3 = 1 ∧ (s0.setReg (custReg 0x40) 8).regBits (custReg 0x40) 7 7 = 0 := by decide +kernel

/-! ## Witnesses: the custodian. What a signature gives is opaque: a witness ends where the signature's verdict begins. -/

/-- The ROM waits for an image of 1,024 bytes; each length that it refuses (R471). -/
def waits (len : Nat) (s : State) : State := (s.setBits (custReg 0) 2 1 1).setReg (custReg 0x10) (BitVec.ofNat 64 len)
theorem wit_Firmware : (waits 1024 s0).regBits (custReg 0) 2 1 = 1 ∧ (waits 1024 s0).regBits (custReg 0x10) 24 0 = 1024 ∧ s0.regBits (custReg 0) 2 1 ≠ 1
    ∧ (960 < 1024 ∧ 16777216 < 16777280 ∧ 1025 % 64 ≠ 0 ∧ 16777216 % 64 = 0)
    ∧ (let bs := leBytes 4 0x4B5A4131 ++ leBytes 4 0 ++ leBytes 8 1024 ++ leBytes 4 7 ++ List.replicate 1004 0; bs.length = 1024
      ∧ leNat (bs.take 4) = 0x4B5A4131 ∧ leNat ((bs.drop 8).take 8) = 1024 ∧ s0.cust.minSvn ≤ leNat ((bs.drop 16).take 4)) := by decide +kernel
/-- Each security state with its highest debug level; watchpoint 15 with ACT = 1 and without it (R476, R477, R480). -/
theorem wit_CustodianErrorsAndAttestation : s0.security = 0 ∧ (∀ st ∈ [0, 1, 2, 3], (s0.setBits (custReg 0x18) 1 0 st).regBits (custReg 0x18) 1 0 = st)
    ∧ s0.debugLevel = 0 ∧ (s0.setBits (custReg 0x18) 3 2 2).debugLevel = 2 := by decide +kernel
/-- Errors: of a frame line of each severity, of a pseudo-channel, of memory that holds no such line (R484). -/
def frameErr (sev : Nat) : ErrInfo := { source := 5, severity := sev, loc := frameAddr 3 255, detail := 0 }
theorem wit_CustodianErrors : placeOf (frameErr 0).loc = .frame 3 255 := by decide +kernel
/-- A line of stack 0 with one wrong symbol, and with none (R361, R362). -/
theorem wit_CustodianErrors_line : (let s := s0.addUpset 0 [0, 0, 0, 0, 9]; placeOf (64 * 0) = .hbm 0 0 ∧ s.noUpsets = false ∧ s.dead 0 = false
      ∧ s.upsetOf 0 = some (padTo 0 72 [0, 0, 0, 0, 9]) ∧ rsRead (s.readSymbols 0 [0, 0, 0, 0, 9]) = .corrected (List.replicate 64 0) [4])
    ∧ s0.noUpsets = true ∧ s0.seen (frameErr 2) = none ∧ (s0.seen (frameErr 0)).isSome = true
    ∧ (let e : ErrInfo := { source := 11, severity := 2, loc := 0, detail := 0 }; placeOf e.loc = .hbm 0 0 ∧ (s0.seen e).isSome = true) := by decide +kernel
/-- An error names a source of 1 to 14, a severity up to 2 and 72 symbols at most (R361, R484). -/
theorem test_wf_errorDetect : (Instr.errorDetect (frameErr 3)).wf = false ∧ (Instr.errorDetect { frameErr 0 with source := 15 }).wf = false
    ∧ (Instr.errorDetect { frameErr 0 with source := 1, upset := List.replicate 73 0 }).wf = false
    ∧ (Instr.errorDetect { frameErr 0 with source := 1, upset := [256] }).wf = false ∧ (Instr.errorDetect (frameErr 2)).wf = true := by decide +kernel
/-- A test that may start, one that runs, eight that run; the place of each repair (R485 to R487). -/
def aTest (r : Bool) (e : ErrInfo) : TestRec := { id := 2, recno := some 0, time := 0, err := e, count := 1, running := r }
def testing (ts : List TestRec) (s : State) : State := s.setCust { s.cust with tests := ts }
theorem wit_CustodianErrors_tests : (let r := aTest false (frameErr 1); let s := testing [r] s0; (s.cust.tests.filter (fun q => q.running)).length < 8
      ∧ s.cust.tests.find? (fun q => !q.running && s.testFree q) = some r)
    ∧ 8 ≤ ((testing (List.replicate 8 (aTest true (frameErr 1))) s0).cust.tests.filter (fun q => q.running)).length
    ∧ (let r := aTest true (frameErr 1); (testing [r] s0).cust.tests.find? (fun q => q.id == r.id && q.running) = some r)
    ∧ (shaped s0).cellOccupied 3 = true ∧ s0.cellOccupied 3 = false ∧ placeOf 0 = .hbm 0 0 ∧ s0.remapsOf 0 < 2048
    ∧ placeOf (scratchAddr 5 64) = .scratch 5 64 ∧ s0.linesSpared (lineBank (scratchAddr 5 64)) < 16 ∧ placeOf (accElem 7 3) = .acc 1 2 12
    ∧ s0.leavesSpared 7 < 64
    ∧ (let d := (3, 255, aTest true (frameErr 1)); let s := s0.setCust { s0.cust with deferred := [d] }
      s.cust.deferred.find? (fun d => d.1 == 3 && d.2.1 == 255) = some d) := by decide +kernel
/-- A request block at 0x800 that can be read, of each TYPE and of none; the states that allow it (R478, R479). -/
theorem wit_CustodianAccess : (∀ ty ∈ [0, 1, 2, 3, 4], (let s := (s0.putLE 0x800 1 ty).setReg (custReg 0x28) 0x800
      (s.authBlock.1.map (fun bs => (nth 0 bs 0).toNat)) = some ty))
    ∧ s0.security = 0 ∧ (s0.setBits (custReg 0x18) 1 0 1).security = 1 ∧ (s0.setBits (custReg 0x18) 1 0 2).security = 2
    ∧ (s0.setBits (custReg 0x18) 1 0 3).security = 3 ∧ s0.zeroize.cust.keys = true := by decide +kernel
/-- Debug levels 1 and 2, registers and memory in scope and out of it in P0, P2 and P3 (R479, R480, R483). -/
theorem wit_CustodianAccess_jtag : isRegister (placeOf (custReg 0x18)) = true ∧ custReg 0x18 % 8 = 0 ∧ s0.inScope (placeOf (custReg 0x18)) = true
    ∧ 1 ≤ (s0.setBits (custReg 0x18) 3 2 1).debugLevel ∧ isRegister (placeOf 0) = false ∧ placeOf 0 ≠ .bad ∧ s0.inScope (placeOf 0) = true
    ∧ s0.physOk (custReg 0x18) 8 false = true ∧ s0.physOk 0 8 false = true ∧ s0.inScope (.kmem 31 0) = true
    ∧ (s0.setReg (frontReg 0x110) 0x80000000).inScope (.kmem 31 0) = false ∧ (s0.setBits (custReg 0x38) 3 2 2).inScope (placeOf 0) = false
    ∧ (s0.setBits (custReg 0x38) 3 2 2).inScope (placeOf (custReg 0x18)) = true ∧ (s0.setBits (custReg 0x38) 3 2 3).inScope (placeOf (custReg 0x18)) = true := by
  decide +kernel

/-! ## Engines, front and custodian: one step each -/

/-- The lane 0 of what was sent. -/
def sentLane (s : State) : List Lane := s.net.map (fun f => nth 0 f.tok.lanes 0)
/-- Byte 64 reaches byte 0, and the completion says opcode 1, OK (R104, R329). -/
theorem test_cpLin : (let t := did (.cpLin linMsg) (heads linMsg (s0.putLE (scratchAddr 0 64) 8 0xAB)); t.byte (scratchAddr 0 0) = 0xAB ∧ sentLane t = [1]) := by
  decide +kernel
/-- Length 0 is BADARG (R329): status 3 in [15:8]. -/
theorem test_cpLin_empty : (let m := message 5 0 1 [scr 0, scr 64, 0]; sentLane (did (.cpLin m) (heads m s0)) = [0x301]) := by decide +kernel
/-- A fill of 4 bytes with a 16-bit pattern (R332). -/
theorem test_cpFill : (let m := message 5 0 6 [scr 0, 0x1234, 4 + 2 ^ 32]; let t := did (.cpFill m) (heads m s0)
    (t.byte (scratchAddr 0 2), t.byte (scratchAddr 0 3)) = (0x34, 0x12)) := by decide +kernel
/-- A zeroed accumulator element reads +0 (R286). -/
theorem test_poolZero : (let m := zeroMsg 3; (did (.poolZero m) (taken m 1 [1] (s0.putLE (accElem 0 3) 4 7))).readLE (accElem 0 3) 4 = 0) := by decide +kernel
/-- START 3 with CAP 3 is set; `pool.fence` completes at once with nothing earlier (R288, R316). -/
theorem test_ladStart : (let m := ladMsg 3; let t := did (.ladStart m) (heads m s0); (t.profile 0 0 0).start = 3 ∧ sentLane t = [0]) := by decide +kernel
/-- 1.0 · 2.0 = 2.0: a `bf16` weight 0x4000 (R353). -/
theorem test_stkGemv : (let m := gemvMsg 1; (did (.stkGemv m) (heads m (slotted ((paged s0).putLE 0x300000 2 0x4000)))).readLE 0x301000 4 = 0x40000000) := by
  decide +kernel
/-- A pin raises HOLD from 0 to 1; an unpin at 0 is BADARG (R399). -/
theorem test_pgPin : (let m := toPage (message 7 0 3 [0, 0]); (did (.pgPin m) (heads m (sided 0 (paged s0)))).holdCount 0x300000 = 1) := by decide +kernel
theorem test_pgUnpin : (let m := toPage (message 7 0 4 [0, 0]); sentLane (did (.pgUnpin m) (heads m (sided 0 (paged s0)))) = [0x304]) := by decide +kernel
/-- A signal adds 1 to 5 and answers with 5 before (R423). -/
theorem test_lnSignal : (let m := signals 0 0; (did (.lnSignal m) (heads m ((domained s0).putLE 0x300000 8 5))).readLE 0x300000 8 = 6) := by decide +kernel
/-- SIGNAL stores DATA and sends a notice to keeper 0 (R445). -/
theorem test_signal : (let c := cmd 2 [8, 77, (keeperDest 0).toNat, 0]; let t := did (.signal c) (ready c s0); t.readLE 8 8 = 77 ∧ t.net.length = 1) := by
  decide +kernel
/-- A command of a queue that is off is refused, and is never dispatched (R440). -/
theorem test_wait_head : did (.wait (cmd 1 [0])) s0 = s0 := by decide +kernel
/-- A LAUNCH binds its slot; one on a PART outside its partition does not (R108, R450). -/
theorem test_launch : ((did (.launch launchCmd) (ready launchCmd (parted s0))).contexts.find? 1).isSome = true
    ∧ ((did (.launch launchCmd) (ready launchCmd s0)).contexts.find? 1).isSome = false := by decide +kernel
/-- Gating a sector clears READY and sets GATE; with a live context it is refused (R466, R492). -/
theorem test_sectorGate : ((did (.sectorGate 31) (live s0)).reg (frontReg 0x110)).getLsbD 31 = true
    ∧ ((did (.sectorGate 0) (live s0)).reg (frontReg 0x110)).getLsbD 0 = false := by decide +kernel
/-- IDCODE (R479); a level above the highest permitted is ignored with LVLERR (R477). -/
theorem test_jtagIdcode : ((did .jtagIdcode s0).cust.answers.length = 1) ∧ ((did (.debugLevelWrite 1) s0).reg (custReg 0x18)).getLsbD 5 = true
    ∧ (did (.debugLevelWrite 1) s0).debugLevel = 0 := by decide +kernel
/-- 2,250 MHz falls to 2,175 above the power limit (R497). -/
theorem test_throttle : (let t := did (.clockThrottleStep { watts := 4095, die := 50, hbm := 50, inlet := 20 }) s0
    t.regBits (modReg 0x20) 11 0 = 2175 ∧ t.alert = true ∧ s0.alert = false) := by decide +kernel
/-- PLDM sets the power limit within 1,000 to 3,600 W (R498). -/
theorem test_pldm : ((did (.pldmSetEffecter 4000) s0).reg (modReg 8)) = 3600 ∧ ((did (.pldmSetEffecter 5) s0).reg (modReg 8)) = 1000 := by decide +kernel
/-- One wrong symbol of a line is put right when it is read, and STK.CE counts it (R362, R365). -/
theorem test_errorDetect : (let t := did (.errorDetect { source := 1, severity := 0, loc := 64, detail := 0, upset := [9] }) (s0.putLE 64 8 5)
    t.byte 64 = 5 ∧ t.reg (stackReg 0 0x10) = 1 ∧ t.reg (stackReg 0 0x18) = 0 ∧ t.noUpsets = true) := by decide +kernel
end Sys2Proof.Tests
end

section
/-! O45: what the spill unit, the disposal of parked activations and a write of a sector register do. -/

namespace Sys2Proof.Machine

/-! ## The numbered list -/

/-- The model's numbering of a list is the library's `zipIdx`, number first. -/
theorem indexed_eq_zipIdx {α : Type} (n : Nat) (xs : List α) : indexed n xs = (xs.zipIdx n).map Prod.swap := by
  induction xs generalizing n with
  | nil => rfl
  | cons x xs ih => simp [indexed, ih]

theorem getElem?_indexed {α : Type} (xs : List α) (k : Nat) : (indexed 0 xs)[k]? = xs[k]?.map (fun x => (k, x)) := by
  simp [indexed_eq_zipIdx, Function.comp_def]

/-- The first entry of a list that passes a test is the one that `find?` finds in its numbering. -/
theorem find?_indexed_eq_some {α : Type} {p : Nat × α → Bool} {xs : List α} {k : Nat} {x : α} (hk : xs[k]? = some x)
    (hp : p (k, x) = true) (hfirst : ∀ j y, j < k → xs[j]? = some y → p (j, y) = false) :
    (indexed 0 xs).find? p = some (k, x) := by
  have at_ {j : Nat} {y : α} (h : xs[j]? = some y) : (indexed 0 xs)[j]? = some (j, y) := by rw [getElem?_indexed, h]; rfl
  obtain ⟨hlt, hget⟩ := List.getElem?_eq_some_iff.mp (at_ hk)
  refine List.find?_eq_some_iff_getElem.mpr ⟨hp, k, hlt, hget, fun j hj => ?_⟩
  have hlen : (indexed 0 xs).length = xs.length := by simp [indexed_eq_zipIdx]
  have hjx : xs[j]? = some xs[j] := List.getElem?_eq_getElem (by omega)
  obtain ⟨_, hgetj⟩ := List.getElem?_eq_some_iff.mp (at_ hjx)
  rw [hgetj, hfirst j _ hj hjx, Bool.not_false]

/-! ## Records of the spill unit (R42 to R45) -/

/-- SPILL_RECORD_STORE takes the oldest token that has come (R42). -/
theorem exec_spillRecordStore {s : State} {ps : Nat} {r : Spilled} {rest : List Spilled} (h : (s.spill ps).arriving = r :: rest) :
    exec (.spillRecordStore ps) s = .next (((s.setSpill ps { s.spill ps with
      arriving := rest, records := (s.spill ps).records ++ [r] }).writeRecord ps r).noteHigh ps) := by
  change execSpillRecordStore ps s = _
  simp only [execSpillRecordStore, h, ok]

/-- SPILL_REINJECT presents a cell's oldest record of the area in the cell's turn (R45). -/
theorem exec_spillReinject {s : State} {ps ci : Nat} {r : Spilled} (turn : s.spillTurn ps ci = true)
    (h : s.lowRecord ps ci = some r) : exec (.spillReinject ps ci) s = .next (presentedAgain s ps r) := by
  change execSpillReinject ps ci s = _
  simp only [execSpillReinject, turn, h, if_true]
  rfl

/-- SPILL_PROBE notes the record that it presents as the cell's last one probed (R45). -/
theorem exec_spillProbe {s : State} {ps ci : Nat} {r : Spilled} (turn : s.spillTurn ps ci = true)
    (h : s.probeRecord ps ci = some r) : exec (.spillProbe ps ci) s = .next
      (presentedAgain (s.setSpill ps { s.spill ps with probe := Tab.set (s.spill ps).probe ci r }) ps r) := by
  change execSpillProbe ps ci s = _
  simp only [execSpillProbe, turn, h, if_true]
  rfl

/-- OVERFLOW_CHUNK_RETURN gives `nextOut`'s record the place in the area where it fits (R43). -/
theorem exec_overflowChunkReturn {s : State} {ps a : Nat} {r : Spilled} (h : nextOut s ps = some r)
    (ha : s.areaPlace ps r.tok.ctx r.tok.imageSize = some a) :
    exec (.overflowChunkReturn ps) s = .next (((s.setSpill ps { s.spill ps with
      records := (s.spill ps).records.map (fun x => if x.order = r.order then { r with chunk := none, addr := a } else x) }).writeRecord ps
        { r with chunk := none, addr := a }).noteHigh ps) := by
  change execOverflowChunkReturn ps s = _
  have fuse (p q : Spilled → Bool) (xs : List Spilled) : (xs.filter p).filter q = xs.filter (fun x => p x && q x) := by
    simp only [List.filter_filter, Bool.and_comm]
  rw [nextOut, ← fuse] at h
  simp only [execOverflowChunkReturn, h, ha, ok, Option.getD_some]

/-- OVERFLOW_ROOM_FREED takes the first token on its way that finds room (R44). -/
theorem exec_overflowRoomFreed {s : State} {ps k : Nat} {f : Flight} (hk : s.net[k]? = some f) (room : findsRoom s ps k f = true)
    (hfirst : ∀ j g, j < k → s.net[j]? = some g → findsRoom s ps j g = false) :
    exec (.overflowRoomFreed ps) s = .next (State.receive 40 (s.landed k) (dCell f.tok.dest) f.tok false).2 := by
  change execOverflowRoomFreed ps s = _
  have found : (indexed 0 s.net).find? (fun e => findsRoom s ps e.1 e.2) = some (k, f) := find?_indexed_eq_some hk room hfirst
  simp only [findsRoom] at found
  simp only [execOverflowRoomFreed, List.find?_filter, Bool.decide_and, Bool.decide_eq_true, found, ok]

/-! ## Writes of sector registers (R6, R7) -/

/-- No sector register waits for the firmware (R471). -/
@[simp] theorem State.closed_sreg (s : State) (ps u off : Nat) : s.closed (.sreg ps u off) = false := rfl

/-- A write of a sector register: the masked write, then the register's action as the next step. -/
theorem regWrite_sreg {s : State} {pa ps u off : Nat} (v : Word) (hp : placeOf pa = .sreg ps u off) :
    s.regWrite pa v =
      let m := regMask (.sreg ps u off)
      let t := if m.1 = 0 ∧ m.2 = 0 then s else
        s.setReg pa (BitVec.ofNat 64 (maskedWrite (s.reg pa).toNat m.1 m.2 (s.clampWrite (.sreg ps u off) v.toNat)))
      { t with inputs := (match s.regAction (.sreg ps u off) v with | some i => [.event i] | none => []) ++ t.inputs,
               free := t.free + 4 } := by
  rw [State.regWrite, hp]
  rfl

/-- Settles O45: one lemma for each row of the spill unit; SEC.PARK's rows are `State.dispose` itself, and no sector register is closed. -/
theorem fabricSpill : Obligations.FabricSpill := by
  unfold Obligations.FabricSpill
  refine ⟨fun _ _ _ _ => exec_spillRecordStore, fun _ _ _ _ turn => ⟨exec_spillReinject turn, exec_spillProbe turn⟩,
    fun _ _ _ _ => exec_overflowChunkReturn, fun _ _ _ _ => exec_overflowRoomFreed, fun _ _ _ => ⟨rfl, rfl⟩,
    fun s pa ps u off v hp => ⟨fun closed => ?_, fun _ => ?_⟩⟩
  · simp at closed
  · exact congrArg Host.Outcome.next (regWrite_sreg v hp)

end Sys2Proof.Machine
end

section
/-! O7: what a turn taken from the inputs runs, and the beats that the passing of time moves. -/

namespace Sys2Proof.Machine

/-! ## Turns from the inputs (R40, R54, R439) -/

/-- The oldest input is the turn that a powered module runs. -/
theorem step_of_inputs {s : State} {t : Turn} {ts : List Turn} (hp : s.power = .on) (hi : s.inputs = t :: ts) :
    step s = runTurn t { s with inputs := ts } := by
  have hnext : nextTurn s = (t, { s with inputs := ts }) := by rw [nextTurn, hi]
  simp [step, hnext, hp]

/-- The passing of `n` clk moves time on, brings the injection ports into the switch, and then runs the switch for those clk (R17, R20). -/
theorem step_pass {s : State} {n : Nat} {ts : List Turn} (hp : s.power = .on) (hi : s.inputs = .pass n :: ts) :
    step s = .next ((({ s with inputs := ts }.pass n).portsMove.switchFor n).noteReady) := by
  rw [step_of_inputs hp hi]
  rfl

/-! ## The counterexample -/

/-- A module at reset with one token about to leave cell 0 for its neighbour, when one clk passes. -/
def beatWaits : State :=
  { State.reset with
    inputs := [.pass 1]
    net := [{ src := cellDest 0 0 0, tok := { Token.zero with dest := cellDest 1 0 0 }, pos := 0 }] }

/-- That module once time has moved on and the injection ports have been emptied, the switch not yet run. -/
def beatDue : State := ({ beatWaits with inputs := [] }.pass 1).portsMove

/-- One clk of the switch moves the token by a beat. -/
theorem switchFor_beatDue : (beatDue.switchFor 1).net.map (·.pos) = [1] ∧ beatDue.net.map (·.pos) = [0] := by
  decide +kernel

/-- Refutes O7: its last clause leaves out the switch. When one clk passes, the token of `beatWaits` moves on by a beat. -/
theorem not_stepRunsOtherTurns : ¬ Obligations.StepRunsOtherTurns := by
  unfold Obligations.StepRunsOtherTurns
  rintro ⟨_, _, _, _, pass⟩
  have same : (beatDue.switchFor 1).noteReady = beatDue.noteReady :=
    Host.Outcome.next.inj ((step_pass rfl rfl).symm.trans (pass beatWaits 1 [] rfl rfl))
  have beats : (beatDue.switchFor 1).net.map (·.pos) = beatDue.net.map (·.pos) :=
    congrArg (fun u : State => u.net.map (·.pos)) same
  rw [switchFor_beatDue.1, switchFor_beatDue.2] at beats
  exact absurd beats (by decide)

end Sys2Proof.Machine
end

section
/-! O37: a worker's node with a fault-flagged operand faults instead of running; without a firing it does nothing. -/

namespace Sys2Proof.Machine

/-! ## Nodes as firings (R26, R69) -/

/-- The instruction is a worker's or guard's node: all that it does it does to the firing on the datapath. -/
def IsFiringNode (i : Instr) : Prop := ∃ g, ∀ s, exec i s = .next (s.fire g)

/-- With no firing on the datapath a node does nothing. -/
theorem fire_of_issue_none {s : State} (h : s.issue = none) (g : Firing → State → State) : s.fire g = s := by
  simp only [State.fire, State.fireOr, h]

/-- A fault-flagged operand faults the firing with the code it carries, and the node's meaning does not run (R26, R69). -/
theorem fire_of_faultOf {s : State} {f : Firing} {x : Token} (hi : s.issue = some f) (hd : s.regBits (custReg 0x18) 3 2 = 0)
    (hx : f.faultOf = some x) (g : Firing → State → State) :
    s.fire g = ((fired s []).withdraw f).fireRecord f f.tag x.aux.toNat [] := by
  have hd' : ({ s with issue := none } : State).regBits (custReg 0x18) 3 2 = 0 := hd
  simp only [State.fire, State.fireOr, hi, watch_off _ hd', Bool.false_eq_true, if_false, hx, State.faultFiring, fired, List.append_nil]

/-! ## Which instructions are nodes (R168 to R187, R190, R196 to R200, R221) -/

/-- The worker's integer nodes and the nodes that emit one token without a flag: each row of the tables is a firing's meaning. -/
theorem isFiringNode_plain : ∀ i ∈ integerNodes.map (·.1) ++ plainNodes.map (·.1), IsFiringNode i := by
  simp only [integerNodes, plainNodes, List.cons_append, List.nil_append, List.map, List.forall_mem_cons, List.not_mem_nil,
    false_imp_iff, implies_true, and_true]
  and_intros <;> exact ⟨_, fun _ => rfl⟩

/-- The worker's float nodes. -/
theorem isFiringNode_float : ∀ i ∈ floatDyads.map (·.1) ++ floatMonads.map (·.1), IsFiringNode i := by
  simp only [floatDyads, floatMonads, List.cons_append, List.nil_append, List.map, List.forall_mem_cons, List.not_mem_nil,
    false_imp_iff, implies_true, and_true]
  and_intros <;> exact ⟨_, fun _ => rfl⟩

/-- The conversions, packed operations, reductions, bitmap nodes and frame accesses, `sink` and `rot.st`. -/
theorem isFiringNode_run : ∀ i ∈ [Instr.ffma, .cvtF, .cvtFi, .cvtIf, .pack, .unpack, .padd, .pmul, .pdot, .pmax, .rsum, .rmax, .rmin,
    .rprefix, .band, .bor, .bexp, .isect, .sld, .sst, .sink, .rotSt], IsFiringNode i := by
  simp only [List.forall_mem_cons, List.not_mem_nil, false_imp_iff, implies_true, and_true]
  and_intros <;> exact ⟨_, fun _ => rfl⟩

/-- Settles O37: each listed instruction is a firing node, and a node's firing faults on a fault-flagged operand and is none without
a firing on the datapath. -/
theorem faultedOperandNotComputed : Obligations.FaultedOperandNotComputed := by
  unfold Obligations.FaultedOperandNotComputed
  have plain : ∀ i ∈ integerNodes.map (·.1) ++ plainNodes.map (·.1) ++ floatDyads.map (·.1) ++ floatMonads.map (·.1),
      IsFiringNode i := by
    rw [List.append_assoc]
    exact List.forall_mem_append.mpr ⟨isFiringNode_plain, isFiringNode_float⟩
  refine ⟨fun i hi s f x issued level0 faulted _ => ?_, fun i hi s idle => ?_⟩
  · obtain ⟨g, hg⟩ := List.forall_mem_append.mpr ⟨plain, isFiringNode_run⟩ i hi
    rw [hg, fire_of_faultOf issued level0 faulted]
  · obtain ⟨g, hg⟩ := plain i hi
    rw [hg, fire_of_issue_none idle]

end Sys2Proof.Machine
end

section
/-! O44: a token's arrival at a cell, an inbox or a keeper, the forwarding of drains, and the return of drains and markers. -/

namespace Sys2Proof.Machine

/-! ## Pieces of a run that lies in no parked activation (R69) -/

/-- A run whose lanes all have one value is one piece. -/
theorem piecesBy_of_const {α : Type} [DecidableEq α] {p : Nat → α} {c : α} {n : Nat} (hn : 0 < n) (h : ∀ j, j < n → p j = c) :
    piecesBy p n = [(0, n, c)] := by
  obtain ⟨m, rfl⟩ : ∃ m, n = m + 1 := ⟨n - 1, by omega⟩
  induction m with
  | zero => simp [piecesBy, upTo, List.range_succ, h 0 hn]
  | succ m ih =>
    have before := ih (by omega) fun j hj => h j (by omega)
    rw [piecesBy, List.reverse_eq_iff] at before
    rw [piecesBy, show upTo (m + 1 + 1) = upTo (m + 1) ++ [m + 1] from List.range_succ, List.foldl_append, before]
    simp [h (m + 1) (by omega)]

/-- A tag that lies in no parked activation of a cell lies in none of its parked units. -/
theorem unitOf_of_not_parked {s : State} {ci : Nat} {ctx : BitVec 12} {tag : Word} (h : s.isParked ci ctx tag = false) :
    s.unitOf ci ctx tag = none := by
  refine List.find?_eq_none.mpr fun i _ => ?_
  cases hi : (s.cell ci).parkedActs[i]? with
  | none => simp
  | some p => simpa using List.any_eq_false.mp h p (List.mem_of_getElem? hi)

/-- A node's level is that of its record in the plane that receives the token. -/
theorem levelOf_of_find? {c : Cell} {ctx : BitVec 12} {node : Nat} {cfg : Node} (h : (c.planeFor ctx).nodes.find? node = some cfg) :
    c.levelOf ctx node = cfg.level := by
  rw [Cell.levelOf, h]

/-- A token none of whose lanes lies in a parked activation stays whole. -/
theorem parkPieces_of_not_parked {s : State} {ci : Nat} {tok : Token} {cfg : Node}
    (hcfg : ((s.cell ci).planeFor tok.ctx).nodes.find? (dNode tok.dest) = some cfg) (hlen : 0 < tok.runLen)
    (h : ∀ j, j < tok.runLen → s.isParked ci tok.ctx (laneTag (s.shape tok.ctx) cfg.level tok.tag j) = false) :
    s.parkPieces ci (dNode tok.dest) tok = [(tok, false)] := by
  rw [State.parkPieces, levelOf_of_find? hcfg, piecesBy_of_const hlen fun j hj => unitOf_of_not_parked (h j hj)]
  simp

/-! ## Admission of a well-formed token at a configured node (R36) -/

section Admission

variable {s : State} {ci : Nat} {tok : Token} {cfg : Node} (reinj : Bool) (fuel : Nat)
  (admits : s.overlaid ci tok.ctx = false)
  (node : ((s.cell ci).planeFor tok.ctx).nodes.find? (dNode tok.dest) = some cfg)
  (sound : streamBad (kindOf ci) (some cfg) tok = false)
include admits node sound

/-- At port z a data token is written to the slot, and an empty run is dropped. -/
theorem receive_slot (port : dPort tok.dest = 2) : State.receive (fuel + 1) s ci tok reinj = ([], if tok.empty then s else
    s.slotWrite ci (cfg.fields.lit.toNat % 256) cfg.level tok.ctx tok.tag tok.lanes tok.poison) := by
  simp only [State.receive, State.receiveAs, admits, node, sound, port, Bool.false_eq_true, if_false, if_true]
  split <;> rfl

/-- At a node that matches nothing a whole token is ready as a firing. -/
theorem receive_ready (port : dPort tok.dest ≠ 2) (whole : s.parkPieces ci (dNode tok.dest) tok = [(tok, false)])
    (single : cfg.fields.arity = 0 ∨ cfg.fields.arity = 2 ∨ cfg.opcode = 0x102) :
    State.receive (fuel + 1) s ci tok reinj = ([], s.makeReady ci (dNode tok.dest) cfg tok none (dPort tok.dest) reinj) := by
  simp only [State.receive, State.receiveAs, admits, node, sound, port, whole, single, Bool.false_eq_true, if_false, if_true]

/-- At a port of a dyadic node where no waiting run meets it, a whole token takes the entry that R41 finds for it. -/
theorem receive_entry {l : Nat} {u : State} (port : dPort tok.dest ≠ 2)
    (whole : s.parkPieces ci (dNode tok.dest) tok = [(tok, false)])
    (dyadic : ¬(cfg.fields.arity = 0 ∨ cfg.fields.arity = 2 ∨ cfg.opcode = 0x102))
    (other : s.waiting ci tok (dNode tok.dest) (1 - dPort tok.dest) cfg.level = none)
    (same : s.waiting ci tok (dNode tok.dest) (dPort tok.dest) cfg.level = none)
    (room : (s.nextOrder ci).2.makeRoom ci tok reinj = (.entry l, u)) :
    State.receive (fuel + 1) s ci tok reinj =
      ([], u.addEntry ci l tok (dNode tok.dest) (dPort tok.dest) (s.cell ci).arrivals false) := by
  simp only [State.receive, State.receiveAs, admits, node, sound, port, whole, dyadic, other, same, room, Bool.false_eq_true, if_false,
    Option.filter_none]
  rfl

end Admission

/-! ## A flight that arrives (R19, R29, R36, R57, R152) -/

section Arrival

variable {s : State} {k : Nat} {f : Flight} (may : s.mayArrive k = true) (flight : s.net[k]? = some f)
include may flight

/-- A token that cannot be delivered returns to its sender (R29). -/
theorem exec_tokenArrival_unroutable (lost : s.unroutable f.tok.dest = true) (h7 : f.tok.cls ≠ 7) :
    exec (.tokenArrival k) s = .next ((s.landed k).returnToken f.src f.tok) := by
  change execTokenArrival k s = _
  simp only [execTokenArrival, may, flight, lost, h7, false_and, if_true, if_false, ok]

/-- A drain closes its channel at the cell (R52). -/
theorem exec_tokenArrival_drain (found : s.unroutable f.tok.dest = false) (kind : dKind f.tok.dest = 1) (h2 : f.tok.cls = 2)
    (h0 : nth 0 f.tok.lanes 0 = 0) : exec (.tokenArrival k) s = .next ((s.landed k).drainArrives (dCell f.tok.dest) f.src f.tok) := by
  change execTokenArrival k s = _
  simp only [execTokenArrival, may, flight, found, kind, h2, h0, Bool.false_eq_true, if_true, if_false, and_self, ok]

/-- A token that its cell has room for is received there (R36). -/
theorem exec_tokenArrival_received {t : State} (found : s.unroutable f.tok.dest = false) (kind : dKind f.tok.dest = 1)
    (h2 : f.tok.cls ≠ 2) (taken : State.receive 40 (s.landed k) (dCell f.tok.dest) f.tok false = ([], t)) :
    exec (.tokenArrival k) s = .next t := by
  change execTokenArrival k s = _
  simp only [execTokenArrival, may, flight, found, kind, h2, taken, Bool.false_eq_true, false_and, if_true, if_false, ok]

/-- A message of a permitted class waits in its inbox (R54). -/
theorem exec_tokenArrival_inbox (found : s.unroutable f.tok.dest = false) (kind : dKind f.tok.dest = 2)
    (permitted : inboxClassOk f.tok.dest f.tok = true) :
    exec (.tokenArrival k) s = .next ((s.landed k).pushInbox (inboxKey f.tok.dest) f.tok) := by
  change execTokenArrival k s = _
  simp only [execTokenArrival, may, flight, found, kind, permitted, Bool.false_eq_true, if_true, if_false, ok]

/-- A token of a class that its inbox does not permit is held with a STREAM record (R28). -/
theorem exec_engineInboxStreamFault (found : s.unroutable f.tok.dest = false) (kind : dKind f.tok.dest = 2)
    (refused : inboxClassOk f.tok.dest f.tok = false) :
    exec (.engineInboxStreamFault k) s = .next ((s.landed k).holdStream (engineSector f.tok.dest) f.tok) := by
  change execEngineInboxStreamFault k s = _
  simp only [execEngineInboxStreamFault, may, flight, found, kind, refused, Bool.not_false, and_self, if_true, ok]

/-- A token that is no drain enters its keeper's event queue where there is room (R57). -/
theorem exec_eventQueueArrival (found : s.unroutable f.tok.dest = false) (kind : dKind f.tok.dest = 3) (h2 : f.tok.cls ≠ 2)
    (permitted : keeperClassOk f.tok = true) (room : s.eventRoom (dSector f.tok.dest) f.tok = true) :
    exec (.eventQueueArrival k) s = .next ((s.landed k).pushEvent (dSector f.tok.dest) f.tok) := by
  change execEventQueueArrival k s = _
  simp only [execEventQueueArrival, may, flight, found, kind, beq_false_of_ne h2, permitted, room, Bool.false_and, Bool.not_false,
    and_self, if_true, ok]

/-- A drain at a keeper whose tile-task has not ended is counted for it (R152). -/
theorem exec_drainCount (found : s.unroutable f.tok.dest = false) (kind : dKind f.tok.dest = 3) (h2 : f.tok.cls = 2)
    (h0 : nth 0 f.tok.lanes 0 = 0) (running : s.regBits (secReg (dSector f.tok.dest) 0 0x48) 16 16 = 0) :
    exec (.drainCount k) s = .next (((s.landed k).bumpBits (secReg (dSector f.tok.dest) 0 0x48) 15 0 1).tileEnd (dSector f.tok.dest)) := by
  change execDrainCount k s = _
  have running' : (s.landed k).regBits (secReg (dSector f.tok.dest) 0 0x48) 16 16 = 0 := running
  simp only [execDrainCount, may, flight, found, kind, h2, h0, running', Bool.not_false, and_self, if_true, zero_ne_one, if_false, ok]

end Arrival

/-! ## Drains that a cell forwards (R67, R217, R218) -/

/-- Drains sent by a cell on some channels put their flights on the switch, in order. -/
theorem foldl_send_drainToken (src : Dest) (ps : Nat) (ds : List Dest) (s : State) :
    ds.foldl (fun t d => t.send src (drainToken ps d)) s
      = { s with net := s.net ++ ds.flatMap (fun d => flightTo src d (drainToken ps d)) } := by
  induction ds generalizing s with
  | nil => simp
  | cons d ds ih =>
    have first : s.send src (drainToken ps d) = { s with net := s.net ++ flightTo src d (drainToken ps d) } := 
      send_flightTo s src d (drainToken ps d)
    rw [List.foldl_cons, first, ih]
    simp [List.append_assoc]

/-- A cell whose drains are in and which holds no token sends its own drains and switches planes. -/
theorem exec_drainForward {s : State} {ci : Nat} (may : s.mayForward ci = true) (chans : (s.cell ci).active.channels ci ≠ [])
    (held : (s.cell ci).ctrl.filter (fun e => e.kind == .waitDrain) = []) :
    exec (.drainForward ci) s = .next (({ s with
      net := s.net ++ (((s.cell ci).active.channels ci).filter (fun d => !(s.cell ci).drained.contains (unitKey d))).flatMap
        (fun d => flightTo (cellDest ci 0 0) d (drainToken (sectorOf ci) d)) } : State).setCell ci
          { (s.cell ci).switch with drainsIn := [], drained := [] }) := by
  change execDrainForward ci s = _
  simp only [execDrainForward, may, held, List.isEmpty_eq_false_iff.mpr chans, foldl_send_drainToken, Bool.false_eq_true, if_true,
    if_false, List.map_nil, List.foldl_nil, ok]
  rfl

/-! ## What engines return (R67, R220) -/

/-- An engine returns the drain that heads its inbox to the keeper of the sector it names. -/
theorem exec_engineDrainReturn {s : State} {d : Dest} {m : Token} (h : s.headMark d 0 = some m) :
    exec (.engineDrainReturn d) s = .next ((s.popInbox (inboxKey d)).send (portOf m.dest)
      { m with dest := keeperDest (m.aux.toNat % 32) }) := by
  change execEngineDrainReturn d s = _
  simp only [execEngineDrainReturn, h, ok]

/-- An engine returns the fence marker that heads its inbox to the destination in its lane 1. -/
theorem exec_fenceMarkerReturn {s : State} {d : Dest} {m : Token} (h : s.headMark d 1 = some m) :
    exec (.fenceMarkerReturn d) s = .next ((s.popInbox (inboxKey d)).send (portOf m.dest)
      { m with dest := (nth 0 m.lanes 1).extractLsb' 0 21, cls := 6, len := 1, aux := 0, lanes := [0] }) := by
  change execFenceMarkerReturn d s = _
  simp only [execFenceMarkerReturn, h, ok]

/-- Settles O44: at a cell by how the token is admitted at its node, elsewhere by one lemma for each row; the switch that the flight
has left holds the same cells and contexts. -/
theorem fabricArrivals : Obligations.FabricArrivals := by
  unfold Obligations.FabricArrivals
  refine ⟨?cell, ?unit, ?forward, fun s d m => ⟨exec_engineDrainReturn, exec_fenceMarkerReturn⟩⟩
  case cell =>
    intro s k ci f cfg may flight found kind hci cls admits node sound hlen
    subst hci
    have noDrain : f.tok.cls ≠ 2 := by rintro h; simp [h] at cls
    have taken {t : State} := exec_tokenArrival_received (t := t) may flight found kind noDrain
    have whole := parkPieces_of_not_parked (s := s.landed k) node hlen
    refine ⟨fun port free single => ?_, fun l u n port free h0 h2 hm other same hn room => ?_, fun port => ?_⟩
    · exact taken (receive_ready _ 39 admits node sound port (whole free) single)
    · subst hn
      have dyadic := not_or.mpr ⟨h0, not_or.mpr ⟨h2, hm⟩⟩
      exact taken (receive_entry (s := s.landed k) _ 39 admits node sound (by omega) (whole free) dyadic other same room)
    · exact taken (receive_slot _ 39 admits node sound port)
  case unit =>
    intro s k f may flight
    exact ⟨exec_tokenArrival_unroutable may flight, exec_tokenArrival_drain may flight, exec_tokenArrival_inbox may flight,
      exec_engineInboxStreamFault may flight, exec_eventQueueArrival may flight, exec_drainCount may flight⟩
  case forward =>
    intro s ci may chans held
    refine ⟨_, exec_drainForward may chans held, rfl, ?_, rfl, fun c hc => ?_⟩
    · simp
    · rw [State.cell_setCell, if_neg (Ne.symm hc)]; rfl

end Sys2Proof.Machine
end

section
/-! O49: a pool's drains by each route, the writes and commands that waited on a hold, and the block-sparse walk. -/

namespace Sys2Proof.Machine

/-! ## A steered drain at its position (R264, R284, R285) -/

/-- A steered drain that stands at its sequence position and whose pool's port is free. -/
def DrainDue (s : State) (pl id : Nat) (d : PoolDrain) : Prop :=
  (s.pool pl).drain? id = some d ∧ d.phase = 1 ∧ s.poolPort pl = false ∧ (s.pool pl).drainBefore d = false
    ∧ s.lowerPass pl d.seq (regionMask d.region) = false ∧ s.lowerRegion pl d.seq (regionMask d.region) = false

/-- The route entry that a drain names, as it stands. -/
def State.drainRoute (s : State) (pl : Nat) (d : PoolDrain) : Nat := (s.reg (poolReg pl (8 * d.ridx))).toNat

/-- A drain that has taken its route entry and read its rows. -/
def State.drainRead (s : State) (pl : Nat) (d : PoolDrain) : PoolDrain :=
  { d with route := s.drainRoute pl d, rows := (upTo d.region.2.2.1).map (s.drainRow pl d), next := 0 }

/-- The machine once a drain has read its rows: the region is zeroed if the drain asks for it. -/
def State.drainTaken (s : State) (pl : Nat) (d : PoolDrain) : State :=
  (if d.zero then s.zeroRegion pl d.region else s).busyClk pl

/-- What a drain leaves by the kind of its route: tokens to a destination, rows for the copy engine, or scratchpad rows. -/
def State.drainByKind (s : State) (pl : Nat) (d : PoolDrain) : Nat → State
  | 1 =>
    let d1 := s.drainRead pl d
    ((drainTokens ((s.drainTaken pl d).shape d.msg.ctx) d1 (BitVec.ofNat 21 (bits (s.drainRoute pl d) 20 0))
      (s.drainLanes d1).length 0 (s.drainLanes d1)).foldl (fun u x => u.send (engineDest (pl / 40) (pl / 5 % 8) (pl % 5) 0) x)
        (s.drainTaken pl d)).endDrain pl d1 d1.status 0
  | 2 => (s.drainTaken pl d).putDrain pl { s.drainRead pl d with phase := 2 }
  | _ => State.scratchRows pl ((s.drainRead pl d).rows.length + 1) (s.drainTaken pl d) (s.drainRead pl d)

/-- A drain at its position ends with the status of a route entry it may not use, and else delivers by the entry's kind. -/
theorem exec_poolDrainPerform {s : State} {pl id : Nat} {d : PoolDrain} (due : DrainDue s pl id d) :
    exec (.poolDrainPerform pl id) s = .next (
      if routeStatus d (s.drainRoute pl d) ≠ sOK then s.endDrain pl d (routeStatus d (s.drainRoute pl d)) 0
      else s.drainByKind pl d (bits (s.drainRoute pl d) 63 62)) := by
  obtain ⟨found, steered, port, first, pass, region⟩ := due
  change execPoolDrainPerform pl id s = _
  have performed : ¬(d.phase ≠ 1 ∨ s.poolPort pl = true ∨ (s.pool pl).drainBefore d = true
      ∨ s.lowerPass pl d.seq (regionMask d.region) = true ∨ s.lowerRegion pl d.seq (regionMask d.region) = true) := by
    simp [steered, port, first, pass, region]
  simp only [execPoolDrainPerform, found, performed, if_false]
  rfl

/-- A drain at its position whose route entry it may not use ends with that status. -/
theorem exec_poolDrainPerform_refused {s : State} {pl id : Nat} {d : PoolDrain} (due : DrainDue s pl id d)
    (bad : routeStatus d (s.drainRoute pl d) ≠ 0) :
    exec (.poolDrainPerform pl id) s = .next (s.endDrain pl d (routeStatus d (s.drainRoute pl d)) 0) := by
  rw [exec_poolDrainPerform due, if_pos (show _ ≠ sOK from bad)]

/-- A drain at its position with a good route entry delivers by the entry's kind. -/
theorem exec_poolDrainPerform_delivers {s : State} {pl id k : Nat} {d : PoolDrain} (due : DrainDue s pl id d)
    (good : routeStatus d (s.drainRoute pl d) = 0) (kind : bits (s.drainRoute pl d) 63 62 = k) :
    exec (.poolDrainPerform pl id) s = .next (s.drainByKind pl d k) := by
  rw [exec_poolDrainPerform due, if_neg (not_not.mpr (show _ = sOK from good)), kind]

/-! ## A chunk of a copy command (R322, R327, R339) -/

/-- The progress with which a copy command's first chunk begins, as `chunkStart` gives it, and the machine then. -/
theorem chunkStart_eq (w : State) (h : CopyRun) (lin : Bool) (all : List Flow) :
    chunkStart w h lin all =
      (let both := w.sharedBytes (all.flatMap (fun f => f.srcs)) (all.map (fun f => f.dst))
       (if h.begun then h
        else if lin then { h with begun := true, own := (indexed 0 both).map (fun e => (e.2.1, h.either (w.free + e.1) e.2.1 e.2.2)) }
        else { h with begun := true, shared := h.shared ++ both },
        if lin && !h.begun && !h.shared.isEmpty then { w with free := w.free + both.length } else w)) := by
  unfold chunkStart
  cases h.begun <;> cases lin <;> cases h.shared.isEmpty <;> rfl

/-- A chunk that moves: the command goes on, ends by `next` after its last chunk, or ends by `fail` (R322, R327). -/
def State.chunkMoved (w : State) (m : Token) (ps : Nat) (r : CopyRun) (pieces : List Piece) (fs : List Flow)
    (fail : Nat → Nat → CopyRun → State → State) (next : CopyRun → State → State) : State :=
  match w.moveChunk r fs with
  | ((0, n, bad), x) =>
    if pieces.any (fun p => decide (r.chunk + 1 ≤ chunkOf p.pos)) then (x.bump (secReg ps 6 0x08) n).keepRun m (chunkDone r n bad)
    else next (chunkDone r n bad) (x.bump (secReg ps 6 0x08) n)
  | ((c, _, _), x) => fail c (64 * r.chunk) r x

/-- A chunk that has its holds: it waits for a ladder hold or in the sector's port, or moves (R225, R313). -/
def chunkHeld (m : Token) (ps : Nat) (lin : Bool) (pieces : List Piece) (all fs : List Flow)
    (fail : Nat → Nat → CopyRun → State → State) (next : CopyRun → State → State) (h : CopyRun) (w : State) : State :=
  match w.heldFlow fs with
  | some f => (w.keepRun m h).waitLad m f.dst.pa f.dst.n [] h.holds
  | none =>
    if w.portWaits ps (flowReaches fs) then w.keepRun m h
    else (chunkStart w h lin all).2.chunkMoved m ps (chunkStart w h lin all).1 pieces fs fail next

/-- A chunk whose addresses are found takes its holds. -/
theorem copyPart_of_resolved {v t u : State} {m : Token} {ps : Nat} {r : CopyRun} {lin : Bool} {pieces : List Piece} {all fs : List Flow}
    {fail : Nat → Nat → CopyRun → State → State} {next : CopyRun → State → State}
    (start : (if r.begun then ((.ok [] : Except (Nat × Nat) (List Flow)), v) else v.resolve ps m.ctx r.asid pieces) = (.ok all, t))
    (chunk : t.resolve ps m.ctx r.asid (pieces.filter (fun p => p.pos / 64 == r.chunk)) = (.ok fs, u)) :
    v.copyPart m ps r lin pieces fail next =
      u.runHolds m r (flowFrames (all ++ fs)) (chunkHeld m ps lin pieces all fs fail next) := by
  simp only [State.copyPart, start, chunkOf, chunk]
  congr 1
  funext h w
  rw [chunkHeld, chunkStart_eq]
  rfl

/-- `copyPart` leaves what `ChunkGives` says of a copy command's next chunk. -/
theorem copyPart_chunkGives (v : State) (m : Token) (ps : Nat) (r : CopyRun) (lin : Bool) (pieces : List Piece)
    (fail : Nat → Nat → CopyRun → State → State) (next : CopyRun → State → State) :
    ChunkGives v m ps r lin pieces fail next (v.copyPart m ps r lin pieces fail next) := by
  refine ⟨fun c pos t fresh bad => ?_, fun all t fs u start chunk => ?_⟩
  · simp only [State.copyPart, fresh, bad, Bool.false_eq_true, if_false]
  rw [copyPart_of_resolved start chunk]
  refine ⟨fun h f rest w full => ?_, fun h w taken => ?_⟩
  · simp only [State.runHolds, full]
  have held : u.runHolds m r (flowFrames (all ++ fs)) (chunkHeld m ps lin pieces all fs fail next)
      = chunkHeld m ps lin pieces all fs fail next { r with holds := h } w := by simp only [State.runHolds, taken]
  rw [held]
  refine ⟨fun f lad => ?_, fun free waits => ?_, fun free clear r1 w1 begins => ?_⟩
  · simp only [chunkHeld, lad]
  · simp only [chunkHeld, free, waits, if_true]
  have moves : chunkHeld m ps lin pieces all fs fail next { r with holds := h } w = w1.chunkMoved m ps r1 pieces fs fail next := by
    simp only [chunkHeld, free, clear, Bool.false_eq_true, if_false, begins]
  rw [moves]
  refine ⟨fun n bad x moved => ⟨fun last => ?_, fun p hp more => ?_⟩, fun c n bad x refused hc => ?_⟩
  · have none_left : pieces.any (fun p => decide (r1.chunk + 1 ≤ chunkOf p.pos)) = false :=
      List.any_eq_false.mpr fun p hp => by simpa [chunkOf] using Nat.lt_succ_of_le (last p hp)
    simp only [State.chunkMoved, moved, none_left, Bool.false_eq_true, if_false]
  · have some_left : pieces.any (fun p => decide (r1.chunk + 1 ≤ chunkOf p.pos)) = true :=
      List.any_eq_true.mpr ⟨p, hp, decide_eq_true more⟩
    simp only [State.chunkMoved, moved, some_left, if_true]
  · obtain ⟨c, rfl⟩ := Nat.exists_eq_succ_of_ne_zero hc
    simp only [State.chunkMoved, refused]

/-! ## Rows handed to the copy engine (R285, R340) -/

/-- A row that is not yet queued enters the copy inbox that the route names. -/
theorem exec_drainHandoff_queues {s : State} {pl id : Nat} {d : PoolDrain} (found : (s.pool pl).drain? id = some d) (phase : d.phase = 2)
    (fresh : d.queued = false) : exec (.drainHandoff pl id) s = .next
      ((s.pushInbox (inboxKey (rowToken pl d).dest) (rowToken pl d)).putDrain pl { d with queued := true }) := by
  change execDrainHandoff pl id s = _
  have first : ¬d.phase ≠ 2 := not_not.mpr phase
  simp only [execDrainHandoff, found, first, if_false, fresh, Bool.not_false, if_true, ok]

/-- A row that heads its copy inbox, in its turn there, is written as the pieces of a copy command. -/
theorem exec_drainHandoff_writes {s : State} {pl id : Nat} {d : PoolDrain} {r : CopyRun} {vals : List Nat} {bad : List Bool}
    {rest : List (List Nat × List Bool)} (found : (s.pool pl).drain? id = some d) (phase : d.phase = 2) (queued : d.queued = true)
    (head : s.atHead (rowToken pl d) = true) (turn : s.copyTurn (pl / 5) (dInbox (rowToken pl d).dest) = true)
    (run : s.copyRun (rowToken pl d) = some r) (row : d.rows.drop d.next = (vals, bad) :: rest) :
    exec (.drainHandoff pl id) s = .next
      ((s.copyServed (pl / 5) (dInbox (rowToken pl d).dest)).handoffRow pl d (rowToken pl d) r vals bad) := by
  change execDrainHandoff pl id s = _
  have first : ¬d.phase ≠ 2 := not_not.mpr phase
  simp only [execDrainHandoff, found, first, if_false, queued, head, turn, run, row, Bool.not_true, Bool.false_eq_true, or_self, ok]

/-! ## Waits that are over (R313, R377) -/

/-- The scratchpad rows of a pool's drains that wait on a ladder hold are tried again, drain by drain. -/
theorem exec_heldWriteResume_pool {s : State} {d : Dest} {pl : Nat} (h : engineOf d = some (.pool pl)) :
    exec (.heldWriteResume d) s = .next (((s.pool pl).drains.filter (fun x => x.phase == 3)).foldl (fun t x =>
      State.scratchRows pl (x.rows.length + 1) t { x with phase := 1 }) s) := by
  change execHeldWriteResume d s = _
  simp only [execHeldWriteResume, h, ok]

/-- A command that waits on a ladder hold goes on once no hold covers its write. -/
theorem exec_heldWriteResume_command {s : State} {d : Dest} {b : Busy} {pa n : Nat} {rest : List Nat}
    (h : ∀ pl, engineOf d ≠ some (.pool pl)) (busy : s.busy.find? (inboxKey d) = some b) (phase : b.phase = 99)
    (nums : b.nums = pa :: n :: rest) :
    exec (.heldWriteResume d) s = .next (if s.ladHeld pa n then s else s.waitBusy b.msg 97 rest b.holds) := by
  change execHeldWriteResume d s = _
  rw [execHeldWriteResume]
  split
  · next pl hp => exact absurd hp (h pl)
  · simp only [busy, phase, nums, if_true, ok]

/-- A command that waits for a page hold takes it where the count is below 255. -/
theorem exec_holdGrant {s : State} {id n f : Nat} {m : Token} {ms : List (Nat × Token)} {b : Busy} {rest : List Nat}
    (head : s.inbox id = (n, m) :: ms) (busy : s.busy.find? id = some b) (phase : b.phase = 98) (nums : b.nums = f :: rest) :
    exec (.holdGrant id) s = .next (if s.holdCount (s.holdFrame f) < 255 then
      (s.addHold (s.holdFrame f)).waitBusy m 97 rest (b.holds ++ [s.holdFrame f]) else s) := by
  change execHoldGrant id s = _
  simp only [execHoldGrant, head, busy, phase, nums, true_and, ok]

/-! ## The block-sparse walk (R290 to R292) -/

section Walk

variable {s : State} {pl : Nat} {w : BWalk} (walk : (s.pool pl).walk = some w)
include walk

/-- A walk that goes on and has to wait for what it uses next fetches ahead. -/
theorem exec_walkEntryFetch_waits (going : w.parked = false) (sound : w.failed = none) (phase : w.phase ≠ 3)
    (waits : s.walkNext pl w = none) : exec (.walkEntryFetch pl) s = .next (s.prefetch pl w) := by
  change execWalkEntryFetch pl s = _
  simp only [execWalkEntryFetch, walk, going, sound, phase, waits, Option.isSome_none, Bool.false_eq_true, or_self, if_false, ok]

/-- A walk that can use what it has fetched uses it or fetches ahead, by free choice. -/
theorem exec_walkEntryFetch_uses {t : State} (going : w.parked = false) (sound : w.failed = none) (phase : w.phase ≠ 3)
    (uses : s.walkNext pl w = some t) : exec (.walkEntryFetch pl) s = .next
      (if (w.nextRp.isSome || w.nextEnt.isSome) && Config.freeBool s.free then s.useFree.prefetch pl w else t.useFree) := by
  change execWalkEntryFetch pl s = _
  simp only [execWalkEntryFetch, walk, going, sound, phase, uses, Option.isSome_none, Bool.false_eq_true, or_self, if_false, ok]

/-- A walk at a failed fetch parks once it has no pass and no drain under way, and an ENTRY record goes to its keeper. -/
theorem exec_walkPark {rp : Bool} {va c : Nat} (failed : w.failed = some (rp, va, c)) (going : w.parked = false)
    (passes : ∀ q ∈ (s.pool pl).passes, q.walk = false) (drains : ∀ d ∈ (s.pool pl).drains, d.walk = false) :
    exec (.walkPark pl) s = .next (((s.setReg (poolReg pl 0x48)
      (BitVec.ofNat 64 (w.idx + w.row * 2 ^ 32 + (if rp then 1 else 0) * 2 ^ 48))).putWalk pl { w with parked := true }).faultRecord
        (engineDest (pl / 40) (pl / 5 % 8) (pl % 5) 0) (pl / 5) w.msg.ctx w.msg.tag 0x11
        [BitVec.ofNat 32 va, BitVec.ofNat 32 (va / 2 ^ 32), BitVec.ofNat 32 (if rp then w.row else w.idx),
          BitVec.ofNat 32 (w.row + (if rp then 1 else 0) * 2 ^ 16 + c % 256 * 2 ^ 24)] w.msg.dest.toNat 7 0 []) := by
  change execWalkPark pl s = _
  have parks : ¬(w.parked = true ∨ (s.pool pl).passes.any (fun q => q.walk) = true ∨ (s.pool pl).drains.any (fun d => d.walk) = true) := by
    simpa [going] using ⟨passes, drains⟩
  simp only [execWalkPark, walk, failed, parks, if_false]
  rfl

/-- A write of `POOL.RESUME` at or before the parked index disposes of the parked walk. -/
theorem parkedWalk_eq_some {v : Word} (parked : w.parked = true) (at_ : bits v.toNat 31 0 ≤ w.idx) : s.parkedWalk pl v = some w := by
  simp only [State.parkedWalk, walk, parked, at_, and_self, if_true]

end Walk

/-- Settles O49: a drain by the kind of its route, its rows as chunks of a copy command (`copyPart_chunkGives`), and one lemma for each
step of a wait or of the walk. -/
theorem poolDrainsAndWalks : Obligations.PoolDrainsAndWalks := by
  unfold Obligations.PoolDrainsAndWalks
  refine ⟨?perform, ?handoff, ?resume, ?grant, ?walk⟩
  case perform =>
    rintro s pl id d _ _ _ found steered port first pass region rfl rfl rfl
    have due : DrainDue s pl id d := ⟨found, steered, port, first, pass, region⟩
    refine ⟨?_, fun good kind ls hls => ?_, exec_poolDrainPerform_delivers due, exec_poolDrainPerform_delivers due⟩
    · rintro _ rfl
      exact exec_poolDrainPerform_refused due
    · subst hls
      exact exec_poolDrainPerform_delivers due good kind
  case handoff =>
    intro s pl id d found phase
    refine ⟨exec_drainHandoff_queues found phase, ?_⟩
    rintro _ r vals bad rest queued rfl head turn run row
    exact ⟨_, exec_drainHandoff_writes found phase queued head turn run row, copyPart_chunkGives ..⟩
  case resume =>
    refine fun s d => ⟨fun pl => exec_heldWriteResume_pool, fun b pa n rest h busy phase nums => ?_⟩
    rw [exec_heldWriteResume_command h busy phase nums]
    exact ⟨fun held => by rw [if_pos held], fun free => by rw [if_neg (by simp [free])]⟩
  case grant =>
    intro s id n f m ms b rest head busy phase nums
    rw [exec_holdGrant head busy phase nums]
    exact ⟨fun below => by rw [if_pos below], fun full => by rw [if_neg (by omega)]⟩
  case walk =>
    intro s pl w walk
    refine ⟨fun going sound phase => ⟨exec_walkEntryFetch_waits walk going sound phase, fun t =>
      exec_walkEntryFetch_uses walk going sound phase⟩, fun rp va c => exec_walkPark walk, fun v parked at_ => ?_⟩
    have disposed := parkedWalk_eq_some walk parked at_
    constructor
    · change execPoolWalkResume pl v s = _
      simp only [execPoolWalkResume, disposed, ok]
    · change execPoolWalkAbort pl v s = _
      simp only [execPoolWalkAbort, disposed]
      rfl

end Sys2Proof.Machine
end

section
/-! O1 to O5: the keeper's words and their instructions name each other, illegal words trap, and node opcodes name nodes. -/

namespace Sys2Proof.Machine

/-! ## Which words an encoder gives (R110) -/

theorem encRR_eq_iff {w : BitVec 32} {m : BitVec 7} {d a b : Reg} {f : BitVec 10} : encRR m d a b f = w ↔
    kMajor w = m.toNat ∧ kFieldD w = d ∧ kFieldA w = a ∧ kFieldB w = b ∧ kFunc w = f := by
  constructor
  · rintro rfl; simp
  · rintro ⟨h, rfl, rfl, rfl, rfl⟩; exact encRR_fields w m h

theorem encRI_eq_iff {w : BitVec 32} {m : BitVec 7} {d a : Reg} {i : BitVec 15} : encRI m d a i = w ↔
    kMajor w = m.toNat ∧ kFieldD w = d ∧ kFieldA w = a ∧ kImm15 w = i := by
  constructor
  · rintro rfl; simp
  · rintro ⟨h, rfl, rfl, rfl⟩; exact encRI_fields w m h

theorem encWI_eq_iff {w : BitVec 32} {m : BitVec 7} {d : Reg} {i : BitVec 20} : encWI m d i = w ↔
    kMajor w = m.toNat ∧ kFieldD w = d ∧ kImm20 w = i := by
  constructor
  · rintro rfl; simp
  · rintro ⟨h, rfl, rfl⟩; exact encWI_fields w m h

theorem encSD_eq_iff {w : BitVec 32} {m : BitVec 7} {a b : Reg} {o : BitVec 15} : encSD m a b o = w ↔
    kMajor w = m.toNat ∧ kFieldA w = a ∧ kFieldB w = b ∧ kOff15 w = o := by
  constructor
  · rintro rfl; simp
  · rintro ⟨h, rfl, rfl, rfl⟩; exact encSD_fields w m h

/-! ## Required-zero fields (R111, R141) -/

/-- A field whose high bits are zero is its low bits widened. -/
theorem eq_zeros_cat {n k : Nat} {x : BitVec (n + k)} (h : x.extractLsb' k n = 0#n) : x = 0#n ++ x.extractLsb' 0 k := by
  apply BitVec.eq_of_toNat_eq
  have hz : x.toNat / 2 ^ k % 2 ^ n = 0 := by rw [← toNat_field, h]; rfl
  have hx : x.toNat / 2 ^ k < 2 ^ n := Nat.div_lt_of_lt_mul (x.isLt.trans_eq (by rw [Nat.pow_add, Nat.mul_comm]))
  have low : x.toNat < 2 ^ k := (Nat.div_eq_zero_iff_lt (by positivity)).mp ((Nat.mod_eq_of_lt hx).symm.trans hz)
  simp [Nat.mod_eq_of_lt low]

/-- A hive word's func of one bit. -/
theorem kFunc_of_bit {w : BitVec 32} (h : (kFunc w).extractLsb' 1 9 = 0#9) : kFunc w = 0#9 ++ BitVec.ofBool w[0] := by
  have low : (kFunc w).extractLsb' 0 1 = BitVec.ofBool w[0] := by
    ext i hi
    obtain rfl : i = 0 := by omega
    simp [kFunc]
  exact (eq_zeros_cat h).trans (by rw [low])

/-- `tret` has no field. -/
theorem fields_of_tret {w : BitVec 32} (h : w.extractLsb' 0 25 = 0#25) :
    kFieldD w = 0#5 ∧ kFieldA w = 0#5 ∧ kFieldB w = 0#5 ∧ kFunc w = 0#10 := by
  have low : w.toNat / 2 ^ 0 % 2 ^ 25 = 0 := (toNat_field w 0 25).symm.trans (by rw [h]; rfl)
  and_intros <;> apply BitVec.eq_of_toNat_eq <;> simp only [kFieldD, kFieldA, kFieldB, kFunc, toNat_field, BitVec.toNat_ofNat] <;> omega

/-- `fence` has its scope and no other field. -/
theorem fields_of_fence {w : BitVec 32} (h : w.extractLsb' 2 23 = 0#23) :
    kFieldD w = 0#5 ∧ kFieldA w = 0#5 ∧ kFieldB w = 0#5 ∧ kFunc w = 0#8 ++ w.extractLsb' 0 2 := by
  have low : w.toNat / 2 ^ 2 % 2 ^ 23 = 0 := (toNat_field w 2 23).symm.trans (by rw [h]; rfl)
  and_intros <;> apply BitVec.eq_of_toNat_eq <;>
    simp only [kFieldD, kFieldA, kFieldB, kFunc, toNat_cat, toNat_field, BitVec.toNat_ofNat] <;> omega

/-- A word of a major that R111 and R141 do not assign is illegal. -/
theorem illegalWord_of_unassigned {w : BitVec 32}
    (h : kMajor w = 0 ∨ (0x0A ≤ kMajor w ∧ kMajor w ≤ 0x0F) ∨ kMajor w = 0x26 ∨ kMajor w = 0x27 ∨ 0x30 ≤ kMajor w) :
    illegalWord w = true := by
  unfold illegalWord
  split
  case h_40 => rfl
  all_goals omega

/-! ## Decoding (R111, R112, R141) -/

theorem decode_of_illegal {w : BitVec 32} (h : illegalWord w = true) : decode w = .illegalInstruction w := if_pos h

theorem decode_of_legal {w : BitVec 32} (h : illegalWord w = false) : decode w = decodeMajor w := by simp [decode, h]

/-- A register word is the word of what its func names. -/
theorem encode_decodeRR {w : BitVec 32} (h : kMajor w = 0x01) : encode (decodeRR w) = some w := by
  unfold decodeRR
  split
  case h_16 => rfl
  all_goals exact congrArg some (encRR_eq_iff.mpr ⟨h, rfl, rfl, rfl, BitVec.eq_of_toNat_eq ‹_›⟩)

theorem wf_decodeRR {w : BitVec 32} (h : (kFunc w).toNat < 0x00F) : (decodeRR w).wf = true := by
  unfold decodeRR
  split
  case h_16 =>
    simp only [imp_false] at *
    omega
  all_goals rfl

/-- A legal word is the word of what its major names: the fields it does not show are zero. -/
theorem encode_decodeMajor {w : BitVec 32} (h : illegalWord w = false) : encode (decodeMajor w) = some w := by
  unfold decodeMajor
  split
  case h_1 hk => exact encode_decodeRR hk
  case h_40 => rfl
  all_goals
    rename_i hk
    simp only [illegalWord, hk, Bool.or_eq_false_iff, bne_eq_false_iff_eq] at h
    refine congrArg some ?_
    simp only [encRR_eq_iff, encRI_eq_iff, encWI_eq_iff, encSD_eq_iff, hk, h, BitVec.reduceToNat, and_self, true_and]
  case h_6 | h_7 | h_8 => exact eq_zeros_cat h
  case h_26 | h_27 => exact eq_zeros_cat h.2
  case h_29 => exact fields_of_tret h
  case h_31 => exact fields_of_fence h
  case h_33 | h_34 | h_36 | h_37 => exact kFunc_of_bit h.2

/-- What a legal word's major names is no illegal instruction. -/
theorem wf_decodeMajor {w : BitVec 32} (h : illegalWord w = false) : (decodeMajor w).wf = true := by
  unfold decodeMajor
  split
  case h_1 hk => exact wf_decodeRR (by simpa [illegalWord, hk] using h)
  case h_40 =>
    simp only [imp_false] at *
    rw [illegalWord_of_unassigned (by omega)] at h
    contradiction
  all_goals rfl

/-- The decoder reads an instruction's word field by field: no field of a format overlaps another. -/
theorem decode_of_encode {i : Instr} {w : BitVec 32} (wf : i.wf = true) (h : encode i = some w) : decode w = i := by
  cases i <;> cases h
  case illegalInstruction => exact decode_of_illegal wf
  case keeperTret => rfl
  all_goals simp [decode, illegalWord, decodeMajor, decodeRR, encRR_low]

/-- Settles O2: `decode_of_encode`, by the instructions that have a word. -/
theorem decodeEncodedKeeperWord : Obligations.DecodeEncodedKeeperWord := by
  unfold Obligations.DecodeEncodedKeeperWord
  exact fun _ _ => decode_of_encode

/-- Settles O3: an illegal word stands for itself; a legal one is read by its major. -/
theorem encodeDecodedKeeperWord : Obligations.EncodeDecodedKeeperWord := by
  unfold Obligations.EncodeDecodedKeeperWord
  intro w
  cases h : illegalWord w with
  | true => rw [decode_of_illegal h]; exact ⟨h, rfl⟩
  | false => rw [decode_of_legal h]; exact ⟨wf_decodeMajor h, encode_decodeMajor h⟩

/-! ## Illegal words (R112) -/

/-- A hive word is illegal with a bit set in the field that no hive word has, or in func above its bit. -/
theorem illegalWord_of_hive {w : BitVec 32} (low : 0x28 ≤ kMajor w) (high : kMajor w ≤ 0x2F)
    (h : kFieldB w ≠ 0 ∨ (kFunc w).extractLsb' 1 9 ≠ 0) : illegalWord w = true := by
  have major : kMajor w = 0x28 ∨ kMajor w = 0x29 ∨ kMajor w = 0x2A ∨ kMajor w = 0x2B ∨ kMajor w = 0x2C ∨ kMajor w = 0x2D ∨
    kMajor w = 0x2E ∨ kMajor w = 0x2F := by omega
  have func : (kFunc w).extractLsb' 1 9 ≠ 0 → kFunc w ≠ 0 := fun bits zero => bits (by rw [zero]; rfl)
  simp only [ne_eq, BitVec.ofNat_eq_ofNat] at h func
  rcases h with field | bits
  · rcases major with hk | hk | hk | hk | hk | hk | hk | hk <;> simp [illegalWord, hk, field]
  · rcases major with hk | hk | hk | hk | hk | hk | hk | hk <;> simp [illegalWord, hk, bits, func bits]

/-- Outside a trap handler an illegal word takes the ILLEGAL trap. -/
theorem exec_illegalInstruction {w : BitVec 32} {s : State} (h : s.inTrap s.cur = false) :
    ∃ t, exec (.illegalInstruction w) s = .next t ∧ KeeperFaults s t 0xC 0 :=
  ⟨s.illegal, rfl, keeperFault_faults s 0xC 0 (by decide) h⟩

/-- Settles O4: the cases of R112 by the word's major, then the trap that the illegal instruction takes. -/
theorem illegalWordTraps : Obligations.IllegalWordTraps := by
  unfold Obligations.IllegalWordTraps
  refine ⟨fun _ => illegalWord_of_unassigned, fun w hk h => ?_, ?shift, fun w hk h => ?_, fun w hk h => ?_, fun w hk h => ?_,
    fun w hk h => ?_, fun w hk h => ?_, fun _ => illegalWord_of_hive, ?noFunc, ?noD, ?noA, rfl, rfl, rfl,
    fun _ => decode_of_illegal, fun _ _ _ => exec_illegalInstruction⟩
  case shift => rintro w (hk | hk | hk) h <;> simpa [illegalWord, hk] using h
  case noFunc => rintro w (hk | hk | hk | hk) h <;> simpa [illegalWord, hk] using Or.inr h
  case noD => rintro w (hk | hk | hk | hk) h <;> simpa [illegalWord, hk] using Or.inl (Or.inl h)
  case noA => rintro w (hk | hk) h <;> simpa [illegalWord, hk] using Or.inl (Or.inl h)
  all_goals simpa [illegalWord, hk] using h

/-- Settles O1: the decoder is run on each word. -/
theorem keeperWordsDecode : Obligations.KeeperWordsDecode := by
  unfold Obligations.KeeperWordsDecode
  and_intros <;> rfl

/-! ## Node opcodes (R98, R113 to R115) -/

/-- The opcodes of the table rise. -/
theorem nodeOpcodes_rising : (nodeOpcodes.map (fun e => e.1)).IsChain (· < ·) := by decide +kernel

/-- The table names the instructions in the order of their constructors. -/
theorem nodeOpcodes_ctorIdx_rising : (nodeOpcodes.map (fun e => e.2.ctorIdx)).IsChain (· < ·) := by decide +kernel

/-- No two rows of the table share an opcode or an instruction. -/
theorem nodeOpcodes_pairwise : nodeOpcodes.Pairwise (fun a b => a.1 ≠ b.1 ∧ a.2 ≠ b.2) := by
  have opcode := List.pairwise_map.mp (List.isChain_iff_pairwise.mp nodeOpcodes_rising)
  have instr := List.pairwise_map.mp (List.isChain_iff_pairwise.mp nodeOpcodes_ctorIdx_rising)
  exact (opcode.and instr).imp fun ⟨lt, before⟩ => ⟨lt.ne, fun same => before.ne (congrArg Instr.ctorIdx same)⟩

/-- A node record's top nine bits name its instruction. -/
theorem decodeNode_cat (op : BitVec 9) (rest : BitVec 87) : decodeNode (op ++ rest) = nodeInstr op.toNat := by
  have field : ((op ++ rest : BitVec 96).extractLsb' 87 9).toNat = op.toNat := by
    rw [toNat_field, toNat_cat]; omega
  rw [decodeNode, field]

/-- Settles O5: the table's rows differ, and each record is looked up by its top bits. -/
theorem nodeOpcodesDecode : Obligations.NodeOpcodesDecode := by
  unfold Obligations.NodeOpcodesDecode
  simp only [decodeNode_cat, BitVec.reduceToNat]
  exact ⟨nodeOpcodes_pairwise, rfl, rfl, rfl, rfl, rfl, rfl, rfl, rfl, rfl, rfl, rfl, rfl, rfl⟩

end Sys2Proof.Machine
end

section
/-! O46: the checks of an engine's message, in R103's order, and the one answer that a message gets. -/

namespace Sys2Proof

open Sys2Proof.Machine

/-! ## The check that a message fails (R103) -/

/-- A message passes every check or fails a first one. -/
theorem passes_or_checkFails (m : Token) (accepted : Bool) (lanes flags : Nat) :
    Passes m accepted lanes flags ∨ ∃ st data, CheckFails m accepted lanes flags st data := by
  unfold Passes CheckFails
  by_cases width : m.width = 0
  case neg => exact .inr ⟨3, 0, .inl ⟨width, rfl, rfl⟩⟩
  cases empty : m.empty
  case true => exact .inr ⟨2, 0, .inr (.inl ⟨width, rfl, rfl, rfl⟩)⟩
  cases fault : m.fault
  case true => exact .inr ⟨0x11, m.aux.toNat, .inr (.inr (.inl ⟨width, rfl, rfl, rfl, rfl⟩))⟩
  cases poison : m.poison
  case true => exact .inr ⟨7, 0, .inr (.inr (.inr (.inl ⟨width, rfl, rfl, rfl, rfl, rfl⟩)))⟩
  cases accepted
  case false => exact .inr ⟨1, 0, .inr (.inr (.inr (.inr ⟨width, rfl, rfl, rfl, .inl ⟨rfl, rfl, rfl⟩⟩)))⟩
  by_cases run : m.runLen = lanes
  case neg => exact .inr ⟨2, lanes, .inr (.inr (.inr (.inr ⟨width, rfl, rfl, rfl, .inr (.inl ⟨rfl, run, rfl, rfl⟩)⟩)))⟩
  by_cases flag : (lane0 m &&& (0xFFFFFF00 ^^^ flags)) = 0
  case neg => exact .inr ⟨3, 0, .inr (.inr (.inr (.inr ⟨width, rfl, rfl, rfl, .inr (.inr ⟨rfl, run, flag, rfl, rfl⟩)⟩)))⟩
  exact .inl ⟨width, rfl, rfl, rfl, rfl, run, flag⟩

/-! ## A command's turn (R54, R103, R322, R357) -/

section Turn

variable {s : State} {m : Token} {lanes flags st data : Nat}

/-- A message that does not head its copy inbox waits. -/
theorem copyCmd_waits (h : s.atHead m = false) (f : Nat → CopyRun → State → State) : s.copyCmd m lanes flags f = s := by
  unfold State.copyCmd
  split <;> simp [h]

/-- A message that fails a check is answered in its turn, which passes on. -/
theorem copyCmd_fails {ps : Nat} (engine : engineOf m.dest = some (.copy ps)) (head : s.atHead m = true)
    (turn : s.copyTurn ps (dInbox m.dest) = true) (bad : CheckFails m true lanes flags st data)
    (f : Nat → CopyRun → State → State) :
    s.copyCmd m lanes flags f = (s.copyServed ps (dInbox m.dest)).finish m st data [] := by
  have served : (s.copyServed ps (dInbox m.dest)).atHead m = true := head
  simp [State.copyCmd, engine, head, turn, Laws.command_fails served bad]

/-- A message that does not head its stack inbox waits. -/
theorem stkCmd_waits (h : s.atHead m = false) (f : Nat → List Nat → List Nat → State → State) : s.stkCmd m lanes flags f = s := by
  unfold State.stkCmd
  split
  · simp [h, Laws.command_waits h]
  · rfl

/-- A message that has not begun and fails a check is answered in its turn, which passes on. -/
theorem stkCmd_fails {n : Nat} (engine : engineOf m.dest = some (.stack n)) (head : s.atHead m = true) (idle : s.busyOf m = none)
    (turn : s.stkTurn n (dInbox m.dest) = true) (bad : CheckFails m true lanes flags st data)
    (f : Nat → List Nat → List Nat → State → State) :
    s.stkCmd m lanes flags f = (s.stkServed n (dInbox m.dest)).finish m st data [] := by
  have served : (s.stkServed n (dInbox m.dest)).atHead m = true := head
  simp [State.stkCmd, engine, head, idle, turn, Laws.command_fails served bad]

end Turn

/-! ## The rows of the command table (R102, R103) -/

/-- A row's command waits until its message heads the inbox, and answers the first check that the message fails: at a copy or stack
engine in the inbox's turn, which then passes on. -/
def CommandRow.Checked (r : CommandRow) : Prop :=
  ∀ (s : State) (m : Token) (e : Engine), engineOf m.dest = some e → r.engine e = true →
    (s.atHead m = false → exec (r.cmd m) s = .next s)
    ∧ (∀ st data, s.atHead m = true → CheckFails m (r.inbox (dInbox m.dest)) r.lanes r.flags st data →
        (isCopy e = false → isStack e = false → exec (r.cmd m) s = .next (s.finish m st data []))
        ∧ (∀ ps, e = .copy ps → s.copyTurn ps (dInbox m.dest) = true →
          exec (r.cmd m) s = .next ((s.copyServed ps (dInbox m.dest)).finish m st data []))
        ∧ (∀ n, e = .stack n → (r.cmd m = .stkFence m → exec (r.cmd m) s = .next (s.finish m st data []))
          ∧ (r.cmd m ≠ .stkFence m → s.busyOf m = none → s.stkTurn n (dInbox m.dest) = true →
            exec (r.cmd m) s = .next ((s.stkServed n (dInbox m.dest)).finish m st data []))))

/-- A command of a pool, a ladder controller, a page engine or a link engine is `State.command` at each engine that has it. -/
theorem CommandRow.checked_of_command {r : CommandRow} (noCopy : ∀ ps, r.engine (.copy ps) = false)
    (noStack : ∀ n, r.engine (.stack n) = false)
    (taken : ∀ m e, engineOf m.dest = some e → r.engine e = true →
      ∃ f, ∀ s, exec (r.cmd m) s = .next (s.command m (r.inbox (dInbox m.dest)) r.lanes r.flags f)) : r.Checked := by
  intro s m e engine has
  obtain ⟨f, runs⟩ := taken m e engine has
  refine ⟨fun waits => ?_, fun st data head bad => ⟨fun _ _ => ?_, ?_, ?_⟩⟩
  · rw [runs, Laws.command_waits waits]
  · rw [runs, Laws.command_fails head bad]
  · rintro ps rfl
    exact absurd has (by simp [noCopy])
  · rintro n rfl
    exact absurd has (by simp [noStack])

theorem checked_poolCmd {cmd : Token → Instr} {inbox lanes flags : Nat} {f : Token → Nat → State → State}
    (runs : ∀ m s, exec (cmd m) s = .next (s.poolCmd m inbox lanes flags (f m))) :
    CommandRow.Checked ⟨cmd, isPool, fun i => decide (i = inbox), lanes, flags⟩ := by
  refine CommandRow.checked_of_command (fun _ => rfl) (fun _ => rfl) fun m e engine has => ?_
  cases e <;> cases has
  next pl => exact ⟨f m pl, fun s => by simp only [runs, State.poolCmd, engine]⟩

theorem checked_poolAny {cmd : Token → Instr} {flags : Nat} {f : Token → Nat → State → State}
    (runs : ∀ m s, exec (cmd m) s = .next (s.poolAny m flags (f m))) :
    CommandRow.Checked ⟨cmd, isPool, fun i => decide (i < 4), 2, flags⟩ := by
  refine CommandRow.checked_of_command (fun _ => rfl) (fun _ => rfl) fun m e engine has => ?_
  cases e <;> cases has
  next pl => exact ⟨f m pl, fun s => by simp only [runs, State.poolAny, engine]⟩

theorem checked_ladCmd {cmd : Token → Instr} {mask : Nat} {f : Token → Nat → Nat → State → State}
    (runs : ∀ m s, exec (cmd m) s = .next (s.ladCmd m mask (f m))) :
    CommandRow.Checked ⟨cmd, isLadder, fun _ => true, 4, 0⟩ := by
  refine CommandRow.checked_of_command (fun _ => rfl) (fun _ => rfl) fun m e engine has => ?_
  cases e <;> cases has
  next ps =>
    exact ⟨fun t => if extraBits (qOp m 1) mask then t.finish m sBADARG 0 [] else f m ps (qOp m 1) t,
      fun s => by simp only [runs, State.ladCmd, engine]⟩

theorem checked_pageCmd {cmd : Token → Instr} {lanes flags : Nat} {f : Token → Nat → State → State}
    (runs : ∀ m s, exec (cmd m) s = .next (s.pageCmd m lanes flags (f m))) :
    CommandRow.Checked ⟨cmd, isPage, fun _ => true, lanes, flags⟩ := by
  refine CommandRow.checked_of_command (fun _ => rfl) (fun _ => rfl) fun m e engine has => ?_
  cases e <;> cases has
  next die => exact ⟨f m die, fun s => by simp only [runs, State.pageCmd, engine]⟩

theorem checked_lnCmd {cmd : Token → Instr} {lanes flags : Nat} {f : Token → State → State}
    (runs : ∀ m s, exec (cmd m) s = .next (s.lnCmd m lanes flags (f m))) :
    CommandRow.Checked ⟨cmd, isLink, fun _ => true, lanes, flags⟩ := by
  refine CommandRow.checked_of_command (fun _ => rfl) (fun _ => rfl) fun m e engine has => ?_
  cases e <;> cases has
  next l die => exact ⟨f m, fun s => by simp only [runs, State.lnCmd, engine]⟩

theorem checked_copyCmd {cmd : Token → Instr} {lanes flags : Nat} {f : Token → Nat → CopyRun → State → State}
    (runs : ∀ m s, exec (cmd m) s = .next (s.copyCmd m lanes flags (f m))) :
    CommandRow.Checked ⟨cmd, isCopy, fun _ => true, lanes, flags⟩ := by
  intro s m e engine has
  cases e <;> cases has
  refine ⟨fun waits => ?_, fun st data head bad => ⟨fun no => (nomatch no), ?_, nofun⟩⟩
  · rw [runs, copyCmd_waits waits]
  · rintro ps same turn
    cases same
    rw [runs, copyCmd_fails engine head turn bad]

theorem checked_stkCmd {cmd : Token → Instr} {lanes flags : Nat} {f : Token → Nat → List Nat → List Nat → State → State}
    (other : ∀ m, cmd m ≠ .stkFence m) (runs : ∀ m s, exec (cmd m) s = .next (s.stkCmd m lanes flags (f m))) :
    CommandRow.Checked ⟨cmd, isStack, fun _ => true, lanes, flags⟩ := by
  intro s m e engine has
  cases e <;> cases has
  refine ⟨fun waits => ?_, fun st data head bad => ⟨fun _ no => (nomatch no), nofun, ?_⟩⟩
  · rw [runs, stkCmd_waits waits]
  · rintro n same
    cases same
    refine ⟨fun fence => absurd fence (other m), fun _ idle turn => ?_⟩
    rw [runs, stkCmd_fails engine head idle turn bad]

/-- A fence of a stack engine waits for no turn. -/
theorem checked_stkFence : CommandRow.Checked ⟨Instr.stkFence, isStack, fun _ => true, 2, 0xF00⟩ := by
  intro s m e engine has
  cases e <;> cases has
  have runs : exec (.stkFence m) s = .next (s.command m true 2 0xF00 (fun t => t.fenceCmd m (bits (lane0 m) 11 8) 4)) := by
    change execStkFence m s = _
    simp only [execStkFence, engine, ok]
  refine ⟨fun waits => ?_, fun st data head bad => ⟨fun _ no => (nomatch no), nofun, fun n same => ⟨fun _ => ?_, fun no => absurd rfl no⟩⟩⟩
  · rw [runs, Laws.command_waits waits]
  · rw [runs, Laws.command_fails head bad]

/-- Every engine command checks its message. -/
theorem commandTable_checked : ∀ r ∈ commandTable, r.Checked := by
  simp only [commandTable, List.forall_mem_append, List.forall_mem_cons, List.not_mem_nil, false_imp_iff, implies_true, and_true]
  refine ⟨⟨⟨⟨?pool, ?ladder⟩, ?copyStack⟩, ?page⟩, ?link⟩
  case pool =>
    refine ⟨?_, ?_, ?_, ?_, ?_, checked_poolAny fun _ _ => rfl, checked_poolAny fun _ _ => rfl, ?_, ?_, ?_, ?_, ?_, ?_⟩
    all_goals exact checked_poolCmd fun _ _ => rfl
  case ladder => and_intros <;> exact checked_ladCmd fun _ _ => rfl
  case copyStack =>
    refine ⟨?_, ?_, ?_, ?_, ?_, ?_, ?_, ?_, ?load, ?gemv, ?gemvAcc, ?stat, checked_stkFence⟩
    case load | gemv | gemvAcc | stat => exact checked_stkCmd nofun fun _ _ => rfl
    all_goals exact checked_copyCmd fun _ _ => rfl
  case page => and_intros <;> exact checked_pageCmd fun _ _ => rfl
  case link => and_intros <;> exact checked_lnCmd fun _ _ => rfl

/-! ## Fault records and the trace ring (R106, R481) -/

/-- What a unit writes for itself goes to memory. -/
theorem devPut_frame (s : State) (a n v : Nat) : ∃ mem, s.devPut a n v = { s with mem := mem } := by
  unfold State.devPut State.devPutBytes
  split
  · exact ⟨s.mem, rfl⟩
  · exact ⟨_, rfl⟩

/-- The trace ring stands in memory, and its pointer in a register. -/
theorem trace_frame (s : State) (w1 w2 w3 : Nat) : ∃ mem regs, s.trace w1 w2 w3 = { s with mem := mem, regs := regs } := by
  have puts (a b c d x y z v n : Nat) : ∃ mem, (((s.devPut a 8 x).devPut b 8 y).devPut c 8 z).devPut d n v = { s with mem := mem } := by
    obtain ⟨m1, h1⟩ := devPut_frame s a 8 x
    obtain ⟨m2, h2⟩ := devPut_frame { s with mem := m1 } b 8 y
    obtain ⟨m3, h3⟩ := devPut_frame { s with mem := m2 } c 8 z
    obtain ⟨m4, h4⟩ := devPut_frame { s with mem := m3 } d n v
    exact ⟨m4, by rw [h1, h2, h3, h4]⟩
  unfold State.trace
  dsimp only
  split
  · split
    · exact ⟨s.mem, _, rfl⟩
    · obtain ⟨mem, h⟩ := puts _ _ _ _ _ _ _ _ _
      exact ⟨mem, _, by rw [h]; rfl⟩
  · exact ⟨s.mem, s.regs, rfl⟩

/-- A sector's event queue is a destination of kind 11. -/
theorem dKind_keeperDest {ps : Nat} (h : ps < 32) : dKind (keeperDest ps) = 3 := by
  simp only [dKind, bits, keeperDest, BitVec.toNat_ofNat]
  omega

/-- The engine's keeper is one of the 32. -/
theorem engineSector_lt (d : Dest) : engineSector d < 32 := by
  have die : dDie d < 4 := Nat.mod_lt _ (by decide)
  have sec : dSec d < 8 := Nat.mod_lt _ (by decide)
  unfold engineSector dSector
  split <;> omega

/-- A fault record is one class-7 token to a keeper, and a copy of it in the trace ring. -/
theorem faultRecord_sends (s : State) (src : Dest) {ps : Nat} (h : ps < 32) (ctx : BitVec 12) (tag : Word) (code : Nat)
    (subject : List Lane) (loc op level : Nat) (tail : List Lane) :
    ∃ t mem regs, s.faultRecord src ps ctx tag code subject loc op level tail
        = { s with net := s.net ++ [{ src := src, tok := t }], mem := mem, regs := regs }
      ∧ t.dest = keeperDest ps ∧ t.cls = 7 ∧ t.ctx = ctx ∧ t.tag = tag ∧ t.aux = BitVec.ofNat 16 code := by
  unfold State.faultRecord
  dsimp only
  generalize ht : Token.mk .. = t
  have sent : s.send src t = { s with net := s.net ++ [{ src := src, tok := t }] } := by
    rw [State.send, if_neg (by rw [← ht, dKind_keeperDest h]; decide)]
  obtain ⟨mem, regs, traced⟩ := trace_frame { s with net := s.net ++ [{ src := src, tok := t }] }
    (loc % 2 ^ 21 + ctx.toNat * 2 ^ 21 + (op % 512) * 2 ^ 33 + 2 ^ 46) tag.toNat (code % 2 ^ 16)
  refine ⟨t, mem, regs, by rw [sent, traced], ?_⟩
  subst ht
  exact ⟨rfl, rfl, rfl, rfl, rfl⟩

/-! ## The answer to a message (R56, R103, R104, R463) -/

/-- Whatever the answer is, it is sent on the switch, and a record is traced. -/
theorem answer_frame (s : State) (m : Token) (st data : Nat) (more : List Lane) :
    ∃ net mem regs, s.answer m st data more = { s with net := net, mem := mem, regs := regs } := by
  have record (code : Nat) (subject : List Lane) : ∃ net mem regs, s.faultRecord (portOf m.dest) (engineSector m.dest) m.ctx m.tag code
      subject m.dest.toNat (lane0 m % 256) 0 [] = { s with net := net, mem := mem, regs := regs } := by
    obtain ⟨t, mem, regs, sent, _⟩ := faultRecord_sends s (portOf m.dest) (engineSector_lt m.dest) m.ctx m.tag code subject
      m.dest.toNat (lane0 m % 256) 0 []
    exact ⟨_, mem, regs, sent⟩
  have still : ∃ net mem regs, s = { s with net := net, mem := mem, regs := regs } := ⟨s.net, s.mem, s.regs, rfl⟩
  have send (t : Token) : ∃ net mem regs, s.send (portOf m.dest) t = { s with net := net, mem := mem, regs := regs } := by
    unfold State.send
    split
    · exact still
    · exact ⟨_, s.mem, s.regs, rfl⟩
  unfold State.answer
  dsimp only
  split
  · exact still
  split
  · split
    · split
      · exact still
      · exact record ..
    · exact send _
  · exact record ..

section Answer

variable {s : State} {m : Token} (st data : Nat) (more : List Lane)

/-- The message that is answered heads its inbox. -/
theorem head?_of_atHead (head : s.atHead m = true) : (((s.inbox (inboxKey m.dest)).head?.map (fun e => e.2)) == some m) = true :=
  (Bool.and_eq_true_iff.mp head).1

/-- The completion of a message whose partition was reset is discarded. -/
theorem answer_muted (head : s.atHead m = true) (muted : s.muted.contains (inboxKey m.dest) = true) :
    s.answer m st data more = s := by
  simp only [State.answer, head?_of_atHead head, muted, Bool.and_self, if_true]

variable (live : s.muted.contains (inboxKey m.dest) = false)
include live

/-- A message with a reply destination is answered with its completion. -/
theorem answer_completion (good : replyOk m = true) (kind : dKind ((replyLane m).extractLsb' 0 21) ≠ 0) :
    s.answer m st data more = { s with net := s.net ++ [{ src := portOf m.dest, tok := completion m st data more }] } := by
  have kind' : ¬dKind (completion m st data more).dest = 0 := kind
  simp only [State.answer, live, good, kind, State.send, kind', Bool.and_false, Bool.false_eq_true, if_true, if_false]

/-- A message that succeeds and wants no reply gets none. -/
theorem answer_none (good : replyOk m = true) (kind : dKind ((replyLane m).extractLsb' 0 21) = 0) : s.answer m 0 data more = s := by
  simp only [State.answer, live, good, kind, sOK, Bool.and_false, Bool.false_eq_true, if_true, if_false]

/-- A message that fails and wants no reply is reported to the engine's keeper. -/
theorem answer_fault (good : replyOk m = true) (kind : dKind ((replyLane m).extractLsb' 0 21) = 0) (bad : st ≠ 0) :
    s.answer m st data more = s.faultRecord (portOf m.dest) (engineSector m.dest) m.ctx m.tag (codeOfStatus st)
      (if st = sFAULTIN then [BitVec.ofNat 32 data] else []) m.dest.toNat (lane0 m % 256) 0 [] := by
  have bad' : ¬st = sOK := bad
  simp only [State.answer, live, good, kind, bad', Bool.and_false, Bool.false_eq_true, if_true, if_false]

/-- A malformed reply lane is reported to the engine's keeper. -/
theorem answer_stream (malformed : replyOk m = false) :
    s.answer m st data more = s.faultRecord (portOf m.dest) (engineSector m.dest) m.ctx m.tag fSTREAM [] m.dest.toNat (lane0 m % 256) 0 [] := by
  simp only [State.answer, live, malformed, Bool.and_false, Bool.false_eq_true, if_false]

end Answer

/-! ## A message leaves its inbox (R55, R56) -/

theorem find?_erase {α : Type} (t : Tab α) (k j : Nat) : (Tab.erase t k).find? j = if k = j then none else t.find? j := by
  induction t with
  | nil => simp [Tab.erase, Tab.find?]
  | cons e t ih =>
    obtain ⟨i, v⟩ := e
    simp only [Tab.erase] at ih ⊢
    by_cases here : i = k
    · subst here
      rw [List.filter_cons_of_neg (by simp), ih, Tab.find?]
      split <;> rfl
    · by_cases hit : i = j
      · subst hit
        simp [Tab.find?, here, Ne.symm here]
      · simp [Tab.find?, hit, here, ih]

/-- The inbox loses its head, and its engine what it kept of it; the other inboxes stay. -/
theorem popInbox_inboxes (s : State) (key : Nat) :
    (s.popInbox key).inbox key = (s.inbox key).tail ∧ (s.popInbox key).busy.find? key = none
      ∧ ∀ k, k ≠ key → (s.popInbox key).inbox k = s.inbox k ∧ (s.popInbox key).busy.find? k = s.busy.find? k := by
  refine ⟨?_, ?_, fun k other => ⟨?_, ?_⟩⟩
  · simp [State.popInbox, State.inbox]
  · simp [State.popInbox, find?_erase]
  · simp [State.popInbox, State.inbox, other.symm]
  · simp [State.popInbox, find?_erase, other.symm]

/-- An answered message leaves its inbox, and neither another inbox nor a cell nor a keeper changes. -/
theorem finish_frame (s : State) (m : Token) (st data : Nat) (more : List Lane) :
    (s.finish m st data more).inbox (inboxKey m.dest) = (s.inbox (inboxKey m.dest)).tail
      ∧ (s.finish m st data more).busyOf m = none
      ∧ (∀ k, k ≠ inboxKey m.dest → (s.finish m st data more).inbox k = s.inbox k
          ∧ (s.finish m st data more).busy.find? k = s.busy.find? k)
      ∧ (s.finish m st data more).cells = s.cells ∧ (s.finish m st data more).keepers = s.keepers := by
  obtain ⟨net, mem, regs, answered⟩ := answer_frame s m st data more
  obtain ⟨tail, idle, others⟩ := popInbox_inboxes (s.answer m st data more) (inboxKey m.dest)
  rw [State.finish]
  rw [answered] at tail idle others ⊢
  exact ⟨tail, idle, others, rfl, rfl⟩

/-- An answer that is a fault record puts that record on the switch. -/
theorem finish_net_of_record {s : State} {m : Token} {st data : Nat} {more : List Lane} {code : Nat} {subject : List Lane}
    (answered : s.answer m st data more = s.faultRecord (portOf m.dest) (engineSector m.dest) m.ctx m.tag code subject m.dest.toNat
      (lane0 m % 256) 0 []) :
    ∃ t : Token, (s.finish m st data more).net = s.net ++ [{ src := portOf m.dest, tok := t }]
      ∧ t.dest = keeperDest (engineSector m.dest) ∧ t.cls = 7 ∧ t.ctx = m.ctx ∧ t.tag = m.tag ∧ t.aux = BitVec.ofNat 16 code := by
  obtain ⟨t, mem, regs, sent, record⟩ := faultRecord_sends s (portOf m.dest) (engineSector_lt m.dest) m.ctx m.tag code subject
    m.dest.toNat (lane0 m % 256) 0 []
  exact ⟨t, by rw [State.finish, answered, sent]; rfl, record⟩

/-- Settles O46: one lemma for each kind of engine's rows, then one for each kind of answer. -/
theorem engineChecks : Obligations.EngineChecks := by
  unfold Obligations.EngineChecks
  refine ⟨commandTable_checked, fun s m st data head bad => ?_, passes_or_checkFails, fun s m st data more head =>
    ⟨?leaves, fun muted => ?_, fun live good => ⟨fun kind => ?_, ?silent, fun kind bad => ?fault⟩, fun live malformed => ?stream, ?_⟩⟩
  case leaves =>
    rintro _ rfl
    exact finish_frame s m st data more
  case silent =>
    rintro kind rfl
    rw [State.finish, answer_none _ _ live good kind]
    rfl
  case fault =>
    obtain ⟨t, net, dest, cls, ctx, tag, aux⟩ := finish_net_of_record (answer_fault st data more live good kind bad)
    exact ⟨t, net, dest, cls, ctx, tag, aux⟩
  case stream =>
    obtain ⟨t, net, dest, cls, ctx, tag, aux⟩ := finish_net_of_record (answer_stream st data more live malformed)
    exact ⟨t, net, dest, cls, aux, ctx, tag⟩
  · exact congrArg Host.Outcome.next (Laws.command_fails head bad _)
  · rw [State.finish, answer_muted st data more head muted]
    rfl
  · rw [State.finish, answer_completion st data more live good kind]
    rfl
  · exact ⟨rfl, rfl, rfl, rfl, rfl, rfl, rfl, rfl⟩

end Sys2Proof
end

section
/-! O11, O12: the keeper's words that compute (R130, R131). -/

namespace Sys2Proof.Machine

/-! ## The results as numbers -/

/-- The high half of a 128-bit number, as a quotient. -/
theorem extractLsb'_ofInt_high (z : Int) : (BitVec.ofInt 128 z).extractLsb' 64 64 = BitVec.ofInt 64 (z / 2 ^ 64) := by
  apply BitVec.eq_of_toNat_eq
  simp only [BitVec.extractLsb'_toNat, BitVec.toNat_ofInt, Nat.shiftRight_eq_div_pow]
  omega

/-- The high half of the signed product (R130). -/
theorem mulh_eq (x y : Word) :
    (x.signExtend 128 * y.signExtend 128).extractLsb' 64 64 = BitVec.ofInt 64 (x.toInt * y.toInt / 2 ^ 64) := by
  rw [BitVec.signExtend, BitVec.signExtend, ← BitVec.ofInt_mul, extractLsb'_ofInt_high]

/-- The high half of the unsigned product (R130). -/
theorem mulhn_eq (x y : Word) :
    (x.zeroExtend 128 * y.zeroExtend 128).extractLsb' 64 64 = BitVec.ofNat 64 (x.toNat * y.toNat / 2 ^ 64) := by
  have product : x.toNat * y.toNat < 2 ^ 128 := by simpa using Nat.mul_lt_mul'' x.isLt y.isLt
  have wide {z : Word} : z.toNat % 2 ^ 128 = z.toNat := by omega
  apply BitVec.eq_of_toNat_eq
  simp only [BitVec.extractLsb'_toNat, BitVec.toNat_mul, BitVec.toNat_setWidth, BitVec.toNat_ofNat, Nat.shiftRight_eq_div_pow, wide,
    Nat.mod_eq_of_lt product]

/-- Comparing strictly or not gives the same smaller word (R130). -/
theorem min_eq (x y : Word) : (if x.slt y then x else y) = if x.toInt ≤ y.toInt then x else y := by
  rw [BitVec.slt_eq_decide]
  grind [BitVec.eq_of_toInt_eq]

/-- Comparing strictly or not gives the same larger word (R130). -/
theorem max_eq (x y : Word) : (if x.slt y then y else x) = if x.toInt ≤ y.toInt then y else x := by
  rw [BitVec.slt_eq_decide]
  grind [BitVec.eq_of_toInt_eq]

/-- An immediate added to a register (R131). -/
theorem addi_eq (x : Word) (i : BitVec 15) : x + i.signExtend 64 = BitVec.ofInt 64 (x.toInt + i.toInt) := by
  rw [BitVec.ofInt_add, BitVec.ofInt_toInt, BitVec.signExtend]

/-- The upper immediate, sign-extended from bit 31 (R131). -/
theorem lui_eq (i : BitVec 20) : (i ++ (0 : BitVec 12)).signExtend 64 =
    BitVec.ofInt 64 (((i.toNat * 4096 : Nat) : Int) - (if 0x80000 ≤ i.toNat then 2 ^ 32 else 0)) := by
  have value : (i ++ (0 : BitVec 12)).toNat = i.toNat * 4096 := by rw [toNat_cat]; simp
  rw [BitVec.signExtend, BitVec.toInt_eq_toNat_cond, value]
  congr 1
  split <;> split <;> omega

/-! ## The words -/

/-- Equal results written. -/
theorem kWrite_congr {s : State} {d : Reg} {v w : Word} (h : v = w) : ok (s.kWrite d v) = .next (s.kWrite d w) := by rw [h]

/-- A register word writes its result to kd and moves on (R130). -/
theorem exec_registerWord : ∀ e ∈ registerWords, ∀ (d a b : Reg) (s : State),
    exec (e.1 d a b) s = .next (s.kWrite d (e.2 (s.kReg s.cur a) (s.kReg s.cur b))) := by
  simp only [registerWords, List.forall_mem_cons, List.not_mem_nil, false_implies, implies_true, and_true]
  refine ⟨?add, ?sub, ?and, ?or, ?xor, ?sll, ?srl, ?sra, ?mul, ?mulh, ?mulhn, ?slt, ?sltn, ?min, ?max⟩ <;> intro d a b s
  case mulh => exact kWrite_congr (mulh_eq _ _)
  case mulhn => exact kWrite_congr (mulhn_eq _ _)
  case min => exact kWrite_congr (min_eq _ _)
  case max => exact kWrite_congr (max_eq _ _)
  case slt => exact kWrite_congr (by rw [BitVec.slt_eq_decide]; simp only [decide_eq_true_eq])
  case sltn => exact kWrite_congr (by rw [BitVec.ult_eq_decide]; simp only [decide_eq_true_eq])
  all_goals rfl

/-- An immediate word writes its result to kd and moves on (R131). -/
theorem exec_immediateWord : ∀ e ∈ immediateWords, ∀ (d a : Reg) (i : BitVec 15) (s : State),
    exec (e.1 d a i) s = .next (s.kWrite d (e.2 (s.kReg s.cur a) i)) := by
  simp only [immediateWords, List.forall_mem_cons, List.not_mem_nil, false_implies, implies_true, and_true]
  exact ⟨fun d _ _ s => kWrite_congr (addi_eq _ _), fun _ _ _ _ => rfl, fun _ _ _ _ => rfl,
    fun _ _ _ _ => rfl⟩

/-- An immediate shift writes its result to kd and moves on (R131). -/
theorem exec_shiftWord : ∀ e ∈ shiftWords, ∀ (d a : Reg) (n : BitVec 6) (s : State),
    exec (e.1 d a n) s = .next (s.kWrite d (e.2 (s.kReg s.cur a) n.toNat)) := by
  simp only [shiftWords, List.forall_mem_cons, List.not_mem_nil, false_implies, implies_true, and_true]
  exact ⟨fun _ _ _ _ => rfl, fun _ _ _ _ => rfl, fun _ _ _ _ => rfl⟩

/-- LUI writes its immediate to kd and moves on (R131). -/
theorem exec_keeperLui (d : Reg) (i : BitVec 20) (s : State) : exec (.keeperLui d i) s =
    .next (s.kWrite d (BitVec.ofInt 64 (((i.toNat * 4096 : Nat) : Int) - (if 0x80000 ≤ i.toNat then 2 ^ 32 else 0)))) :=
  kWrite_congr (lui_eq i)

/-- Settles O11: each word writes its result by `State.kWrite`. -/
theorem keeperRegisterWords : Obligations.KeeperRegisterWords := by
  unfold Obligations.KeeperRegisterWords
  exact fun e he d a b s => ⟨_, exec_registerWord e he d a b s, kWrite_to s d _⟩

/-- Settles O12: each word writes its result by `State.kWrite`; the bounds are those of the immediates' widths. -/
theorem keeperImmediateWords : Obligations.KeeperImmediateWords := by
  unfold Obligations.KeeperImmediateWords
  refine ⟨fun e he d a i s => ⟨?low, ?high, _, exec_immediateWord e he d a i s, kWrite_to s d _⟩,
    fun e he d a n s => ⟨?shift, _, exec_shiftWord e he d a n s, kWrite_to s d _⟩,
    fun d i s => ⟨_, exec_keeperLui d i s, kWrite_to s d _⟩⟩
  case low => exact BitVec.le_toInt i
  case high => exact Int.le_of_lt_add_one BitVec.toInt_lt
  case shift => exact Nat.le_of_lt_succ n.isLt

end Sys2Proof.Machine
end

section
/-! O6, O9, O17, O18: the word that a keeper fetches, and the targets of its branches and jumps (R126, R133). -/

namespace Sys2Proof.Machine

/-! ## Targets (R133) -/

/-- The two low bits of an address are clear where it is a multiple of four. -/
theorem extractLsb'_low_two (t : Word) : t.extractLsb' 0 2 = 0 ↔ t.toNat % 4 = 0 := by
  rw [← BitVec.toNat_inj, toNat_field]
  simp

/-- An address that the mode may reach takes no PERM fault (R129). -/
theorem permitted_of_localOk {s : State} {ea : Word} (h : localOk s ea) :
    ¬((!s.supervisor s.cur) = true ∧ ea.toNat < (s.reg (csr s.cur 11)).toNat) := by
  rintro ⟨user, below⟩
  rcases h.2 with sup | above
  · simp [sup] at user
  · omega

/-- A target that may be taken has no fault. -/
theorem targetFault_of_ok {s : State} {t : Word} (h : targetOk s t) : s.targetFault s.cur t = none := by
  obtain ⟨aligned, low, mode⟩ := h
  rw [State.targetFault, if_neg (not_not.mpr ((extractLsb'_low_two t).mpr aligned)), if_neg (by omega), if_neg (permitted_of_localOk ⟨low, mode⟩)]

/-- A target that may not be taken has its fault. -/
theorem targetFault_of_bad {s : State} {t : Word} {c : Nat} (h : targetBad s t c) : s.targetFault s.cur t = some c := by
  rcases h with ⟨odd, rfl⟩ | ⟨aligned, high, rfl⟩ | ⟨aligned, low, user, below, rfl⟩
  · rw [State.targetFault, if_pos (mt (extractLsb'_low_two t).mp odd)]; rfl
  all_goals rw [State.targetFault, if_neg (not_not.mpr ((extractLsb'_low_two t).mpr aligned))]
  · rw [if_pos high]; rfl
  · rw [if_neg (by omega), if_pos ⟨by simp [user], below⟩]; rfl

/-- The faults of a target have codes of 16 bits. -/
theorem targetBad_lt {s : State} {t : Word} {c : Nat} (h : targetBad s t c) : c < 65536 := by
  rcases h with ⟨_, rfl⟩ | ⟨_, _, rfl⟩ | ⟨_, _, _, _, rfl⟩ <;> decide

/-- The address that a branch adds is four times its offset (R110). -/
theorem branchTarget_eq {n : Nat} (s : State) (off : BitVec n) :
    (s.keeper s.cur).pc + (off.signExtend 64 <<< 2) = branchTarget s off := by
  have shifted : off.signExtend 64 <<< 2 = BitVec.ofInt 64 (4 * off.toInt) := by
    rw [BitVec.signExtend, BitVec.shiftLeft_eq_mul_twoPow, Int.mul_comm, BitVec.ofInt_mul]
    rfl
  rw [branchTarget, shifted]

/-! ## Branches and jumps (R133) -/

/-- A conditional branch tests its condition. -/
theorem exec_branchWord : ∀ e ∈ branchWords, ∀ (a b : Reg) (off : BitVec 15) (s : State),
    exec (e.1 a b off) s = .next (s.branch (e.2 (s.kReg s.cur a) (s.kReg s.cur b)) off) := by
  have taken {s : State} {off : BitVec 15} {p q : Bool} (h : p = q) : ok (s.branch p off) = .next (s.branch q off) := by rw [h]
  simp only [branchWords, List.forall_mem_cons, List.not_mem_nil, false_implies, implies_true, and_true]
  refine ⟨?beq, ?bne, ?blt, ?bge, ?bltn, ?bgen⟩ <;> intro a b off s
  case beq => exact taken (beq_eq_decide _ _)
  case bne => exact taken (by simp [bne, beq_eq_decide])
  case blt => exact taken (BitVec.slt_eq_decide)
  case bge => exact taken (by rw [BitVec.slt_eq_decide, ← decide_not]; simp only [Int.not_lt])
  case bltn => exact taken (BitVec.ult_eq_decide)
  case bgen => exact taken (by rw [BitVec.ult_eq_decide, ← decide_not]; simp only [Nat.not_lt])

theorem branch_not_taken (s : State) (off : BitVec 15) : s.branch false off = s.pcNext s.cur := rfl

theorem branch_taken {s : State} {off : BitVec 15} (h : targetOk s (branchTarget s off)) :
    s.branch true off = s.setPc s.cur (branchTarget s off) := by
  simp only [State.branch, branchTarget_eq, targetFault_of_ok h, if_true]

theorem branch_faults {s : State} {off : BitVec 15} {c : Nat} (h : targetBad s (branchTarget s off) c) :
    s.branch true off = s.keeperFault s.cur c (branchTarget s off) := by
  simp only [State.branch, branchTarget_eq, targetFault_of_bad h, if_true]

theorem jump_taken {s : State} {d : Reg} {t : Word} (h : targetOk s t) :
    s.jump d t = (s.setK s.cur d (nextPc s)).setPc s.cur t := by
  simp only [State.jump, targetFault_of_ok h, nextPc]

theorem jump_faults {s : State} {d : Reg} {t : Word} {c : Nat} (h : targetBad s t c) : s.jump d t = s.keeperFault s.cur c t := by
  simp only [State.jump, targetFault_of_bad h]

/-- Settles O17: a branch that is not taken, that is, and that faults. -/
theorem keeperBranches : Obligations.KeeperBranches := by
  unfold Obligations.KeeperBranches
  intro e he a b off s
  rw [exec_branchWord e he]
  refine ⟨fun cond => ⟨_, rfl, ?_⟩, fun cond target => ⟨_, rfl, ?_⟩, fun c cond target noTrap => ⟨_, rfl, ?_⟩⟩ <;> rw [cond]
  · rw [branch_not_taken]; exact pcNext_to s
  · rw [branch_taken target]; exact setPc_to s _
  · rw [branch_faults target]; exact keeperFault_faults s c _ (targetBad_lt target) noTrap

/-- Settles O18: both jumps are `State.jump` to their target. -/
theorem keeperJumps : Obligations.KeeperJumps := by
  unfold Obligations.KeeperJumps
  intro s i d t form
  have jumps : exec i s = .next (s.jump d t) := by
    rcases form with ⟨off, rfl, rfl⟩ | ⟨a, off, rfl, rfl⟩
    · rw [← branchTarget_eq]; rfl
    · rfl
  rw [jumps]
  refine ⟨fun target => ⟨_, rfl, ?_⟩, fun c target noTrap => ⟨_, rfl, ?_⟩⟩
  · rw [jump_taken target]; exact setK_setPc_to s d _ t
  · rw [jump_faults target]; exact keeperFault_faults s c t (targetBad_lt target) noTrap

/-! ## Fetch (R126) -/

/-- A fetch has the faults of a jump to its address, and ECC where it has none of them. -/
theorem fetchFault_eq (s : State) (ps : Nat) (pc : Word) : s.fetchFault ps pc =
    (s.targetFault ps pc).or (if s.isPoisoned (kmemAddr ps pc.toNat) 4 then some fECC else none) := by
  unfold State.fetchFault State.targetFault
  split
  · rfl
  · split
    · rfl
    · split <;> rfl

theorem fetchFault_of_bad {s : State} {ps c : Nat} {pc : Word} (h : targetBad { s with cur := ps } pc c) :
    s.fetchFault ps pc = some c :=
  (fetchFault_eq s ps pc).trans (congrArg (fun o : Option Nat => o.or _) (targetFault_of_bad (s := { s with cur := ps }) h))

theorem fetchFault_of_poisoned {s : State} {ps : Nat} {pc : Word} (h : targetOk { s with cur := ps } pc)
    (poisoned : s.isPoisoned (kmemAddr ps pc.toNat) 4 = true) : s.fetchFault ps pc = some fECC := by
  have reachable : s.targetFault ps pc = none := targetFault_of_ok (s := { s with cur := ps }) h
  rw [fetchFault_eq, reachable, poisoned]
  rfl

/-- A keeper that may run executes the word that it fetches. -/
theorem runTurn_keeper {s : State} {ps : Nat} (runs : s.keeperRuns ps = true) (fetch : s.fetchFault ps (s.keeper ps).pc = none) :
    runTurn (.keeper ps) s = exec (decode (s.fetchWord ps)) { s with cur := ps } := by
  simp only [runTurn, turnInstr, prepare, runs, fetch, if_true]

/-- A keeper whose fetch faults takes the trap and executes no word. -/
theorem runTurn_keeper_fault {s : State} {ps c : Nat} (runs : s.keeperRuns ps = true)
    (fetch : s.fetchFault ps (s.keeper ps).pc = some c) :
    runTurn (.keeper ps) s = .next (({ s with cur := ps } : State).keeperFault ps c (s.keeper ps).pc) := by
  simp only [runTurn, turnInstr, prepare, runs, fetch, if_true]

/-- Settles O6: `runTurn_keeper` on the state without that turn. -/
theorem stepRunsKeeperWord : Obligations.StepRunsKeeperWord := by
  unfold Obligations.StepRunsKeeperWord
  intro s ps ts on next runs fetch
  rw [step_of_inputs on next]
  exact runTurn_keeper (s := { s with inputs := ts }) runs fetch

/-- Settles O9: the first three faults are those of a jump to the pc, the last is of a pc that a jump could reach. -/
theorem fetchFaultTraps : Obligations.FetchFaultTraps := by
  unfold Obligations.FetchFaultTraps
  intro s ps ts c on next runs noTrap cases
  have bad : targetBad { s with cur := ps } (s.keeper ps).pc c ∨
      (targetOk { s with cur := ps } (s.keeper ps).pc ∧ s.isPoisoned (kmemAddr ps (s.keeper ps).pc.toNat) 4 = true ∧ c = 0x12) := by
    rcases cases with odd | high | perm | ⟨aligned, low, mode, poisoned, code⟩
    · exact .inl (.inl odd)
    · exact .inl (.inr (.inl high))
    · exact .inl (.inr (.inr perm))
    · exact .inr ⟨⟨aligned, low, mode⟩, poisoned, code⟩
  have fetch : s.fetchFault ps (s.keeper ps).pc = some c ∧ c < 65536 := by
    rcases bad with bad | ⟨fine, poisoned, rfl⟩
    · exact ⟨fetchFault_of_bad bad, targetBad_lt bad⟩
    · exact ⟨fetchFault_of_poisoned fine poisoned, by decide⟩
  rw [step_of_inputs on next]
  exact ⟨_, runTurn_keeper_fault (s := { s with inputs := ts }) runs fetch.1,
    keeperFault_faults { s with inputs := ts, cur := ps } c _ fetch.2 noTrap⟩

end Sys2Proof.Machine
end

section
/-! O19 to O23: CSRs, `trap`, `tret` and the halt of a keeper that faults in a handler (R128, R134 to R137). -/

namespace Sys2Proof.Machine

/-! ## Places of the on-chip window (R59) -/

/-- The window's addresses name its places. -/
theorem placeOf_window {o : Nat} (h : o < 2 ^ 40) : placeOf (windowBase + o) = windowPlace o := by
  have base : windowBase = 0x1F0000000000 := rfl
  have offset : windowBase + o - windowBase = o := by omega
  rw [placeOf, offset]
  iterate 6 rw [if_neg (by omega)]
  rw [if_pos (by omega)]

/-- A CSR's address names unit 7 of its sector (R61, R128). -/
theorem placeOf_csr {ps n : Nat} (hps : ps < 32) (hn : n < 4096) : placeOf (csr ps n) = .sreg ps 7 (8 * n) := by
  obtain ⟨d, i, hd, hi, rfl⟩ : ∃ d i, d < 4 ∧ i < 8 ∧ ps = 8 * d + i := ⟨ps / 8, ps % 8, by omega, by omega, by omega⟩
  have addr : csr (8 * d + i) n = windowBase + (d * 2 ^ 38 + 4 * 2 ^ 34 + i * 2 ^ 23 + 7 * 2 ^ 16 + 8 * n) := by
    simp only [csr, secReg]; omega
  rw [addr, placeOf_window (by omega)]
  generalize ho : d * 2 ^ 38 + 4 * 2 ^ 34 + i * 2 ^ 23 + 7 * 2 ^ 16 + 8 * n = o
  have die : bits o 39 38 = d := by simp only [bits]; omega
  have region : bits o 37 34 = 4 := by simp only [bits]; omega
  have zero : bits o 33 26 = 0 := by simp only [bits]; omega
  have sector : bits o 25 23 = i := by simp only [bits]; omega
  have unit : bits o 22 16 = 7 := by simp only [bits]; omega
  have off : bits o 15 0 = 8 * n := by simp only [bits]; omega
  simp [windowPlace, die, region, zero, sector, unit, off]

/-! ## The error log (R484) -/

/-- What logging an error leaves: the keepers, and every register but the count of records. -/
structure OnlyLogs (s t : State) : Prop where
  /-- The keepers stand. -/
  keepers : t.keepers = s.keepers
  /-- The keeper that runs stands. -/
  cur : t.cur = s.cur
  /-- Every register but the count of records stands. -/
  reg : ∀ pa, pa ≠ custReg 0x50 → t.reg pa = s.reg pa

theorem OnlyLogs.refl (s : State) : OnlyLogs s s := ⟨rfl, rfl, fun _ _ => rfl⟩

theorem OnlyLogs.trans {s t u : State} (h : OnlyLogs s t) (k : OnlyLogs t u) : OnlyLogs s u :=
  ⟨k.keepers.trans h.keepers, k.cur.trans h.cur, fun pa hpa => (k.reg pa hpa).trans (h.reg pa hpa)⟩

theorem devPutBytes_onlyLogs (s : State) (a : Nat) (bs : List Byte) : OnlyLogs s (s.devPutBytes a bs) := by
  unfold State.devPutBytes
  split
  · exact .refl s
  · exact ⟨rfl, rfl, fun _ _ => rfl⟩

theorem writeError_onlyLogs (s : State) (n time : Nat) (e : ErrInfo) (test action count : Nat) :
    OnlyLogs s (s.writeError n time e test action count) := by
  unfold State.writeError
  split
  · exact devPutBytes_onlyLogs ..
  · exact .refl s

theorem rewriteError_onlyLogs (s : State) (r : TestRec) (test action : Nat) : OnlyLogs s (s.rewriteError r test action) := by
  unfold State.rewriteError
  split
  · exact writeError_onlyLogs ..
  · exact .refl s

theorem raise_onlyLogs (s : State) (v : Nat) : OnlyLogs s (s.raise v) := by
  unfold State.raise
  split <;> exact ⟨rfl, rfl, fun _ _ => rfl⟩

theorem setErrorCount_onlyLogs (s : State) (hi lo v : Nat) : OnlyLogs s (s.setBits (custReg 0x50) hi lo v) :=
  ⟨rfl, rfl, fun pa hpa => by rw [State.setBits, State.reg_setReg, if_neg hpa.symm]⟩

/-- An error that is seen, whether merged into its resource's record or given a new one (R484, R485). -/
theorem logError_onlyLogs (s : State) (e : ErrInfo) : OnlyLogs s (s.logError e) := by
  unfold State.logError
  split
  · dsimp only
    refine .trans ?_ (rewriteError_onlyLogs ..)
    exact ⟨rfl, rfl, fun _ _ => rfl⟩
  · extract_lets n on test s1 s2 cust told s3
    have record : OnlyLogs s s1 := writeError_onlyLogs ..
    have counted : OnlyLogs s1 s2 := by
      unfold s2
      split
      · exact setErrorCount_onlyLogs ..
      · exact .refl s1
    have tested : OnlyLogs s2 s3 := by
      unfold s3
      split
      · exact ⟨rfl, rfl, fun _ _ => rfl⟩
      · exact .refl s2
    have done := (record.trans counted).trans tested
    split
    · exact done.trans (raise_onlyLogs ..)
    · exact done

/-! ## Traps (R135 to R137) -/

/-- A bit read for a new KSTAT is that bit of the old one. -/
theorem getLsbD_kstat (w : Word) (k : Nat) : decide (bits w.toNat k k % 2 = 1) = w.getLsbD k := by
  rw [bits_one, word_bit]

/-- Settles O21: `State.takeTrap` with SOFT set. -/
theorem trapWordTaken : Obligations.TrapWordTaken := by
  unfold Obligations.TrapWordTaken
  intro s c noTrap
  have fault : (c.zeroExtend 16).toNat + 0x10000 = 0x10000 + c.toNat := by
    have := c.isLt
    rw [BitVec.toNat_setWidth, Nat.mod_eq_of_lt (by omega), Nat.add_comm]
  exact ⟨_, rfl, fault ▸ takeTrap_taken s s.cur true (c.zeroExtend 16) 0 (nextPc s) noTrap⟩

/-- What is illegal takes the ILLEGAL trap. -/
theorem illegal_faults {s : State} (noTrap : s.inTrap s.cur = false) : KeeperFaults s s.illegal 0xC 0 :=
  keeperFault_faults s 0xC 0 (by decide) noTrap

/-- The return from a trap is a new KSTAT and a jump to KRESUME (R136). -/
theorem reg_returnTrap (s : State) (ps pa : Nat) : (s.returnTrap ps).reg pa = if csr ps 0 = pa then
    kstatWord (bits (s.reg (csr ps 0)).toNat 1 1) (bits (s.reg (csr ps 0)).toNat 1 1) 0 (bits (s.reg (csr ps 0)).toNat 3 3)
    else s.reg pa := by
  simp [State.returnTrap, State.setPc]

/-- Settles O22: KSTAT bit by bit, and the jump to KRESUME. -/
theorem returnFromTrap : Obligations.ReturnFromTrap := by
  unfold Obligations.ReturnFromTrap
  refine fun s => ⟨fun sup => ?_, fun user noTrap => ⟨s.illegal, ?_, illegal_faults noTrap⟩⟩
  · have tret : exec .keeperTret s = .next (s.returnTrap s.cur) := by
      change ok (if s.supervisor s.cur then _ else _) = _
      rw [if_pos sup]
    refine ⟨_, tret, ?pc, ?mode, ?intrap, ?prior, ?halt, ?regs, setPc_to s _⟩
    case pc => simp [State.returnTrap, State.setPc]
    case regs => exact fun pa other => by rw [reg_returnTrap, if_neg other.symm]
    all_goals
      simp only [State.supervisor, State.inTrap, State.halted, reg_returnTrap, if_true]
      rw [kstat_bit _ _ _ _ _ (by decide)]
    case mode | prior => exact getLsbD_kstat _ 1
    case intrap => rfl
    case halt => exact getLsbD_kstat _ 3
  · change ok (if s.supervisor s.cur then _ else _) = _
    rw [user]
    rfl

/-- A fault inside a trap handler halts the keeper: KFAULT and KADDR are set, and the trap is not taken (R137). -/
theorem takeTrap_halts {s : State} {ps : Nat} (soft : Bool) (code : BitVec 16) (addr resume : Word) (inTrap : s.inTrap ps = true) :
    let t := s.takeTrap ps soft code addr resume
    t.halted ps = true ∧ t.reg (csr ps 3) = BitVec.ofNat 64 (code.toNat + (if soft then 0x10000 else 0)) ∧ t.reg (csr ps 4) = addr
      ∧ t.reg (csr ps 2) = s.reg (csr ps 2) ∧ t.keepers = s.keepers := by
  have notLog (n : Nat) (hn : n < 16) : csr ps n ≠ custReg 0x50 := by simp only [csr, secReg, custReg, linkReg]; omega
  have other {m n : Nat} (h : m ≠ n) : csr ps m ≠ csr ps n := csr_ne ps h
  simp only [State.takeTrap, inTrap, if_true, State.halted]
  have logs := logError_onlyLogs (((s.setReg (csr ps 3) (BitVec.ofNat 64 (code.toNat + (if soft then 0x10000 else 0)))).setReg
    (csr ps 4) addr).setReg (csr ps 0) (kstatWord (bits (s.reg (csr ps 0)).toNat 0 0) (bits (s.reg (csr ps 0)).toNat 1 1) 1 1))
    { source := 12, severity := 2, loc := kmemAddr ps 0, detail := BitVec.ofNat 64 (code.toNat + (if soft then 0x10000 else 0)) }
  refine ⟨?_, ?_, ?_, ?_, logs.keepers⟩ <;> rw [logs.reg _ (notLog _ (by decide))]
  · rw [State.reg_setReg, if_pos rfl, kstat_bit _ _ _ _ _ (by decide)]
    rfl
  · simp [other]
  · simp [other]
  · simp [other]

/-- A halted keeper executes nothing (R137). -/
theorem keeperRuns_of_halted {s : State} {ps : Nat} (h : s.halted ps = true) : s.keeperRuns ps = false := by
  simp [State.keeperRuns, h]

/-- Settles O23: both words are `State.takeTrap` inside a handler. -/
theorem faultInTrapHalts : Obligations.FaultInTrapHalts := by
  unfold Obligations.FaultInTrapHalts
  intro s i fault _ inTrap form
  obtain ⟨soft, code, resume, taken, value⟩ : ∃ (soft : Bool) (code : BitVec 16) (resume : Word),
      exec i s = .next (s.takeTrap s.cur soft code 0 resume) ∧
        BitVec.ofNat 64 (code.toNat + (if soft then 0x10000 else 0)) = fault := by
    rcases form with ⟨c, rfl, rfl⟩ | ⟨w, rfl, rfl⟩
    · refine ⟨true, c.zeroExtend 16, nextPc s, rfl, ?_⟩
      have := c.isLt
      rw [BitVec.toNat_setWidth, Nat.mod_eq_of_lt (by omega), Nat.add_comm]
      rfl
    · exact ⟨false, BitVec.ofNat 16 fILLEGAL, (s.keeper s.cur).pc, rfl, rfl⟩
  obtain ⟨halted, kfault, kaddr, kresume, keepers⟩ := takeTrap_halts soft code 0 resume inTrap
  exact ⟨_, taken, halted, keeperRuns_of_halted halted, kfault.trans value, kaddr, kresume, keepers⟩

end Sys2Proof.Machine
end

section
/-! O19, O20: CSR reads and writes (R128, R134). -/

namespace Sys2Proof.Machine

/-! ## The listed CSRs (R128, R134) -/

theorem csrListed_iff {c : Nat} : csrListed c = true ↔ c ∈ csrWritable.map (·.1) := List.contains_iff_mem

theorem csrUser_iff {c : Nat} : csrUser c = true ↔ c ∈ csrOfUser := List.contains_iff_mem

/-- A read of a CSR: the clk count, the length of the event queue, or what is stored (R128). -/
theorem regRead_csr (s : State) {ps n : Nat} (hps : ps < 32) (hn : n < 4096) : s.regRead (csr ps n) =
    if n = 0x018 then BitVec.ofNat 64 s.clk else if n = 0x019 then BitVec.ofNat 64 (s.keeper ps).evq.length else s.reg (csr ps n) := by
  have clk : 8 * n = 0xC0 ↔ n = 0x018 := by omega
  have evq : 8 * n = 0xC8 ↔ n = 0x019 := by omega
  rw [State.regRead, placeOf_csr hps hn]
  simp only [clk, evq]

/-- Settles O19: the listed CSRs in the modes that may read them, and the ILLEGAL trap for the rest. -/
theorem csrReads : Obligations.CsrReads := by
  unfold Obligations.CsrReads
  intro s d c hps
  have arm : exec (.keeperCsrr d c) s = .next (if !csrListed c.toNat || (!s.supervisor s.cur && !csrUser c.toNat) then s.illegal
      else s.kWrite d (s.regRead (csr s.cur c.toNat))) := rfl
  refine ⟨fun listed mode => ⟨_, ?read, kWrite_to s d _⟩, fun bad noTrap => ⟨_, ?trap, illegal_faults noTrap⟩⟩
  case read =>
    rw [arm, if_neg, regRead_csr s hps c.isLt]
    have mode : s.supervisor s.cur = true ∨ csrUser c.toNat = true := mode.imp_right csrUser_iff.mpr
    have listed := csrListed_iff.mpr listed
    rcases mode with sup | user <;> simp [*]
  case trap =>
    rw [arm, if_pos]
    rcases bad with unlisted | ⟨user, other⟩
    · simp [Bool.eq_false_iff.mpr (mt csrListed_iff.mp unlisted)]
    · simp [user, Bool.eq_false_iff.mpr (mt csrUser_iff.mp other)]

/-! ## Writes (R6, R134) -/

/-- The bits of a number outside a mask, as a difference. -/
theorem sub_and_eq (x m : Word) : x - (x &&& m) = x &&& ~~~m := by
  have disjoint : (x &&& ~~~m) &&& (x &&& m) = 0#64 := by
    ext i hi
    simp only [BitVec.getElem_and, BitVec.getElem_not, BitVec.getElem_zero]
    cases x[i] <;> cases m[i] <;> rfl
  have whole : (x &&& ~~~m) + (x &&& m) = x := by
    rw [BitVec.add_eq_or_of_and_eq_zero _ _ disjoint]
    ext i hi
    simp only [BitVec.getElem_or, BitVec.getElem_and, BitVec.getElem_not]
    cases x[i] <;> cases m[i] <;> rfl
  rw [BitVec.sub_eq_iff_eq_add, whole]

/-- A masked write without W1C bits (R6). -/
theorem maskedWrite_rw (x m v : Word) :
    BitVec.ofNat 64 (maskedWrite x.toNat m.toNat 0 v.toNat) = (x &&& ~~~m) ||| (v &&& m) := by
  have disjoint : (x &&& ~~~m) &&& (v &&& m) = 0#64 := by
    ext i hi
    simp only [BitVec.getElem_and, BitVec.getElem_not, BitVec.getElem_zero]
    cases m[i] <;> simp
  have kept : x.toNat - (x.toNat &&& m.toNat) = (x &&& ~~~m).toNat := by
    rw [← sub_and_eq, BitVec.toNat_sub_of_le, BitVec.toNat_and]
    exact BitVec.le_def.mpr (by rw [BitVec.toNat_and]; exact Nat.and_le_left)
  rw [maskedWrite, Nat.and_zero, Nat.and_zero, Nat.sub_zero, kept, ← BitVec.toNat_and, BitVec.ofNat_add, BitVec.ofNat_toNat,
    BitVec.ofNat_toNat, BitVec.setWidth_eq, BitVec.setWidth_eq, BitVec.add_eq_or_of_and_eq_zero _ _ disjoint]

/-- The writable bits of each CSR (R128). -/
theorem regMask_csr (ps : Nat) : ∀ e ∈ csrWritable, regMask (.sreg ps 7 (8 * e.1)) = (e.2.toNat, 0) := by
  simp only [csrWritable, List.forall_mem_cons, List.not_mem_nil, false_implies, implies_true, and_true]
  and_intros <;> rfl

/-- A write of a CSR starts no action. -/
theorem regAction_csr (s : State) (ps off : Nat) (v : Word) : s.regAction (.sreg ps 7 off) v = none := by
  unfold State.regAction
  split
  case h_2 ps' u noUnit heq =>
    obtain ⟨-, rfl, -⟩ := Place.sreg.inj heq
    rfl
  all_goals simp_all

/-- The masked write of a CSR (R6, R128). -/
def csrWrite (s : State) (ps c : Nat) (m v : Word) : State :=
  if m = 0 then s else s.setReg (csr ps c) ((s.reg (csr ps c) &&& ~~~m) ||| (v &&& m))

theorem reg_csrWrite (s : State) (ps c : Nat) (m v : Word) (pa : Nat) : (csrWrite s ps c m v).reg pa =
    if csr ps c = pa then (s.reg (csr ps c) &&& ~~~m) ||| (v &&& m) else s.reg pa := by
  unfold csrWrite
  split
  · next zero =>
    subst zero
    split
    · next here => simp only [here, BitVec.ofNat_eq_ofNat, BitVec.not_zero, BitVec.and_allOnes, BitVec.and_zero, BitVec.or_zero]
    · rfl
  · exact State.reg_setReg ..

theorem csrWrite_frame (s : State) (ps c : Nat) (m v : Word) : { csrWrite s ps c m v with regs := s.regs, free := s.free } = s := by
  unfold csrWrite
  split <;> rfl

/-- A write of a CSR replaces its writable bits; nothing else changes but the count of free values. -/
theorem regWrite_csr (s : State) {ps c : Nat} {m : Word} (v : Word) (hps : ps < 32) (hm : (c, m) ∈ csrWritable) :
    s.regWrite (csr ps c) v = { csrWrite s ps c m v with free := s.free + 4 } := by
  have hc : c < 4096 := by
    have all : ∀ e ∈ csrWritable, e.1 < 4096 := by decide
    exact all _ hm
  have zero : m.toNat = 0 ↔ m = 0 := by rw [← BitVec.toNat_inj]; rfl
  have clamp : s.clampWrite (.sreg ps 7 (8 * c)) v.toNat = v.toNat := rfl
  rw [regWrite_sreg v (placeOf_csr hps hc), regAction_csr, regMask_csr ps _ hm, clamp, csrWrite]
  simp only [maskedWrite_rw, zero, and_true, List.nil_append]
  split <;> rfl

/-- CSRW of a listed CSR in supervisor mode. -/
theorem exec_keeperCsrw {s : State} {a : Reg} {c : BitVec 12} {m : Word} (hps : s.cur < 32) (hm : (c.toNat, m) ∈ csrWritable)
    (sup : s.supervisor s.cur = true) : exec (.keeperCsrw a c) s =
      .next (({ csrWrite s s.cur c.toNat m (s.kReg s.cur a) with free := s.free + 4 } : State).pcNext s.cur) := by
  have listed := csrListed_iff.mpr (List.mem_map_of_mem (f := (·.1)) hm)
  change ok (if !csrListed c.toNat || !s.supervisor s.cur then s.illegal
    else (s.regWrite (csr s.cur c.toNat) (s.kReg s.cur a)).pcNext s.cur) = _
  rw [listed, sup, ← regWrite_csr s _ hps hm, if_neg (by decide)]

/-- CSRW of an unlisted CSR, or in user mode. -/
theorem exec_keeperCsrw_illegal {s : State} (a : Reg) {c : BitVec 12}
    (bad : c.toNat ∉ csrWritable.map (·.1) ∨ s.supervisor s.cur = false) : exec (.keeperCsrw a c) s = .next s.illegal := by
  change ok (if !csrListed c.toNat || !s.supervisor s.cur then s.illegal
    else (s.regWrite (csr s.cur c.toNat) (s.kReg s.cur a)).pcNext s.cur) = _
  rcases bad with unlisted | user
  · rw [Bool.eq_false_iff.mpr (mt csrListed_iff.mp unlisted), Bool.not_false, Bool.true_or, if_pos rfl]
  · rw [user, Bool.not_false, Bool.or_true, if_pos rfl]

/-- Settles O20: `csrWrite`, and the ILLEGAL trap for the rest. -/
theorem csrWrites : Obligations.CsrWrites := by
  unfold Obligations.CsrWrites
  refine fun s a c hps => ⟨fun m hm sup => ⟨_, exec_keeperCsrw hps hm sup, ?written, ?others, ?frame⟩,
    fun bad noTrap => ⟨_, exec_keeperCsrw_illegal a bad, illegal_faults noTrap⟩⟩
  case written => exact (reg_csrWrite s s.cur c.toNat m _ _).trans (if_pos rfl)
  case others => exact fun pa other => (reg_csrWrite s s.cur c.toNat m _ pa).trans (if_neg other.symm)
  case frame =>
    have only : { ({ csrWrite s s.cur c.toNat m (s.kReg s.cur a) with free := s.free + 4 } : State).pcNext s.cur with
        regs := s.regs, free := s.free } =
        ({ csrWrite s s.cur c.toNat m (s.kReg s.cur a) with regs := s.regs, free := s.free } : State).pcNext s.cur := rfl
    rw [only, csrWrite_frame]
    exact pcNext_to s

end Sys2Proof.Machine
end

section
/-! O13, O14, O16: loads and stores of local memory, and the faults of a keeper's addresses (R126, R129, R132). -/

namespace Sys2Proof.Machine

/-! ## Local memory as a place (R59) -/

/-- A byte of a keeper's local memory is a place of its own (R59, region 3). -/
theorem placeOf_kmem {ps o : Nat} (hps : ps < 32) (ho : o < 0x40000) : placeOf (kmemAddr ps o) = .kmem ps o := by
  obtain ⟨d, i, hd, hi, rfl⟩ : ∃ d i, d < 4 ∧ i < 8 ∧ ps = 8 * d + i := ⟨ps / 8, ps % 8, by omega, by omega, by omega⟩
  have addr : kmemAddr (8 * d + i) o = windowBase + (d * 2 ^ 38 + 3 * 2 ^ 34 + i * 2 ^ 23 + o) := by
    simp only [kmemAddr]; omega
  rw [addr, placeOf_window (by omega)]
  generalize hx : d * 2 ^ 38 + 3 * 2 ^ 34 + i * 2 ^ 23 + o = x
  have die : bits x 39 38 = d := by simp only [bits]; omega
  have region : bits x 37 34 = 3 := by simp only [bits]; omega
  have zero : bits x 33 26 = 0 := by simp only [bits]; omega
  have sector : bits x 25 23 = i := by simp only [bits]; omega
  have high : bits x 22 18 = 0 := by simp only [bits]; omega
  have off : bits x 17 0 = o := by simp only [bits]; omega
  simp [windowPlace, die, region, zero, sector, high, off]

/-- Local memory belongs to the module itself (R62). -/
theorem target_kmem (s : State) (die : Nat) {ps o : Nat} (hps : ps < 32) (ho : o < 0x40000) :
    s.target die (kmemAddr ps o) = .here (kmemAddr ps o) := by
  have bit : bitOf (kmemAddr ps o) 56 = false := by
    have small : kmemAddr ps o < 2 ^ 56 := by simp only [kmemAddr, windowBase]; omega
    rw [bitOf, Nat.div_eq_of_lt small]
    rfl
  rw [State.target, bit, if_neg (by decide)]

/-- The last byte of an access to local memory. -/
theorem kmemAddr_add (ps o k : Nat) : kmemAddr ps o + k = kmemAddr ps (o + k) := by
  simp only [kmemAddr]; omega

section
variable {pa ps o : Nat} (place : placeOf pa = .kmem ps o)
include place

/-- A keeper's own sector holds none of its accesses back. -/
theorem sectorHeld_of_kmem (s : State) : s.sectorHeld ps pa = false := by
  simp [State.sectorHeld, place]

theorem dead_of_kmem (s : State) : s.dead pa = false := by
  simp [State.dead, place]

theorem isGlobal_of_kmem : isGlobal pa = false := by
  simp [isGlobal, place]

/-- An access that stays within local memory is one that the map permits. -/
theorem physOk_of_kmem (s : State) {n o' : Nat} (last : placeOf (pa + (n - 1)) = .kmem ps o') (atomic : Bool) :
    s.physOk pa n atomic = true := by
  simp [State.physOk, place, last, sameUnit]

/-- A load of local memory gives its bytes and their poison. -/
theorem load_of_kmem (s : State) {n o' : Nat} (last : placeOf (pa + (n - 1)) = .kmem ps o') (view hot phys : Bool) :
    s.load pa n view hot phys = ({ data := s.bytes pa n, poison := s.isPoisoned pa n, code := 0 }, s) := by
  simp only [State.load, physOk_of_kmem place s last, if_true, place, isGlobal_of_kmem place, State.rawLoad, dead_of_kmem place]
  rfl

/-- A store to local memory writes its bytes there. -/
theorem store_of_kmem (s : State) {o' : Nat} {bs : List Byte} (last : placeOf (pa + (bs.length - 1)) = .kmem ps o') (hot phys : Bool) :
    s.store pa bs false hot phys = (0, s.rawStore pa bs false) := by
  simp only [State.store, physOk_of_kmem place s last, if_true, place, isGlobal_of_kmem place]
  rfl

end

/-- The lines of local memory take no stack errors, so that a write meets none (R361). -/
theorem meetLine_of_kmem {s : State} {line ps o : Nat} (place : placeOf (64 * line) = .kmem ps o) : s.meetLine line = s := by
  simp only [State.meetLine, place]

theorem dropUpset_of_kmem {s : State} {line ps o : Nat} (place : placeOf (64 * line) = .kmem ps o) : s.dropUpset line = s := by
  simp only [State.dropUpset, place]

/-- The lines of local memory are places of it. -/
theorem placeOf_kmem_line {ps o i : Nat} (hps : ps < 32) (ho : (o / 64 + i) * 64 < 0x40000) :
    placeOf (64 * (kmemAddr ps o / 64 + i)) = .kmem ps ((o / 64 + i) * 64) := by
  have line : 64 * (kmemAddr ps o / 64 + i) = kmemAddr ps ((o / 64 + i) * 64) := by simp only [kmemAddr, windowBase]; omega
  rw [line, placeOf_kmem hps ho]

theorem foldl_eq_of_fixed {α β : Type} {f : β → α → β} {b : β} {l : List α} (h : ∀ a ∈ l, f b a = b) : l.foldl f b = b := by
  induction l with
  | nil => rfl
  | cons a l ih => rw [List.foldl_cons, h a List.mem_cons_self, ih fun x hx => h x (List.mem_cons_of_mem a hx)]

/-- A write to local memory meets no stack errors. -/
theorem meetWrite_kmem (s : State) {ps o n : Nat} (hps : ps < 32) (ho : o + (n - 1) < 0x40000) :
    s.meetWrite (kmemAddr ps o) n = s := by
  unfold State.meetWrite
  split
  · rfl
  · refine foldl_eq_of_fixed fun i hi => ?_
    have inside : (o / 64 + i) * 64 < 0x40000 := by
      have := List.mem_range.mp hi
      simp only [kmemAddr, windowBase] at this
      omega
    have place := placeOf_kmem_line (o := o) hps inside
    dsimp only
    split
    · exact dropUpset_of_kmem place
    · exact meetLine_of_kmem place

/-- A write of less than a line clears no line's poison (R238). -/
theorem clearPoison_of_lt (s : State) (a : Nat) {n : Nat} (h : n < 64) : s.clearPoison a n = s := by
  have all : s.poison.filter (fun l => !(decide (a ≤ 64 * l ∧ 64 * l + 64 ≤ a + n))) = s.poison :=
    List.filter_eq_self.mpr fun l _ => by simp; omega
  rw [State.clearPoison, all]

/-- A store of less than a line to local memory changes its bytes and nothing else. -/
theorem store_kmem (s : State) {ps o : Nat} {bs : List Byte} (hps : ps < 32) (ho : o + (bs.length - 1) < 0x40000)
    (h : bs.length < 64) (hot phys : Bool) :
    s.store (kmemAddr ps o) bs false hot phys = (0, s.putBytes (kmemAddr ps o) bs) := by
  have place : placeOf (kmemAddr ps o) = .kmem ps o := placeOf_kmem hps (by omega)
  have last : placeOf (kmemAddr ps o + (bs.length - 1)) = .kmem ps (o + (bs.length - 1)) := by rw [kmemAddr_add, placeOf_kmem hps ho]
  have dead := dead_of_kmem place s
  rw [store_of_kmem place s last, State.rawStore, if_neg (by simp [dead]), meetWrite_kmem s hps ho]
  simp only [place, Bool.false_eq_true, if_false, clearPoison_of_lt _ _ h]

/-- A load of local memory gives its bytes and their poison. -/
theorem load_kmem (s : State) {ps o n : Nat} (hps : ps < 32) (hn : o + (n - 1) < 0x40000) (view hot phys : Bool) :
    s.load (kmemAddr ps o) n view hot phys =
      ({ data := s.bytes (kmemAddr ps o) n, poison := s.isPoisoned (kmemAddr ps o) n, code := 0 }, s) := by
  have last : placeOf (kmemAddr ps o + (n - 1)) = .kmem ps (o + (n - 1)) := by rw [kmemAddr_add, placeOf_kmem hps hn]
  exact load_of_kmem (placeOf_kmem hps (by omega)) s last view hot phys

/-! ## The words that load and store (R132) -/

/-- Each load is `State.keeperLoad` of its bytes. -/
theorem exec_loadWord : ∀ e ∈ loadWords, ∀ (d a : Reg) (off : BitVec 15) (s : State),
    exec (e.1 d a off) s = .next (s.keeperLoad e.2 d a off) := by
  simp only [loadWords, List.forall_mem_cons, List.not_mem_nil, false_implies, implies_true, and_true]
  exact ⟨fun _ _ _ _ => rfl, fun _ _ _ _ => rfl, fun _ _ _ _ => rfl, fun _ _ _ _ => rfl⟩

/-- Each store is `State.keeperStore` of its bytes. -/
theorem exec_storeWord : ∀ e ∈ storeWords, ∀ (a b : Reg) (off : BitVec 15) (s : State),
    exec (e.1 a b off) s = .next (s.keeperStore e.2 a b off) := by
  simp only [storeWords, List.forall_mem_cons, List.not_mem_nil, false_implies, implies_true, and_true]
  exact ⟨fun _ _ _ _ => rfl, fun _ _ _ _ => rfl, fun _ _ _ _ => rfl, fun _ _ _ _ => rfl⟩

theorem loadWords_width : ∀ e ∈ loadWords, e.2 = 1 ∨ e.2 = 2 ∨ e.2 = 4 ∨ e.2 = 8 := by
  simp [loadWords]

theorem storeWords_width : ∀ e ∈ storeWords, e.2 = 1 ∨ e.2 = 2 ∨ e.2 = 4 ∨ e.2 = 8 := by
  simp [storeWords]

/-- An aligned access that begins in local memory ends there. -/
theorem aligned_inside {n x : Nat} (width : n = 1 ∨ n = 2 ∨ n = 4 ∨ n = 8) (aligned : x % n = 0) (low : x < 0x40000) :
    x + (n - 1) < 0x40000 := by
  rcases width with rfl | rfl | rfl | rfl <;> omega

/-- An address of local memory that the mode may reach is its own place (R129). -/
theorem keeperResolve_local {s : State} {ea : Word} (h : localOk s ea) (write : Bool) :
    s.keeperResolve s.cur ea write = (.ok (kmemAddr s.cur ea.toNat), s) := by
  rw [State.keeperResolve, if_pos h.1, if_neg (permitted_of_localOk h)]

/-- A load performed at a home of this module. -/
theorem keeperLoad_here {s s1 s2 : State} {n pa p : Nat} {d a : Reg} {off : BitVec 15} {g : Got}
    (aligned : (keeperAddr s a off).toNat % n = 0) (place : s.keeperResolve s.cur (keeperAddr s a off) false = (.ok pa, s1))
    (here : s1.target (s.cur / 8) pa = .here p)
    (goes : (s1.sectorHeld s.cur p || (decide (0x40000 ≤ (keeperAddr s a off).toNat) && s1.portPending s.cur p)) = false)
    (load : s1.load p n false true ((keeperAddr s a off).getLsbD 63) = (g, s2)) :
    s.keeperLoad n d a off = s2.loadDone d (keeperAddr s a off) p g := by
  unfold keeperAddr at *
  simp only [State.keeperLoad, aligned, ne_eq, not_true, if_false, place, here, goes, Bool.false_eq_true, load]

/-- A store performed at a home of this module. -/
theorem keeperStore_here {s s1 s2 : State} {n pa p : Nat} {a b : Reg} {off : BitVec 15}
    (aligned : (keeperAddr s a off).toNat % n = 0) (place : s.keeperResolve s.cur (keeperAddr s a off) true = (.ok pa, s1))
    (here : s1.target (s.cur / 8) pa = .here p)
    (goes : (s1.sectorHeld s.cur p || (decide (0x40000 ≤ (keeperAddr s a off).toNat) && s1.portPending s.cur p)) = false)
    (store : s1.store p (leBytes n (s.kReg s.cur b).toNat) false true ((keeperAddr s a off).getLsbD 63) = (0, s2)) :
    s.keeperStore n a b off = s2.pcNext s.cur := by
  unfold keeperAddr at *
  simp only [State.keeperStore, aligned, ne_eq, not_true, if_false, place, here, goes, Bool.false_eq_true, store]

/-- Nothing holds back an access to the keeper's own local memory. -/
theorem local_goes {s : State} {ea : Word} (hps : s.cur < 32) (low : ea.toNat < 0x40000) :
    (s.sectorHeld s.cur (kmemAddr s.cur ea.toNat) ||
      (decide (0x40000 ≤ ea.toNat) && s.portPending s.cur (kmemAddr s.cur ea.toNat))) = false := by
  rw [sectorHeld_of_kmem (placeOf_kmem hps low), decide_eq_false (by omega)]
  rfl

/-- A load that returns data without poison writes them (R129). -/
theorem loadDone_clean {s : State} {d : Reg} {ea : Word} {pa : Nat} {g : Got} (code : g.code = 0) (poison : g.poison = false) :
    s.loadDone d ea pa g = s.kWrite d (sext64 g.data) := by
  simp [State.loadDone, code, poison]

theorem leNat_lt (bs : List Byte) : leNat bs < 2 ^ (8 * bs.length) := by
  induction bs with
  | nil => decide
  | cons b bs ih =>
    have := b.isLt
    simp only [leNat, List.length_cons, Nat.mul_add, Nat.mul_one, Nat.pow_add]
    omega

theorem getAll_length (m : List Host.Cell) (a n : Nat) : (Memory.getAll m a n).length = n := by
  induction n generalizing a with
  | zero => rfl
  | succ n ih => simp [Memory.getAll, ih]

/-- The value that a load extends from its width (R132). -/
theorem sext64_eq (bs : List Byte) : sext64 bs = (BitVec.ofNat (8 * bs.length) (leNat bs)).signExtend 64 := by
  have bound := leNat_lt bs
  have value : (BitVec.ofNat (8 * bs.length) (leNat bs)).toNat = leNat bs := by rw [BitVec.toNat_ofNat, Nat.mod_eq_of_lt bound]
  rw [sext64, BitVec.signExtend, BitVec.toInt_eq_toNat_cond, value]
  cases bs with
  | nil => rfl
  | cons b bs =>
    have half : 2 ^ (8 * (b :: bs).length) = 2 * 2 ^ (8 * (b :: bs).length - 1) := by
      rw [← Nat.pow_succ']; congr 1
    simp only [List.length_cons] at *
    split <;> split
    · omega
    · rfl
    · rfl
    · omega

/-- Settles O13: the home is local memory itself, which returns its bytes. -/
theorem keeperLocalLoad : Obligations.KeeperLocalLoad := by
  unfold Obligations.KeeperLocalLoad
  intro e he d a off s hps aligned reach clean
  have inside := aligned_inside (loadWords_width e he) aligned reach.1
  have value := sext64_eq (s.bytes (kmemAddr s.cur (keeperAddr s a off).toNat) e.2)
  rw [show (s.bytes (kmemAddr s.cur (keeperAddr s a off).toNat) e.2).length = e.2 from getAll_length ..] at value
  refine ⟨_, ?_, kWrite_to s d _⟩
  rw [exec_loadWord e he, keeperLoad_here aligned (keeperResolve_local reach false) (target_kmem s _ hps reach.1)
    (local_goes hps reach.1) (load_kmem s hps inside _ _ _), loadDone_clean rfl clean, value]
  rfl

/-- Settles O14: the home is local memory itself, whose bytes alone change. -/
theorem keeperLocalStore : Obligations.KeeperLocalStore := by
  unfold Obligations.KeeperLocalStore
  intro e he a b off s canonical hps aligned reach
  have width := storeWords_width e he
  have inside := aligned_inside width aligned reach.1
  have store : s.store (kmemAddr s.cur (keeperAddr s a off).toNat) (leBytes e.2 (s.kReg s.cur b).toNat) false true
      ((keeperAddr s a off).getLsbD 63) =
      (0, s.putBytes (kmemAddr s.cur (keeperAddr s a off).toNat) (leBytes e.2 (s.kReg s.cur b).toNat)) :=
    store_kmem s hps (by rw [leBytes_length]; exact inside) (by rw [leBytes_length]; omega) _ _
  have run := (exec_storeWord e he a b off s).trans (congrArg Host.Outcome.next
    (keeperStore_here aligned (keeperResolve_local reach true) (target_kmem s _ hps reach.1) (local_goes hps reach.1) store))
  refine ⟨_, run, fun k hk => ?_, fun x hx => ?_, pcNext_to s⟩
  · exact (State.byte_putBytes_in canonical _ _ k (by rwa [leBytes_length])).trans (leBytes_getElem ..)
  · exact State.byte_putBytes_out canonical _ _ x (by rwa [leBytes_length])

/-! ## The faults of an address (R129, R132) -/

theorem keeperLoad_misaligned {s : State} {n : Nat} {d a : Reg} {off : BitVec 15} (h : (keeperAddr s a off).toNat % n ≠ 0) :
    s.keeperLoad n d a off = s.keeperFault s.cur fALIGN (keeperAddr s a off) := if_pos h

theorem keeperStore_misaligned {s : State} {n : Nat} {a b : Reg} {off : BitVec 15} (h : (keeperAddr s a off).toNat % n ≠ 0) :
    s.keeperStore n a b off = s.keeperFault s.cur fALIGN (keeperAddr s a off) := if_pos h

theorem keeperLoad_unresolved {s : State} {n c : Nat} {d a : Reg} {off : BitVec 15} (aligned : (keeperAddr s a off).toNat % n = 0)
    (h : s.keeperResolve s.cur (keeperAddr s a off) false = (.error c, s)) :
    s.keeperLoad n d a off = s.keeperFault s.cur c (keeperAddr s a off) := by
  unfold keeperAddr at *
  simp only [State.keeperLoad, aligned, ne_eq, not_true, if_false, h]

theorem keeperStore_unresolved {s : State} {n c : Nat} {a b : Reg} {off : BitVec 15} (aligned : (keeperAddr s a off).toNat % n = 0)
    (h : s.keeperResolve s.cur (keeperAddr s a off) true = (.error c, s)) :
    s.keeperStore n a b off = s.keeperFault s.cur c (keeperAddr s a off) := by
  unfold keeperAddr at *
  simp only [State.keeperStore, aligned, ne_eq, not_true, if_false, h]

/-- An address with a bit set in [63:56] lies beyond local memory. -/
theorem not_local_of_high {ea : Word} (h : ea.getLsbD 63 = true ∨ ea.extractLsb' 56 7 ≠ 0) : ¬ea.toNat < 0x40000 := by
  intro low
  rcases h with bit | field
  · rw [← word_bit, Nat.div_eq_of_lt (by omega)] at bit
    exact absurd bit (by decide)
  · refine field (BitVec.eq_of_toNat_eq ?_)
    rw [toNat_field, Nat.div_eq_of_lt (by omega)]
    rfl

/-- The addresses that no translation is tried for, and their faults (R129): local memory below KUBASE and physical addresses in user
mode, physical addresses of more than 57 bits, and virtual ones of more than 56. -/
def AddressBad (s : State) (ea : Word) (c : Nat) : Prop :=
  (ea.toNat < 0x40000 ∧ s.supervisor s.cur = false ∧ ea.toNat < (s.reg (csr s.cur 0x00B)).toNat ∧ c = 9)
    ∨ (ea.getLsbD 63 = true ∧ s.supervisor s.cur = false ∧ c = 9)
    ∨ (ea.getLsbD 63 = true ∧ s.supervisor s.cur = true ∧ ea.extractLsb' 57 6 ≠ 0 ∧ c = 7)
    ∨ (ea.getLsbD 63 = false ∧ ea.extractLsb' 56 7 ≠ 0 ∧ c = 7)

theorem keeperResolve_bad {s : State} {ea : Word} {c : Nat} (h : AddressBad s ea c) (write : Bool) :
    s.keeperResolve s.cur ea write = (.error c, s) := by
  rcases h with ⟨low, user, below, rfl⟩ | ⟨phys, user, rfl⟩ | ⟨phys, sup, field, rfl⟩ | ⟨virt, field, rfl⟩
  · rw [State.keeperResolve, if_pos low, if_pos ⟨by simp [user], below⟩]; rfl
  · rw [State.keeperResolve, if_neg (not_local_of_high (.inl phys)), if_pos phys, user]; rfl
  · rw [State.keeperResolve, if_neg (not_local_of_high (.inl phys)), if_pos phys, sup, if_neg (by decide), if_pos field]; rfl
  · have wide : ea.extractLsb' 56 8 ≠ 0 := by
      intro zero
      refine field (BitVec.eq_of_toNat_eq ?_)
      have byte : ea.toNat / 2 ^ 56 % 2 ^ 8 = 0 := by rw [← toNat_field, zero]; rfl
      have bits : ea.toNat / 2 ^ 56 % 2 ^ 7 = 0 := by omega
      rw [toNat_field, bits]
      rfl
    rw [State.keeperResolve, if_neg (not_local_of_high (.inr field)), if_neg (by rw [virt]; decide), if_pos wide]; rfl

theorem addressBad_lt {s : State} {ea : Word} {c : Nat} (h : AddressBad s ea c) : c < 65536 := by
  rcases h with ⟨_, _, _, rfl⟩ | ⟨_, _, rfl⟩ | ⟨_, _, _, rfl⟩ | ⟨_, _, rfl⟩ <;> decide

/-- Settles O16: an address is misaligned, or aligned and `AddressBad`. -/
theorem keeperAccessFaults : Obligations.KeeperAccessFaults := by
  unfold Obligations.KeeperAccessFaults
  intro s ea c n i noTrap form cases
  have bad : (ea.toNat % n ≠ 0 ∧ c = fALIGN) ∨ (ea.toNat % n = 0 ∧ AddressBad s ea c) := by
    rcases cases with odd | ⟨aligned, low⟩ | ⟨aligned, user⟩ | ⟨aligned, phys⟩ | ⟨aligned, virt⟩
    · exact .inl odd
    · exact .inr ⟨aligned, .inl low⟩
    · exact .inr ⟨aligned, .inr (.inl user)⟩
    · exact .inr ⟨aligned, .inr (.inr (.inl phys))⟩
    · exact .inr ⟨aligned, .inr (.inr (.inr virt))⟩
  have code : c < 65536 := by
    rcases bad with ⟨_, rfl⟩ | ⟨_, bad⟩
    · decide
    · exact addressBad_lt bad
  refine ⟨_, ?_, keeperFault_faults s c ea code noTrap⟩
  rcases form with ⟨f, hf, d, a, off, rfl, rfl⟩ | ⟨f, hf, a, b, off, rfl, rfl⟩
  · rw [exec_loadWord _ hf]
    rcases bad with ⟨odd, rfl⟩ | ⟨aligned, bad⟩
    · rw [keeperLoad_misaligned odd]
    · rw [keeperLoad_unresolved aligned (keeperResolve_bad bad false)]
  · rw [exec_storeWord _ hf]
    rcases bad with ⟨odd, rfl⟩ | ⟨aligned, bad⟩
    · rw [keeperStore_misaligned odd]
    · rw [keeperStore_unresolved aligned (keeperResolve_bad bad true)]

end Sys2Proof.Machine
end

section
/-! O15: loads and stores outside local memory. No shared operation of an access changes which keeper runs. -/

namespace Sys2Proof.Machine

/-! ## Operations that leave the keeper that runs: registers, memory and tokens -/

/-- A fold of operations that leave the keeper that runs. -/
theorem cur_foldl {α : Type} {f : State → α → State} (h : ∀ t x, (f t x).cur = t.cur) (l : List α) (s : State) :
    (l.foldl f s).cur = s.cur := by
  induction l generalizing s with
  | nil => rfl
  | cons x l ih => rw [List.foldl_cons, ih, h]

@[simp] theorem State.cur_setBits (s : State) (pa hi lo v : Nat) : (s.setBits pa hi lo v).cur = s.cur := rfl
@[simp] theorem State.cur_bump (s : State) (pa n : Nat) : (s.bump pa n).cur = s.cur := rfl
@[simp] theorem State.cur_useFree (s : State) : s.useFree.cur = s.cur := rfl
@[simp] theorem State.cur_putBytes (s : State) (a : Nat) (bs : List Byte) : (s.putBytes a bs).cur = s.cur := rfl
@[simp] theorem State.cur_markPoison (s : State) (a n : Nat) : (s.markPoison a n).cur = s.cur := rfl
@[simp] theorem State.cur_clearPoison (s : State) (a n : Nat) : (s.clearPoison a n).cur = s.cur := rfl
@[simp] theorem State.cur_setLinePoison (s : State) (ci line : Nat) (p : Bool) : (s.setLinePoison ci line p).cur = s.cur := rfl
@[simp] theorem State.cur_stackError (s : State) (st off group : Nat) (ue : Bool) : (s.stackError st off group ue).cur = s.cur := rfl
@[simp] theorem State.cur_forward (s : State) (pa : Nat) (bs : List Byte) (p : Bool) : (s.forward pa bs p).cur = s.cur := rfl
@[simp] theorem State.cur_walkRemember (s : State) (die asid lvl va next : Nat) : (s.walkRemember die asid lvl va next).cur = s.cur := rfl
@[simp] theorem State.cur_remember (s : State) (x : Xlation) (n : Nat) : (s.remember x n).cur = s.cur := rfl
@[simp] theorem State.cur_logError (s : State) (e : ErrInfo) : (s.logError e).cur = s.cur := (logError_onlyLogs s e).cur

@[simp] theorem State.cur_send (s : State) (src : Dest) (t : Token) : (s.send src t).cur = s.cur := by
  unfold State.send
  split <;> rfl

@[simp] theorem State.cur_devPutBytes (s : State) (a : Nat) (bs : List Byte) : (s.devPutBytes a bs).cur = s.cur :=
  (devPutBytes_onlyLogs s a bs).cur

@[simp] theorem State.cur_devPut (s : State) (a n v : Nat) : (s.devPut a n v).cur = s.cur := State.cur_devPutBytes ..

@[simp] theorem State.cur_setPte (s : State) (pte v : Nat) : (s.setPte pte v).cur = s.cur := State.cur_devPut ..

@[simp] theorem State.cur_sendEvt (s : State) (die asid : Nat) (t : Token) : (s.sendEvt die asid t).cur = s.cur := State.cur_send ..

/-! ## Hotness and the memory-side cache (R61, R385) -/

@[simp] theorem State.cur_autoPush (s : State) (die frame asid pte tier : Nat) : (s.autoPush die frame asid pte tier).cur = s.cur := by
  unfold State.autoPush
  dsimp only
  split <;> rfl

@[simp] theorem State.cur_touch (s : State) (pa : Nat) : (s.touch pa).cur = s.cur := by
  unfold State.touch
  split
  · rfl
  · simp only [apply_ite State.cur, State.cur_autoPush, State.cur_devPut, ite_self]

@[simp] theorem State.cur_useChannel (s : State) (pa : Nat) (served : Bool) : (s.useChannel pa served).cur = s.cur := by
  unfold State.useChannel
  split <;> rfl

@[simp] theorem State.cur_mscCount (s : State) (pa : Nat) : (s.mscCount pa).cur = s.cur := by
  unfold State.mscCount
  split
  · exact State.cur_useChannel ..
  · rfl

/-! ## Storage and its errors (R361, R362) -/

@[simp] theorem State.cur_dropUpset (s : State) (line : Nat) : (s.dropUpset line).cur = s.cur := by
  unfold State.dropUpset
  split <;> rfl

@[simp] theorem State.cur_meetLine (s : State) (line : Nat) : (s.meetLine line).cur = s.cur := by
  unfold State.meetLine
  split
  · dsimp only
    split <;> simp
  · rfl

@[simp] theorem State.cur_meet (s : State) (pa n : Nat) : (s.meet pa n).cur = s.cur := by
  unfold State.meet
  split
  · rfl
  · exact cur_foldl (fun t _ => t.cur_meetLine _) _ s

@[simp] theorem State.cur_meetWrite (s : State) (pa n : Nat) : (s.meetWrite pa n).cur = s.cur := by
  unfold State.meetWrite
  split
  · rfl
  · refine cur_foldl (fun t i => ?_) _ s
    dsimp only
    split <;> simp

@[simp] theorem State.cur_readUsed (s : State) (pa n : Nat) : (s.readUsed pa n).cur = s.cur := by
  unfold State.readUsed
  split <;> rfl

@[simp] theorem State.cur_rawStore (s : State) (pa : Nat) (bs : List Byte) (p : Bool) : (s.rawStore pa bs p).cur = s.cur := by
  unfold State.rawStore
  split
  · rfl
  · dsimp only
    split
    · split
      · simp
      · split <;> simp
    · split <;> simp

/-! ## Moving and twinned pages (R380, R390) -/

@[simp] theorem State.cur_applyQueued (s : State) (m : Move) (line : Nat) : (s.applyQueued m line).cur = s.cur :=
  cur_foldl (fun t _ => (State.cur_mscCount ..).trans (t.cur_rawStore ..)) _ s

@[simp] theorem State.cur_copyFillLine (s : State) (f : Fill) (line : Nat) : (s.copyFillLine f line).cur = s.cur := by
  simp [State.copyFillLine]

theorem State.cur_passOn (s : State) (pa : Nat) (view write phys : Bool) : (s.passOn pa view write phys).2.cur = s.cur := by
  unfold State.passOn
  dsimp only
  split
  · split
    · rfl
    · split
      · rfl
      · split
        · rfl
        · split <;> simp
  · split
    · simp
    · split <;> rfl

theorem State.cur_redirect (n : Nat) (s : State) (pa : Nat) (view write phys : Bool) :
    (State.redirect n s pa view write phys).2.cur = s.cur := by
  induction n generalizing s pa with
  | zero => rfl
  | succ n ih =>
    have hop := s.cur_passOn pa view write phys
    unfold State.redirect
    split <;> next heq => rw [heq] at hop; simp_all

/-! ## Accesses at their homes (R253) -/

theorem State.cur_loadLine (s : State) (pa n : Nat) (view phys : Bool) : (s.loadLine pa n view phys).2.cur = s.cur := by
  simp [State.loadLine, State.cur_redirect]

theorem State.cur_storeLine (s : State) (pa : Nat) (bs : List Byte) (p phys : Bool) : (s.storeLine pa bs p phys).cur = s.cur := by
  simp [State.storeLine, State.cur_redirect]

theorem State.cur_loadParts (k : Nat) (s : State) (pa n : Nat) (view phys : Bool) :
    (State.loadParts k s pa n view phys).2.cur = s.cur := by
  induction k generalizing s pa n with
  | zero => rfl
  | succ k ih =>
    unfold State.loadParts
    split
    · rfl
    · exact (ih ..).trans (State.cur_loadLine ..)

theorem State.cur_storeParts (k : Nat) (s : State) (pa : Nat) (bs : List Byte) (p phys : Bool) :
    (State.storeParts k s pa bs p phys).cur = s.cur := by
  induction k generalizing s pa bs with
  | zero => rfl
  | succ k ih =>
    unfold State.storeParts
    split
    · rfl
    · exact (ih ..).trans (State.cur_storeLine ..)

theorem State.cur_count (s : State) (pa : Nat) (view write hot phys : Bool) : (s.count pa view write hot phys).cur = s.cur := by
  simp only [State.count, State.cur_mscCount, apply_ite State.cur, State.cur_touch, ite_self, State.cur_redirect]

theorem State.cur_load (s : State) (pa n : Nat) (view hot phys : Bool) : (s.load pa n view hot phys).2.cur = s.cur := by
  unfold State.load
  split
  · split
    · rfl
    · dsimp only
      split <;> rfl
    · rfl
    · split
      · exact (State.cur_count ..).trans (State.cur_loadParts ..)
      · rfl
  · rfl

/-! ## Translation (R371, R372, R390) -/

theorem State.cur_tableWord (s : State) (die a : Nat) : (s.tableWord die a).2.cur = s.cur := by
  have load := s.cur_load a 8 false true true
  unfold State.tableWord
  dsimp only
  split
  · exact load
  · split
    · exact (State.cur_logError ..).trans load
    · exact load

theorem State.cur_walkLevels (n : Nat) (s : State) (die asid va t : Nat) : (State.walkLevels n s die asid va t).2.cur = s.cur := by
  induction n generalizing s t with
  | zero => rfl
  | succ n ih =>
    have word := s.cur_tableWord die (t + 8 * tableIndex va (4 - n))
    unfold State.walkLevels
    dsimp only
    split
    · exact ih ..
    · split
      · next heq => rw [heq] at word; exact word
      · next e s1 heq =>
        rw [heq] at word
        split
        · exact word
        · split
          · exact (ih ..).trans word
          · split
            · exact word
            · split
              · exact word
              · have ext := s1.cur_tableWord die (t + 8 * tableIndex va (4 - n) + 8192)
                split <;> next heq => rw [heq] at ext; exact ext.trans word

theorem State.cur_findLeaf (s : State) (die asid va : Nat) : (s.findLeaf die asid va).2.cur = s.cur := by
  have word := (s.bump (pageReg die 0xA0) 1).cur_tableWord die (s.descAddr die asid)
  unfold State.findLeaf
  split
  · next heq => rw [heq] at word; exact word
  · next d s0 heq =>
    rw [heq] at word
    split
    · exact word
    · have levels := State.cur_walkLevels 4 s0 die asid va (bits d 56 14 * 2 ^ 14)
      split
      · next heq => rw [heq] at levels; exact levels.trans word
      · exact levels.trans word

theorem State.cur_startTwin (s : State) (die asid va : Nat) (l : Leaf) : (s.startTwin die asid va l).cur = s.cur := by
  unfold State.startTwin
  split
  · rfl
  · dsimp only
    split <;> simp

theorem State.cur_walk (s : State) (die owner asid : Nat) (stamp : Option Nat) (va : Nat) (write both : Bool) :
    (s.walk die owner asid stamp va write both).2.cur = s.cur := by
  have leaf := s.cur_findLeaf die asid va
  unfold State.walk
  split
  · next heq => rw [heq] at leaf; exact leaf
  · next l s2 heq =>
    replace leaf : s2.cur = s.cur := by rwa [heq] at leaf
    dsimp only
    split
    · exact leaf
    · split <;> simp only [apply_ite State.cur, State.cur_startTwin, ite_self, leaf]

theorem State.cur_translate (s : State) (ps asid : Nat) (stamp : Option Nat) (va : Nat) (write both : Bool) :
    (s.translate ps asid stamp va write both).2.cur = s.cur := by
  have walk := s.cur_walk (ps / 8) ps asid stamp va write both
  unfold State.translate
  split
  · split
    · rfl
    · split
      · next heq => rw [heq] at walk; exact walk
      · exact walk
  · split
    · next heq => rw [heq] at walk; exact walk
    · exact walk

/-- Resolving an address leaves the keeper that runs. -/
theorem State.cur_keeperResolve (s : State) (ps : Nat) (ea : Word) (write : Bool) : (s.keeperResolve ps ea write).2.cur = s.cur := by
  have xlate := s.cur_translate ps (s.reg (csr ps 8)).toNat none ea.toNat write false
  unfold State.keeperResolve
  dsimp only
  split
  · rfl
  · split
    · rfl
    · split
      · rfl
      · split <;> next heq => rw [heq] at xlate; exact xlate

/-! ## Accesses elsewhere (R129, R132, R410, R412) -/

/-- Nothing holds back an access that no boundary and no earlier request does. -/
theorem goes_of_free {s : State} {ps pa : Nat} {far : Bool} (held : s.sectorHeld ps pa = false) (pending : s.portPending ps pa = false) :
    (s.sectorHeld ps pa || (far && s.portPending ps pa)) = false := by
  rw [held, pending, Bool.and_false, Bool.or_false]

/-- Settles O15: at the home by `keeperLoad_here` and `keeperStore_here`; to another module a load is sent once, and takes its reply. -/
theorem keeperAccessElsewhere : Obligations.KeeperAccessElsewhere := by
  unfold Obligations.KeeperAccessElsewhere
  refine ⟨fun e he d a off s s1 s2 pa p g aligned place here held pending load code poison => ?load,
    fun e he a b off s s1 s2 pa p aligned place here held pending store => ?store,
    fun e he d a off s s1 pa dev o aligned place away noReply noPending => ?sent,
    fun e he d a off s s1 pa dev o r aligned place away reply code poison => ?replied⟩
  case load =>
    have cur : s2.cur = s.cur := by
      have resolved := s.cur_keeperResolve s.cur (keeperAddr s a off) false
      have loaded := s1.cur_load p e.2 false true ((keeperAddr s a off).getLsbD 63)
      rw [place] at resolved
      rw [load] at loaded
      exact loaded.trans resolved
    rw [exec_loadWord e he, keeperLoad_here aligned place here (goes_of_free held pending) load, loadDone_clean code poison,
      State.kWrite, cur]
  case store => rw [exec_storeWord e he, keeperStore_here aligned place here (goes_of_free held pending) store]
  case sent =>
    rw [exec_loadWord e he]
    unfold keeperAddr at *
    simp only [State.keeperLoad, aligned, ne_eq, not_true, if_false, place, away, noReply, noPending, Option.isSome_none,
      Bool.false_eq_true, linkOfDie]
  case replied =>
    have cur : s1.cur = s.cur := by
      have resolved := s.cur_keeperResolve s.cur (keeperAddr s a off) false
      rwa [place] at resolved
    rw [exec_loadWord e he]
    unfold keeperAddr at *
    simp only [State.keeperLoad, aligned, ne_eq, not_true, if_false, place, away, reply]
    rw [loadDone_clean code poison, State.kWrite, State.cur_setKeeper, cur]

end Sys2Proof.Machine
end

section
/-! O24 to O27: `wait` and `fence`, and the hive instructions of patterns, tokens and events (R138 to R149). -/

namespace Sys2Proof.Machine

/-! ## `wait` and `fence` (R138, R139) -/

/-- A `wait` by its two conditions: an event, then a limit of 0. -/
theorem exec_keeperWait (s : State) (d a : Reg) (i : BitVec 15) : exec (.keeperWait d a i) s = .next
    (if (s.keeper s.cur).evq ≠ [] then s.kWrite d 1 else if keeperAddr s a i = 0 then s.kWrite d 0
      else s.setKeeper s.cur { s.keeper s.cur with waiting := some (s.clk + (keeperAddr s a i).toNat, d) }) := by
  have zero : (keeperAddr s a i).toNat = 0 ↔ keeperAddr s a i = 0 := by rw [← BitVec.toNat_inj]; rfl
  change ok (if !(s.keeper s.cur).evq.isEmpty then s.kWrite d 1 else if (keeperAddr s a i).toNat = 0 then s.kWrite d 0 else _) = _
  simp only [Bool.not_eq_true', List.isEmpty_eq_false_iff, zero]
  rfl

/-- The end of a `wait` (R138). -/
theorem exec_keeperWaitResume {s : State} {ps limit : Nat} {d : Reg} (waits : (s.keeper ps).waiting = some (limit, d))
    (ends : (s.keeper ps).evq ≠ [] ∨ limit ≤ s.clk) : exec (.keeperWaitResume ps) s =
      .next (((s.setKeeper ps { s.keeper ps with waiting := none }).setK ps d (if (s.keeper ps).evq = [] then 0 else 1)).pcNext ps) := by
  change execKeeperWaitResume ps s = _
  simp only [execKeeperWaitResume, waits, ok]
  cases h : (s.keeper ps).evq with
  | nil =>
    have passed : limit ≤ s.clk := ends.resolve_left (not_not.mpr h)
    simp [passed]
  | cons t rest => simp

/-- What a `fence` waits for, as conditions (R139). -/
theorem fenceDone_iff (s : State) (ps : Nat) (sc : BitVec 2) : s.fenceDone ps sc = true ↔ (s.keeper ps).port = none ∧
    (s.keeper ps).delivery = none ∧ (s.keeper ps).drainCells = [] ∧ (sc = 3 → (s.keeper ps).domStores = []) := by
  simp only [State.fenceDone, Bool.and_eq_true, Bool.or_eq_true, Option.isNone_iff_eq_none, List.isEmpty_iff, bne_iff_ne, and_assoc,
    ne_eq, imp_iff_not_or]

theorem exec_keeperFence (s : State) (sc : BitVec 2) : exec (.keeperFence sc) s = .next
    (if s.fenceDone s.cur sc then s.pcNext s.cur else s.setKeeper s.cur { s.keeper s.cur with fencing := some sc }) := rfl

/-- Settles O24: one equation for each word, its branches by their conditions. -/
theorem keeperWaitAndFence : Obligations.KeeperWaitAndFence := by
  unfold Obligations.KeeperWaitAndFence
  refine ⟨fun s d a i event => ⟨_, ?event, kWrite_to s d 1⟩, fun s d a i empty zero => ⟨_, ?zero, kWrite_to s d 0⟩,
    fun s d a i empty limit => ?waits, fun _ _ _ _ => exec_keeperWaitResume,
    fun s sc port delivery drains stores => ⟨_, ?done, pcNext_to s⟩, fun s sc waits => ?fences, fun s ps sc fencing done => ?ended⟩
  case event => rw [exec_keeperWait, if_pos event]
  case zero => rw [exec_keeperWait, if_neg (not_not.mpr empty), if_pos zero]
  case waits => rw [exec_keeperWait, if_neg (not_not.mpr empty), if_neg limit]
  case done => rw [exec_keeperFence, (fenceDone_iff s s.cur sc).mpr ⟨port, delivery, drains, stores⟩, if_pos rfl]
  case fences => rw [exec_keeperFence, waits, if_neg (by decide)]
  case ended =>
    change execKeeperFenceComplete ps s = _
    simp only [execKeeperFenceComplete, fencing, done, if_true]

/-! ## Address operands (R141) -/

/-- An address operand that faults, and its fault (R141). -/
def OperandBad (s : State) (a : Word) (n c : Nat) : Prop :=
  (0x40000 ≤ a.toNat ∧ c = 7) ∨ (a.toNat < 0x40000 ∧ a.toNat % n ≠ 0 ∧ c = 0xA)
    ∨ (a.toNat < 0x40000 ∧ a.toNat % n = 0 ∧ s.supervisor s.cur = false ∧ a.toNat < (s.reg (csr s.cur 0x00B)).toNat ∧ c = 9)

theorem operandFault_of_bad {s : State} {a : Word} {n c : Nat} (h : OperandBad s a n c) : s.operandFault s.cur a n = some c := by
  rcases h with ⟨high, rfl⟩ | ⟨low, odd, rfl⟩ | ⟨low, aligned, user, below, rfl⟩
  · rw [State.operandFault, if_pos high]; rfl
  all_goals rw [State.operandFault, if_neg (by omega)]
  · rw [if_pos odd]; rfl
  · rw [if_neg (not_not.mpr aligned), if_pos ⟨by simp [user], below⟩]; rfl

theorem operandBad_lt {s : State} {a : Word} {n c : Nat} (h : OperandBad s a n c) : c < 65536 := by
  rcases h with ⟨_, rfl⟩ | ⟨_, _, rfl⟩ | ⟨_, _, _, _, rfl⟩ <;> decide

/-- An aligned operand in local memory has no fault in supervisor mode. -/
theorem operandFault_supervisor {s : State} {ps n : Nat} {a : Word} (sup : s.supervisor ps = true) (low : a.toNat < 0x40000)
    (aligned : a.toNat % n = 0) : s.operandFault ps a n = none := by
  rw [State.operandFault, if_neg (by omega), if_neg (not_not.mpr aligned), if_neg (by simp [sup])]

theorem kpCfg_faults {s : State} {a : Reg} {c : Nat} (ntf cfgk : Bool) (sup : s.supervisor s.cur = true)
    (h : s.operandFault s.cur (s.kReg s.cur a) 32 = some c) : s.kpCfg a ntf cfgk = s.keeperFault s.cur c (s.kReg s.cur a) := by
  simp only [State.kpCfg, sup, Bool.not_true, Bool.false_eq_true, if_false, h]

theorem kpToken_faults {s : State} {a : Reg} {c : Nat} (fine : Token → Bool)
    (h : s.operandFault s.cur (s.kReg s.cur a) 32 = some c) : s.kpToken a fine = s.keeperFault s.cur c (s.kReg s.cur a) := by
  simp only [State.kpToken, h]

theorem exec_kpEvq_faults {s : State} {a : Reg} {c : Nat} (d : Reg) (peek : Bool)
    (h : s.operandFault s.cur (s.kReg s.cur a) 32 = some c) :
    exec (.kpEvq d a peek) s = .next (s.keeperFault s.cur c (s.kReg s.cur a)) := by
  change execKpEvq d a peek s = _
  simp only [execKpEvq, h]

theorem exec_kpLaunch_faults {s : State} {a : Reg} {c : Nat} (d : Reg) (sup : s.supervisor s.cur = true)
    (h : s.operandFault s.cur (s.kReg s.cur a) 64 = some c) :
    exec (.kpLaunch d a) s = .next (s.keeperFault s.cur c (s.kReg s.cur a)) := by
  change execKpLaunch d a s = _
  simp only [execKpLaunch, sup, Bool.not_true, Bool.false_eq_true, if_false, h]

/-- What user mode may not execute takes the ILLEGAL trap there (R140). -/
theorem exec_privileged_illegal {s : State} {i : Instr} (user : s.supervisor s.cur = false)
    (form : (∃ d a, i = .kpLaunch d a) ∨ (∃ a ntf, i = .kpCfgp a ntf ∨ i = .kpCfgk a ntf) ∨ ∃ d, i = .kpDrain d) :
    exec i s = .next s.illegal := by
  have cfg (a : Reg) (ntf cfgk : Bool) : ok (s.kpCfg a ntf cfgk) = .next s.illegal := by
    simp only [State.kpCfg, user, Bool.not_false, if_true]
  rcases form with ⟨d, a, rfl⟩ | ⟨a, ntf, rfl | rfl⟩ | ⟨d, rfl⟩
  · change execKpLaunch d a s = _
    simp only [execKpLaunch, user, Bool.not_false, if_true]
  · exact cfg a ntf false
  · exact cfg a ntf true
  · change execKpDrain d s = _
    simp only [execKpDrain, user, Bool.not_false, if_true]

/-- Settles O25: the operand's fault by instruction, and the ILLEGAL trap of the privileged ones. -/
theorem hiveOperandFaults : Obligations.HiveOperandFaults := by
  unfold Obligations.HiveOperandFaults
  refine ⟨fun s i a n c noTrap form mode bad => ?_, fun s i noTrap user form =>
    ⟨_, exec_privileged_illegal user form, illegal_faults noTrap⟩⟩
  have bad : OperandBad s (s.kReg s.cur a) n c := bad
  have fault := operandFault_of_bad bad
  refine ⟨_, ?_, keeperFault_faults s c _ (operandBad_lt bad) noTrap⟩
  rcases form with ⟨rfl, ⟨ntf, rfl | rfl⟩ | rfl | rfl | ⟨d, peek, rfl⟩⟩ | ⟨rfl, d, rfl⟩
  · have sup : s.supervisor s.cur = true := by simpa using mode
    exact congrArg Host.Outcome.next (kpCfg_faults ntf false sup fault)
  · have sup : s.supervisor s.cur = true := by simpa using mode
    exact congrArg Host.Outcome.next (kpCfg_faults ntf true sup fault)
  · exact congrArg Host.Outcome.next (kpToken_faults sendOk fault)
  · exact congrArg Host.Outcome.next (kpToken_faults injectOk fault)
  · exact exec_kpEvq_faults d peek fault
  · have sup : s.supervisor s.cur = true := by simpa using mode
    exact exec_kpLaunch_faults d sup fault

/-! ## Patterns (R144, R145) -/

/-- Settles O26: the pattern passes every check in turn, and a delivery that ends is written by `State.deliver`. -/
theorem hiveConfiguration : Obligations.HiveConfiguration := by
  unfold Obligations.HiveConfiguration
  refine ⟨fun s a ntf cfgk p sup low aligned idle free inside clean pattern good => ?starts, fun s t ps n d running delivered => ?ends⟩
  case starts =>
    have fine := operandFault_supervisor sup low aligned
    have word : exec (if cfgk then .kpCfgk a ntf else .kpCfgp a ntf) s = .next (s.kpCfg a ntf cfgk) := by cases cfgk <;> rfl
    rw [word]
    subst pattern
    simp only [State.kpCfg, sup, Bool.not_true, Bool.false_eq_true, if_false, fine, idle, free, Option.isSome_none, Bool.or_self,
      if_neg (Nat.not_lt.mpr inside), clean, good, if_true, gt_iff_lt]
  case ends =>
    change execConfigDeliveryComplete ps s = _
    simp only [execConfigDeliveryComplete, running, delivered]

/-! ## Tokens and events (R147 to R149) -/

/-- A token image that obeys its rules enters the empty injection port (R147). -/
theorem kpToken_enters {s : State} {a : Reg} {fine : Token → Bool} {n : Nat} {t : Token}
    (operand : s.operandFault s.cur (s.kReg s.cur a) 32 = none) (empty : (s.keeper s.cur).port = none)
    (size : n = 16 + 4 * (tokenOf (BitVec.ofNat 128 (s.readLE (kmemAddr s.cur (s.kReg s.cur a).toNat) 16)) []).payload)
    (inside : (s.kReg s.cur a).toNat + n ≤ 0x40000) (clean : s.localBad s.cur (s.kReg s.cur a).toNat n = false)
    (image : t = tokenOfImage (s.bytes (kmemAddr s.cur (s.kReg s.cur a).toNat) n)) (good : fine t = true) :
    s.kpToken a fine = (s.setKeeper s.cur { s.keeper s.cur with
      port := some (if s.supervisor s.cur then t else { t with ctx := (s.reg (csr s.cur 9)).extractLsb' 0 12 }) }).pcNext s.cur := by
  subst size image
  simp only [State.kpToken, operand, empty, Option.isSome_none, Bool.false_eq_true, if_false, gt_iff_lt, if_neg (Nat.not_lt.mpr inside),
    clean, good, if_true]

/-- `kp.evq` of an empty queue gives 0. -/
theorem exec_kpEvq_nil {s : State} {a : Reg} (d : Reg) (peek : Bool) (operand : s.operandFault s.cur (s.kReg s.cur a) 32 = none)
    (empty : (s.keeper s.cur).evq = []) : exec (.kpEvq d a peek) s = .next (s.kWrite d 0) := by
  change execKpEvq d a peek s = _
  simp only [execKpEvq, operand, empty]

/-- What `kp.evq` leaves of the queue whose oldest event it has written to its buffer: it stands if the event was only looked at. -/
def popEvent (u : State) (ps : Nat) (peek : Bool) (rest : List Token) : State :=
  if peek then u else (u.setKeeper ps { u.keeper ps with evq := rest }).refillEvents ps

theorem cur_popEvent (u : State) (ps : Nat) (peek : Bool) (rest : List Token) : (popEvent u ps peek rest).cur = u.cur := by
  unfold popEvent
  split <;> rfl

/-- `kp.evq` of a queue with an entry. -/
theorem exec_kpEvq_cons {s : State} {a : Reg} {t : Token} {rest : List Token} (d : Reg) (peek : Bool)
    (operand : s.operandFault s.cur (s.kReg s.cur a) 32 = none) (head : (s.keeper s.cur).evq = t :: rest)
    (inside : (s.kReg s.cur a).toNat + t.imageSize ≤ 0x40000) : exec (.kpEvq d a peek) s =
      .next (((popEvent (s.rawStore (kmemAddr s.cur (s.kReg s.cur a).toNat) t.image false) s.cur peek rest).setK s.cur d
        (BitVec.ofNat 64 t.imageSize)).pcNext s.cur) := by
  have run : exec (.kpEvq d a peek) s = .next ((popEvent (s.rawStore (kmemAddr s.cur (s.kReg s.cur a).toNat) t.image false) s.cur peek
      rest).kWrite d (BitVec.ofNat 64 t.imageSize)) := by
    change execKpEvq d a peek s = _
    simp only [execKpEvq, operand, head, gt_iff_lt, if_neg (Nat.not_lt.mpr inside), popEvent]
  rw [run, State.kWrite, cur_popEvent, State.cur_rawStore]

/-- Settles O27: the port by `kpToken_enters`, the queue by its head. -/
theorem hiveTokens : Obligations.HiveTokens := by
  unfold Obligations.HiveTokens
  refine ⟨fun s a i fine n t form operand empty size inside clean image good => ?token,
    fun s d a peek operand empty => ⟨_, exec_kpEvq_nil d peek operand empty, kWrite_to s d 0⟩,
    fun s d a peek t rest operand head inside => exec_kpEvq_cons d peek operand head inside⟩
  case token =>
    have word : exec i s = .next (s.kpToken a fine) := by rcases form with ⟨rfl, rfl⟩ | ⟨rfl, rfl⟩ <;> rfl
    rw [word, kpToken_enters operand empty size inside clean image good]

end Sys2Proof.Machine
end

section
/-! O28: `kp.sched`, `kp.launch` and `kp.drain` (R150 to R152). Accepting a command does not change which keeper runs. -/

namespace Sys2Proof.Machine

/-! ## The front's queues leave the keeper that runs (R437 to R442, R465) -/

theorem State.cur_bootGo (s : State) (v : Word) : (s.bootGo v).cur = s.cur := by
  unfold State.bootGo
  dsimp only
  split <;> rfl

theorem State.cur_regWrite (s : State) (pa : Nat) (v : Word) : (s.regWrite pa v).cur = s.cur := by
  unfold State.regWrite
  dsimp only
  split
  · rfl
  · split
    · exact State.cur_bootGo ..
    · simp only [apply_ite State.cur, State.cur_setBits, State.cur_setReg, ite_self]

theorem State.cur_store (s : State) (pa : Nat) (bs : List Byte) (p hot phys : Bool) : (s.store pa bs p hot phys).2.cur = s.cur := by
  unfold State.store
  split
  · split
    · exact State.cur_regWrite ..
    · exact State.cur_regWrite ..
    · exact State.cur_regWrite ..
    · split
      · exact (State.cur_count ..).trans (State.cur_storeParts ..)
      · exact State.cur_rawStore ..
  · rfl

theorem State.cur_journal (s : State) (c : Cmd) (state status : Nat) : (s.journal c state status).cur = s.cur := by
  unfold State.journal State.journalAt
  split
  · exact (State.cur_setBits ..).trans (State.cur_store ..)
  · rfl

theorem State.cur_advanceDone (n : Nat) (s : State) (q : Nat) : (State.advanceDone n s q).cur = s.cur := by
  induction n generalizing s with
  | zero => rfl
  | succ n ih =>
    unfold State.advanceDone
    dsimp only
    split
    · exact ih _
    · rfl

theorem State.cur_launchAnswer (s : State) (c : Cmd) (status : Nat) : (s.launchAnswer c status).cur = s.cur := by
  unfold State.launchAnswer
  split
  · exact State.cur_send ..
  · rfl

theorem State.cur_wakeUp (s : State) : s.wakeUp.cur = s.cur := by
  unfold State.wakeUp
  split <;> rfl

theorem State.cur_refuseCmd (s : State) (c : Cmd) (status : Nat) : (s.refuseCmd c status).cur = s.cur := by
  simp only [State.refuseCmd, State.finishCmd, State.completeSeq, State.cur_launchAnswer, State.cur_advanceDone, State.cur_setQueue,
    State.cur_journal]

theorem State.cur_clearStaged (s : State) (q line : Nat) : (s.clearStaged q line).cur = s.cur := by
  unfold State.clearStaged
  split
  · simp only [State.endPartial, State.cur_setQueue, State.cur_refuseCmd, State.cur_setBits, State.cur_wakeUp, State.cur_journal]
  · rfl

theorem State.cur_acceptCmd (s : State) (q line : Nat) (body : List Word) (keeper : Option (Nat × BitVec 12 × Lane)) :
    (s.acceptCmd q line body keeper).cur = s.cur := by
  simp only [State.acceptCmd, apply_ite State.cur, State.cur_refuseCmd, State.cur_setQueue, State.cur_store, State.cur_setBits,
    State.cur_wakeUp, State.cur_journal, ite_self]

/-! ## Schedules (R150) -/

/-- Writing a keeper's register reads and leaves no register of the window. -/
theorem kWrite_withRegs (s : State) (regs : Tab Word) (d : Reg) (v : Word) :
    { s.kWrite d v with regs := regs } = ({ s with regs := regs } : State).kWrite d v := by
  unfold State.kWrite State.setK
  dsimp only
  split <;> rfl

theorem reg_kWrite (s : State) (d : Reg) (v : Word) (pa : Nat) : (s.kWrite d v).reg pa = s.reg pa := by
  unfold State.kWrite State.setK
  split <;> rfl

/-- The state in which `kp.sched` finds the schedule: with REW it is set back first. -/
def schedRewound (s : State) (rew : Bool) : State := if rew then s.setReg (csr s.cur 0x12) 0 else s

theorem reg_schedRewound (s : State) (rew : Bool) (pa : Nat) :
    (schedRewound s rew).reg pa = if rew ∧ csr s.cur 0x12 = pa then 0 else s.reg pa := by
  cases rew <;> simp [schedRewound]

theorem schedRewound_frame (s : State) (rew : Bool) : { schedRewound s rew with regs := s.regs } = s := by
  cases rew <;> rfl

/-- `kp.sched` at the end of the table, and before it. -/
theorem exec_kpSched (s : State) (d : Reg) (rew : Bool) : exec (.kpSched d rew) s = .next (
    let u := schedRewound s rew
    let cur := (u.reg (csr s.cur 0x12)).toNat
    if (u.reg (csr s.cur 0x11)).toNat ≤ cur then u.kWrite d 0
    else (u.setReg (csr s.cur 0x12) (BitVec.ofNat 64 ((cur + 1) % 2 ^ 32))).kWrite d
      (BitVec.ofNat 64 (0x20040 + cur * 2 ^ (u.reg (csr s.cur 0x13)).toNat))) := rfl

/-- What `kp.sched` gives, and where it leaves SCHEDCUR. -/
theorem kpSched_steps (s : State) (d : Reg) (rew : Bool) {cur n : Nat} (hn : n = (s.reg (csr s.cur 0x11)).toNat)
    (hcur : cur = if rew then 0 else (s.reg (csr s.cur 0x12)).toNat) :
    ∃ t, exec (.kpSched d rew) s = .next t ∧
      t.reg (csr s.cur 0x12) = BitVec.ofNat 64 (if n ≤ cur then cur else (cur + 1) % 2 ^ 32) ∧
      (∀ pa, pa ≠ csr s.cur 0x12 → t.reg pa = s.reg pa) ∧
      KeeperTo s { t with regs := s.regs } d
        (if n ≤ cur then 0 else BitVec.ofNat 64 (0x20040 + cur * 2 ^ (s.reg (csr s.cur 0x13)).toNat)) (nextPc s) := by
  have other {pa : Nat} (h : pa ≠ csr s.cur 0x12) : (schedRewound s rew).reg pa = s.reg pa := by
    rw [reg_schedRewound, if_neg (fun here => h here.2.symm)]
  have place : ((schedRewound s rew).reg (csr s.cur 0x12)).toNat = cur := by
    rw [hcur, reg_schedRewound]
    cases rew <;> simp
  have entries : ((schedRewound s rew).reg (csr s.cur 0x11)).toNat = n := by rw [other (csr_ne _ (by decide)), hn]
  have size : (schedRewound s rew).reg (csr s.cur 0x13) = s.reg (csr s.cur 0x13) := other (csr_ne _ (by decide))
  by_cases done : n ≤ cur
  · have run : exec (.kpSched d rew) s = .next ((schedRewound s rew).kWrite d 0) := by
      rw [exec_kpSched]
      simp only [place, entries, done, if_true]
    refine ⟨_, run, ?_, fun pa h => by rw [reg_kWrite, other h], ?_⟩
    · rw [reg_kWrite, if_pos done, ← place, BitVec.ofNat_toNat, BitVec.setWidth_eq]
    · rw [if_pos done, kWrite_withRegs, schedRewound_frame]
      exact kWrite_to s d 0
  · have run : exec (.kpSched d rew) s = .next (((schedRewound s rew).setReg (csr s.cur 0x12)
        (BitVec.ofNat 64 ((cur + 1) % 2 ^ 32))).kWrite d
        (BitVec.ofNat 64 (0x20040 + cur * 2 ^ (s.reg (csr s.cur 0x13)).toNat))) := by
      rw [exec_kpSched]
      simp only [place, entries, done, if_false, size]
    refine ⟨_, run, ?_, fun pa h => by rw [reg_kWrite, State.reg_setReg, if_neg h.symm, other h], ?_⟩
    · rw [reg_kWrite, State.reg_setReg, if_pos rfl, if_neg done]
    · rw [if_neg done, kWrite_withRegs]
      have frame : ({ (schedRewound s rew).setReg (csr s.cur 0x12) (BitVec.ofNat 64 ((cur + 1) % 2 ^ 32)) with regs := s.regs } : State) = s :=
        schedRewound_frame s rew
      rw [frame]
      exact kWrite_to s d _

/-! ## Launches and drains (R151, R152) -/

/-- `kp.launch` of a readable record: the queue's line 0 is cleared of what was staged, takes the record, and LSEQ moves on. -/
theorem exec_kpLaunch {s : State} {a : Reg} (d : Reg) (sup : s.supervisor s.cur = true)
    (operand : s.operandFault s.cur (s.kReg s.cur a) 64 = none) (clean : s.localBad s.cur (s.kReg s.cur a).toNat 64 = false) :
    exec (.kpLaunch d a) s = .next (((((s.clearStaged (s.reg (csr s.cur 10)).toNat 0).acceptCmd (s.reg (csr s.cur 10)).toNat 0
      ((List.range 8).map (fun i => s.word (kmemAddr s.cur (s.kReg s.cur a).toNat + 8 * i)))
      (some (s.cur, (s.reg (csr s.cur 9)).extractLsb' 0 12, BitVec.ofNat 32 (s.reg (csr s.cur 0x1A)).toNat))).setReg (csr s.cur 0x1A)
      (BitVec.ofNat 64 (((s.reg (csr s.cur 0x1A)).toNat + 1) % 2 ^ 32))).setK s.cur d
      (BitVec.ofNat 64 (s.reg (csr s.cur 0x1A)).toNat)).pcNext s.cur) := by
  change execKpLaunch d a s = _
  simp only [execKpLaunch, sup, Bool.not_true, Bool.false_eq_true, if_false, operand, clean, State.kWrite, State.cur_setReg,
    State.cur_acceptCmd, State.cur_clearStaged, upTo]

/-- `kp.drain` in supervisor mode, by its three answers. -/
theorem exec_kpDrain {s : State} (d : Reg) (sup : s.supervisor s.cur = true) : exec (.kpDrain d) s = .next
    (if (s.keeper s.cur).draining then s.kWrite d 1 else if s.regBits (secReg s.cur 0 0x40) 15 0 = 0 then s.kWrite d 2
      else (s.kWrite d 0).startDrain s.cur ((s.reg (csr s.cur 9)).extractLsb' 0 12)) := by
  change execKpDrain d s = _
  simp only [execKpDrain, sup, Bool.not_true, Bool.false_eq_true, if_false]

/-- Settles O28: one lemma for each instruction; a drain by its three answers. -/
theorem hiveSchedLaunchDrain : Obligations.HiveSchedLaunchDrain := by
  unfold Obligations.HiveSchedLaunchDrain
  refine ⟨fun s d rew _ _ => kpSched_steps s d rew, fun _ d _ => exec_kpLaunch d, fun s d sup busy => ⟨_, ?busy, kWrite_to s d 1⟩,
    fun s d sup idle exp => ⟨_, ?none, kWrite_to s d 2⟩, fun s d sup idle exp => ?starts⟩
  case busy => rw [exec_kpDrain d sup, if_pos busy]
  case none => rw [exec_kpDrain d sup, idle, if_neg (by decide), if_pos exp]
  case starts => rw [exec_kpDrain d sup, idle, if_neg (by decide), if_neg exp, State.kWrite]

end Sys2Proof.Machine
end

section
/-! O29, O30: nodes that send one result without a flag or a draw (R168 to R170, R172, R180, R182, R187, R190, R196 to R200, R221). -/

namespace Sys2Proof.Worker

open Sys2Proof.Machine

/-! ## One element of a result (R168 to R170) -/

/-- The low `w` bits of an exact integer, as a delivery without SAT gives them. -/
theorem deliverInt_wraps (w : Nat) (uns : Bool) (e : Int) : deliverInt w false uns e = (e % 2 ^ w).toNat := by
  simp [deliverInt]

theorem natAbs_eq_ite (e : Int) : (e.natAbs : Int) = if e < 0 then -e else e := by
  split <;> omega

/-- Leading zeros by the place of the highest one bit (R169). -/
theorem sub_bitLength (w x : Nat) : w - bitLength x = if x = 0 then w else w - 1 - Nat.log2 x := by
  unfold bitLength
  split <;> omega

/-! ## Nodes of one operation for each element (R158, R168) -/

/-- The instruction's firing sends one result, whose elements `es` gives, to destination A and then to B, and does nothing else. -/
def SendsElements (i : Instr) (es : Firing → List Nat) : Prop :=
  ∀ (s : State) (f : Firing), Fires s f → exec i s = .next (fired s (emitted s f (resultOf f (es f))))

/-- A node that nothing diverts is its meaning on its own firing. -/
theorem exec_of_fire {i : Instr} {g : Firing → State → State} (run : ∀ s, exec i s = .next (s.fire g)) {s : State} {f : Firing}
    (h : Fires s f) : exec i s = .next (g f { s with issue := none }) := by
  rw [run, fire_fires h]

theorem elementwise_ends {s : State} {f : Firing} (h : Fires s f) (op : Nat → Nat → Nat) :
    ({ s with issue := none } : State).elementwise f op = fired s (emitted s f (resultOf f (List.zipWith op f.xs f.ys))) := by
  rw [← elementwise_fired h, fire_fires h]

theorem elementwise1_ends {s : State} {f : Firing} (h : Fires s f) (op : Nat → Nat) :
    ({ s with issue := none } : State).elementwise1 f op = fired s (emitted s f (resultOf f (f.xs.map op))) := by
  rw [← elementwise1_fired h, fire_fires h]

/-- A node of two operands whose operation on one pair of elements is `op` in the node's width. -/
theorem sendsElements_dyadic {i : Instr} {op : Firing → Nat → Nat → Nat → Nat} {mine : Firing → Nat → Nat → Nat}
    (run : ∀ s, exec i s = .next (s.fire (fun f t => t.elementwise f (mine f))))
    (same : ∀ f x y, mine f x y = op f (subWidth f.width) x y) : SendsElements i (fun f => dyadic f (op f)) := by
  intro s f h
  beta_reduce
  rw [exec_of_fire run h, elementwise_ends h, dyadic, ← funext₂ (same f)]

/-- A node of one operand whose operation on one element is `op` in the node's width. -/
theorem sendsElements_monadic {i : Instr} {op : Firing → Nat → Nat → Nat} {mine : Firing → Nat → Nat}
    (run : ∀ s, exec i s = .next (s.fire (fun f t => t.elementwise1 f (mine f))))
    (same : ∀ f x, mine f x = op f (subWidth f.width) x) : SendsElements i (fun f => monadic f (op f)) := by
  intro s f h
  beta_reduce
  rw [exec_of_fire run h, elementwise1_ends h, monadic, ← funext (same f)]

/-- The table's rows, each by its operation on elements. -/
theorem sendsElements_integerNodes : ∀ e ∈ integerNodes, SendsElements e.1 e.2 := by
  simp only [integerNodes, List.cons_append, List.nil_append, List.forall_mem_cons, List.not_mem_nil, false_imp_iff, implies_true,
    and_true]
  refine ⟨?add, ?sub, ?mul, ?mulh, ?mulhn, ?neg, ?abs, ?min, ?max, ?minn, ?maxn, ?and, ?or, ?xor, ?shl, ?shr, ?sra, ?rotl, ?clz, ?popc,
    ?brev, ?ceq, ?cne, ?clt, ?cle, ?cltn, ?clen, ?fneg, ?fabs⟩
  case add | sub | mul | mulhn | and | or | xor | shl | shr | rotl => exact sendsElements_dyadic (fun _ => rfl) (fun _ _ _ => rfl)
  case neg | popc | brev | fneg | fabs => exact sendsElements_monadic (fun _ => rfl) (fun _ _ => rfl)
  case mulh | sra => exact sendsElements_dyadic (fun _ => rfl) (fun _ _ _ => by simp [deliverInt_wraps])
  case abs => exact sendsElements_monadic (fun _ => rfl) (fun _ _ => by rw [delivered, ← natAbs_eq_ite])
  case clz => exact sendsElements_monadic (fun _ => rfl) (fun _ _ => sub_bitLength ..)
  case min | max => exact sendsElements_dyadic (fun _ => rfl) (fun _ _ _ => by simp only [← not_lt, ite_not])
  case minn => exact sendsElements_dyadic (fun _ => rfl) (fun _ _ _ => congrArg (· % _) (min_def ..))
  case maxn => exact sendsElements_dyadic (fun _ => rfl) (fun _ _ _ => congrArg (· % _) (max_def ..))
  case ceq | cne | clt | cle | cltn | clen => exact sendsElements_dyadic (fun _ => rfl) (fun _ _ _ => by simp [maskOf])

/-- Settles O29: `sendsElements_integerNodes`. -/
theorem integerNodes : Obligations.IntegerNodes := sendsElements_integerNodes

/-! ## Nodes of one token (R180, R182, R187, R190, R196 to R200, R221) -/

/-- The instruction's firing sends one token, which `tok` gives, to destination A and then to B, and does nothing else. -/
def SendsToken (i : Instr) (tok : State → Firing → Token) : Prop :=
  ∀ (s : State) (f : Firing), Fires s f → exec i s = .next (fired s (emitted s f (tok s f)))

/-- A node that emits a token made of its firing and of what lies beyond the datapath. -/
theorem sendsToken_of_emit {i : Instr} {tok : State → Firing → Token}
    (run : ∀ s, exec i s = .next (s.fire (fun f t => t.emit f (tok t f))))
    (beyond : ∀ s f, tok { s with issue := none } f = tok s f) : SendsToken i tok := by
  intro s f h
  rw [exec_of_fire run h, emit_fired, beyond]

/-- A node whose token is an empty run where an operand is one (R162). -/
theorem sendsToken_of_emitEmpty {i : Instr} {w : Firing → Nat} {ls : Firing → List Lane}
    (run : ∀ s, exec i s = .next (s.fire (fun f t =>
      if f.isEmpty then t.emitEmpty f (w f) else t.emit f (f.out (w f) f.poisoned false (ls f))))) :
    SendsToken i (fun _ f => f.out (w f) f.poisoned f.isEmpty (ls f)) := by
  intro s f h
  beta_reduce
  rw [exec_of_fire run h, State.emitEmpty]
  cases f.isEmpty
  · rw [if_neg Bool.false_ne_true, emit_fired]
  · rw [if_pos rfl, emit_fired, Firing.out, Firing.out, if_pos rfl, if_pos rfl]

/-- The table's rows: those that give an empty run without reading their lanes, and those that make their token in any case. -/
theorem sendsToken_plainNodes : ∀ e ∈ plainNodes, SendsToken e.1 e.2 := by
  simp only [plainNodes, List.cons_append, List.nil_append, List.forall_mem_cons, List.not_mem_nil, false_imp_iff, implies_true,
    and_true]
  refine ⟨?rshift, ?lit, ?pcpre, ?merge, ?copy, ?gate, ?tagPush, ?tagPop, ?tagSet, ?tagInc, ?const, ?sel, ?tagGet, ?rotLd⟩
  case rshift | lit | pcpre => exact sendsToken_of_emitEmpty (fun _ => rfl)
  case merge | copy | gate | tagPush | tagPop | tagSet | tagInc | const | sel | tagGet | rotLd =>
    exact sendsToken_of_emit (fun _ => rfl) (fun _ _ => rfl)

/-- Settles O30: `sendsToken_plainNodes`, and `sink`, whose firing ends without a token. -/
theorem plainNodes : Obligations.PlainNodes := by
  refine ⟨sendsToken_plainNodes, fun s f h => ?sink⟩
  change Host.Outcome.next (s.fire (fun _ t => t)) = _
  rw [fire_fires h, fired, List.append_nil]

end Sys2Proof.Worker
end

section
/-! O31, O32: firings that round, raise flags and may fault with FPX; float nodes, conversions and repacking (R85, R90, R92, R171 to
R175). -/

namespace Sys2Proof.Worker

open Sys2Proof.Machine

/-! ## Firings that round (R85, R92) -/

/-- The end of a firing that draws `n` times under a mode: `rs` of the draws is rounded, its `flags` are raised, and `tok` is delivered
where the context traps on none of them. -/
def roundedEnd (t : State) (f : Firing) (mode n : Nat) (poison : Bool) (rs : List Nat → List (Nat × Nat))
    (flags : List (Nat × Nat) → List Nat) (tok : List (Nat × Nat) → Token) : State :=
  (t.drawFor f.ci mode n).2.withFlags f poison (flags (rs (t.drawFor f.ci mode n).1))
    (fun u => u.emit f (tok (rs (t.drawFor f.ci mode n).1)))

section Rounding

variable {i : Instr} {s : State} {f : Firing} {mode n : Nat} {poison : Bool} {rs : List Nat → List (Nat × Nat)}
  {flags : List (Nat × Nat) → List Nat} {tok : List (Nat × Nat) → Token}

/-- A node that ends so rounds as `RoundsAt` says. -/
theorem roundsAt_of_roundedEnd (h : exec i s = .next (roundedEnd { s with issue := none } f mode n poison rs flags tok)) :
    RoundsAt i s f mode n poison rs flags tok := by
  have asPairs (l : List Nat) : (l.map (fun x => (0, x))).map (fun x : Nat × Nat => x.2) = l := by simp
  have rounds : RoundsTo i s f mode n poison (fun ds => (flags (rs ds)).map (fun x => (0, x)))
      (fun _ => tok (rs (s.drawFor f.ci mode n).1)) := by
    refine rounds_of ?_
    rw [asPairs, h, roundedEnd, (draw_frame s f.ci mode n).1]
  simpa only [RoundsTo, RoundsAt, asPairs] using rounds

/-- A firing under a mode that draws nothing. -/
theorem roundedEnd_undrawn (t : State) (f : Firing) (poison : Bool) (rs : List Nat → List (Nat × Nat))
    (flags : List (Nat × Nat) → List Nat) (tok : List (Nat × Nat) → Token) :
    roundedEnd t f 0 0 poison rs flags tok = t.withFlags f poison (flags (rs [])) (fun u => u.emit f (tok (rs []))) := by
  rw [roundedEnd, drawFor_none t f.ci 0 (by decide)]

/-- A node that gives an empty run in the place of its result (R26, R162). -/
theorem exec_of_emitEmpty {w : Nat} (h : exec i s = .next (({ s with issue := none } : State).emitEmpty f w)) :
    exec i s = .next (fired s (emitted s f (f.out w f.poisoned true []))) := by
  rw [h, State.emitEmpty, emit_fired]

end Rounding

/-! ## Elements with their draws (R171, R173) -/

/-- Elements rounded each with its draw, by their numbers. -/
theorem map_withDraws {α β : Type} (ds : List Nat) (xs : List α) (g : Nat × α → β) :
    (withDraws ds xs).map g = (indexed 0 xs).map (fun x => g (draw ds x.1, x.2)) := by
  simp [withDraws, draw, Function.comp_def]

theorem rounded1_empty {f : Firing} (empty : f.isEmpty = true) (t : State) (mode : Nat) (op : Nat → Nat → Nat × Nat) :
    t.rounded1 f mode op = t.emitEmpty f f.width := by
  rw [State.rounded1, if_pos empty]

theorem rounded2_empty {f : Firing} (empty : f.isEmpty = true) (t : State) (mode : Nat) (op : Nat → Nat → Nat → Nat × Nat) :
    t.rounded2 f mode op = t.emitEmpty f f.width := by
  rw [State.rounded2, if_pos empty]

theorem rounded1_full {f : Firing} (full : f.isEmpty = false) (t : State) (mode : Nat) (op : Nat → Nat → Nat × Nat) :
    t.rounded1 f mode op = roundedEnd t f mode (f.len * subCount f.width) f.poisoned
      (fun ds => (indexed 0 f.xs).map (fun x => op (draw ds x.1) x.2)) (fun r => r.map (fun x => x.2)) (floatResult f) := by
  simp only [State.rounded1, full, Bool.false_eq_true, if_false, map_withDraws, roundedEnd, floatResult]

theorem rounded2_full {f : Firing} (full : f.isEmpty = false) (t : State) (mode : Nat) (op : Nat → Nat → Nat → Nat × Nat) :
    t.rounded2 f mode op = roundedEnd t f mode (f.len * subCount f.width) f.poisoned
      (fun ds => (indexed 0 (f.xs.zip f.ys)).map (fun x => op (draw ds x.1) x.2.1 x.2.2)) (fun r => r.map (fun x => x.2))
      (floatResult f) := by
  simp only [State.rounded2, full, Bool.false_eq_true, if_false, map_withDraws, roundedEnd, floatResult]

/-! ## Float nodes (R88, R89, R171 to R173) -/

/-- The table of dyadic float nodes: each rounds its operation on two operands. -/
theorem exec_floatDyads : ∀ e ∈ floatDyads, ∀ s, exec e.1 s = .next (s.fire (fun f t => t.rounded2 f (e.2.1 f) (e.2.2 f))) := by
  simp only [floatDyads, List.forall_mem_cons, List.not_mem_nil, false_imp_iff, implies_true, and_true]
  and_intros <;> exact fun _ => rfl

/-- The table of special functions: each rounds its operation on one operand. -/
theorem exec_floatMonads : ∀ e ∈ floatMonads, ∀ s, exec e.1 s = .next (s.fire (fun f t => t.rounded1 f (e.2.1 f) (e.2.2 f))) := by
  simp only [floatMonads, List.forall_mem_cons, List.not_mem_nil, false_imp_iff, implies_true, and_true]
  and_intros <;> exact fun _ => rfl

/-- What `ffma` does with a firing: its empty run reads no slot. -/
def ffmaMeaning (f : Firing) (t : State) : State :=
  if f.isEmpty then t.emitEmpty f f.width
  else roundedEnd t f f.rm (f.len * subCount f.width) (f.poisoned || (t.slotRead f (f.lit % 256)).2)
    (fun ds => (indexed 0 ((f.xs.zip f.ys).zip ((t.slotRead f (f.lit % 256)).1.flatMap (elemsOf f.width)))).map (fun x =>
      round f.fmt f.rm (draw ds x.1) (sumNum f.rm [(value f.fmt x.2.1.1).mul (value f.fmt x.2.1.2), value f.fmt x.2.2])))
    (fun r => r.map (fun x => x.2))
    (fun r => f.out f.width (f.poisoned || (t.slotRead f (f.lit % 256)).2) false (lanesBack f.width f.len (r.map (fun x => x.1))))

theorem exec_ffma (s : State) : exec .ffma s = .next (s.fire ffmaMeaning) := by
  change execFfma s = _
  simp only [execFfma, ok, map_withDraws]
  rfl

/-- Settles O31: each table's rows by `rounded1_full` and `rounded2_full`, `ffma` by its meaning, and their empty runs. -/
theorem floatNodes : Obligations.FloatNodes := by
  refine ⟨fun e he s f h full => roundsAt_of_roundedEnd ?dyad, fun e he s f h full => roundsAt_of_roundedEnd ?monad,
    fun s f h full => roundsAt_of_roundedEnd ?ffma, fun i hi s f h empty => exec_of_emitEmpty ?empty⟩
  case dyad => rw [exec_of_fire (exec_floatDyads e he) h, rounded2_full full]
  case monad => rw [exec_of_fire (exec_floatMonads e he) h, rounded1_full full]
  case ffma => rw [exec_of_fire exec_ffma h, ffmaMeaning, if_neg (ne_true_of_eq_false full)]; rfl
  case empty =>
    rw [List.mem_append, List.mem_append, List.mem_map, List.mem_map, List.mem_singleton] at hi
    obtain (⟨e, he, rfl⟩ | ⟨e, he, rfl⟩) | rfl := hi
    · rw [exec_of_fire (exec_floatDyads e he) h, rounded2_empty empty]
    · rw [exec_of_fire (exec_floatMonads e he) h, rounded1_empty empty]
    · rw [exec_of_fire exec_ffma h, ffmaMeaning, if_pos empty]

/-! ## Conversions (R174) -/

/-- One target sub-element of a conversion: the place of the next draw, and codes, flags and whether it has a source, last first. -/
def convertStep (tgt src : Fmt) (mode : Nat) (ds : List Nat) (acc : Nat × List (Nat × Nat × Bool)) (o : Option Nat) :
    Nat × List (Nat × Nat × Bool) :=
  match o with
  | some x =>
    let r := round tgt mode (nth 0 ds acc.1) (value src x)
    (acc.1 + 1, (r.1, r.2, true) :: acc.2)
  | none => (acc.1, (0, 0, false) :: acc.2)

/-- The model's fold over the target sub-elements gives `convertedFrom` of them. -/
theorem foldl_convertStep (tgt src : Fmt) (mode : Nat) (ds : List Nat) (slots : List (Option Nat)) (k : Nat)
    (acc : List (Nat × Nat × Bool)) :
    (slots.foldl (convertStep tgt src mode ds) (k, acc)).2.reverse.map (fun r => (r.1, r.2.1))
      = acc.reverse.map (fun r => (r.1, r.2.1)) ++ convertedFrom tgt src mode ds k slots := by
  induction slots generalizing k acc with
  | nil => simp [convertedFrom]
  | cons o slots ih => cases o <;> simp [convertStep, ih, convertedFrom, draw]

/-- A conversion of a run that is not empty. -/
theorem convert_full {f : Firing} (full : f.isEmpty = false) (t : State) :
    t.convert f = roundedEnd t f f.rm ((convertSlots f).filter (fun o => o.isSome)).length f.poisoned
      (fun ds => convertedFrom (fmtOfCode (f.lit % 16)) (fmtOfCode (bits f.lit 7 4)) f.rm ds 0 (convertSlots f))
      (fun r => (chunks (subCount (fmtOfCode (f.lit % 16)).code) f.len (r.map (fun x => x.2))).flatMap
        (cvtFlags (subCount (fmtOfCode (bits f.lit 7 4)).code) (subCount (fmtOfCode (f.lit % 16)).code) (bits f.lit 11 8)))
      (fun r => f.out (fmtOfCode (f.lit % 16)).code f.poisoned false
        (lanesBack (fmtOfCode (f.lit % 16)).code f.len (r.map (fun x => x.1)))) := by
  have each (ds : List Nat) : convertedFrom (fmtOfCode (f.lit % 16)) (fmtOfCode (bits f.lit 7 4)) f.rm ds 0 (convertSlots f) =
      ((convertSlots f).foldl (convertStep (fmtOfCode (f.lit % 16)) (fmtOfCode (bits f.lit 7 4)) f.rm ds) (0, [])).2.reverse.map
        (fun r => (r.1, r.2.1)) := by
    rw [foldl_convertStep]; rfl
  simp only [roundedEnd, each, List.map_map, State.convert, full, Bool.false_eq_true, if_false]
  rfl

/-- The three conversions are one meaning. -/
theorem exec_convert : ∀ i ∈ [Instr.cvtF, .cvtFi, .cvtIf], ∀ s, exec i s = .next (s.fire (fun f t => t.convert f)) := by
  simp only [List.forall_mem_cons, List.not_mem_nil, false_imp_iff, implies_true, and_true]
  and_intros <;> exact fun _ => rfl

/-! ## Repacking (R175) -/

/-- A node that repacks elements sends the joined runs of the values they fill. -/
theorem exec_of_repack {i : Instr} {s : State} {f : Firing} {es : List (Nat × Nat × Nat)}
    (h : exec i s = .next (({ s with issue := none } : State).repack f es)) :
    exec i s = .next (fired s (flightsAB f ((joinRuns (gatherValues es)).map (fun r =>
        f.outRun r.2.length (setField (s.shape f.ctx) f.tag f.level r.1) f.width f.poisoned f.isEmpty
          (r.2.map (fun l => laneOf f.width ((List.range (subCount f.width)).map (fun k =>
            match l.find? (fun e => e.1 == k) with | some e => e.2 | none => 0)))))))) := by
  rw [h, State.repack, sendAll_flights]
  rfl

/-- Settles O32: conversions by `convert_full`, repacking by `exec_of_repack`. -/
theorem conversionNodes : Obligations.ConversionNodes := by
  refine ⟨fun i hi s f h full => roundsAt_of_roundedEnd ?full, fun i hi s f h empty => exec_of_emitEmpty ?empty,
    fun s f i es h row => exec_of_repack ?repack⟩
  case full => rw [exec_of_fire (exec_convert i hi) h, convert_full full]
  case empty => rw [exec_of_fire (exec_convert i hi) h, State.convert, if_pos empty]
  case repack =>
    obtain ⟨rfl, rfl⟩ | ⟨rfl, rfl⟩ := row
    · exact exec_of_fire (i := .pack) (fun _ => rfl) h
    · exact exec_of_fire (i := .unpack) (fun _ => rfl) h

end Sys2Proof.Worker
end

section
/-! O33, O34: packed operations, and reductions over a run (R176 to R179, R94). -/

namespace Sys2Proof.Worker

open Sys2Proof.Machine

/-! ## Packed operations (R176, R177) -/

/-- A packed operation: rounded under a mode where its elements are floats, exact where they are integers. -/
def IsPacked (i : Instr) (mode : Firing → Nat) (fop : Firing → Nat → Nat → Nat → Nat × Nat) (iop : Firing → Nat → Nat → Nat) : Prop :=
  ∀ s, exec i s = .next (s.fire (fun f t => if f.isFloat then t.rounded2 f (mode f) (fop f) else t.elementwise f (iop f)))

section Packed

variable {i : Instr} {mode : Firing → Nat} {fop : Firing → Nat → Nat → Nat → Nat × Nat} {iop : Firing → Nat → Nat → Nat}
  {s : State} {f : Firing}

theorem IsPacked.exec_int (p : IsPacked i mode fop iop) (h : Fires s f) (int : f.isFloat = false) :
    exec i s = .next (fired s (emitted s f (resultOf f (List.zipWith (iop f) f.xs f.ys)))) := by
  rw [exec_of_fire p h, if_neg (ne_true_of_eq_false int), elementwise_ends h]

theorem IsPacked.roundsTo (p : IsPacked i mode fop iop) (h : Fires s f) (float : f.isFloat = true) (full : f.isEmpty = false) :
    RoundsTo i s f (mode f) (f.len * subCount f.width) f.poisoned
      (fun ds => (indexed 0 (f.xs.zip f.ys)).map (fun x => fop f (draw ds x.1) x.2.1 x.2.2)) (floatResult f) := by
  refine roundsAt_of_roundedEnd ?_
  rw [exec_of_fire p h, if_pos float, rounded2_full full]

theorem IsPacked.exec_empty (p : IsPacked i mode fop iop) (h : Fires s f) (empty : f.isEmpty = true) :
    exec i s = .next (fired s (emitted s f (f.out f.width f.poisoned true []))) := by
  refine exec_of_emitEmpty ?_
  rw [exec_of_fire p h, rounded2_empty empty, State.elementwise, if_pos empty, ite_self]

end Packed

theorem isPacked_padd : IsPacked .padd (fun f => f.rm) (fun f d x y => roundAdd f.fmt f.rm d (value f.fmt x) (value f.fmt y))
    (fun f x y => deliverInt (subWidth f.width) f.m77 f.isUnsigned
      (intOf f.isUnsigned (subWidth f.width) x + intOf f.isUnsigned (subWidth f.width) y)) := fun _ => rfl

theorem isPacked_pmul : IsPacked .pmul (fun f => f.rm) (fun f d x y => round f.fmt f.rm d ((value f.fmt x).mul (value f.fmt y)))
    (fun f x y => deliverInt (subWidth f.width) f.m77 f.isUnsigned
      (intOf f.isUnsigned (subWidth f.width) x * intOf f.isUnsigned (subWidth f.width) y)) := fun _ => rfl

theorem isPacked_pmax : IsPacked .pmax (fun _ => 0) (fun f _ x y => minMax f.fmt true false x y)
    (fun f x y => if intOf f.isUnsigned (subWidth f.width) x < intOf f.isUnsigned (subWidth f.width) y then y else x) := fun _ => rfl

/-- The slot operand of `pdot`: read at arity 0b11 only. -/
def pdotSlot (t : State) (f : Firing) : List Lane × Bool := if f.arity = 3 then t.slotRead f (f.lit % 256) else ([], false)

/-- What `pdot` does with a firing. -/
def pdotMeaning (f : Firing) (t : State) : State :=
  if f.isEmpty then t.emitEmpty f 0
  else roundedEnd t f f.mode f.len (f.poisoned || (pdotSlot t f).2)
    (fun ds => (List.range f.len).map (fun j =>
      if f.isFloat then
        round .f32 f.rm (draw ds j) (sumNum f.rm (List.zipWith (fun x y => (value f.fmt x).mul (value f.fmt y))
          (elemsOf f.width (f.aLane j)) (elemsOf f.width (f.bLane j))
          ++ (if f.arity = 3 then [value .f32 (nth 0 (pdotSlot t f).1 j).toNat] else [])))
      else
        (deliverInt 32 f.m77 f.isUnsigned
          (f.dotInt j + (if f.arity = 3 then intOf f.isUnsigned 32 (nth 0 (pdotSlot t f).1 j).toNat else 0)), 0)))
    (fun r => r.flatMap (fun x => padTo 0 (subCount f.width) [x.2]))
    (fun r => f.out 0 (f.poisoned || (pdotSlot t f).2) false (r.map (fun x => BitVec.ofNat 32 x.1)))

theorem exec_pdot (s : State) : exec .pdot s = .next (s.fire pdotMeaning) := rfl

/-- Settles O33: the three packed operations by the rules of `IsPacked`, `pdot` by its meaning. -/
theorem packedNodes : Obligations.PackedNodes := by
  refine ⟨fun s f i op h int row => ?int, fun s f h int => isPacked_pmax.exec_int h int, ?float,
    fun s f h full => roundsAt_of_roundedEnd ?pdot, ?empty⟩
  case int =>
    obtain ⟨rfl, rfl⟩ | ⟨rfl, rfl⟩ := row
    · exact isPacked_padd.exec_int h int
    · exact isPacked_pmul.exec_int h int
  case float =>
    simp only [List.forall_mem_cons, List.not_mem_nil, false_imp_iff, implies_true, and_true]
    exact ⟨fun s f => isPacked_padd.roundsTo, fun s f => isPacked_pmul.roundsTo, fun s f => isPacked_pmax.roundsTo⟩
  case pdot =>
    rw [exec_of_fire exec_pdot h, pdotMeaning, if_neg (ne_true_of_eq_false full)]
    rfl
  case empty =>
    simp only [List.forall_mem_cons, List.not_mem_nil, false_imp_iff, implies_true, and_true]
    refine ⟨fun s f => isPacked_padd.exec_empty, fun s f => isPacked_pmul.exec_empty, fun s f => isPacked_pmax.exec_empty,
      fun s f h empty => exec_of_emitEmpty ?_⟩
    rw [exec_of_fire exec_pdot h, pdotMeaning, if_pos empty, if_pos trivial]

/-! ## Reductions (R178, R94) -/

theorem oneLane_full {f : Firing} (full : f.isEmpty = false) (w : Nat) (l : Lane) :
    f.oneLane w l = f.outRun 1 f.tag w f.poisoned false [l] := by
  rw [Firing.oneLane, full]

theorem oneLane_empty {f : Firing} (empty : f.isEmpty = true) (w : Nat) :
    f.oneLane w 0 = f.outRun 1 f.tag w f.poisoned true [0] := by
  rw [Firing.oneLane, empty]

/-- What `rsum` does with a firing. -/
def rsumMeaning (f : Firing) (t : State) : State :=
  if f.isEmpty then t.emit f (f.oneLane 0 0)
  else if f.isFloat then
    let ws := f.xs.map (fun x => round .f32 0 0 (value f.fmt x))
    roundedEnd t f 0 0 f.poisoned
      (fun _ => ((treeSum .f32 f.rm (ws.map (fun w => w.1))).1, (treeSum .f32 f.rm (ws.map (fun w => w.1))).2 ||| (ws.headD (0, 0)).2)
        :: ws.tail)
      (fun r => r.map (fun x => x.2)) (fun r => f.oneLane 0 (BitVec.ofNat 32 (r.headD (0, 0)).1))
  else t.emit f (f.oneLane 0 (BitVec.ofNat 32
    (deliverInt 32 f.m77 f.isUnsigned ((f.xs.map (intOf f.isUnsigned (subWidth f.width))).foldl (fun a b => a + b) 0))))

theorem exec_rsum (s : State) : exec .rsum s = .next (s.fire rsumMeaning) := rfl

/-- The greatest or least element of a run that is not empty; nothing is drawn. -/
theorem reduceExtreme_full {f : Firing} (full : f.isEmpty = false) (t : State) (big : Bool) :
    t.reduceExtreme f big = roundedEnd t f 0 0 f.poisoned (fun _ => (f.extreme big).2.map (fun fl => ((f.extreme big).1, fl)))
      (fun r => r.map (fun x => x.2)) (fun _ => f.oneLane f.width (laneOf f.width [(f.extreme big).1])) := by
  rw [roundedEnd_undrawn, List.map_map, State.reduceExtreme, if_neg (ne_true_of_eq_false full)]
  simp only [Function.comp_def, List.map_id']

theorem exec_extreme {i : Instr} {big : Bool} (row : (i = .rmax ∧ big = true) ∨ (i = .rmin ∧ big = false)) (s : State) :
    exec i s = .next (s.fire (fun f t => t.reduceExtreme f big)) := by
  obtain ⟨rfl, rfl⟩ | ⟨rfl, rfl⟩ := row <;> rfl

/-! ## Prefixes (R179) -/

/-- What `rprefix` does with a firing. -/
def rprefixMeaning (f : Firing) (t : State) : State :=
  if f.isEmpty then t.emitEmpty f f.width
  else if f.isFloat then
    roundedEnd t f f.rm (f.xs.length - 1) f.poisoned
      (fun ds => (f.xs.headD 0, 0) :: prefixFloat f.fmt f.rm (f.xs.headD 0) (withDraws ds f.xs.tail)) (fun r => r.map (fun x => x.2))
      (floatResult f)
  else t.emit f (f.out f.width f.poisoned false
    (lanesBack f.width f.len (prefixInt (subWidth f.width) f.m77 f.isUnsigned 0 f.xs)))

theorem exec_rprefix (s : State) : exec .rprefix s = .next (s.fire rprefixMeaning) := rfl

/-- Settles O34: each reduction by its meaning, by whether its run is empty and whether its elements are floats. -/
theorem reductionNodes : Obligations.ReductionNodes := by
  refine ⟨fun s f h full int => ?sumInt, fun s f ws h full float sum => roundsAt_of_roundedEnd ?sumFloat,
    fun s f i big h full row => roundsAt_of_roundedEnd ?extreme, fun s f h full int => ?prefixInt,
    fun s f h full float => roundsAt_of_roundedEnd ?prefixFloat, fun s f i w h empty row => ?empty,
    fun s f h empty => exec_of_emitEmpty ?prefixEmpty⟩
  case sumInt =>
    rw [exec_of_fire exec_rsum h, rsumMeaning, if_neg (ne_true_of_eq_false full), if_neg (ne_true_of_eq_false int), emit_fired,
      oneLane_full full]
  case sumFloat =>
    subst sum
    simp only [← oneLane_full full]
    rw [exec_of_fire exec_rsum h, rsumMeaning, if_neg (ne_true_of_eq_false full), if_pos float]
  case extreme =>
    simp only [← oneLane_full full]
    rw [exec_of_fire (exec_extreme row) h, reduceExtreme_full full]
  case prefixInt =>
    rw [exec_of_fire exec_rprefix h, rprefixMeaning, if_neg (ne_true_of_eq_false full), if_neg (ne_true_of_eq_false int), emit_fired]
  case prefixFloat => rw [exec_of_fire exec_rprefix h, rprefixMeaning, if_neg (ne_true_of_eq_false full), if_pos float]
  case prefixEmpty => rw [exec_of_fire exec_rprefix h, rprefixMeaning, if_pos empty]
  case empty =>
    rw [← oneLane_empty empty]
    obtain ⟨rfl, rfl⟩ | ⟨rfl | rfl, rfl⟩ := row
    · rw [exec_of_fire exec_rsum h, rsumMeaning, if_pos empty, emit_fired]
    · rw [exec_of_fire (exec_extreme (.inl ⟨rfl, rfl⟩)) h, State.reduceExtreme, if_pos empty, emit_fired]
    · rw [exec_of_fire (exec_extreme (.inr ⟨rfl, rfl⟩)) h, State.reduceExtreme, if_pos empty, emit_fired]

end Sys2Proof.Worker
end

section
/-! O35, O36: bitmaps, and the frame lines that a firing reads and writes (R181 to R186, R188, R221). -/

namespace Sys2Proof.Worker

open Sys2Proof.Machine

/-! ## Bitmaps (R181, R183, R184) -/

/-- A bitmap goes to destination A and its counts to B, each by its own tag operation. -/
theorem bitmapOp_ends (s : State) (f : Firing) (op : Lane → Lane → Lane) :
    ({ s with issue := none } : State).bitmapOp f op = fired s
      (emittedTo s f f.cfg.fields.dstA (f.out 0 f.poisoned f.isEmpty ((List.range f.len).map (fun j => op (f.aLane j) (f.bLane j))))
        ++ emittedTo s f f.cfg.fields.dstB (f.out 0 f.poisoned f.isEmpty ((List.range f.len).map (fun j =>
          BitVec.ofNat 32 (popLane (op (f.aLane j) (f.bLane j))))))) := by
  simp only [State.bitmapOp, emitTo_flights, List.map_map, fired, List.append_assoc, upTo]
  rfl

/-- What `isect` does with a firing. -/
def isectMeaning (f : Firing) (t : State) : State :=
  t.perLane f 1 (f.poisoned || (!f.isEmpty && (t.slotRead f (f.lit % 256)).2)) (fun j =>
    let x := f.aLane j
    let z := nth 0 (t.slotRead f (f.lit % 256)).1 j
    let y := (f.bLane j).toNat
    (onesOf (x &&& z)).map (fun p =>
      BitVec.ofNat 32 ((y % 65536 + popCount p x.toNat) % 65536 + (y / 65536 + popCount p z.toNat) % 65536 * 65536)))

theorem exec_isect (s : State) : exec .isect s = .next (s.fire isectMeaning) := rfl

/-- Settles O35: bitmaps by `bitmapOp_ends`, the expansions as the tokens of one firing sent in order. -/
theorem bitmapNodes : Obligations.BitmapNodes := by
  refine ⟨fun s f i op h row => ?bitmap, fun s f h => ?bexp, fun s f h => ?isect⟩
  case bitmap =>
    obtain ⟨rfl, rfl⟩ | ⟨rfl, rfl⟩ := row
    · rw [exec_of_fire (i := .band) (fun _ => rfl) h, bitmapOp_ends]; rfl
    · rw [exec_of_fire (i := .bor) (fun _ => rfl) h, bitmapOp_ends]; rfl
  case bexp => rw [exec_of_fire (i := .bexp) (fun _ => rfl) h, State.perLane, sendAll_flights]; rfl
  case isect => rw [exec_of_fire exec_isect h, isectMeaning, State.perLane, sendAll_flights]; rfl

/-! ## Writes of frame lines (R185, R186, R221) -/

/-- An update that writes bytes of `inside` only and does not look at the datapath or touch a context. -/
structure FrameWrite (inside : Nat → Prop) (g : State → State) : Prop where
  issue : ∀ t, g { t with issue := none } = { g t with issue := none }
  contexts : ∀ t, (g t).contexts = t.contexts
  memInv : ∀ t, MemInv t → MemInv (g t)
  byte : ∀ t, MemInv t → ∀ x, ¬inside x → (g t).byte x = t.byte x

namespace FrameWrite

variable {inside outer : Nat → Prop} {g h : State → State}

theorem mono (w : FrameWrite inside g) (sub : ∀ x, inside x → outer x) : FrameWrite outer g :=
  { w with byte := fun t inv x out => w.byte t inv x (fun i => out (sub x i)) }

theorem comp (second : FrameWrite inside h) (first : FrameWrite inside g) : FrameWrite inside (fun t => h (g t)) where
  issue t := by rw [first.issue, second.issue]
  contexts t := by rw [second.contexts, first.contexts]
  memInv t inv := second.memInv _ (first.memInv t inv)
  byte t inv x out := by rw [second.byte _ (first.memInv t inv) x out, first.byte t inv x out]

theorem foldl {α : Type} {step : State → α → State} (l : List α) (each : ∀ a ∈ l, FrameWrite inside (fun t => step t a)) :
    FrameWrite inside (fun t => l.foldl step t) := by
  induction l with
  | nil => exact ⟨fun _ => rfl, fun _ => rfl, fun _ inv => inv, fun _ _ _ _ => rfl⟩
  | cons a l ih =>
    obtain ⟨head, tail⟩ := List.forall_mem_cons.mp each
    exact (ih tail).comp head

theorem ite (p : Prop) [Decidable p] (yes : FrameWrite inside g) (no : FrameWrite inside h) :
    FrameWrite inside (fun t => if p then g t else h t) := by
  by_cases hp : p
  · simpa only [hp, if_true] using yes
  · simpa only [hp, if_false] using no

theorem putLE (a n : Nat) {v : State → Nat} (beyond : ∀ t, v { t with issue := none } = v t) :
    FrameWrite (fun x => a ≤ x ∧ x < a + n) (fun t => t.putLE a n (v t)) where
  issue t := by rw [beyond]; rfl
  contexts _ := rfl
  memInv t inv := State.putLE_wf a n (v t) inv
  byte _ inv x out := State.byte_putBytes_out inv a _ x (by rwa [leBytes_length])

theorem setLinePoison (ci line : Nat) (p : Bool) : FrameWrite inside (fun t => t.setLinePoison ci line p) :=
  ⟨fun _ => rfl, fun _ => rfl, fun _ inv => inv, fun _ _ _ _ => rfl⟩

/-- A firing that writes and then emits a token: the token's flights are those of the state before. -/
theorem emit (w : FrameWrite inside g) (s : State) (f : Firing) (tok : Token) :
    (g { s with issue := none }).emit f tok = fired (g s) (emitted s f tok) := by
  have same : emitted (g s) f tok = emitted s f tok := by simp only [emitted, State.tagged, State.shape, w.contexts]
  rw [w.issue, emit_fired, same]

end FrameWrite

/-- One element of the named lines: its word is read and written back with the element in it. -/
theorem frameWrite_putElement (f : Firing) (j : Nat) : FrameWrite
    (fun x => frameAddr f.ci 0 + (f.frameByte (f.frameIndex j)).1 ≤ x ∧ x < frameAddr f.ci 0 + (f.frameByte (f.frameIndex j)).1 + 4)
    (fun t => t.putElement f j) :=
  have word := FrameWrite.putLE (frameAddr f.ci 0 + (f.frameByte (f.frameIndex j)).1) 4 (v := fun t => (laneOf f.width
    (setNth (elemOf f.width (f.bLane j) 0) (elemsOf f.width (t.lane (frameAddr f.ci 0 + (f.frameByte (f.frameIndex j)).1)))
      (f.frameByte (f.frameIndex j)).2)).toNat) (fun _ => rfl)
  .ite (f.poisoned = true) ((FrameWrite.setLinePoison ..).comp word) word

/-- Lanes written to a frame line at their places, and the line's poison (R186, R221). -/
def writeLine (ci line : Nat) (ls : List (Nat × Lane)) (poison : Bool) (t : State) : State :=
  if poison then (t.setFrame ci line ls).setLinePoison ci line true
  else if (ls.map (fun e => e.1)).eraseDups.length = 32 then (t.setFrame ci line ls).setLinePoison ci line false
  else t.setFrame ci line ls

/-- The places in a slot's line of the lanes of a run (R158). -/
def slotPlaces (s : State) (level : Nat) (ctx : BitVec 12) (tag : Word) (lanes : List Lane) : List (Nat × Lane) :=
  (indexed 0 lanes).map (fun e => (slotLane (s.shape ctx) level tag e.1, e.2))

theorem slotWrite_eq (s : State) (ci slot level : Nat) (ctx : BitVec 12) (tag : Word) (lanes : List Lane) (poison : Bool) :
    s.slotWrite ci slot level ctx tag lanes poison =
      writeLine ci ((s.cell ci).slotLine slot) (slotPlaces s level ctx tag lanes) poison s := rfl

/-- A line has 32 lanes. -/
theorem slotPlaces_lt (s : State) (level : Nat) (ctx : BitVec 12) (tag : Word) (lanes : List Lane) :
    ∀ e ∈ slotPlaces s level ctx tag lanes, e.1 < 32 := by
  intro e he
  obtain ⟨x, -, rfl⟩ := List.mem_map.mp he
  exact Nat.mod_lt _ (by decide)

theorem frameWrite_writeLine (ci line : Nat) {ls : List (Nat × Lane)} (low : ∀ e ∈ ls, e.1 < 32) (poison : Bool) :
    FrameWrite (fun x => frameAddr ci line ≤ x ∧ x < frameAddr ci line + 128) (writeLine ci line ls poison) := by
  have lanes : FrameWrite (fun x => frameAddr ci line ≤ x ∧ x < frameAddr ci line + 128) (fun t => t.setFrame ci line ls) := by
    refine FrameWrite.foldl ls (fun e he => (FrameWrite.putLE _ _ (fun _ => rfl)).mono (fun x hx => ?_))
    have := low e he
    omega
  exact .ite (poison = true) ((FrameWrite.setLinePoison ..).comp lanes) (.ite _ ((FrameWrite.setLinePoison ..).comp lanes) lanes)

/-! ## `sld` and `sst` (R185, R188) -/

/-- What `sld` and `sst` do with a firing: an empty run stays one, an element outside the named lines faults, and `act` runs otherwise. -/
def frameMeaning (act : Firing → State → State) (f : Firing) (t : State) : State :=
  if f.isEmpty then t.emitEmpty f f.width
  else match t.frameOutside f with
    | some j => t.frameFault f j
    | none => act f t

/-- `sld` inside the named lines. -/
def loadElements (f : Firing) (t : State) : State :=
  t.emit f (f.out f.width
    (f.poisoned || (List.range f.len).any (fun j => (t.cell f.ci).linePoison.contains ((f.frameByte (f.frameIndex j)).1 / 128))) false
    ((List.range f.len).map (fun j => laneOf f.width [elemOf f.width
      (t.lane (frameAddr f.ci 0 + (f.frameByte (f.frameIndex j)).1)) (f.frameByte (f.frameIndex j)).2])))

/-- `sst` inside the named lines. -/
def storeElements (f : Firing) (t : State) : State :=
  ((List.range f.len).foldl (fun u j => u.putElement f j) t).emit f
    (f.out f.width f.poisoned false ((List.range f.len).map (fun j => laneOf f.width (elemsOf f.width (f.bLane j)))))

theorem exec_sld (s : State) : exec .sld s = .next (s.fire (frameMeaning loadElements)) := rfl

theorem exec_sst (s : State) : exec .sst s = .next (s.fire (frameMeaning storeElements)) := rfl

theorem frameOp_meaning {i : Instr} (row : i = .sld ∨ i = .sst) : ∃ act, ∀ s, exec i s = .next (s.fire (frameMeaning act)) := by
  obtain rfl | rfl := row
  · exact ⟨_, exec_sld⟩
  · exact ⟨_, exec_sst⟩

section Frame

variable {i : Instr} {act : Firing → State → State} {s : State} {f : Firing}
  (run : ∀ s, exec i s = .next (s.fire (frameMeaning act))) (h : Fires s f)
include run h

theorem exec_frame_inside (full : f.isEmpty = false) (inside : s.frameOutside f = none) :
    exec i s = .next (act f { s with issue := none }) := by
  have inside' : ({ s with issue := none } : State).frameOutside f = none := inside
  simp only [exec_of_fire run h, frameMeaning, full, Bool.false_eq_true, if_false, inside']

theorem exec_frame_outside {j : Nat} (full : f.isEmpty = false) (outside : s.frameOutside f = some j) :
    exec i s = .next ((fired s []).frameFault f j) := by
  have outside' : ({ s with issue := none } : State).frameOutside f = some j := outside
  simp only [exec_of_fire run h, frameMeaning, full, Bool.false_eq_true, if_false, outside', fired, List.append_nil]

theorem exec_frame_empty (empty : f.isEmpty = true) :
    exec i s = .next (fired s (emitted s f (f.out f.width f.poisoned true []))) := by
  refine exec_of_emitEmpty ?_
  rw [exec_of_fire run h, frameMeaning, if_pos empty]

end Frame

/-! ## `rot.st` (R221) -/

/-- What `rot.st` does with a firing. -/
def rotStMeaning (f : Firing) (t : State) : State :=
  State.emit (if f.isEmpty then t
    else t.slotWrite f.ci (f.lit % 256) f.level f.ctx f.tag ((List.range f.len).map f.aLane) f.a.poison) f f.pass

theorem exec_rotSt (s : State) : exec .rotSt s = .next (s.fire rotStMeaning) := rfl

/-- Settles O36: a frame access by where its elements lie, and what `sst` and `rot.st` leave of memory by `FrameWrite`. -/
theorem frameAccessNodes : Obligations.FrameAccessNodes := by
  refine ⟨fun s f h full inside => ?load, fun s f h full inside => ?store, fun s f i j h full outside row => ?fault,
    fun s f i h empty row => ?empty, fun s f h full => ?slot, fun s f h empty => ?slotEmpty⟩
  case load => rw [exec_frame_inside exec_sld h full inside, loadElements, emit_fired]; rfl
  case store =>
    have w : FrameWrite (fun x => ∃ j, j < f.len ∧ frameAddr f.ci 0 + (f.frameByte (f.frameIndex j)).1 ≤ x
        ∧ x < frameAddr f.ci 0 + (f.frameByte (f.frameIndex j)).1 + 4)
        (fun t => (List.range f.len).foldl (fun u j => u.putElement f j) t) :=
      .foldl _ (fun j hj => (frameWrite_putElement f j).mono (fun x hx => ⟨j, List.mem_range.mp hj, hx⟩))
    refine ⟨_, ?_, rfl, fun inv x out => w.byte s inv x (fun ⟨j, hj, hx⟩ => out j hj hx)⟩
    rw [exec_frame_inside exec_sst h full inside, storeElements, w.emit]
  case fault =>
    obtain ⟨act, run⟩ := frameOp_meaning row
    exact exec_frame_outside run h full outside
  case empty =>
    obtain ⟨act, run⟩ := frameOp_meaning row
    exact exec_frame_empty run h empty
  case slot =>
    have w := frameWrite_writeLine f.ci ((s.cell f.ci).slotLine (f.lit % 256))
      (slotPlaces_lt s f.level f.ctx f.tag ((List.range f.len).map f.aLane)) f.a.poison
    refine ⟨_, ?_, rfl, fun inv x out => w.byte s inv x out⟩
    rw [exec_of_fire exec_rotSt h, rotStMeaning, if_neg (ne_true_of_eq_false full), slotWrite_eq s, ← w.emit]
    rfl
  case slotEmpty => rw [exec_of_fire exec_rotSt h, rotStMeaning, if_pos empty, emit_fired]

end Sys2Proof.Worker
end

section
/-! O38: the guard's nodes that route tokens, call, send messages, trap and drain, and what a firing's tokens leave on the stream
switch one after the other (R190, R192, R195, R210, R211, R214 to R217). -/

namespace Sys2Proof.Guard

open Sys2Proof.Machine

/-! ## A firing's tokens, one after the other (R160, R161) -/

/-- A node that nothing diverts is its meaning on its own firing, with the datapath free and nothing sent yet. -/
theorem exec_fires {i : Instr} {g : Firing → State → State} (run : ∀ s, exec i s = .next (s.fire g)) {s : State} {f : Firing}
    (h : Fires s f) : exec i s = .next (g f (fired s [])) := by
  rw [Worker.exec_of_fire run h, fired, List.append_nil]

theorem emit_fired_append (s : State) (fl : List Flight) (f : Firing) (t : Token) :
    (fired s fl).emit f t = fired s (fl ++ emitted s f t) := by
  rw [emit_flights, fired, fired, ← List.append_assoc]
  rfl

theorem emitTo_fired_append (s : State) (fl : List Flight) (f : Firing) (d : Dest) (t : Token) :
    (fired s fl).emitTo f d t = fired s (fl ++ emittedTo s f d t) := by
  rw [emitTo_flights, fired, fired, ← List.append_assoc]
  rfl

theorem sendFrom_fired_append (s : State) (fl : List Flight) (f : Firing) (d : Dest) (t : Token) :
    (fired s fl).sendFrom f d t = fired s (fl ++ flightTo f.src d t) := by
  rw [State.sendFrom, send_flightTo, fired, fired, ← List.append_assoc]

/-- Updates that each put flights on the switch put all of them there, in order. -/
theorem foldl_flights {α : Type} {s : State} {step : State → α → State} {flights : α → List Flight}
    (each : ∀ net a, step { s with net := net } a = { s with net := net ++ flights a }) (l : List α) :
    l.foldl step s = { s with net := s.net ++ l.flatMap flights } := by
  have from_net (net : List Flight) : l.foldl step { s with net := net } = { s with net := net ++ l.flatMap flights } := by
    induction l generalizing net with
    | nil => rw [List.flatMap_nil, List.append_nil, List.foldl_nil]
    | cons a l ih => rw [List.foldl_cons, each, ih, List.flatMap_cons, List.append_assoc]
  exact from_net s.net

/-! ## `steer.t` and `steer.f` (R195) -/

theorem exec_steer {i : Instr} {want : Bool} (row : (i = .steerT ∧ want = true) ∨ (i = .steerF ∧ want = false)) (s : State) :
    exec i s = .next (s.fire (fun f t => t.steer f want)) := by
  obtain ⟨rfl, rfl⟩ | ⟨rfl, rfl⟩ := row <;> rfl

/-- An empty run goes whole to both destinations. -/
theorem steer_empty {f : Firing} (empty : f.isEmpty = true) (s : State) (want : Bool) :
    (fired s []).steer f want = fired s (emitted s f f.pass) := by
  rw [State.steer, if_pos empty, emit_fired_append, List.nil_append]

/-- One piece of a steered run, to A where its lanes are selected and to B where they are not. -/
def pieceFlights (s : State) (f : Firing) (p : Nat × Nat × Bool) : List Flight :=
  emittedTo s f (if p.2.2 then f.cfg.fields.dstA else f.cfg.fields.dstB) (pieceOf (s.shape f.ctx) f.level f.pass p.1 p.2.1)

/-- The maximal pieces of lanes of a run go in order, each to one destination. -/
theorem steer_full {f : Firing} (full : f.isEmpty = false) (s : State) (want : Bool) :
    (fired s []).steer f want
      = fired s ((piecesBy (fun j => (f.bLane j).getLsbD 0 == want) f.len).flatMap (pieceFlights s f)) := by
  rw [State.steer, if_neg (ne_true_of_eq_false full)]
  refine (foldl_flights (flights := pieceFlights s f) (fun _ (_, _, _) => emitTo_flights ..) _).trans ?_
  rw [fired, fired, List.append_nil]

/-! ## Calls (R210, R211) -/

/-- A linkage word that names a destination of kind none or an engine's port, or that is no destination, is malformed (R211). -/
abbrev badLink (l : Lane) : Prop := 2 ^ 21 ≤ l.toNat ∨ dKind (l.extractLsb' 0 21) = 0 ∨ dKind (l.extractLsb' 0 21) = 2

section Return

variable {s : State} {f : Firing} {b r : Token} (h : Fires s f) (link : f.b = some b)
  (result : r = { f.pass with tag := setField (s.shape f.ctx) f.tag f.level 0 })
include h link

include result in
theorem exec_callRet_empty (empty : b.empty = true) :
    exec .callRet s = .next (fired s (flightTo f.src f.cfg.fields.dstA r)) := by
  rw [exec_fires (i := .callRet) (fun _ => rfl) h, result]
  simp only [link, empty, if_true, sendFrom_fired_append, List.nil_append]
  rfl

theorem exec_callRet_bad (full : b.empty = false) (bad : badLink (f.bLane 0)) :
    exec .callRet s = .next ((fired s []).faultFiring f fSTREAM [0, 0, 0, 0xFFFFFFFF]) := by
  rw [exec_fires (i := .callRet) (fun _ => rfl) h]
  simp only [link, full, Bool.false_eq_true, if_false]
  rw [if_pos bad, State.guardStream]

include result in
theorem exec_callRet_good (full : b.empty = false) (good : ¬badLink (f.bLane 0)) :
    exec .callRet s = .next (fired s (flightTo f.src ((f.bLane 0).extractLsb' 0 21) r ++ flightTo f.src f.cfg.fields.dstA r)) := by
  rw [exec_fires (i := .callRet) (fun _ => rfl) h, result]
  simp only [link, full, Bool.false_eq_true, if_false]
  rw [if_neg good, sendFrom_fired_append, sendFrom_fired_append, List.nil_append]
  rfl

end Return

/-- `call.enter` sends a to destination A, and b, or a again, to B. -/
theorem exec_callEnter {s : State} {f : Firing} (h : Fires s f) :
    exec .callEnter s = .next (fired s
      (flightTo f.src f.cfg.fields.dstA { f.pass with tag := setField (s.shape f.ctx) f.tag (f.level + 1) (f.lit % 65536) }
        ++ flightTo f.src f.cfg.fields.dstB { (f.b.elim f.pass fun _ =>
            f.out f.a.width.toNat f.poisoned f.isEmpty ((List.range f.len).map f.bLane)) with
          tag := setField (s.shape f.ctx) f.tag (f.level + 1) (f.lit % 65536) })) := by
  rw [exec_fires (i := .callEnter) (fun _ => rfl) h]
  dsimp only
  rw [sendFrom_fired_append, sendFrom_fired_append, List.nil_append]
  cases f.b <;> rfl

/-! ## Messages, posts and traps (R214 to R216) -/

section Run

variable {s : State} {f : Firing} (h : Fires s f)
include h

theorem exec_send_empty (empty : f.isEmpty = true) :
    exec .send s = .next (fired s (emittedTo s f f.cfg.fields.dstB (f.out 0 f.poisoned true []))) := by
  rw [exec_fires (i := .send) (fun _ => rfl) h, if_pos empty, emitTo_fired_append, List.nil_append]

theorem exec_send_full (full : f.isEmpty = false) :
    exec .send s = .next (fired s (emittedTo s f f.cfg.fields.dstA { f.out 0 f.poisoned false
          (if f.lit % 2 ^ 21 = 0 then (List.range f.len).map f.aLane
            else setNth (BitVec.ofNat 32 (f.lit % 2 ^ 21)) ((List.range f.len).map f.aLane) (f.len - 1)) with cls := 5 }
        ++ emittedTo s f f.cfg.fields.dstB (f.outRun 1 f.tag 0 f.poisoned false [BitVec.ofNat 32 f.len]))) := by
  rw [exec_fires (i := .send) (fun _ => rfl) h, if_neg (ne_true_of_eq_false full)]
  dsimp only
  rw [emitTo_fired_append, emitTo_fired_append, List.nil_append]
  rfl

theorem exec_post_long (long : f.len = 32) :
    exec .post s = .next ((fired s []).faultFiring f fSTREAM [0, 0, 0, 0xFFFFFFFF]) := by
  rw [exec_fires (i := .post) (fun _ => rfl) h, if_pos long, State.guardStream]

theorem exec_post_short (short : f.len ≠ 32) :
    exec .post s = .next (fired s (emitted s f { f.outRun (f.len + 1) f.tag 0 f.poisoned f.isEmpty
      (if f.isEmpty then [0] else f.cfg.fields.lit :: (List.range f.len).map f.aLane) with cls := 6 })) := by
  rw [exec_fires (i := .post) (fun _ => rfl) h, if_neg short, emit_fired_append, List.nil_append]
  rfl

theorem exec_trap_empty (empty : f.isEmpty = true) : exec .trap s = .next (fired s []) := by
  rw [exec_fires (i := .trap) (fun _ => rfl) h, if_pos empty]

theorem exec_trap_full (full : f.isEmpty = false) :
    exec .trap s = .next ((fired s []).faultFiring f (0x8000 + f.lit % 32768)
      (padTo 0 4 (((List.range f.len).map f.aLane).take 4))) := by
  rw [exec_fires (i := .trap) (fun _ => rfl) h, if_neg (ne_true_of_eq_false full)]
  rfl

end Run

/-! ## Drains (R217) -/

theorem exec_drain {s : State} {f : Firing} (issued : s.issue = some f) :
    exec .drain s = .next (((fired s []).earlyDrain f f.cfg.fields.dstA).earlyDrain f f.cfg.fields.dstB) := by
  change execDrain s = _
  simp only [execDrain, issued, fired, List.append_nil, ok]

/-- Settles O38: the steers by whether their run is empty, `call.ret` by its linkage, `send`, `post` and `trap` by their run, and
`drain` by its two channels. -/
theorem guardRouting : Obligations.GuardRouting := by
  refine ⟨fun s f i want h row => ?steer, fun s f tag h htag => ?enter, fun s f b r h link result => ?ret,
    fun s f ls h lanes => ?send, fun s f issued => exec_drain issued, fun u f d => rfl⟩
  case steer =>
    rw [exec_fires (exec_steer row) h]
    cases run : f.isEmpty
    · rw [steer_full run, if_neg Bool.false_ne_true]; rfl
    · rw [steer_empty run, if_pos rfl]
  case enter =>
    subst htag
    refine ⟨fun single => ?_, fun b pair => ?_⟩
    · rw [exec_callEnter h, single]
      simp only [flightsAB, List.flatMap_cons, List.flatMap_nil, List.append_nil, Option.elim_none]
    · rw [exec_callEnter h, pair, Option.elim_some]
  case ret =>
    refine ⟨exec_callRet_empty h link result, fun full low kind => exec_callRet_good h link result full ?_,
      exec_callRet_bad h link⟩
    rintro (high | unnamed | engine) <;> omega
  case send =>
    subst lanes
    exact ⟨exec_send_empty h, exec_send_full h, exec_post_long h, exec_post_short h, exec_trap_empty h, exec_trap_full h⟩

end Sys2Proof.Guard
end

section
/-! O39: the loop nodes, one lane at a time against the window record of the lane's loop (R201 to R203, R206, R208). -/

namespace Sys2Proof.Guard

open Sys2Proof.Machine

/-! ## Control entries (R208) -/

/-- A firing that finds room goes on with the control entry it has made. -/
theorem withCtrl_made {s v : State} {f : Firing} {e e1 : Ctrl} {lined : Bool} {p : Placed}
    (made : s.makeCtrl f e lined = (some e1, p, v)) (g : Ctrl → State → State) : s.withCtrl f e lined g = g e1 v := by
  rw [State.withCtrl, made]

/-- A node that takes its lanes one by one (R203). -/
theorem exec_byLane {i : Instr} {lane : Firing → State → State} (run : ∀ s, exec i s = .next (s.fire (fun f t => t.byLane f lane)))
    {s : State} {f : Firing} (h : Fires s f) : exec i s = .next ((fired s []).byLane f lane) := exec_fires run h

/-! ## One lane against its window record (R202, R203) -/

section Record

variable {u : State} {g : Firing}

theorem loopEnter1_new (absent : u.window g g.level = none) {e1 : Ctrl} {p : Placed} {v : State}
    (made : u.makeCtrl g (newCtrl g .loop 0 (keepFields (u.shape g.ctx) g.tag (g.level + 1)) (g.lit % 16)
      [0, 1, 0, bits g.lit 22 16, fieldWidth (u.shape g.ctx) (g.level + 1), 0, 0] [] false) false = (some e1, p, v)) :
    u.loopEnter1 g = v.emit g g.pass := by
  simp only [State.loopEnter1, absent]
  exact withCtrl_made made _

theorem loopEnter1_record {e : Ctrl} (record : u.window g g.level = some e) :
    u.loopEnter1 g = if e.isOpen ((2 ^ fieldWidth (u.shape g.ctx) (g.level + 1) - e.num 0)
        % 2 ^ fieldWidth (u.shape g.ctx) (g.level + 1)) then u.emit g g.pass else u.loopStream g (some e) := by
  simp only [State.loopEnter1, record]

/-- Without a record every node inside the loop faults (R203). -/
theorem loopInside_none (absent : u.window g (g.level - 1) = none) :
    u.loopExit1 g = u.loopStream g none ∧ u.loopNext1 g = u.loopStream g none ∧ u.loopClose1 g = u.loopStream g none := by
  simp only [State.loopExit1, State.loopNext1, State.loopClose1, absent, and_self]

variable {e : Ctrl} {i d m : Nat} (record : u.window g (g.level - 1) = some e) (hm : m = 2 ^ e.num 4)
  (hi : i = tagField (u.shape g.ctx) g.tag g.level) (hd : d = (i + m - e.num 0) % m)
include record hm hi hd

/-- `loop.next` on a token that was not held. -/
theorem loopNext1_fresh (held : g.held = false) (reinj : g.reinj = false) :
    u.loopNext1 g =
      if e.isOpen d = false then u.loopStream g (some e)
      else if e.num 6 = 1 ∧ (e.num 5 + m - e.num 0) % m ≤ d then u.loopStream g (some e)
      else if (i + 1 + m - e.num 0) % m < e.num 1 ∧ d + 1 < e.num 1 then u.emit g g.pass
      else if (i + 1 + m - e.num 0) % m < e.num 3 ∧ d + 1 < e.num 3 then
        (u.putCtrl g.ci { e with nums := setNth (e.num 1 + 1) e.nums 1 }).emit g g.pass
      else u.holdOperand g := by
  subst hd hi hm
  simp [State.loopNext1, record, held, reinj]

theorem loopExit1_record :
    u.loopExit1 g =
      if e.isOpen d = false then u.loopStream g (some e)
      else if e.num 6 = 1 ∧ e.num 5 ≠ i then u.loopStream g (some e)
      else (u.putCtrl g.ci { e with nums := setNth 1 (setNth i e.nums 5) 6 }).emit g g.pass := by
  subst hd hi hm
  simp [State.loopExit1, record]

theorem loopClose1_closed (closed : e.isOpen d = false) : u.loopClose1 g = u.loopStream g (some e) := by
  subst hd hi hm
  simp [State.loopClose1, record, closed]

theorem loopClose1_open {lo a cb k : Nat} (opened : e.isOpen d = true)
    (advanced : advanceWindow (e.num 1) (e.num 0) (e.num 1) (e.num 2 + 2 ^ d) m = (lo, a, cb, k)) :
    u.loopClose1 g =
      if e.num 6 = 1 ∧ a = 0 then
        ((u.rotateBack g.ci k).dropCtrl g.ci e).emit g (g.outRun 1 g.tag 0 g.poisoned false [BitVec.ofNat 32 (e.num 5)])
      else ((u.rotateBack g.ci k).putCtrl g.ci { e with nums := [lo, a, cb, e.num 3, e.num 4, e.num 5, e.num 6] }).representHeld g := by
  subst hd hi hm
  simp [State.loopClose1, record, opened, advanced]

end Record

/-- Settles O39: each node takes its lanes by `State.byLane`, and a lane is a case of its node's equation on the window record. -/
theorem loopNodes : Obligations.LoopNodes := by
  refine ⟨fun s f h => ⟨exec_byLane (fun _ => rfl) h, exec_byLane (fun _ => rfl) h, exec_byLane (fun _ => rfl) h,
      exec_byLane (fun _ => rfl) h⟩, fun u g absent e1 p v made => loopEnter1_new absent made,
    fun u g e record => loopEnter1_record record, fun u g absent => ?outside, fun u g e i d m record hm hi hd => ?inside⟩
  case outside =>
    obtain ⟨exit, next, close⟩ := loopInside_none absent
    exact ⟨exit, next.trans exit.symm, close.trans exit.symm⟩
  case inside =>
    have next := loopNext1_fresh record hm hi hd
    have exit := loopExit1_record record hm hi hd
    refine ⟨fun closed held reinj => ⟨?_, ?_, loopClose1_closed record hm hi hd closed⟩,
      fun opened held reinj ended passed => ?ended, fun opened held reinj notPassed following => ?next, fun opened once => ?exit,
      fun opened ended other => ?again, fun lo a cb k opened advanced => loopClose1_open record hm hi hd opened advanced⟩
    · rw [next held reinj, if_pos closed]
    · rw [exit, if_pos closed]
    case ended => rw [next held reinj, if_neg (ne_false_of_eq_true opened), if_pos ⟨ended, passed⟩]
    case next =>
      have notEnded : ¬(e.num 6 = 1 ∧ (e.num 5 + m - e.num 0) % m ≤ d) := fun ⟨ended, passed⟩ =>
        Nat.not_lt.mpr passed (notPassed ended)
      rw [next held reinj, if_neg (ne_false_of_eq_true opened), if_neg notEnded, following]
      simp only [and_self]
    case exit =>
      have notAgain : ¬(e.num 6 = 1 ∧ e.num 5 ≠ i) := by omega
      rw [exit, if_neg (ne_false_of_eq_true opened), if_neg notAgain]
    case again => rw [exit, if_neg (ne_false_of_eq_true opened), if_pos ⟨ended, other⟩]

end Sys2Proof.Guard
end

section
/-! O40: the guard's nodes that count, reorder and wait, with their control entries and markers (R208, R212, R213, R218, R219). -/

namespace Sys2Proof.Guard

open Sys2Proof.Machine

/-! ## `count` (R212) -/

/-- An accumulator's arrival: at N the accumulator is freed and its total emitted, short of N it keeps the total. -/
def counted (f : Firing) (key : Word) (total : Nat) (poison : Bool) (e : Ctrl) (u : State) : State :=
  if f.lit % 65536 ≤ total then (u.dropCtrl f.ci e).emit f (f.outRun 1 key 0 poison false [BitVec.ofNat 32 total])
  else u.putCtrl f.ci { e with nums := [total], poison := poison }

/-- The tag under which `count` keeps a firing's accumulator: R212's key fields, or the tag whole. -/
def countKey (s : State) (f : Firing) : Word := if bitOf f.lit 16 then keepFields (s.shape f.ctx) f.tag f.level else f.tag

section Count

variable {s : State} {f : Firing} (h : Fires s f)
include h

theorem exec_count_found {e : Ctrl} (found : (s.cell f.ci).findCtrl .count f.ctx f.node 0 (countKey s f) = some e) :
    exec .count s = .next (counted f (countKey s f) (e.num 0 + f.len) (f.poisoned || e.poison) e (fired s [])) := by
  have found' : ((fired s []).cell f.ci).findCtrl .count f.ctx f.node 0
    (if bitOf f.lit 16 then keepFields ((fired s []).shape f.ctx) f.tag f.level else f.tag) = some e := found
  rw [exec_fires (i := .count) (fun _ => rfl) h]
  simp only [found']
  rfl

theorem exec_count_new (absent : (s.cell f.ci).findCtrl .count f.ctx f.node 0 (countKey s f) = none) {e : Ctrl} {p : Placed} {v : State}
    (made : (fired s []).makeCtrl f (newCtrl f .count f.node (countKey s f) 0 [0 + f.len] [] (f.poisoned || false)) false
      = (some e, p, v)) :
    exec .count s = .next (counted f (countKey s f) (0 + f.len) (f.poisoned || false) e v) := by
  have absent' : ((fired s []).cell f.ci).findCtrl .count f.ctx f.node 0
    (if bitOf f.lit 16 then keepFields ((fired s []).shape f.ctx) f.tag f.level else f.tag) = none := absent
  rw [exec_fires (i := .count) (fun _ => rfl) h]
  simp only [absent']
  exact congrArg _ (withCtrl_made made _)

end Count

/-! ## `reorder` (R213) -/

/-- Value `b` of a field of `w` bits lies behind the next value due: it is ahead of it by half the field's values or more. -/
def isPast (w b due : Nat) : Bool := b != due && decide (2 ^ (w - 1) ≤ (b + 2 ^ w - due) % 2 ^ w)

theorem isPast_iff {w b due : Nat} : isPast w b due = true ↔ b ≠ due ∧ 2 ^ (w - 1) ≤ (b + 2 ^ w - due) % 2 ^ w := by
  simp [isPast]

/-- A run that is due is emitted with those that wait behind it, and ends its key where the key's lanes are complete. -/
theorem reorderRun_due {s : State} {f : Firing} {e e2 : Ctrl} {m b : Nat} {u : State} (due : b = e.num 0)
    (drained : State.reorderDrain 256 ((s.putCtrl f.ci { e with nums := [(e.num 0 + f.len) % m, e.num 1 + f.len] }).emit f f.pass) f
      { e with nums := [(e.num 0 + f.len) % m, e.num 1 + f.len] } m = (e2, u)) :
    s.reorderRun f e m b = if f.lit % 65536 ≠ 0 ∧ f.lit % 65536 ≤ e2.num 1 then u.dropCtrl f.ci e2 else u := by
  simp only [State.reorderRun, due, if_true, State.reorderEmit, drained]

theorem reorderRun_ahead {f : Firing} {e : Ctrl} {b : Nat} (s : State) (m : Nat) (ahead : b ≠ e.num 0) :
    s.reorderRun f e m b = s.holdOperand f := by
  rw [State.reorderRun, if_neg ahead]

section Reorder

variable {s : State} {f : Firing} (h : Fires s f) {w b : Nat} (hw : w = fieldWidth (s.shape f.ctx) f.level)
  (hb : b = tagField (s.shape f.ctx) f.tag f.level)
include h hw hb

theorem exec_reorder_found {e : Ctrl}
    (found : (s.cell f.ci).findCtrl .reorder f.ctx f.node 0 (keepFields (s.shape f.ctx) f.tag f.level) = some e) :
    exec .reorder s = .next (if isPast w b (e.num 0) then (fired s []).guardStream f else (fired s []).reorderRun f e (2 ^ w) b) := by
  subst hw hb
  have found' : ((fired s []).cell f.ci).findCtrl .reorder f.ctx f.node 0
    (keepFields ((fired s []).shape f.ctx) f.tag f.level) = some e := found
  rw [exec_fires (i := .reorder) (fun _ => rfl) h]
  simp only [found']
  rfl

theorem exec_reorder_none
    (absent : (s.cell f.ci).findCtrl .reorder f.ctx f.node 0 (keepFields (s.shape f.ctx) f.tag f.level) = none) :
    exec .reorder s = .next (if isPast w b 0 then (fired s []).guardStream f
      else (fired s []).withCtrl f (newCtrl f .reorder f.node (keepFields (s.shape f.ctx) f.tag f.level) 0 [0, 0] [] false) false
        (fun e u => u.reorderRun f e (2 ^ w) b)) := by
  subst hw hb
  have absent' : ((fired s []).cell f.ci).findCtrl .reorder f.ctx f.node 0
    (keepFields ((fired s []).shape f.ctx) f.tag f.level) = none := absent
  rw [exec_fires (i := .reorder) (fun _ => rfl) h]
  simp only [absent']
  rfl

end Reorder

/-! ## `fence.q` (R219) -/

/-- The marker that `fence.q` sends to each named inbox; it comes back to the node's port b. -/
def marker (f : Firing) : Token :=
  { f.outRun 2 f.tag 0 false false [1, (cellDest f.ci f.node 1).zeroExtend 32] with cls := 2 }

section Fence

variable {s : State} {f : Firing} (h : Fires s f)
include h

theorem exec_fenceQ_sends {named : List Nat} (port : f.port ≠ 1) (hn : named = (List.range 8).filter (fun m => bitOf f.lit (24 + m)))
    {e : Ctrl} {p : Placed} {v : State}
    (made : (fired s []).makeCtrl f (newCtrl f .fenceq f.node f.tag 0 [named.length] [f.pass] f.poisoned) true = (some e, p, v)) :
    exec .fenceQ s = .next { v with
      net := v.net ++ named.flatMap (fun m => flightTo f.src (BitVec.ofNat 21 (f.lit % 2 ^ 21 + m * 64)) (marker f)) } := by
  subst hn
  rw [exec_fires (i := .fenceQ) (fun _ => rfl) h, if_neg port]
  refine congrArg _ ((withCtrl_made made _).trans ?_)
  exact foldl_flights (fun _ m => send_flightTo _ f.src (BitVec.ofNat 21 (f.lit % 2 ^ 21 + m * 64)) (marker f)) _

theorem exec_fenceQ_back (port : f.port = 1) : exec .fenceQ s = .next ((fired s []).markerBack f) := by
  rw [exec_fires (i := .fenceQ) (fun _ => rfl) h, if_pos port]

end Fence

section Marker

variable {u : State} {f : Firing}

theorem markerBack_none (absent : (u.cell f.ci).findCtrl .fenceq f.ctx f.node 0 f.tag = none) :
    u.markerBack f = u.faultFiring f fSTREAM [0, 0, 0, 0xFFFFFFFF] := by
  simp only [State.markerBack, absent, State.guardStream]

theorem markerBack_found {e : Ctrl} (found : (u.cell f.ci).findCtrl .fenceq f.ctx f.node 0 f.tag = some e) :
    u.markerBack f = if 1 < e.num 0 then u.putCtrl f.ci { e with nums := [e.num 0 - 1] }
      else (u.dropCtrl f.ci e).emit
        { f with tag := (u.ctrlToken f.ci e).tag, len := (u.ctrlToken f.ci e).runLen, a := u.ctrlToken f.ci e, b := none, port := 0 }
        (u.ctrlToken f.ci e) := by
  simp only [State.markerBack, found]

end Marker

/-- Settles O40: `count` and `reorder` by whether their key has a control entry, `fence.q` by the port of its operand and what a
marker finds. -/
theorem guardBarriers : Obligations.GuardBarriers := by
  refine ⟨fun s f key old total poison h hkey hold htotal hpoison => ?count, fun s f e w b h hw hb found => ?reorder,
    fun s f w b h hw hb absent => ?reorderNew, fun s f e p v h made => ?wait, fun s f named e p v h port hn made =>
      exec_fenceQ_sends h port hn made, fun s f h port => ?back⟩
  case count =>
    change key = countKey s f at hkey
    subst hkey hold
    refine ⟨fun e reached found => ?_, fun e short found => ?_, fun e p v absent made => ?_⟩
    · rw [found] at htotal hpoison
      subst htotal hpoison
      rw [exec_count_found h found, counted, if_pos reached]
    · rw [found] at htotal hpoison
      subst htotal hpoison
      rw [exec_count_found h found, counted, if_neg (Nat.not_le.mpr short)]
    · rw [absent] at htotal hpoison
      subst htotal hpoison
      exact exec_count_new h absent made
  case reorder =>
    have run := exec_reorder_found h hw hb found
    refine ⟨fun other behind => ?_, fun other ahead => ?_, fun e2 u due drained => ?_⟩
    · rw [run, if_pos (isPast_iff.mpr ⟨other, behind⟩), State.guardStream]
    · rw [run, if_neg fun past => Nat.not_le.mpr ahead (isPast_iff.mp past).2, reorderRun_ahead _ _ other]
    · rw [run, if_neg fun past => (isPast_iff.mp past).1 due, reorderRun_due due drained]
  case reorderNew =>
    have run := exec_reorder_none h hw hb absent
    refine ⟨fun other behind => ?_, fun e p v notBehind made => ?_⟩
    · rw [run, if_pos (isPast_iff.mpr ⟨other, behind⟩), State.guardStream]
    · have notPast : ¬isPast w b 0 = true := fun past =>
        notBehind.elim (isPast_iff.mp past).1 (Nat.not_lt.mpr (isPast_iff.mp past).2)
      rw [run, if_neg notPast, withCtrl_made made]
  case wait =>
    rw [exec_fires (i := .waitDrain) (fun _ => rfl) h]
    exact congrArg _ (withCtrl_made made _)
  case back =>
    rw [exec_fenceQ_back h port]
    exact ⟨fun absent => congrArg _ (markerBack_none (u := fired s []) absent),
      fun e found more => congrArg _ ((markerBack_found (u := fired s []) found).trans (if_pos more)),
      fun e found last => congrArg _ ((markerBack_found (u := fired s []) found).trans (if_neg (Nat.not_lt.mpr last)))⟩

end Sys2Proof.Guard
end

section
/-! O41: the accesses that a forager's firing issues, whole or lane by lane, and the faults of a whole firing (R231, R232, R235,
R238 to R241, R255). -/

namespace Sys2Proof.Forager

open Sys2Proof.Machine

/-! ## A forager's node on its firing (R255) -/

/-- A forager's node that nothing diverts is its meaning on its own firing, with the datapath free and nothing sent yet. -/
theorem exec_firesMem {i : Instr} {g : Firing → State → State} (run : ∀ s, exec i s = .next (s.fireMem g)) {s : State} {f : Firing}
    (h : Fires s f) : exec i s = .next (g f (fired s [])) := by
  rw [run, fireMem_fires h, fired, List.append_nil]

/-- The tables' rows: each node issues an access of the row's kind. -/
theorem exec_eq_issueMem : ∀ e ∈ wholeAccess ++ laneAccess, ∀ s, exec e.1 s = .next (s.fireMem (fun f t => t.issueMem f e.2.2)) := by
  simp only [wholeAccess, laneAccess, List.cons_append, List.nil_append, List.forall_mem_cons, List.not_mem_nil, false_imp_iff,
    implies_true, and_true]
  and_intros <;> exact fun _ => rfl

theorem exec_issues {e : Instr × Nat × AccessKind} (row : e ∈ wholeAccess ++ laneAccess) {s : State} {f : Firing} (h : Fires s f) :
    exec e.1 s = .next ((fired s []).issueMem f e.2.2) := exec_firesMem (exec_eq_issueMem e row) h

/-! ## The opcodes of the tables (R115) -/

theorem opcode_lt_of_wholeAccess : ∀ e ∈ wholeAccess, e.2.1 < 0x184 := by decide

theorem le_opcode_of_laneAccess : ∀ e ∈ laneAccess, 0x184 ≤ e.2.1 := by decide

/-- The nodes whose operand a is no address: `ld.s` takes its addresses from the record, `st.s` stores operand a. -/
theorem opcode_of_addressless : ∀ e ∈ wholeAccess, e.1 = .ldS ∨ e.1 = .stS → e.2.1 = 0x182 ∨ e.2.1 = 0x183 := by decide

theorem paired_of_opcode_lt {f : Firing} (op : f.cfg.opcode < 0x184) : f.paired = false := by
  rw [Firing.paired, decide_eq_false (by omega), Bool.false_and]

theorem perLane_of_opcode_lt {f : Firing} (op : f.cfg.opcode < 0x184) : f.perLane = false := decide_eq_false (by omega)

theorem perLane_of_le_opcode {f : Firing} (op : 0x184 ≤ f.cfg.opcode) : f.perLane = true := decide_eq_true op

/-! ## Which way a firing is issued (R235, R239, R255) -/

section Issue

variable {s : State} {f : Firing} {kind : AccessKind}

theorem issueMem_empty (empty : f.isEmpty = true) (unordered : f.isOrdered = false) :
    s.issueMem f kind = s.emit f { f.out f.width f.poisoned true [] with cls := 1, aux := BitVec.ofNat 16 f.wave } := by
  rw [State.issueMem, if_pos empty, State.joinOnly, if_neg (ne_true_of_eq_false unordered)]

variable (full : f.isEmpty = false)
include full

theorem issueMem_oddPairs (pairs : f.paired = true) (odd : f.len % 2 = 1) :
    s.issueMem f kind = s.faultWhole f kind (f.allLanes fSTREAM) := by
  rw [State.issueMem, if_neg (ne_true_of_eq_false full), if_pos ⟨pairs, odd⟩]

variable (even : f.paired = true → f.len % 2 = 0)
include even

theorem issueMem_even : s.issueMem f kind =
    if f.a.poison ∧ f.cfg.opcode ≠ 0x182 ∧ f.cfg.opcode ≠ 0x183 then
      (if f.perLane then
        s.faultLanes f kind (f.memberLanes.map (fun j => { lane := j, va := 0, code := fPOISON })) f.paired
      else s.faultWhole f kind (f.allLanes fPOISON))
    else if f.perLane then s.issueLanes f kind else s.issueWhole f kind := by
  have notOdd : ¬(f.paired = true ∧ f.len % 2 = 1) := fun ⟨pairs, odd⟩ => by have := even pairs; omega
  rw [State.issueMem, if_neg (ne_true_of_eq_false full), if_neg notOdd]

theorem issueMem_poison_whole (poison : f.a.poison = true) (op : f.cfg.opcode < 0x182) :
    s.issueMem f kind = s.faultWhole f kind (f.allLanes fPOISON) := by
  rw [issueMem_even full even, if_pos ⟨poison, by omega, by omega⟩,
    if_neg (ne_true_of_eq_false (perLane_of_opcode_lt (by omega)))]

theorem issueMem_poison_lanes (poison : f.a.poison = true) (op : 0x184 ≤ f.cfg.opcode) :
    s.issueMem f kind
      = s.faultLanes f kind (f.memberLanes.map (fun j => { lane := j, va := 0, code := fPOISON })) f.paired := by
  rw [issueMem_even full even, if_pos ⟨poison, by omega, by omega⟩, if_pos (perLane_of_le_opcode op)]

theorem issueMem_lanes (sound : f.a.poison = false) (op : 0x184 ≤ f.cfg.opcode) :
    s.issueMem f kind = s.issueLanes f kind := by
  rw [issueMem_even full even, if_neg fun ⟨poison, _⟩ => ne_true_of_eq_false sound poison, if_pos (perLane_of_le_opcode op)]

omit even in
theorem issueMem_whole (sound : f.a.poison = false ∨ f.cfg.opcode = 0x182 ∨ f.cfg.opcode = 0x183) (op : f.cfg.opcode < 0x184) :
    s.issueMem f kind = s.issueWhole f kind := by
  have unpaired (pairs : f.paired = true) : f.len % 2 = 0 := absurd pairs (ne_true_of_eq_false (paired_of_opcode_lt op))
  have notPoisoned : ¬(f.a.poison = true ∧ f.cfg.opcode ≠ 0x182 ∧ f.cfg.opcode ≠ 0x183) := fun ⟨poison, notLdS, notStS⟩ =>
    sound.elim (fun clean => ne_true_of_eq_false clean poison) (Or.elim · notLdS notStS)
  rw [issueMem_even full unpaired, if_neg notPoisoned, if_neg (ne_true_of_eq_false (perLane_of_opcode_lt op))]

end Issue

/-! ## A firing performed whole or not at all (R235, R236, R255) -/

section Whole

variable {s s1 : State} {f : Firing} {kind : AccessKind} {rs : List (Formed × Except Nat (Nat × Bool))}
  (clean : s.clashes f = [])
  (resolved : s.resolveAll f f.reqSize (kind == .store) false ((s.cell f.ci).addresses f (s.shape f.ctx)) = (rs, s1))
include clean resolved

theorem issueWhole_resolved (good : faultsOf rs = []) :
    s.issueWhole f kind = s1.addAccess { Access.make f 0 0 f.len kind with
      reqs := f.requests rs (subCount f.width) (fun _ => 0) f.dataPoison, silent := f.isPf } := by
  simp only [State.issueWhole, clean, resolved, good, List.isEmpty_nil, Bool.not_true, Bool.false_eq_true, if_false]

/-- Of the addresses that do not resolve a `pf` regards only those that a watchpoint stops. -/
theorem issueWhole_faults (bad : faultsOf rs ≠ []) {left : List Formed}
    (counted : left = if f.isPf then (faultsOf rs).filter (fun x => x.code == fWATCH) else faultsOf rs) :
    s.issueWhole f kind = if left.isEmpty then s1.joinOnly f kind else s1.faultWhole f kind left := by
  obtain ⟨x, xs, faults⟩ := List.exists_cons_of_ne_nil bad
  rw [faults] at counted
  simp only [State.issueWhole, clean, resolved, faults, List.isEmpty_nil, Bool.not_true, Bool.false_eq_true, if_false, counted]

theorem issueWhole_fault (bad : faultsOf rs ≠ []) (notPf : f.isPf = false) :
    s.issueWhole f kind = s1.faultWhole f kind (faultsOf rs) := by
  rw [issueWhole_faults clean resolved bad (if_neg (ne_true_of_eq_false notPf)).symm, if_neg (mt List.isEmpty_iff.mp bad)]

theorem issueWhole_pf_watched (pf : f.isPf = true) (watched : (faultsOf rs).filter (fun x => x.code == fWATCH) ≠ []) :
    s.issueWhole f kind = s1.faultWhole f kind ((faultsOf rs).filter (fun x => x.code == fWATCH)) := by
  have bad : faultsOf rs ≠ [] := fun none => watched (by rw [none, List.filter_nil])
  rw [issueWhole_faults clean resolved bad (if_pos pf).symm, if_neg (mt List.isEmpty_iff.mp watched)]

theorem issueWhole_pf_dropped (bad : faultsOf rs ≠ []) (pf : f.isPf = true)
    (unwatched : (faultsOf rs).filter (fun x => x.code == fWATCH) = []) (unordered : f.isOrdered = false) :
    s.issueWhole f kind = s1 := by
  rw [issueWhole_faults clean resolved bad (if_pos pf).symm, if_pos (List.isEmpty_iff.mpr unwatched), State.joinOnly,
    if_neg (ne_true_of_eq_false unordered)]

end Whole

/-! ## A firing whose lanes stand alone (R235, R239, R240) -/

/-- The accesses of a firing's requests, one for each, are those of its resolved addresses in their order. -/
theorem foldl_requests (f : Firing) (rs : List (Formed × Except Nat (Nat × Bool))) (cmp : Nat → Nat) (poison : Bool)
    (add : State → LaneReq → State) (s : State) :
    (f.requests rs 1 cmp poison).foldl add s
      = (indexed 0 rs).foldl (fun t ie =>
          match ie.2.2 with
          | .ok (pa, view) => add t (f.request ie.2.1 0 pa view (cmp ie.2.1.lane) poison (firstInFrame rs ie.1 pa))
          | .error _ => t) s := by
  rw [Firing.requests, List.foldl_filterMap]
  refine congrArg (fun step => List.foldl step s (indexed 0 rs)) (funext₂ fun t ⟨i, x, r⟩ => ?_)
  cases r with
  | ok place => simp only [Nat.mod_one]
  | error code => rfl

theorem issueLanes_resolved {s s1 : State} {f : Firing} {kind : AccessKind} {rs : List (Formed × Except Nat (Nat × Bool))}
    (clean : s.clashes f = [])
    (resolved : s.resolveAll f f.reqSize (kind != .load) (kind == .atomic) ((s.cell f.ci).addresses f (s.shape f.ctx)) = (rs, s1))
    (good : faultsOf rs = []) :
    s.issueLanes f kind = (f.requests rs 1 (casValue f (casSlot s f).1) (f.dataPoison || (casSlot s f).2)).foldl
      (fun t r => t.addAccess { Access.make f 0 r.lane (if f.paired then 2 else 1) kind with reqs := [r] }) s1 := by
  have all : ((s.cell f.ci).addresses f (s.shape f.ctx)).filter (fun x => !([] : List Nat).contains x.lane)
      = (s.cell f.ci).addresses f (s.shape f.ctx) := List.filter_eq_self.mpr fun _ _ => rfl
  rw [foldl_requests]
  simp only [State.issueLanes, clean, all, resolved, good]
  rfl

/-- Settles O41: nodes performed whole by whether their addresses resolve, the others lane by lane, and before either an odd run of
pairs, a poisoned address and an empty run. -/
theorem foragerIssue : Obligations.ForagerIssue := by
  refine ⟨fun e row s s1 f rs h op full sound clean resolved => ?whole,
    fun e row s s1 f rs h op full sound even clean resolved good => ?lanes,
    fun e row s f h op full => ?refused, fun e row s f h op empty unordered => ?empty⟩
  case whole =>
    have sound' : f.a.poison = false ∨ f.cfg.opcode = 0x182 ∨ f.cfg.opcode = 0x183 := by
      rw [op]
      exact sound.imp_right (opcode_of_addressless e row)
    rw [exec_issues (List.mem_append_left _ row) h, issueMem_whole full sound' (op ▸ opcode_lt_of_wholeAccess e row)]
    exact ⟨fun good => congrArg _ (issueWhole_resolved clean resolved good),
      fun bad notPf => congrArg _ (issueWhole_fault clean resolved bad notPf),
      fun pf watched => congrArg _ (issueWhole_pf_watched clean resolved pf watched),
      fun bad pf unwatched unordered => congrArg _ (issueWhole_pf_dropped clean resolved bad pf unwatched unordered)⟩
  case lanes =>
    rw [exec_issues (List.mem_append_right _ row) h, issueMem_lanes full even sound (op ▸ le_opcode_of_laneAccess e row),
      issueLanes_resolved clean resolved good]
    rfl
  case refused =>
    rw [exec_issues row h, ← op]
    exact ⟨fun pairs odd => congrArg _ (issueMem_oddPairs full pairs odd),
      fun even poison low => congrArg _ (issueMem_poison_whole full even poison low),
      fun even poison high => congrArg _ (issueMem_poison_lanes full even poison high)⟩
  case empty => rw [exec_issues row h, issueMem_empty empty unordered, Guard.emit_fired_append, List.nil_append]

end Sys2Proof.Forager
end

section
/-! O42: the forager's nodes that mark the order of accesses, `xlat` and `shape.set` (R233, R244, R247, R251). -/

namespace Sys2Proof.Forager

open Sys2Proof.Machine

/-! ## `mnop` and the fences (R244, R251) -/

/-- The table's rows: each node issues a mark of the row's kind. -/
theorem exec_eq_issueMark : ∀ e ∈ markNodes, ∀ s, exec e.1 s = .next (s.fireMem (fun f t => t.issueMark f e.2)) := by
  simp only [markNodes, List.forall_mem_cons, List.not_mem_nil, false_imp_iff, implies_true, and_true]
  and_intros <;> exact fun _ => rfl

theorem issueMark_clean {s : State} {f : Firing} (clean : s.clashes f = []) (kind : AccessKind) :
    s.issueMark f kind = if f.isOrdered then f.memberLanes.foldl (fun t j => t.addAccess (Access.make f 0 j 1 kind)) s
      else s.addAccess (Access.make f 0 0 f.len kind) := by
  simp only [State.issueMark, clean, List.isEmpty_nil, Bool.not_true, Bool.false_eq_true, if_false]

/-! ## `xlat` (R247) -/

theorem exec_xlat {s : State} {f : Firing} (h : Fires s f) :
    exec .xlat s = .next (
      if f.isEmpty then fired s (emitted s f { f.out f.width f.poisoned true [] with cls := 1 })
      else if f.len ≠ 2 then (fired s []).faultWhole f .xlat (f.allLanes fSTREAM)
      else if f.a.poison then (fired s []).faultWhole f .xlat (f.allLanes fPOISON)
      else (fired s []).addAccess (Access.make f 0 0 f.len .xlat)) := by
  rw [exec_firesMem (i := .xlat) (fun _ => rfl) h, Guard.emit_fired_append, List.nil_append]

/-! ## `shape.set` (R233) -/

/-- How many lanes `shape.set` takes: with XL four, without it two for a BASE0 and one for another field. -/
def setLanes (f : Firing) : Nat := if bitOf f.lit 5 then 4 else if bits f.lit 4 2 = 0 then 2 else 1

/-- The address that `shape.set` of a BASE0 takes, with XL from its third and fourth lanes. -/
def setAddr (f : Firing) : Nat :=
  if bitOf f.lit 5 then (pair64 (f.aLane 2) (f.aLane 3)).toNat else (pair64 (f.aLane 0) (f.aLane 1)).toNat

section ShapeSet

variable {s : State} {f : Firing} (h : Fires s f)
include h

theorem exec_shapeSet_empty (empty : f.isEmpty = true) : exec .shapeSet s = .next (fired s (emitted s f f.pass)) := by
  rw [exec_firesMem (i := .shapeSet) (fun _ => rfl) h, if_pos empty, Guard.emit_fired_append, List.nil_append]

variable (full : f.isEmpty = false)
include full

theorem exec_shapeSet_length (other : f.len ≠ setLanes f) :
    exec .shapeSet s = .next ((fired s []).faultWhole f .shapeSet (f.allLanes fSTREAM)) := by
  rw [exec_firesMem (i := .shapeSet) (fun _ => rfl) h, if_neg (ne_true_of_eq_false full)]
  exact congrArg _ (if_pos other)

variable (len : f.len = setLanes f)
include len

theorem exec_shapeSet_poison (poison : f.a.poison = true) :
    exec .shapeSet s = .next ((fired s []).faultWhole f .shapeSet (f.allLanes fPOISON)) := by
  rw [exec_firesMem (i := .shapeSet) (fun _ => rfl) h, if_neg (ne_true_of_eq_false full)]
  exact congrArg _ ((if_neg (not_not_intro len)).trans (if_pos poison))

variable (sound : f.a.poison = false)
include sound

/-- A run of the right length without poison sets BASE0, translates, or sets a plain field. -/
theorem exec_shapeSet_sound :
    exec .shapeSet s = .next (
      if bitOf f.lit 5 ∨ bits f.lit 4 2 = 0 then
        (if 2 ^ 56 ≤ setAddr f then
          (if bitOf f.lit 5 then (fired s []).clearWindow f.ci (f.lit % 4) else fired s []).faultWhole f .shapeSet
            ((f.allLanes fADDR).map (fun x => { x with va := setAddr f }))
        else if bitOf f.lit 5 then (fired s []).addAccess (Access.make f 0 0 f.len .shapeSet)
        else ((fired s []).setBase0 f.ci (f.lit % 4) (setAddr f)).emit f f.pass)
      else ((fired s []).setShapeWord f.ci (f.lit % 4)
        (if bits f.lit 4 2 ≤ 3 then 6 + 3 * bits f.lit 4 2 else 4 + 3 * (bits f.lit 4 2 - 4)) (f.aLane 0).toNat).emit f f.pass) := by
  rw [exec_firesMem (i := .shapeSet) (fun _ => rfl) h, if_neg (ne_true_of_eq_false full)]
  exact congrArg _ ((if_neg (not_not_intro len)).trans (if_neg (ne_true_of_eq_false sound)))

theorem exec_shapeSet_range (base : bitOf f.lit 5 = true ∨ bits f.lit 4 2 = 0) (beyond : 2 ^ 56 ≤ setAddr f) :
    exec .shapeSet s = .next ((if bitOf f.lit 5 then (fired s []).clearWindow f.ci (f.lit % 4) else fired s []).faultWhole f .shapeSet
      ((List.range f.len).map (fun j => { lane := j, va := setAddr f, code := fADDR }))) := by
  rw [exec_shapeSet_sound h full len sound, if_pos base, if_pos beyond, Firing.allLanes, List.map_map]
  rfl

theorem exec_shapeSet_translates (xl : bitOf f.lit 5 = true) (within : setAddr f < 2 ^ 56) :
    exec .shapeSet s = .next ((fired s []).addAccess (Access.make f 0 0 f.len .shapeSet)) := by
  rw [exec_shapeSet_sound h full len sound, if_pos (.inl xl), if_neg (Nat.not_le.mpr within), if_pos xl]

theorem exec_shapeSet_base0 (noXl : bitOf f.lit 5 = false) (base : bits f.lit 4 2 = 0) (within : setAddr f < 2 ^ 56) :
    exec .shapeSet s = .next (((fired s []).setBase0 f.ci (f.lit % 4) (setAddr f)).emit f f.pass) := by
  rw [exec_shapeSet_sound h full len sound, if_pos (.inr base), if_neg (Nat.not_le.mpr within), if_neg (ne_true_of_eq_false noXl)]

theorem exec_shapeSet_field (noXl : bitOf f.lit 5 = false) (field : bits f.lit 4 2 ≠ 0) :
    exec .shapeSet s = .next (((fired s []).setShapeWord f.ci (f.lit % 4)
      (if bits f.lit 4 2 ≤ 3 then 6 + 3 * bits f.lit 4 2 else 4 + 3 * (bits f.lit 4 2 - 4)) (f.aLane 0).toNat).emit f f.pass) := by
  rw [exec_shapeSet_sound h full len sound, if_neg (not_or_intro (ne_true_of_eq_false noXl) field)]

end ShapeSet

/-- Settles O42: the marks by whether their node is ordered, `xlat` and `shape.set` by the checks of their run. -/
theorem foragerMarks : Obligations.ForagerMarks := by
  refine ⟨fun e row s f h clean => ?marks, fun s f h => ?xlat, fun s f xl fld n va h hxl hfld hn hva => ?shape⟩
  case marks =>
    rw [exec_firesMem (exec_eq_issueMark e row) h, issueMark_clean (s := fired s []) clean]
    exact ⟨fun unordered => congrArg _ (if_neg (ne_true_of_eq_false unordered)), fun ordered => congrArg _ (if_pos ordered)⟩
  case xlat =>
    rw [exec_xlat h]
    refine ⟨fun empty => ?_, fun full other => ?_, fun full two poison => ?_, fun full two sound => ?_⟩
    · rw [if_pos empty]
    · rw [if_neg (ne_true_of_eq_false full), if_pos other]
    · rw [if_neg (ne_true_of_eq_false full), if_neg (not_not_intro two), if_pos poison]
    · rw [if_neg (ne_true_of_eq_false full), if_neg (not_not_intro two), if_neg (ne_true_of_eq_false sound)]
  case shape =>
    subst hxl hfld
    change n = setLanes f at hn
    subst hn
    change va = setAddr f at hva
    subst hva
    exact ⟨exec_shapeSet_empty h, exec_shapeSet_length h, exec_shapeSet_poison h, exec_shapeSet_range h, exec_shapeSet_translates h,
      exec_shapeSet_base0 h, exec_shapeSet_field h⟩

end Sys2Proof.Forager
end

section
/-! O47: the commands of a multiplier pool. -/

namespace Sys2Proof.Machine

/-! ## A pool's record and the messages that its inboxes take (R102, R103) -/

@[simp] theorem nth_tail {α : Type} (d : α) (xs : List α) (i : Nat) : nth d xs.tail i = nth d xs (i + 1) := by
  cases xs <;> rfl

@[simp] theorem State.setPool_setPool (s : State) (pl : Nat) (p q : Pool) : (s.setPool pl p).setPool pl q = s.setPool pl q := by
  simp only [State.setPool, Tab.set_set]

@[simp] theorem State.pool_popInbox (s : State) (key pl : Nat) : (s.popInbox key).pool pl = s.pool pl := rfl

/-- A pool's command that heads its inbox and passes its checks is performed. -/
theorem poolCmd_heads {s : State} {m : Token} {pl i lanes flags : Nat} (h : Heads s m (.pool pl) (decide (dInbox m.dest = i)) lanes flags)
    (f : Nat → State → State) : s.poolCmd m i lanes flags f = f pl s := by
  simp only [State.poolCmd, h.1, Laws.command_heads h]

/-- A fence or a statistics command that heads its inbox and passes its checks is performed. -/
theorem poolAny_heads {s : State} {m : Token} {pl flags : Nat} (h : Heads s m (.pool pl) (decide (dInbox m.dest < 4)) 2 flags)
    (f : Nat → State → State) : s.poolAny m flags f = f pl s := by
  simp only [State.poolAny, h.1, Laws.command_heads h]

/-! ## Commands performed at their sequence position (R264) -/

section Ordered

variable {s : State} {m : Token} {pl : Nat}

/-- A command that has not begun takes the pool's next sequence number. -/
theorem poolOrdered_takes (idle : s.busyOf m = none) (take : State → Nat → List Nat) (f : Nat → List Nat → State → State) :
    s.poolOrdered m pl take f = (s.setPool pl { s.pool pl with seq := (s.pool pl).seq + 1 }).waitBusy m 1
      (((s.pool pl).seq + 1) :: take s ((s.pool pl).seq + 1)) [] := by
  simp only [State.poolOrdered, idle, State.poolSeq]

/-- A command that has its sequence number is tried with it. -/
theorem poolOrdered_performs {b : Busy} (busy : s.busyOf m = some b) (take : State → Nat → List Nat)
    (f : Nat → List Nat → State → State) : s.poolOrdered m pl take f = f (nth 0 b.nums 0) b.nums.tail s := by
  simp only [State.poolOrdered, busy]

/-- A configuration or `pool.zero` whose operand keeps its limits takes its sequence number. -/
theorem exec_poolInOrder_takes (idle : s.busyOf m = none) : ∀ r ∈ poolInOrder,
    Heads s m (.pool pl) (r.1.inbox (dInbox m.dest)) r.1.lanes r.1.flags → r.2 m = true →
    exec (r.1.cmd m) s = .next
      ((s.setPool pl { s.pool pl with seq := (s.pool pl).seq + 1 }).waitBusy m 1 [(s.pool pl).seq + 1] []) := by
  simp only [poolInOrder, List.forall_mem_cons, List.not_mem_nil, false_imp_iff, implies_true, and_true]
  refine ⟨fun h good => ?cfg, fun h good => ?map, fun h good => ?span, fun h good => ?zero⟩
  case cfg =>
    obtain ⟨extra, aligned⟩ : extraBits (qOp m 1) 0x7FF7FFFFF = false ∧ qOp m 1 % 4 = 0 := by simpa using good
    change execPoolCfg m s = _
    simp [execPoolCfg, poolCmd_heads h, extra, aligned, poolOrdered_takes idle]
  case map =>
    obtain ⟨extra, aligned⟩ : extraBits (qOp m 1) 0x7FFFFF = false ∧ qOp m 1 % 4 = 0 := by simpa using good
    change execPoolMap m s = _
    simp [execPoolMap, poolCmd_heads h, extra, aligned, poolOrdered_takes idle]
  case span =>
    have extra : extraBits (qOp m 1) 0x3FFFFF = false := by simpa using good
    change execPoolSpan m s = _
    simp [execPoolSpan, poolCmd_heads h, extra, poolOrdered_takes idle]
  case zero =>
    change execPoolZero m s = _
    obtain ⟨r, region⟩ : ∃ r, regionOf (qOp m 1) = .ok r := by
      split at good
      · next r region => exact ⟨r, region⟩
      · contradiction
    simp [execPoolZero, poolCmd_heads h, region, poolOrdered_takes idle]

variable {b : Busy} (busy : s.busyOf m = some b)
include busy

/-- A carving enters its bank, and the bank's map is no longer valid (R260, R274). -/
theorem exec_poolCfg_performs {es : List Nat} (h : Heads s m (.pool pl) (decide (dInbox m.dest = 0)) 4 0x100)
    (extra : extraBits (qOp m 1) 0x7FF7FFFFF = false) (aligned : qOp m 1 % 4 = 0)
    (free : s.bankInUse pl (bits (lane0 m) 8 8) (nth 0 b.nums 0) = false) (port : s.poolPort pl = false)
    (table : s.poolTable pl (bits (qOp m 1) 22 0) (bits (qOp m 1) 34 24 + 1) 2 = some es) (entries : ∀ e ∈ es, e < 2048)
    (leaves : (es.map (fun e => 8 * (e % 2048 + 1))).foldl (· + ·) 0 ≤ 65536) :
    exec (.poolCfg m) s = .next ((s.setPool pl ((s.pool pl).setBank (bits (lane0 m) 8 8)
      (carved (es.map (fun e => 8 * (e % 2048 + 1)))))).finish m 0 (bits (qOp m 1) 34 24) []) := by
  change execPoolCfg m s = _
  have fits : ¬(es.any (fun e => decide (2048 ≤ e)) = true ∨ 65536 < (es.map (fun e => 8 * (e % 2048 + 1))).foldl (· + ·) 0) := by
    simpa using ⟨entries, leaves⟩
  simp only [execPoolCfg, poolCmd_heads h, extra, aligned, poolOrdered_performs busy, free, port, table, fits, Bool.false_eq_true, ne_eq,
    not_true_eq_false, Bool.or_self, if_false]
  rfl

/-- A multicast map enters the bank of its carving (R261, R274). -/
theorem exec_poolMap_performs {es : List Nat} {bk : Bank} (hbk : bk = (s.pool pl).bank (bits (lane0 m) 8 8))
    (h : Heads s m (.pool pl) (decide (dInbox m.dest = 0)) 4 0x300)
    (extra : extraBits (qOp m 1) 0x7FFFFF = false) (aligned : qOp m 1 % 4 = 0)
    (free : s.bankInUse pl (bits (lane0 m) 8 8) (nth 0 b.nums 0) = false) (port : s.poolPort pl = false) (carving : bk.sizes ≠ [])
    (table : s.poolTable pl (qOp m 1) bk.sizes.length 4 = some es) (entries : ∀ e ∈ es, e < 2 ^ 27)
    (reach : ∀ e ∈ (es.map (fun e => (e % 65536, bits e 26 16))).zip bk.sizes, e.1.1 + e.2 ≤ 65536) :
    exec (.poolMap m) s = .next ((s.setPool pl ((s.pool pl).setBank (bits (lane0 m) 8 8) { bk with
      map := es.map (fun e => (e % 65536, bits e 26 16)), mapped := true, win := bitOf (lane0 m) 9 })).finish m 0 0 []) := by
  subst hbk
  change execPoolMap m s = _
  have carved : ((s.pool pl).bank (bits (lane0 m) 8 8)).sizes.isEmpty = false := by simpa using carving
  have fits : ¬(es.any (fun e => decide (2 ^ 27 ≤ e)) = true
      ∨ ((es.map (fun e => (e % 65536, bits e 26 16))).zip ((s.pool pl).bank (bits (lane0 m) 8 8)).sizes).any
        (fun e => decide (65536 < e.1.1 + e.2)) = true) := by
    simp only [List.any_eq_true, decide_eq_true_eq, not_or, not_exists, not_and, not_le, not_lt]
    exact ⟨entries, reach⟩
  simp only [execPoolMap, poolCmd_heads h, extra, aligned, poolOrdered_performs busy, free, port, carved, table, fits, Bool.false_eq_true,
    ne_eq, not_true_eq_false, Bool.or_self, if_false]
  rfl

/-- A span setting enters its bank (R283). -/
theorem exec_poolSpan_performs {bk : Bank} (hbk : bk = (s.pool pl).bank (bits (lane0 m) 8 8))
    (h : Heads s m (.pool pl) (decide (dInbox m.dest = 0)) 4 0x300)
    (extra : extraBits (qOp m 1) 0x3FFFFF = false)
    (free : s.bankInUse pl (bits (lane0 m) 8 8) (nth 0 b.nums 0) = false) (rising : bits (qOp m 1) 10 0 ≤ bits (qOp m 1) 21 11)
    (inside : bits (qOp m 1) 21 11 < bk.sizes.length) :
    exec (.poolSpan m) s = .next ((s.setPool pl ((s.pool pl).setBank (bits (lane0 m) 8 8) { bk with
      span := some (bits (qOp m 1) 10 0, bits (qOp m 1) 21 11, bitOf (lane0 m) 9) })).finish m 0 0 []) := by
  subst hbk
  change execPoolSpan m s = _
  have fits : ¬(bits (qOp m 1) 21 11 < bits (qOp m 1) 10 0
      ∨ ((s.pool pl).bank (bits (lane0 m) 8 8)).sizes.length ≤ bits (qOp m 1) 21 11) := by omega
  simp only [execPoolSpan, poolCmd_heads h, extra, poolOrdered_performs busy, free, fits, Bool.false_eq_true, if_false]
  rfl

/-- A region is zeroed once nothing before it has still to act on its elements (R264, R286). -/
theorem exec_poolZero_performs {r : Nat × Nat × Nat × Nat} (h : Heads s m (.pool pl) (decide (dInbox m.dest = 0)) 4 0)
    (region : regionOf (qOp m 1) = .ok r) (pass : s.lowerPass pl (nth 0 b.nums 0) (regionMask r) = false)
    (lower : s.lowerRegion pl (nth 0 b.nums 0) (regionMask r) = false) (port : s.poolPort pl = false) :
    exec (.poolZero m) s = .next ((s.zeroRegion pl r).finish m 0 0 []) := by
  change execPoolZero m s = _
  simp only [execPoolZero, poolCmd_heads h, region, poolOrdered_performs busy, pass, lower, port, Bool.false_eq_true, Bool.or_self,
    if_false]
  rfl

/-- A commit completes with its count once no overlapping pass is before it (R287). -/
theorem exec_poolCommit_performs {r : Nat × Nat × Nat × Nat} (h : Heads s m (.pool pl) (decide (dInbox m.dest = 3)) 4 0)
    (region : regionOf (qOp m 1) = .ok r) (pass : s.lowerPass pl (nth 0 b.nums 0) (regionMask r) = false) :
    exec (.poolCommit m) s = .next (s.finish m 0 0 [BitVec.ofNat 32 (nth 0 b.nums 1)]) := by
  change execPoolCommit m s = _
  simp only [execPoolCommit, poolCmd_heads h, region, poolOrdered_performs busy, pass, nth_tail, Bool.false_eq_true, if_false]
  rfl

end Ordered

/-- A commit takes its sequence number and counts the open passes before it (R287). -/
theorem exec_poolCommit_takes {s : State} {m : Token} {pl : Nat} {r : Nat × Nat × Nat × Nat}
    (h : Heads s m (.pool pl) (decide (dInbox m.dest = 3)) 4 0) (region : regionOf (qOp m 1) = .ok r) (idle : s.busyOf m = none) :
    exec (.poolCommit m) s = .next ((s.setPool pl { s.pool pl with seq := (s.pool pl).seq + 1 }).waitBusy m 1
      (((s.pool pl).seq + 1) :: (s.openPasses pl ((s.pool pl).seq + 1) (regionMask r)).1
        :: (s.openPasses pl ((s.pool pl).seq + 1) (regionMask r)).2) []) := by
  change execPoolCommit m s = _
  simp only [execPoolCommit, poolCmd_heads h, region, poolOrdered_takes idle]

/-! ## Fences and statistics (R288, R289) -/

theorem exec_poolFence {s : State} {m : Token} {pl : Nat} (h : Heads s m (.pool pl) (decide (dInbox m.dest < 4)) 2 0xF00)
    (clear : s.inboxesClear m (bits (lane0 m) 11 8) 4 = true) : exec (.poolFence m) s = .next (s.finish m 0 0 []) := by
  change execPoolFence m s = _
  simp only [execPoolFence, poolAny_heads h, State.fenceCmd, clear, if_true, sOK]

theorem exec_poolStat {s : State} {m : Token} {pl : Nat} (h : Heads s m (.pool pl) (decide (dInbox m.dest < 4)) 2 0x100) :
    exec (.poolStat m) s = .next
      ((if bitOf (lane0 m) 8 then [0x60, 0x68, 0x70, 0x78, 0x80].foldl (fun u o => u.setReg (poolReg pl o) 0) s else s).finish m 0 0
        [lo32 (s.reg (poolReg pl 0x60)), hi32 (s.reg (poolReg pl 0x60)), lo32 (s.reg (poolReg pl 0x68)), lo32 (s.reg (poolReg pl 0x70)),
          lo32 (s.reg (poolReg pl 0x78)), lo32 (s.reg (poolReg pl 0x80)), BitVec.ofNat 32 (s.poolStatus pl)]) := by
  change execPoolStat m s = _
  simp only [execPoolStat, poolAny_heads h, sOK]

/-! ## Announcements (R267, R268, R275 to R277) -/

/-- A pool that has taken the message at the head of inbox `i`, with the next sequence number. -/
def State.poolPops (s : State) (pl i : Nat) : State :=
  (s.setPool pl { s.pool pl with seq := (s.pool pl).seq + 1 }).popInbox (poolInbox pl i)

@[simp] theorem State.pool_poolPops (s : State) (pl i : Nat) :
    (s.poolPops pl i).pool pl = { s.pool pl with seq := (s.pool pl).seq + 1 } := by
  simp [State.poolPops]

/-- A pairing store with room, and with no message of the same context and tag, takes another. -/
theorem not_storeFull {α : Type} {same : α → Bool} {xs : List α} (room : xs.length < 16) (fresh : ∀ x ∈ xs, same x = false) :
    ¬(16 ≤ xs.length ∨ xs.any same = true) := by
  simpa [room] using fresh

section Mma

variable {s : State} {m : Token} {pl : Nat} {a : AArgs} (h : Heads s m (.pool pl) (decide (dInbox m.dest = 1)) 8 0xFF00)
  (fmt : fmtOk m = true) (args : aArgs m = some a)
include h fmt args

/-- A `pool.mma` whose B announcement has not come enters the pairing store. -/
theorem exec_poolMma_waits (alone : (s.pool pl).annB.find? (fun b => sameKey b.msg m) = none)
    (room : (s.pool pl).annA.length < 16) (fresh : ∀ x ∈ (s.pool pl).annA, sameKey x.msg m = false) :
    exec (.poolMma m) s = .next ((s.poolPops pl 1).setPool pl
      { mmaNoted ((s.poolPops pl 1).pool pl) ((s.pool pl).seq + 1) m with
        annA := ((s.poolPops pl 1).pool pl).annA ++
          [{ seq := (s.pool pl).seq + 1, arr := s.headArrival (poolInbox pl 1), msg := m }] }) := by
  change execPoolMma m s = _
  simp only [execPoolMma, poolCmd_heads h, fmt, args, alone, not_storeFull room fresh, if_true, if_false, State.poolSeq,
    State.poolPops, mmaNoted, State.pool_popInbox, State.pool_setPool, State.setPool_setPool]

/-- A `pool.mma` whose B announcement waits forms a pass with it. -/
theorem exec_poolMma_pairs {b : Ann} {x : BArgs} (pair : (s.pool pl).annB.find? (fun b => sameKey b.msg m) = some b)
    (bargs : bArgs b.msg = some x) :
    exec (.poolMma m) s = .next (((s.poolPops pl 1).setPool pl
      { mmaNoted ((s.poolPops pl 1).pool pl) ((s.pool pl).seq + 1) m with
        annB := ((s.poolPops pl 1).pool pl).annB.filter (fun y => y.arr != b.arr) }).formPass pl ((s.pool pl).seq + 1)
          (s.headArrival (poolInbox pl 1)) m false a x (some (b.arr, b.msg)) (bits (lane0 m) 8 8) (bitOf (lane0 m) 15)
          (bits (lane0 m) 11 9) (bits (lane0 m) 14 12)) := by
  change execPoolMma m s = _
  simp only [execPoolMma, poolCmd_heads h, fmt, args, pair, bargs, if_true, State.poolSeq, State.poolPops, mmaNoted, State.pool_popInbox,
    State.pool_setPool, State.setPool_setPool]

end Mma

/-- A B announcement, dense or compressed, that heads its inbox and passes its checks is taken. -/
theorem exec_bload {s : State} {m : Token} {pl : Nat} {i : Instr}
    (h : (i = .poolBload m ∧ Heads s m (.pool pl) (decide (dInbox m.dest = 2)) 6 0)
      ∨ (i = .poolBloadNm m ∧ Heads s m (.pool pl) (decide (dInbox m.dest = 2)) 8 0x100)) :
    exec i s = .next (s.takeB m pl) := by
  obtain ⟨rfl, h⟩ | ⟨rfl, h⟩ := h
  · change execPoolBload m s = _
    simp only [execPoolBload, poolCmd_heads h]
  · change execPoolBloadNm m s = _
    simp only [execPoolBloadNm, poolCmd_heads h]

/-- A B announcement whose `pool.mma` has not come enters the pairing store. -/
theorem takeB_waits {s : State} {m : Token} {pl : Nat} {x : BArgs} (args : bArgs m = some x)
    (alone : (s.pool pl).annA.find? (fun a => sameKey a.msg m) = none) (room : (s.pool pl).annB.length < 16)
    (fresh : ∀ y ∈ (s.pool pl).annB, sameKey y.msg m = false) :
    s.takeB m pl = (s.poolPops pl 2).setPool pl { (s.poolPops pl 2).pool pl with
      annB := ((s.poolPops pl 2).pool pl).annB ++
        [{ seq := (s.pool pl).seq + 1, arr := s.headArrival (poolInbox pl 2), msg := m }] } := by
  simp only [State.takeB, args, alone, not_storeFull room fresh, if_false]
  rfl

/-- A B announcement whose `pool.mma` waits forms a pass with it. -/
theorem takeB_pairs {s : State} {m : Token} {pl : Nat} {x : BArgs} {a : Ann} {y : AArgs} (args : bArgs m = some x)
    (pair : (s.pool pl).annA.find? (fun a => sameKey a.msg m) = some a) (aargs : aArgs a.msg = some y) :
    s.takeB m pl = ((s.poolPops pl 2).setPool pl { (s.poolPops pl 2).pool pl with
      annA := ((s.poolPops pl 2).pool pl).annA.filter (fun z => z.seq != a.seq) }).formPass
        pl a.seq a.arr a.msg false y x (some (s.headArrival (poolInbox pl 2), m)) (bits (lane0 a.msg) 8 8) (bitOf (lane0 a.msg) 15)
        (bits (lane0 a.msg) 11 9) (bits (lane0 a.msg) 14 12) := by
  simp only [State.takeB, args, pair, aargs]
  rfl

/-- A `pool.a` forms a pass bound to the set of the last `pool.mma` taken (R275, R309). -/
theorem exec_poolA {s : State} {m : Token} {pl par : Nat} {a : AArgs} (h : Heads s m (.pool pl) (decide (dInbox m.dest = 1)) 8 0xFF00)
    (plain : bits (lane0 m) 14 9 = 0) (args : aArgs m = some a) (last : (s.pool pl).lastMma = some par) :
    exec (.poolA m) s = .next (
      let q := (s.poolPops pl 1).boundA pl ((s.pool pl).seq + 1) (s.headArrival (poolInbox pl 1)) m a par
      ((s.poolPops pl 1).setPool pl { (s.poolPops pl 1).pool pl with
        passes := ((s.poolPops pl 1).pool pl).passes ++ [q] }).tryHold pl q) := by
  change execPoolA m s = _
  simp only [execPoolA, poolCmd_heads h, plain, args, last, if_true]
  rfl

/-! ## Drains and their steering tokens (R267, R268, R285) -/

/-- A drain as its message describes it. -/
def State.newDrain (s : State) (pl : Nat) (m : Token) (r : Nat × Nat × Nat × Nat) : PoolDrain :=
  { seq := (s.pool pl).seq + 1, arr := s.headArrival (poolInbox pl 3), msg := m, region := r, ridx := bits (lane0 m) 11 9,
    ofmt := bits (lane0 m) 14 13, zero := bitOf (lane0 m) 12, off := qOp m 2, dpitch := qOp m 3,
    phase := if bitOf (lane0 m) 8 then 1 else 0, route := 0, rows := [], next := 0, queued := false, walk := false }

section Drain

variable {m : Token} (ofmt : bits (lane0 m) 14 13 ≠ 3) (named : bitOf (lane0 m) 8 = true ∨ bits (lane0 m) 11 9 = 0)
  (off : qOp m 2 < 2 ^ 56) (pitch : qOp m 3 < 2 ^ 32)
include ofmt named off pitch

/-- The operands of a drain keep their limits. -/
theorem drainOperands_sound : ¬(bits (lane0 m) 14 13 = 3
    ∨ (!bitOf (lane0 m) 8) = true ∧ bits (lane0 m) 11 9 ≠ 0 ∨ 2 ^ 56 ≤ qOp m 2
    ∨ 2 ^ 32 ≤ qOp m 3) := by
  rintro (bad | ⟨steered, index⟩ | bad | bad)
  · exact ofmt bad
  · exact named.elim (by simpa using steered) index
  · omega
  · omega

variable {s : State} {pl : Nat} {r : Nat × Nat × Nat × Nat} (h : Heads s m (.pool pl) (decide (dInbox m.dest = 3)) 8 0x7F00)
  (region : regionOf (qOp m 1) = .ok r)
include h region

/-- A drain that names its route, or whose steering token has not come, enters the list. -/
theorem exec_poolDrain_enters (alone : bitOf (lane0 m) 8 = true ∨ (s.pool pl).steers.find? (fun x => sameKey x m) = none) :
    exec (.poolDrain m) s = .next ((s.poolPops pl 3).setPool pl { (s.poolPops pl 3).pool pl with
      drains := ((s.poolPops pl 3).pool pl).drains ++ [s.newDrain pl m r] }) := by
  change execPoolDrain m s = _
  simp only [execPoolDrain, poolCmd_heads h, region, drainOperands_sound ofmt named off pitch, if_false, State.poolSeq, State.poolPops,
    State.newDrain, State.pool_popInbox, State.pool_setPool, if_true]
  obtain fixed | alone := alone
  · rw [if_pos fixed]
  · rw [alone, ite_self]

/-- A drain whose steering token waits enters the list, and the two meet. -/
theorem exec_poolDrain_steered {x : Token} (steered : bitOf (lane0 m) 8 = false)
    (pair : (s.pool pl).steers.find? (fun x => sameKey x m) = some x) :
    exec (.poolDrain m) s = .next (((s.poolPops pl 3).setPool pl { (s.poolPops pl 3).pool pl with
      drains := ((s.poolPops pl 3).pool pl).drains ++ [s.newDrain pl m r],
      steers := ((s.poolPops pl 3).pool pl).steers.filter (fun y => !sameKey y m) }).steerDrain pl (s.newDrain pl m r) x) := by
  change execPoolDrain m s = _
  simp only [execPoolDrain, poolCmd_heads h, region, drainOperands_sound ofmt named off pitch, if_false, State.poolSeq, State.poolPops,
    State.newDrain, State.pool_popInbox, State.pool_setPool, State.setPool_setPool, if_true, if_neg (ne_true_of_eq_false steered), pair]

end Drain

section Steer

variable {s : State} {m : Token} {pl : Nat} (engine : engineOf m.dest = some (.pool pl)) (head : s.atHead m = true)
  (inbox : dInbox m.dest = 4) (cls : m.cls = 0)
include engine head inbox cls

/-- A steering token whose drain waits steers it. -/
theorem exec_steerToken_steers {d : PoolDrain} (pair : (s.pool pl).drains.find? (fun d => d.phase == 0 && sameKey d.msg m) = some d) :
    exec (.steerToken m) s = .next ((s.popInbox (poolInbox pl 4)).steerDrain pl d m) := by
  change execSteerToken m s = _
  simp only [execSteerToken, engine, head, inbox, cls, and_self, if_true, pair]

/-- A steering token whose drain has not come enters the pairing store. -/
theorem exec_steerToken_waits (alone : (s.pool pl).drains.find? (fun d => d.phase == 0 && sameKey d.msg m) = none)
    (room : (s.pool pl).steers.length < 16) (fresh : ∀ x ∈ (s.pool pl).steers, sameKey x m = false) :
    exec (.steerToken m) s = .next ((s.popInbox (poolInbox pl 4)).setPool pl { s.pool pl with steers := (s.pool pl).steers ++ [m] }) := by
  change execSteerToken m s = _
  simp only [execSteerToken, engine, head, inbox, cls, and_self, if_true, alone, not_storeFull room fresh, if_false]

end Steer

/-! ## The start of a block-sparse walk (R267, R290) -/

section Walk

variable {s : State} {m : Token} {pl : Nat} (h : Heads s m (.pool pl) (decide (dInbox m.dest = 1)) 12 0xFFF00)
  (args : walkArgsOk m = true)
include h args

/-- A walk takes its sequence number, and notes when and in which ASID it was taken. -/
theorem exec_poolMmaBs_takes (idle : s.busyOf m = none) :
    exec (.poolMmaBs m) s = .next ((s.setPool pl { s.pool pl with seq := (s.pool pl).seq + 1 }).waitBusy m 1
      [(s.pool pl).seq + 1, s.clk, match s.asid? m.ctx with | some x => x + 1 | none => 0] []) := by
  have sound : ¬(!walkArgsOk m) = true := by simp [args]
  calc execPoolMmaBs m s
    _ = ok _ := congrArg ok ((poolCmd_heads h _).trans (if_neg sound))
    _ = _ := congrArg ok (poolOrdered_takes idle _ _)

/-- A walk whose bank stands, whose groups lie within 32 columns and whose rows fit becomes the pool's walk. -/
theorem exec_poolMmaBs_begins {b : Busy} {bk : Bank} {cols : Nat} (busy : s.busyOf m = some b)
    (hbk : bk = (s.pool pl).bank (bits (lane0 m) 8 8)) (hcols : cols = bk.groups.foldl (fun n g => Nat.max n (g.c + 1)) 1)
    (stands : s.bankWaits pl (bits (lane0 m) 8 8) (nth 0 b.nums 0) = false) (mapped : bk.mapped = true)
    (within : ∀ g ∈ bk.groups, g.ks + g.n ≤ 32) (width : cols ≤ bits (qOp m 4) 45 31)
    (fits : bits (qOp m 4) 30 16 + (Nat.min (bits (qOp m 4) 15 0) 2 * 32 - 1) * bits (qOp m 4) 45 31 + cols ≤ 32768) :
    exec (.poolMmaBs m) s = .next ((s.popInbox (poolInbox pl 1)).putWalk pl
      { msg := m, arr := s.headArrival (poolInbox pl 1),
        cols := cols, row := 0, idx := 0, phase := 0, passed := 0, drained := 0, replays := 0, start := nth 0 b.nums 1,
        asid := if nth 0 b.nums 2 = 0 then none else some (nth 0 b.nums 2 - 1), rps := [], ents := [],
        rebase := none, parked := false, status := 0 }) := by
  subst hbk hcols
  change execPoolMmaBs m s = _
  have shape : ¬((!((s.pool pl).bank (bits (lane0 m) 8 8)).mapped) = true
      ∨ ((s.pool pl).bank (bits (lane0 m) 8 8)).groups.any (fun g => decide (32 < g.ks + g.n)) = true
      ∨ bits (qOp m 4) 45 31 < ((s.pool pl).bank (bits (lane0 m) 8 8)).groups.foldl (fun n g => Nat.max n (g.c + 1)) 1) := by
    simpa [mapped] using ⟨within, width⟩
  simp only [execPoolMmaBs, poolCmd_heads h, args, Bool.not_true, Bool.false_eq_true, if_false, poolOrdered_performs busy, stands, shape,
    not_lt.mpr fits, nth_tail]
  rfl

end Walk

/-- Settles O47: one lemma for each command, and for each way that a command is answered. -/
theorem poolCommands : Obligations.PoolCommands := by
  unfold Obligations.PoolCommands
  refine ⟨fun r hr s m pl h good idle => exec_poolInOrder_takes idle r hr h good, ?performs, fun s m pl r => exec_poolCommit_takes,
    fun s m pl => ⟨exec_poolFence, exec_poolStat⟩, ?mma, ?bload, ?a, ?drain, ?steer, ?walk⟩
  case performs =>
    rintro s m pl _ _ b busy rfl rfl
    exact ⟨fun es => exec_poolCfg_performs busy, fun es => exec_poolMap_performs busy rfl, exec_poolSpan_performs busy rfl,
      fun r => exec_poolZero_performs busy, fun r => exec_poolCommit_performs busy⟩
  case mma =>
    rintro s _ m pl a h _ fmt args rfl
    exact ⟨exec_poolMma_waits h fmt args, fun b x => exec_poolMma_pairs h fmt args⟩
  case bload =>
    rintro s _ m pl i x h args rfl
    rw [exec_bload h]
    exact ⟨fun alone room fresh => congrArg _ (takeB_waits args alone room fresh),
      fun a y pair aargs => congrArg _ (takeB_pairs args pair aargs)⟩
  case a =>
    rintro s _ m pl par a _ h _ plain args last rfl rfl
    exact ⟨exec_poolA h plain args last, rfl, rfl, rfl, rfl, rfl, rfl, rfl⟩
  case drain =>
    rintro s _ m pl r _ h region ofmt named off pitch rfl rfl
    exact ⟨exec_poolDrain_enters ofmt named off pitch h region, fun x => exec_poolDrain_steered ofmt named off pitch h region⟩
  case steer =>
    exact fun s m pl engine head inbox cls => ⟨fun d => exec_steerToken_steers engine head inbox cls,
      exec_steerToken_waits engine head inbox cls⟩
  case walk =>
    intro s m pl h _ args
    exact ⟨exec_poolMmaBs_takes h args, fun b bk cols busy hbk stands mapped within hcols =>
      exec_poolMmaBs_begins h args busy hbk hcols stands mapped within⟩

end Sys2Proof.Machine
end

section
/-! O48: the passes of a multiplier pool. -/

namespace Sys2Proof.Machine

/-! ## Loading a set (R270, R275, R276, R314) -/

/-- The B announcement of a pass that has not completed completes (R275). -/
def State.completesB (s : State) (q : Pass) : State :=
  match q.bann with
  | some y => s.answer y.2 0 0 []
  | none => s

/-- A pool whose pass has loaded the first round of its set, as later `pool.a` see it (R275, R309). -/
def Pool.noteLoaded (p : Pool) (q : Pass) (gs : List Grp) (code : Nat) (lad : Bool) : Pool :=
  { p with parents := p.parents.map (fun y =>
      if y.seq = q.seq then { y with loaded := true, fmt := code, ladder := lad, groups := gs } else y) }

/-- A formed pass that may load: its B operands and its bank are known, and its pool's port is free. A `pool.a` only loads again a set
that has been loaded and taken by another load. -/
def LoadDue (s : State) (pl id : Nat) (q : Pass) (b : BArgs) (x : BParent) : Prop :=
  (s.pool pl).pass? id = some q ∧ q.b = some b ∧ q.phase = .paired ∧ s.bankWaits pl q.bank q.seq = false ∧ s.poolPort pl = false
    ∧ (s.pool pl).parent? q.parent = some x ∧ (q.parent ≠ q.seq → x.loaded = true ∧ (s.pool pl).setOf q.parent = none)

/-- A pass that may load, with a free set and its holds, loads the B elements of its first round; one that owns its set completes its
announcement. -/
theorem exec_bSetLoad {s s1 : State} {pl id code : Nat} {q q1 : Pass} {b : BArgs} {x : BParent} {k own lad : Bool} {gs : List Grp}
    {p1 : Pool} (hown : (q.parent == q.seq) = own) (due : LoadDue s pl id q b x)
    (free : (s.pool pl).freeSet (s.lowerUnloaded pl q) = some k) (groups : s.passGroups pl q b (own && !q.checked) = .ok gs)
    (hold : s.takeHold pl q = some (q1, s1)) (format : s1.streamCode pl q1 x.fmt false = (code, lad))
    (set : p1 = (s1.pool pl).putBSet k
      { owner := some q.parent, fmt := code, elems := s1.loadElems pl b ((passRounds code b gs).headD []), used := 0 }) :
    exec (.bSetLoad pl id) s = .next (if own then
        (((s1.setPool pl (p1.noteLoaded q gs code lad)).putPass pl { q1 with phase := .loaded, act := gs, bann := none }).completesB
          q).busyClk pl
      else (s1.setPool pl p1).busyClk pl) := by
  subst set
  obtain ⟨found, operands, formed, known, port, parent, taken⟩ := due
  change execBSetLoad pl id s = _
  have ready : ¬(q.phase ≠ .paired ∨ s.bankWaits pl q.bank q.seq = true ∨ s.poolPort pl = true
      ∨ (!own) = true ∧ ((!x.loaded) = true ∨ ((s.pool pl).setOf q.parent).isSome = true)) := by
    rintro (early | unknown | busy | ⟨bound, here⟩)
    · exact early formed
    · simp [known] at unknown
    · simp [port] at busy
    · simp [taken (by simpa [← hown] using bound)] at here
  simp only [execBSetLoad, found, hown, operands, parent, ready, free, groups, hold, format, if_false]
  cases own <;> rfl

/-! ## Streaming (R265, R275, R307, R309) -/

section Stream

variable {s : State} {pl id : Nat} {q : Pass} {x : BParent} (found : (s.pool pl).pass? id = some q)
  (parent : (s.pool pl).parent? q.parent = some x) (replays : ∀ y ∈ (s.pool pl).passes, y.phase ≠ .replay)
  (port : s.poolPort pl = false)
include found parent replays port

/-- A `pool.a` of an invalid set ends with that set's status. -/
theorem exec_passStreamStart_invalid (bound : q.parent ≠ q.seq) (formed : q.phase = .paired) (invalid : x.status ≠ 0) :
    exec (.passStreamStart pl id) s = .next (s.endPass pl q x.status 0) := by
  change execPassStreamStart pl id s = _
  have own : (q.parent == q.seq) = false := by simpa using bound
  have replay : (s.pool pl).passes.any (fun x => x.phase == .replay) = false := by simpa using replays
  simp [execPassStreamStart, found, parent, own, formed, replay, port, invalid]

/-- A pass whose set is loaded, with no earlier overlapping pass and with its holds, streams. -/
theorem exec_passStreamStart_streams {own : Bool} (hown : (q.parent == q.seq) = own) {b : BArgs} {k : Bool} {gs : List Grp} {q1 : Pass}
    {s1 : State} {code : Nat} {lad : Bool} (operands : q.b = some b) (set : (s.pool pl).setOf q.parent = some k)
    (known : s.bankWaits pl q.bank q.seq = false)
    (due : own = true ∧ q.phase = .loaded ∨ own = false ∧ q.phase = .paired ∧ x.status = 0)
    (groups : (if own then .ok q.act else s.passGroups pl q b false) = .ok gs)
    (first : s.lowerPass pl q.seq ((s.pool pl).passWrites q) = false) (hold : s.takeHold pl q = some (q1, s1))
    (format : s1.streamCode pl q1 ((s.pool pl).theSet k).fmt x.ladder = (code, lad)) :
    exec (.passStreamStart pl id) s = .next (s1.streamPass pl q1 b gs ((s.pool pl).setGroups q) k code lad
      (own || code != ((s.pool pl).theSet k).fmt)) := by
  change execPassStreamStart pl id s = _
  have replay : (s.pool pl).passes.any (fun x => x.phase == .replay) = false := by simpa using replays
  have ready : ¬((q.phase ≠ .loaded ∧ (own = true ∨ q.phase ≠ .paired))
      ∨ (s.pool pl).passes.any (fun x => x.phase == .replay) = true ∨ s.poolPort pl = true) := by
    obtain ⟨loads, loaded⟩ | ⟨bound, formed, _⟩ := due
    · simp [loaded, replay, port]
    · simp [bound, formed, replay, port]
  have valid : ¬(if own = true then 0 else x.status) ≠ 0 := by
    obtain ⟨loads, _⟩ | ⟨_, _, valid⟩ := due
    · simp [loads]
    · simp [valid]
  simp only [execPassStreamStart, found, hown, parent, ready, valid, operands, set, known, groups, first, hold, format, if_false,
    Bool.false_eq_true]

end Stream

/-! ## Spans (R283, R301, R311) -/

/-- A sum of a primary with the secondary's sum of its group and row, if one has come. -/
def SpanSums.addTo (x : SpanSums) (y : PSum) : PSum :=
  match x.sums.find? (fun z => z.g == y.g && z.m == y.m) with
  | some z =>
    { y with sum := BitVec.ofNat 32 (addF32 y.sum.toNat z.sum.toNat), mag := BitVec.ofNat 32 (addF32 y.mag.toNat z.mag.toNat),
             bad := y.bad || z.bad }
  | none => y

/-- The spanned active groups of a pass with their sizes. -/
def Pool.spannedGroups (p : Pool) (q : Pass) : List (Nat × Nat) :=
  (q.act.filter (fun g => (p.bankOf q).spanned g.g)).map (fun g => (g.g, g.n))

section Span

variable {s : State} {pl id : Nat} {q : Pass} {x : SpanSums} (found : (s.pool pl).pass? id = some q) (phase : q.phase = .span)
  (primary : ((s.pool pl).bankOf q).secondary = false) (come : (s.pool pl).spanFor q = some x)
include found phase primary come

/-- A primary pass that agrees with the secondary's adds its sums and counts. -/
theorem exec_spanSumsArrive_adds {sums : List PSum} (rows : x.rows = q.a.rows) (fmt : x.fmt = q.fixed) (prof : x.prof = q.prof)
    (groups : x.groups = (s.pool pl).spannedGroups q) (hsums : sums = q.sums.map x.addTo) :
    exec (.spanSumsArrive pl id) s = .next (s.putPass pl { q with
      phase := .streamed, sums := sums,
      counts := [nth 0 q.counts 0 + nth 0 x.counts 0, nth 0 q.counts 1 + nth 0 x.counts 1, nth 0 q.counts 2 + nth 0 x.counts 2 +
        (sums.filter (fun y => ((s.pool pl).bankOf q).spanned y.g && cancels y.sum.toNat y.mag.toNat)).length] }) := by
  subst hsums
  change execSpanSumsArrive pl id s = _
  have agree : ¬(x.rows ≠ q.a.rows ∨ x.fmt ≠ q.fixed ∨ x.prof ≠ q.prof
      ∨ x.groups ≠ (q.act.filter (fun g => ((s.pool pl).bankOf q).spanned g.g)).map (fun g => (g.g, g.n))) := by
    rw [Pool.spannedGroups] at groups
    simp [rows, fmt, prof, groups]
  simp only [execSpanSumsArrive, found, phase, primary, come, agree, ne_eq, not_true_eq_false, Bool.false_eq_true, or_self, if_false]
  rfl

/-- A primary pass that differs from the secondary's ends, and the secondary's is decided alone. -/
theorem exec_spanSumsArrive_differs {y : Pass} (differ : x.rows ≠ q.a.rows ∨ x.fmt ≠ q.fixed ∨ x.prof ≠ q.prof
      ∨ x.groups ≠ (s.pool pl).spannedGroups q)
    (other : (((s.dropSpan pl x).endPass pl q 3 0).pool (mirrorPool pl)).pass? x.seq = some y) :
    exec (.spanSumsArrive pl id) s = .next (((s.dropSpan pl x).endPass pl q 3 0).putPass (mirrorPool pl)
      { y with phase := .streamed, ladder := false }) := by
  change execSpanSumsArrive pl id s = _
  rw [Pool.spannedGroups] at differ
  simp only [execSpanSumsArrive, found, phase, primary, come, if_pos differ, sBADARG, other, ne_eq, not_true_eq_false, Bool.false_eq_true,
    or_self, if_false]

end Span

/-! ## The decision (R306, R311) -/

section Decision

variable {s : State} {pl id : Nat} {q : Pass} {past : Bool} (found : (s.pool pl).pass? id = some q)
  (due : q.phase = .streamed ∧ past = s.overBudget pl q ∨ q.phase = .decided ∧ past = false)
include found due

/-- A pass of one pool is squashed where it is past its budget, and else commits or stands accepted. -/
theorem exec_ladderDecision_alone (alone : s.partner pl q = none) :
    exec (.ladderDecision pl id) s = .next (
      if past then (s.liftReleased pl q.seq).squashPass pl q (s.autoReleased pl q.seq)
      else if s.atPosition pl q then s.commitPass pl q
      else (s.liftReleased pl q.seq).putPass pl { q with phase := .decided }) := by
  change execLadderDecision pl id s = _
  obtain ⟨streamed, rfl⟩ | ⟨accepted, rfl⟩ := due
  · simp [execLadderDecision, found, streamed, alone, State.decidePass]
  · simp [execLadderDecision, found, accepted, alone, State.decidePass]

/-- Both sides of a span are squashed where the primary is past its budget; else both commit once both are at their positions. -/
theorem exec_ladderDecision_both {x : SpanSums} {y : Pass} (both : s.partner pl q = some (x, y)) :
    exec (.ladderDecision pl id) s = .next (
      if past then
        let r := s.autoReleased pl q.seq || s.autoReleased (mirrorPool pl) y.seq
        (((((s.liftReleased pl q.seq).liftReleased (mirrorPool pl) y.seq).dropSpan pl x).squashPass pl q r).squashPass (mirrorPool pl)
          { y with step := q.step } r)
      else if s.atPosition pl q && s.atPosition (mirrorPool pl) y then
        ((s.dropSpan pl x).commitPass pl q).commitPass (mirrorPool pl) { y with fmt := q.fmt }
      else (s.decidePass pl q).liftReleased (mirrorPool pl) y.seq) := by
  change execLadderDecision pl id s = _
  obtain ⟨streamed, rfl⟩ | ⟨accepted, rfl⟩ := due
  · simp [execLadderDecision, found, streamed, both]
  · simp [execLadderDecision, found, accepted, both]

end Decision

/-! ## Replay (R307, R309) -/

/-- A squashed pass loads its set again from the wide operands and streams. -/
theorem exec_replayStream {s : State} {pl id code : Nat} {q : Pass} {b : BArgs} {k lad : Bool} (found : (s.pool pl).pass? id = some q)
    (phase : q.phase = .replay) (port : s.poolPort pl = false) (operands : q.b = some b)
    (set : (s.pool pl).setOf q.parent = some k) (format : s.streamCode pl q 0 false = (code, lad)) :
    exec (.replayStream pl id) s = .next ((s.setPool pl ((s.pool pl).putBSet k { (s.pool pl).theSet k with
      elems := s.loadElems pl b ((passRounds code b ((s.pool pl).setGroups q)).headD []) })).streamPass pl q b q.act
        ((s.pool pl).setGroups q) k code lad true) := by
  change execReplayStream pl id s = _
  simp only [execReplayStream, found, phase, port, operands, set, format, ne_eq, not_true_eq_false, Bool.false_eq_true, or_self, if_false]

/-- Settles O48: one lemma for each step of a pass, `own` telling a pass that loads a set from a `pool.a` bound to one. -/
theorem poolPasses : Obligations.PoolPasses := by
  unfold Obligations.PoolPasses
  refine ⟨?load, ?stream, ?span, ?decide, fun s pl q r => ⟨?replays, ?noSource⟩, ?replay⟩
  case load =>
    intro s s1 pl id q q1 b x k gs code lad p1 found operands formed known port parent taken free groups hold format set
    have due : LoadDue s pl id q b x := ⟨found, operands, formed, known, port, parent, taken⟩
    have loads := exec_bSetLoad (own := decide (q.parent = q.seq)) rfl due free groups hold format set
    refine ⟨fun own s2 hs2 => ?_, fun bound => ?_⟩
    · rw [loads, if_pos (decide_eq_true own), hs2]
      rfl
    · rw [loads, if_neg (by simpa using bound)]
  case stream =>
    intro s s1 pl id q q1 b x k gs code lad found parent replays port
    refine ⟨exec_passStreamStart_invalid found parent replays port, fun operands set known due first hold format => ?_⟩
    obtain ⟨own, loaded, rfl⟩ | ⟨bound, formed, valid, groups⟩ := due
    · rw [decide_eq_true own]
      exact exec_passStreamStart_streams found parent replays port (beq_iff_eq.mpr own) operands set known
        (.inl ⟨rfl, loaded⟩) rfl first hold format
    · rw [decide_eq_false bound, decide_not, ← beq_eq_decide]
      exact exec_passStreamStart_streams found parent replays port (beq_eq_false_iff_ne.mpr bound) operands set known
        (.inr ⟨rfl, formed, valid⟩) groups first hold format
  case span =>
    intro s pl id q x found phase primary come
    refine ⟨fun sums rows fmt prof groups => exec_spanSumsArrive_adds found phase primary come rows fmt prof groups, ?_⟩
    rintro differ _ rfl y
    exact exec_spanSumsArrive_differs found phase primary come differ
  case decide =>
    intro s pl id q past found due
    refine ⟨fun alone => ?_, fun x y both => ?_⟩
    · rw [exec_ladderDecision_alone found due alone]
      refine ⟨fun beyond => by rw [if_pos beyond], fun within at_ => ?_, fun within before => ?_⟩
      · simp [within, at_]
      · simp [within, before]
    · rw [exec_ladderDecision_both found due both]
      refine ⟨fun r beyond hr => ?_, fun within at_ other => ?_⟩
      · rw [if_pos beyond, hr]
      · simp [within, at_, other]
  case replays =>
    rintro rfl
    rfl
  case noSource =>
    rintro rfl
    rfl
  case replay =>
    exact fun s pl id q b k lad code found phase port operands set format => exec_replayStream found phase port operands set format

end Sys2Proof.Machine
end

section
/-! O50: the ladder controller's commands, performed on the set of the message's context. -/

namespace Sys2Proof.Machine

/-! ## The set of a command's context (R304) -/

theorem withSet_of_canBind {s : State} {m : Token} {ps : Nat} (bind : s.canBind ps m.ctx = true) (f : LadSet → State) :
    s.withSet m ps f = f (s.theSet ps m.ctx) := if_pos bind

theorem withSet_of_not_canBind {s : State} {m : Token} {ps : Nat} (full : s.canBind ps m.ctx = false) (f : LadSet → State) :
    s.withSet m ps f = s.finish m 9 0 [] := if_neg (by simp [full])

/-- The profile `n` of the set that a command of a context acts on. -/
def State.profileOfSet (s : State) (ps : Nat) (ctx : BitVec 12) (n : Nat) : Profile := nth .default (s.theSet ps ctx).profs n

/-- The set that a command of a context acts on, with its profile `n` replaced. -/
def State.putProfile (s : State) (ps : Nat) (ctx : BitVec 12) (n : Nat) (p : Profile) : State :=
  s.putSet ps { s.theSet ps ctx with profs := setNth p (s.theSet ps ctx).profs n }

/-! ## A ladder command whose message passes (R103, R316) -/

section Command

variable {s : State} {m : Token} {ps : Nat} (heads : Heads s m (.ladder ps) true 4 0)
include heads

/-- A command whose Q1 has no reserved bit set takes effect. -/
theorem ladCmd_heads {mask : Nat} (form : extraBits (qOp m 1) mask = false) (f : Nat → Nat → State → State) :
    s.ladCmd m mask f = f ps (qOp m 1) s := by
  have engine := heads.1
  simp only [State.ladCmd, engine, Laws.command_heads heads, form, Bool.false_eq_true, if_false]

/-- A forced format with no set free completes OVERFLOW. -/
theorem exec_ladForce_full (form : extraBits (qOp m 1) 7 = false) (known : qOp m 1 ≠ 7) (full : s.canBind ps m.ctx = false) :
    exec (.ladForce m) s = .next (s.finish m 9 0 []) := by
  change execLadForce m s = _
  simp only [execLadForce, ladCmd_heads heads form, known, if_false, withSet_of_not_canBind full, ok]

/-- A profile is read with no set bound as well (R304). -/
theorem exec_ladRead_profile {p : Profile} (form : extraBits (qOp m 1) 0xF = false) (profile : bitOf (qOp m 1) 0 = true)
    (profile_eq : p = s.profile ps m.ctx (bits (qOp m 1) 3 1)) : exec (.ladRead m) s = .next (s.finish m 0 0
      (BitVec.ofNat 32 (p.start + p.cap * 256 + s.forced ps m.ctx * 65536)
        :: (upTo 4).map (fun k => BitVec.ofNat 32 (nth 0 p.sat k + nth 0 p.und k * 65536))
        ++ (upTo 4).map (fun k => BitVec.ofNat 32 (nth 0 p.can k)))) := by
  subst profile_eq
  change execLadRead m s = _
  simp only [execLadRead, ladCmd_heads heads form, profile, if_true, ok, sOK]

/-- A clear that names a pool clears the counters of those named. -/
theorem exec_ladClear (form : extraBits (qOp m 1) 0x1F = false) (named : qOp m 1 ≠ 0) :
    exec (.ladClear m) s = .next (((upTo 5).foldl (fun u p =>
      if bitOf (qOp m 1) p then (upTo 11).foldl (fun v k => v.setReg (ladReg (5 * ps + p) (8 * k)) 0) u else u) s).finish m 0 0 []) := by
  change execLadClear m s = _
  simp only [execLadClear, ladCmd_heads heads form, named, if_false, ok, sOK]

/-! ### Commands that have a set -/

variable (bind : s.canBind ps m.ctx = true)
include bind

/-- A budget changes the thresholds of its profile at the steps it names. -/
theorem exec_ladBudget {p : Profile} (form : extraBits (qOp m 1) 0x070FFFFFFFFFFFFF = false) (steps : bits (qOp m 1) 51 48 ≠ 0)
    (profile_eq : p = s.profileOfSet ps m.ctx (bits (qOp m 1) 58 56)) :
    exec (.ladBudget m) s = .next ((s.putProfile ps m.ctx (bits (qOp m 1) 58 56) { p with
      sat := (upTo 4).map (fun i => if bitOf (qOp m 1) (48 + i) then bits (qOp m 1) 15 0 else nth 0 p.sat i),
      und := (upTo 4).map (fun i => if bitOf (qOp m 1) (48 + i) then bits (qOp m 1) 31 16 else nth 0 p.und i),
      can := (upTo 4).map (fun i => if bitOf (qOp m 1) (48 + i) then bits (qOp m 1) 47 32 else nth 0 p.can i) }).finish m 0 0 []) := by
  subst profile_eq
  change execLadBudget m s = _
  simp only [execLadBudget, ladCmd_heads heads form, steps, if_false, withSet_of_canBind bind]
  rfl

/-- START is set unless it is above the profile's CAP. -/
theorem exec_ladStart {p : Profile} (form : extraBits (qOp m 1) 0x703 = false)
    (profile_eq : p = s.profileOfSet ps m.ctx (bits (qOp m 1) 10 8)) :
    exec (.ladStart m) s = .next (if p.cap < bits (qOp m 1) 1 0 then s.finish m 3 0 []
      else (s.putProfile ps m.ctx (bits (qOp m 1) 10 8) { p with start := bits (qOp m 1) 1 0 }).finish m 0 0 []) := by
  subst profile_eq
  change execLadStart m s = _
  simp only [execLadStart, ladCmd_heads heads form, withSet_of_canBind bind]
  rfl

/-- CAP is set unless it is below the profile's START. -/
theorem exec_ladCap {p : Profile} (form : extraBits (qOp m 1) 0x703 = false)
    (profile_eq : p = s.profileOfSet ps m.ctx (bits (qOp m 1) 10 8)) :
    exec (.ladCap m) s = .next (if bits (qOp m 1) 1 0 < p.start then s.finish m 3 0 []
      else (s.putProfile ps m.ctx (bits (qOp m 1) 10 8) { p with cap := bits (qOp m 1) 1 0 }).finish m 0 0 []) := by
  subst profile_eq
  change execLadCap m s = _
  simp only [execLadCap, ladCmd_heads heads form, withSet_of_canBind bind]
  rfl

/-- A pool's counters are read with the context's set bound. -/
theorem exec_ladRead_pool {pl : Nat} (form : extraBits (qOp m 1) 0xF = false) (counters : bitOf (qOp m 1) 0 = false)
    (pool : bits (qOp m 1) 3 1 ≤ 4) (pool_eq : pl = 5 * ps + bits (qOp m 1) 3 1) :
    exec (.ladRead m) s = .next ((s.putSet ps (s.theSet ps m.ctx)).finish m 0 0
      ((upTo 6).map (fun f => lo32 (s.reg (ladPass pl (f + 1)))) ++ (upTo 3).map (fun k => lo32 (s.reg (ladReplay pl (k + 1))))
        ++ [lo32 (s.reg (ladSquash pl)), lo32 (s.reg (ladNosrc pl))])) := by
  subst pool_eq
  change execLadRead m s = _
  simp only [execLadRead, ladCmd_heads heads form, counters, Bool.false_eq_true, not_lt.mpr pool, if_false,
    withSet_of_canBind bind, ok, sOK]

/-- A forced format is kept in the context's set. -/
theorem exec_ladForce (form : extraBits (qOp m 1) 7 = false) (known : qOp m 1 ≠ 7) :
    exec (.ladForce m) s = .next ((s.putSet ps { s.theSet ps m.ctx with forced := qOp m 1 }).finish m 0 0 []) := by
  change execLadForce m s = _
  simp only [execLadForce, ladCmd_heads heads form, known, if_false, withSet_of_canBind bind, ok, sOK]

/-! ### Commands on a range of the scratchpad (R312 to R314) -/

variable (form : extraBits (qOp m 1) 0x7FFFFF7FFFFF = false) (some_bytes : bits (qOp m 1) 46 24 ≠ 0)
  (fits : bits (qOp m 1) 22 0 + bits (qOp m 1) 46 24 ≤ 2 ^ 23) {t : State} (bound : t = s.putSet ps (s.theSet ps m.ctx))
include form some_bytes fits bound

/-- A hold on a range is added while fewer than 32 explicit holds stand. -/
theorem exec_ladRetain : exec (.ladRetain m) s = .next (
    if 32 ≤ ((s.ladder ps).holds.filter (fun h => !h.auto)).length then s.finish m 9 0 []
    else (t.setLadder ps { t.ladder ps with holds := (t.ladder ps).holds ++
      [explicitHold m.ctx (bits (qOp m 1) 22 0) (bits (qOp m 1) 22 0 + bits (qOp m 1) 46 24)] }).finish m 0 0 []) := by
  subst bound
  change execLadRetain m s = _
  simp only [execLadRetain, ladCmd_heads heads form, ladRange, some_bytes, not_lt.mpr fits, if_false, withSet_of_canBind bind]
  rfl

/-- A release ends the context's explicit holds that overlap its range, and marks its automatic ones. -/
theorem exec_ladRelease {hit : LadHold → Bool} (overlaps : ∀ h, hit h = (h.ctx == m.ctx && h.saved.isNone
      && decide (h.lo < bits (qOp m 1) 22 0 + bits (qOp m 1) 46 24 ∧ bits (qOp m 1) 22 0 < h.hi))) :
    exec (.ladRelease m) s = .next ((t.setLadder ps { t.ladder ps with
      holds := ((t.ladder ps).holds.filter (fun h => h.auto || !hit h)).map (fun h =>
        if h.auto = true ∧ hit h = true ∧ h.released = false then
          { h with released := true, lifted := !t.passStreams h.pool h.seq } else h) }).finish m 0 0
      [BitVec.ofNat 32 ((t.ladder ps).holds.filter (fun h => hit h && (!h.auto || !h.released))).length]) := by
  subst bound
  obtain rfl := funext overlaps
  change execLadRelease m s = _
  -- the two sides decide `h.released = false` in different ways, which `congr!` identifies
  simp only [execLadRelease, ladCmd_heads heads form, ladRange, some_bytes, not_lt.mpr fits, if_false, withSet_of_canBind bind,
    Bool.not_eq_true', ok, sOK]
  congr!

end Command

/-- Settles O50: a command that heads its inbox takes effect (`ladCmd_heads`) on the set it has (`withSet_of_canBind`), one lemma for
each command. -/
theorem ladderCommands : Obligations.LadderCommands := by
  unfold Obligations.LadderCommands
  rintro s m ps _ _ heads rfl rfl
  refine ⟨exec_ladForce_full heads, fun bind => ⟨fun p => exec_ladBudget heads bind, fun p form profile_eq => ?limits,
    fun base len t form hbase hlen some_bytes fits bound => ?range, fun pl => exec_ladRead_pool heads bind, exec_ladForce heads bind⟩,
    fun p => exec_ladRead_profile heads, exec_ladClear heads⟩
  case limits =>
    rw [exec_ladStart heads bind form profile_eq, exec_ladCap heads bind form profile_eq]
    refine ⟨fun fits => ?_, fun above => by rw [if_pos above], fun fits => ?_, fun below => by rw [if_pos below]⟩
    all_goals
      rw [if_neg (not_lt.mpr fits)]
      rfl
  case range =>
    subst hbase hlen
    rw [exec_ladRetain heads bind form some_bytes fits bound]
    exact ⟨fun room => by rw [if_neg (not_le.mpr room)], fun full => by rw [if_pos full],
      fun hit => exec_ladRelease heads bind form some_bytes fits bound⟩

end Sys2Proof.Machine
end

section
/-! O51: the copy engine's commands, each a next chunk of its pieces in its inbox's turn, and its fence. -/

namespace Sys2Proof.Machine

/-! ## A copy command's turn (R103, R322) -/

/-- A copy command waits for its inbox's turn. -/
theorem copyCmd_of_not_turn {s : State} {m : Token} {ps : Nat} (engine : engineOf m.dest = some (.copy ps))
    (turn : s.copyTurn ps (dInbox m.dest) = false) (lanes flags : Nat) (f : Nat → CopyRun → State → State) :
    s.copyCmd m lanes flags f = s := by
  simp [State.copyCmd, engine, turn]

/-- The copy engine's rows of the command table. -/
theorem commandTable_copy (ps : Nat) : commandTable.filter (fun e => e.engine (.copy ps)) =
    [⟨Instr.cpLin, isCopy, fun _ => true, 8, 0⟩, ⟨Instr.cp2d, isCopy, fun _ => true, 10, 0⟩,
     ⟨Instr.cpTr, isCopy, fun _ => true, 10, 0⟩, ⟨Instr.cpFill, isCopy, fun _ => true, 8, 0⟩,
     ⟨Instr.cpGath, isCopy, fun _ => true, 6, 0⟩, ⟨Instr.cpZip, isCopy, fun _ => true, 10, 0⟩,
     ⟨Instr.cpUnzip, isCopy, fun _ => true, 10, 0⟩, ⟨Instr.cpFence, isCopy, fun _ => true, 2, 0xF00⟩] := rfl

/-- Every command of a copy engine is taken by `State.copyCmd`. -/
theorem exec_eq_copyCmd {e : CommandRow} {ps : Nat} (mem : e ∈ commandTable) (has : e.engine (.copy ps) = true) :
    ∃ f : Token → Nat → CopyRun → State → State, ∀ m s, exec (e.cmd m) s = .next (s.copyCmd m e.lanes e.flags (f m)) := by
  have rows : ∀ e ∈ commandTable.filter (fun e => e.engine (.copy ps)),
      ∃ f : Token → Nat → CopyRun → State → State, ∀ m s, exec (e.cmd m) s = .next (s.copyCmd m e.lanes e.flags (f m)) := by
    simp only [commandTable_copy, List.forall_mem_cons, List.not_mem_nil, false_imp_iff, implies_true, and_true]
    and_intros <;> exact ⟨_, fun _ _ => rfl⟩
  exact rows e (List.mem_filter.mpr ⟨mem, has⟩)

/-- A copy command whose message passes goes on in its inbox's turn from where it stands, and the turn passes on. -/
theorem copyCmd_heads {s : State} {m : Token} {ps lanes flags : Nat} {r : CopyRun} (heads : Heads s m (.copy ps) true lanes flags)
    (turn : s.copyTurn ps (dInbox m.dest) = true) (run : s.copyRun m = some r) (f : Nat → CopyRun → State → State) :
    s.copyCmd m lanes flags f = f ps r (s.copyServed ps (dInbox m.dest)) := by
  obtain ⟨engine, head, passes⟩ := heads
  have served : Heads (s.copyServed ps (dInbox m.dest)) m (.copy ps) true lanes flags := ⟨engine, head, passes⟩
  have stands : (s.copyServed ps (dInbox m.dest)).copyRun m = some r := run
  simp only [State.copyCmd, engine, head, turn, Bool.and_self, if_true, Laws.command_heads served, stands]

/-! ## Commands that check every address first (R327, R329 to R332) -/

/-- A command of `copyRows` whose operands keep their limits moves its pieces; another ends with BADARG. -/
theorem exec_copyRow : ∀ e ∈ copyRows, ∀ m s, exec (e.cmd m) s = .next (s.copyCmd m e.lanes 0 (fun ps r t =>
    if e.good m then t.copyWhole m ps r e.lin (e.pieces m) else t.copyEnd m ps r.holds 3 0 0 0)) := by
  simp only [copyRows, List.forall_mem_cons, List.not_mem_nil, false_imp_iff, implies_true, and_true]
  refine ⟨fun m s => ?lin, fun m s => ?twoD, fun m s => ?tr, fun m s => ?fill⟩
  all_goals
    refine congrArg (fun f => ok (s.copyCmd m _ 0 f)) (funext fun ps => funext fun r => funext fun t => ?_)
    refine ((if_congr ?_ rfl rfl).trans (ite_not ..)).symm
  case lin => simp [and_assoc]
  case twoD => simp [and_assoc]
  case tr => simp [transposeOk, and_assoc]
  case fill => simp [and_assoc]

/-! ## `cp.gath` (R333) -/

/-- A gather that an entry of its list ends, by a fault code. -/
def gathFails (m : Token) (ps e c _pos : Nat) (r : CopyRun) (t : State) : State :=
  t.copyEnd m ps r.holds (statusOfCode c) r.bytes e 0

/-- A gather that has moved an entry of its list: it goes on to the next, or ends after its last. -/
def gathMoved (m : Token) (ps n e : Nat) (r : CopyRun) (t : State) : State :=
  if e + 1 < n then
    t.keepRun m { r with begun := false, chunk := 0, part := e + 1, own := [], ahead := r.ahead.filter (fun x => decide (e < x.1)) }
  else t.copyEnd m ps r.holds (poisonStatus r.bad) r.bytes n 0

/-- A gather that moves an entry of its list, from the machine that has fetched ahead. -/
def State.gathMoves (w : State) (m : Token) (ps n elen d a e : Nat) (r : CopyRun) : State :=
  w.copyPart m ps r true (gathPieces elen d a) (gathFails m ps e) (gathMoved m ps n e)

/-- What a gather does with an entry of its list that it has fetched. -/
theorem gathStep_of_entry {v : State} {m : Token} {ps n elen c d a : Nat} {list : CAddr} {r : CopyRun}
    (entry : r.ahead.find? r.part = some (c, d, a)) : v.gathStep m ps n elen list r =
      if c ≠ 0 then gathFails m ps r.part c 0 r v
      else if !copyAddrOk d ∨ !copyAddrOk a then v.copyEnd m ps r.holds 3 r.bytes r.part 0
      else
        let ahead := if r.begun then (r, v) else State.gathAhead m ps n list 16 v r
        ahead.2.gathMoves m ps n elen d a r.part ahead.1 := by
  have later : ¬(r.part = 0 ∧ (!r.begun) = true ∧ r.ahead.isEmpty = true) := by
    rintro ⟨-, -, none⟩
    rw [List.isEmpty_iff.mp none] at entry
    cases entry
  simp only [State.gathStep, later, if_false, entry, Option.isSome_some, if_true]
  rfl

/-! ## `cp.zip` and `cp.unzip` (R335, R337) -/

/-- A tile that has been compressed is written a chunk at a time. -/
theorem zipStep_of_tile {v : State} {m : Token} {ps nt esc cap : Nat} {run : Bool} {r : CopyRun} (tile : r.need ≠ 0) :
    v.zipStep m ps nt esc cap run r = v.zipWrite m ps nt cap r := if_neg tile

/-- What follows a tile's read goes on with its bytes. -/
theorem withTile_of_got {v w : State} {m : Token} {ps bytes n : Nat} {r r1 : CopyRun} {a : CAddr} {d : List Byte}
    (got : v.tileRead m ps r a n = (.got d r1, w)) (k : List Byte → CopyRun → State → State) :
    v.withTile m ps r bytes a n k = k d r1 w := by
  simp only [State.withTile, got]

/-- A tile that overflows before its header's last byte ends the compression with nothing of it written. -/
theorem zipWrite_overflows {v : State} {m : Token} {ps nt cap : Nat} {r : CopyRun} (need : 8 ≤ r.need) (full : cap < r.off + 8) :
    v.zipWrite m ps nt cap r = v.copyEnd m ps r.holds 9 r.off r.part r.need := by
  have beyond : cap < r.off + r.need := by omega
  simp only [State.zipWrite, beyond, full, decide_true, and_self, if_true, sOVERFLOW]

/-- A tile that has room for its header is written a chunk at a time. -/
theorem zipWrite_chunkGives {v : State} {m : Token} {ps nt cap : Nat} {r : CopyRun} (room : r.off + 8 ≤ cap) :
    ChunkGives v m ps r false (zipPieces ((copyAddr (qOp m 1)).plus (r.off : Int)) r cap)
      (fun c _ r1 t => t.copyEnd m ps r1.holds (statusOfCode c) r1.off r1.part 0)
      (fun r1 t => if cap < r.off + r.need then t.copyEnd m ps r1.holds 9 r1.off r1.part r1.need
        else if r1.part + 1 < nt then
          t.keepRun m { r1 with begun := false, chunk := 0, part := r1.part + 1, off := r1.off + r1.need, need := 0 }
        else t.copyEnd m ps r1.holds 0 (r1.off + r1.need) nt 0) (v.zipWrite m ps nt cap r) := by
  simp only [State.zipWrite, decide_eq_true_eq, not_lt.mpr room, and_false, if_false]
  exact copyPart_chunkGives ..

/-- A tile that has been decompressed is written a chunk at a time. -/
theorem unzipStep_of_tile {v : State} {m : Token} {ps nt esc cap : Nat} {run : Bool} {r : CopyRun} (tile : r.need ≠ 0) :
    v.unzipStep m ps nt esc cap run r = v.unzipWrite m ps nt esc r := if_pos tile

/-- A tile with no room left for its header ends the decompression with BADARG. -/
theorem unzipStep_short {v : State} {m : Token} {ps nt esc cap : Nat} {run : Bool} {r : CopyRun} (fresh : r.need = 0)
    (short : cap < r.off + 8) : v.unzipStep m ps nt esc cap run r = v.copyEnd m ps r.holds 3 r.bytes r.part 0 := by
  simp only [State.unzipStep, fresh, ne_eq, not_true, if_false, short, if_true, sBADARG]

section Unzip

variable {v w : State} {m : Token} {ps nt esc cap : Nat} {run : Bool} {r r1 : CopyRun} {d : List Byte}
  (fresh : r.need = 0) (room : r.off + 8 ≤ cap)
  (header : v.tileRead m ps (v.tileShared m ps r cap (256 * 2 ^ esc * nt)) ((copyAddr (qOp m 2)).plus (r.off : Int)) 8 = (.got d r1, w))
include fresh room header

/-- A header that is not in form ends the decompression with BADARG. -/
theorem unzipStep_badHeader (bad : headerOk (leNat d) esc run = false) :
    v.unzipStep m ps nt esc cap run r = w.copyEnd m ps r1.holds 3 r1.bytes r1.part 0 := by
  simp only [State.unzipStep, fresh, ne_eq, not_true, not_lt.mpr room, if_false, withTile_of_got header, bad, Bool.not_false, true_or,
    if_true, sBADARG]

/-- A tile whose header and body are in form is decompressed and written. -/
theorem unzipStep_goodTile {x : State} {r2 : CopyRun} {b bytes : List Byte} (good : headerOk (leNat d) esc run = true)
    (fits : r1.off + (8 + bits (leNat d) 15 0) ≤ cap)
    (body : w.tileRead m ps r1 (((copyAddr (qOp m 2)).plus (r.off : Int)).plus 8) (bits (leNat d) 15 0) = (.got b r2, x))
    (tile : tileOf run (2 ^ esc) (leNat d) b = some bytes) :
    v.unzipStep m ps nt esc cap run r = x.unzipWrite m ps nt esc { r2 with tile := bytes, need := 8 + bits (leNat d) 15 0 } := by
  simp only [State.unzipStep, fresh, ne_eq, not_true, not_lt.mpr room, if_false, withTile_of_got header, good, not_lt.mpr fits,
    Bool.not_true, Bool.false_eq_true, or_self, withTile_of_got body, tile]

end Unzip

/-! ## What each command does in its turn -/

section Turn

variable {s : State} {m : Token} {ps : Nat} {r : CopyRun} (turn : s.copyTurn ps (dInbox m.dest) = true) (stands : s.copyRun m = some r)
include turn stands

/-- A gather whose operands keep their limits goes on by `State.gathStep`. -/
theorem exec_cpGath (heads : Heads s m (.copy ps) true 6 0) (list : copyAddrOk (qOp m 1) = true)
    (aligned : (copyAddr (qOp m 1)).at_ % 8 = 0) (entries : bits (qOp m 2) 31 0 ≠ 0) (bytes : bits (qOp m 2) 47 32 ≠ 0)
    (form : qOp m 2 < 2 ^ 48) : exec (.cpGath m) s = .next ((s.copyServed ps (dInbox m.dest)).gathStep m ps (bits (qOp m 2) 31 0)
      (bits (qOp m 2) 47 32) (copyAddr (qOp m 1)) r) := by
  change execCpGath m s = _
  simp only [execCpGath, copyCmd_heads heads turn stands, list, aligned, entries, bytes, not_le.mpr form, Bool.not_true,
    Bool.false_eq_true, ne_eq, not_true, or_self, if_false, ok]

/-- A compression whose operands keep their limits goes on by `State.zipStep`. -/
theorem exec_cpZip (heads : Heads s m (.copy ps) true 10 0) (args : tileArgsOk m = true) :
    exec (.cpZip m) s = .next ((s.copyServed ps (dInbox m.dest)).zipStep m ps (bits (qOp m 3) 15 0) (bits (qOp m 3) 17 16)
      (qOp m 4) (bitOf (qOp m 3) 18) r) := by
  change execCpZip m s = _
  simp only [execCpZip, copyCmd_heads heads turn stands, args, Bool.not_true, Bool.false_eq_true, if_false, ok]

/-- A decompression whose operands keep their limits goes on by `State.unzipStep`. -/
theorem exec_cpUnzip (heads : Heads s m (.copy ps) true 10 0) (args : tileArgsOk m = true) :
    exec (.cpUnzip m) s = .next ((s.copyServed ps (dInbox m.dest)).unzipStep m ps (bits (qOp m 3) 15 0) (bits (qOp m 3) 17 16)
      (qOp m 4) (bitOf (qOp m 3) 18) r) := by
  change execCpUnzip m s = _
  simp only [execCpUnzip, copyCmd_heads heads turn stands, args, Bool.not_true, Bool.false_eq_true, if_false, ok]

/-- A fence whose inboxes are clear completes. -/
theorem exec_cpFence (heads : Heads s m (.copy ps) true 2 0xF00) (clear : s.inboxesClear m (bits (lane0 m) 11 8) 4 = true) :
    exec (.cpFence m) s = .next ((s.copyServed ps (dInbox m.dest)).copyEnd m ps r.holds 0 0 0 0) := by
  change execCpFence m s = _
  have served : (s.copyServed ps (dInbox m.dest)).inboxesClear m (bits (lane0 m) 11 8) 4 = true := clear
  simp only [execCpFence, copyCmd_heads heads turn stands, served, if_true, ok, sOK]

end Turn

/-- Settles O51: `State.copyCmd` gives a command its turn, `copyPart_chunkGives` its next chunk, and each command one lemma that says
which pieces it moves. -/
theorem copyCommands : Obligations.CopyCommands := by
  unfold Obligations.CopyCommands
  refine ⟨?turn, ?rows, ?gath, ?tiles, fun s m ps r heads turn stands => exec_cpFence turn stands heads⟩
  case turn =>
    intro e mem s m ps has engine turn
    obtain ⟨f, runs⟩ := exec_eq_copyCmd mem has
    rw [runs, copyCmd_of_not_turn engine turn]
  case rows =>
    rintro e mem s _ m ps r heads turn stands rfl
    rw [exec_copyRow e mem, copyCmd_heads heads turn stands]
    refine ⟨fun bad => by simp only [bad, Bool.false_eq_true, if_false], fun good => ⟨_, rfl, ?_⟩⟩
    rw [if_pos good]
    exact copyPart_chunkGives ..
  case gath =>
    rintro s _ m ps _ _ _ r heads turn stands rfl rfl rfl rfl list aligned entries bytes form
    have step := exec_cpGath turn stands heads list aligned entries bytes form
    refine ⟨step, fun c d a entry => ?_⟩
    rw [step, gathStep_of_entry entry]
    refine ⟨fun failed => by rw [if_pos failed]; rfl, ?_, ?_⟩
    · rintro rfl bad
      simp [bad]
    · rintro r2 w rfl dst src fetched
      simp only [fetched, dst, src, ne_eq, not_true, Bool.not_true, Bool.false_eq_true, or_self, if_false]
      exact ⟨_, rfl, copyPart_chunkGives ..⟩
  case tiles =>
    rintro s _ m ps _ _ cap _ r heads turn stands rfl args rfl rfl hcap rfl
    rw [exec_cpZip turn stands heads args, exec_cpUnzip turn stands heads args, ← hcap]
    refine ⟨rfl, rfl, fun fresh d r1 w got => ?_, fun tile => ?moves,
      fun fresh => ⟨fun short => by rw [unzipStep_short fresh short], ?reads⟩⟩
    · rw [State.zipStep, if_pos fresh, withTile_of_got got]
      rfl
    case moves =>
      rw [zipStep_of_tile (by omega), unzipStep_of_tile (by omega)]
      exact ⟨fun full => by rw [zipWrite_overflows tile full], fun room => ⟨_, rfl, zipWrite_chunkGives room⟩,
        _, rfl, copyPart_chunkGives ..⟩
    case reads =>
      rintro d r1 w _ room header rfl
      refine ⟨fun bad => by rw [unzipStep_badHeader fresh room header bad], fun b r2 x bytes good fits body tile => ?_⟩
      rw [unzipStep_goodTile fresh room header good fits body tile]

end Sys2Proof.Machine
end

section
/-! O58: power, sector by sector and of the package; module reset; the clock; the host's accesses and its CXL ports. -/

namespace Sys2Proof.Machine

/-! ## Gating and waking a sector (R466) -/

section Sector

variable {s : State} {ps : Nat}

/-- A sector that a live context has in its PART, or that a reset covers, is not gated. -/
theorem exec_sectorGate_held (hps : ps < 32) (held : s.liveOn (2 ^ ps) ≠ [] ∨ s.resets.any (fun r => bitOf r.mask ps) = true) :
    exec (.sectorGate ps) s = .next (s.setBits (frontReg 0x120) 1 1 1) := by
  change execSectorGate ps s = _
  simp only [execSectorGate, if_neg (Nat.not_le.mpr hps), if_pos held, ok]

theorem exec_sectorGate_unheld {u : State} (hps : ps < 32) (unlived : s.liveOn (2 ^ ps) = [])
    (uncovered : s.resets.any (fun r => bitOf r.mask ps) = false) (powered : s.gated ps = false)
    (hu : u = ((s.resetSector ps).setBits (frontReg 0x118) ps ps 0).setBits (frontReg 0x110) ps ps 1) :
    exec (.sectorGate ps) s = .next { u with waking := u.waking.erase ps }.exitDone := by
  subst hu
  change execSectorGate ps s = _
  have unheld : ¬(s.liveOn (2 ^ ps) ≠ [] ∨ s.resets.any (fun r => bitOf r.mask ps) = true) := by simp [unlived, uncovered]
  rw [execSectorGate, if_neg (Nat.not_le.mpr hps), if_neg unheld, if_neg (Bool.not_eq_true _ ▸ powered)]
  rfl

theorem exec_sectorWake_gated {u : State} (hps : ps < 32) (gated : s.gated ps = true) (awake : s.awake = true)
    (hu : u = (s.setBits (frontReg 0x118) ps ps 0).setBits (frontReg 0x110) ps ps 0) :
    exec (.sectorWake ps) s = .next { u with waking := Tab.set u.waking ps (.rails, u.timer) } := by
  subst hu
  change execSectorWake ps s = _
  rw [execSectorWake, if_pos ⟨hps, gated⟩]
  exact congrArg Host.Outcome.next (if_pos (Or.inl awake))

theorem exec_sectorWake_powered (powered : s.gated ps = false) : exec (.sectorWake ps) s = .next s := by
  change execSectorWake ps s = _
  simp [execSectorWake, powered, ok]

/-- A sector in a phase of its wake is due for the next one once the phase's time has passed. -/
theorem wakeDue_of_phase {p : WakePhase} {t : Nat} (phase : s.waking.find? ps = some (p, t)) (tenths : Nat) :
    s.wakeDue ps tenths p = if tenths * timerScale ≤ 10 * (s.timer - t) then some t else none := by
  simp only [State.wakeDue, phase, true_and]

theorem exec_sectorClockStart {t : Nat} (phase : s.waking.find? ps = some (.rails, t)) :
    (30 * timerScale ≤ 10 * (s.timer - t) →
      exec (.sectorClockStart ps) s = .next { s with waking := Tab.set s.waking ps (.clocks, t) })
    ∧ (10 * (s.timer - t) < 30 * timerScale → exec (.sectorClockStart ps) s = .next s) := by
  change (_ → execSectorClockStart ps s = _) ∧ (_ → execSectorClockStart ps s = _)
  rw [execSectorClockStart, wakeDue_of_phase phase]
  exact ⟨fun due => by rw [if_pos due], fun early => by rw [if_neg (Nat.not_le.mpr early)]⟩

theorem exec_sectorStateReset {t : Nat} (phase : s.waking.find? ps = some (.clocks, t)) (due : 35 * timerScale ≤ 10 * (s.timer - t)) :
    exec (.sectorStateReset ps) s = .next { s.resetSector ps with waking := Tab.set (s.resetSector ps).waking ps (.cleared, t) } := by
  change execSectorStateReset ps s = _
  rw [execSectorStateReset, wakeDue_of_phase phase, if_pos due]

theorem exec_sectorReady {t : Nat} (phase : s.waking.find? ps = some (.cleared, t)) (due : 40 * timerScale ≤ 10 * (s.timer - t)) :
    exec (.sectorReady ps) s = .next { s.setBits (frontReg 0x118) ps ps 1 with waking := s.waking.erase ps }.exitDone := by
  change execSectorReady ps s = _
  rw [execSectorReady, wakeDue_of_phase phase, if_pos due]
  rfl

end Sector

/-! ## The clock (R497) -/

section Clock

variable {hot beyond : Bool} {mhz cap next : Nat}

/-- The MHz that a throttle step sets: down by 75 where it is too hot or beyond the limit, unchanged where the limit has lowered the
clock and the average is not 5 % below it, and up by 75 otherwise. -/
def throttled (hot beyond capped : Bool) (mhz cap watts : Nat) : Nat :=
  if hot || beyond then Nat.max 1200 (mhz - 75)
  else if capped && decide (95 * cap < 100 * watts) then mhz else Nat.min 2250 (mhz + 75)

/-- The statement's account of the next clock determines it. -/
theorem eq_throttled {capped watts : Nat} (falls : hot = true ∨ beyond = true → next = Nat.max 1200 (mhz - 75))
    (else_ : hot = false → beyond = false → (capped = 1 → 95 * cap < 100 * watts → next = mhz)
      ∧ ((capped ≠ 1 ∨ 100 * watts ≤ 95 * cap) → next = Nat.min 2250 (mhz + 75))) :
    next = throttled hot beyond (capped == 1) mhz cap watts := by
  rw [throttled]
  split
  case isTrue h => exact falls (by simpa using h)
  case isFalse h =>
    simp only [Bool.or_eq_true, not_or, Bool.not_eq_true] at h
    obtain ⟨holds, rises⟩ := else_ h.1 h.2
    split
    case isTrue near =>
      simp only [Bool.and_eq_true, beq_iff_eq, decide_eq_true_eq] at near
      exact holds near.1 near.2
    case isFalse far =>
      refine rises ?_
      simp only [Bool.and_eq_true, beq_iff_eq, decide_eq_true_eq] at far
      omega

theorem exec_clockThrottleStep (s : State) (e : EnvSample) {u v w : State}
    (hhot : hot = decide (105 < e.die ∨ 95 < e.hbm)) (hmhz : mhz = s.regBits (modReg 0x20) 11 0) (hcap : cap = s.regBits (modReg 8) 11 0)
    (hbeyond : beyond = decide (cap < e.watts))
    (hnext : next = throttled hot beyond (s.regBits (modReg 0) 2 2 == 1) mhz cap e.watts)
    (hu : u = ((s.setReg (modReg 0x10) (BitVec.ofNat 64 (e.watts % 4096))).setReg (modReg 0x18)
      (BitVec.ofNat 64 (e.die % 256 + e.hbm % 256 * 2 ^ 8 + e.inlet % 256 * 2 ^ 16))).setReg (modReg 0x20) (BitVec.ofNat 64 next))
    (hv : v = if beyond = true then u.setBits (modReg 0) 2 2 1 else u)
    (hw : w = if next = 2250 then u.setBits (modReg 0) 3 2 0 else if hot = true then v.setBits (modReg 0) 3 3 1 else v) :
    exec (.clockThrottleStep e) s = .next (if 115 < e.die then { w with inputs := .event .thermtrip :: w.inputs } else w) := by
  subst hhot hmhz hcap hbeyond hnext hu hv hw
  rfl

end Clock

/-! ## Power states (R482, R483) -/

section PowerState

variable {s : State}

theorem exec_powerRequestLow {i : Instr} {n : Nat} (h : (i, n) ∈ [(Instr.powerRequestP2, 2), (.powerRequestP3, 3)]) (s : State) :
    exec i s = .next (s.requestLow n) := by
  simp only [List.mem_cons, Prod.mk.injEq, List.not_mem_nil, or_false] at h
  obtain ⟨rfl, rfl⟩ | ⟨rfl, rfl⟩ := h <;> rfl

/-- A request for P2 or P3 is refused exactly while a context is live or a queue holds a command. -/
theorem requestLow_busy_iff : (s.contexts.any (fun e => e.2.live) = true
      ∨ s.queues.any (fun e => !e.2.onchip.isEmpty || !e.2.overflow.isEmpty) = true)
    ↔ (∃ e ∈ s.contexts, e.2.live = true) ∨ (∃ e ∈ s.queues, e.2.onchip ≠ [] ∨ e.2.overflow ≠ []) := by
  simp only [List.any_eq_true, Bool.or_eq_true, Bool.not_eq_true', List.isEmpty_eq_false_iff]

theorem requestLow_refused (n : Nat)
    (busy : (∃ e ∈ s.contexts, e.2.live = true) ∨ (∃ e ∈ s.queues, e.2.onchip ≠ [] ∨ e.2.overflow ≠ [])) :
    s.requestLow n = s.setBits (custReg 0x38) 4 4 1 := if_pos (requestLow_busy_iff.mpr busy)

theorem requestLow_taken (n : Nat) (ended : ∀ e ∈ s.contexts, e.2.live = false)
    (empty : ∀ e ∈ s.queues, e.2.onchip = [] ∧ e.2.overflow = []) :
    s.requestLow n = (s.setBits (custReg 0x38) 1 0 n).setCust
      { s.cust with pwrEntry := if s.regBits (custReg 0x38) 3 2 = n then none else some n } := by
  refine if_neg (mt requestLow_busy_iff.mp ?_)
  rintro (⟨e, he, live⟩ | ⟨e, he, holds⟩)
  · exact Bool.false_ne_true ((ended e he).symm.trans live)
  · obtain ⟨onchip, overflow⟩ := empty e he
    exact holds.elim (absurd onchip) (absurd overflow)

/-- Awake, or on its way to P0 already, the package only gives up the entry that waits. -/
theorem wake_of_awake (h : s.awake = true ∨ s.cust.pwrExit = true) : s.wake = s.setCust { s.cust with pwrEntry := none } := if_pos h

/-- From P2 or P3 the exit begins with the rails of every sector that is not gated. -/
theorem wake_of_asleep {u : State} (asleep : s.awake = false) (stays : s.cust.pwrExit = false)
    (hu : u = s.setCust { s.cust with pwrEntry := none, pwrExit := true }) :
    s.wake = { u with
      waking := (upTo 32).foldl (fun w ps => if s.gated ps then w else Tab.set w ps (.rails, s.timer)) s.waking }.exitDone := by
  subst hu
  refine if_neg (?_ : ¬(s.awake = true ∨ s.cust.pwrExit = true))
  simp [asleep, stays]

/-- What keeps an entry to P2 or P3 waiting (R482, R483). -/
theorem exec_powerStateEntry_waits {n : Nat} (entry : s.cust.pwrEntry = some n)
    (busy : s.cust.pwrExit = true ∨ (∃ r ∈ s.cust.tests, r.running = true) ∨ s.remotes ≠ [] ∨ s.inboundWait ≠ []) :
    exec .powerStateEntry s = .next s := by
  change execPowerStateEntry s = _
  rw [← List.any_eq_true] at busy
  simp only [execPowerStateEntry, entry]
  refine congrArg Host.Outcome.next (if_pos ?_)
  obtain exits | tests | remotes | inbound := busy
  · exact .inl exits
  · exact .inr (.inl tests)
  · exact .inr (.inr (.inl remotes))
  · exact .inr (.inr (.inr (.inl inbound)))

/-- An entry that nothing keeps waiting: the refreshes are settled, and in P3 the Rendun ports go down. -/
theorem exec_powerStateEntry_enters {n : Nat} {u v : State} (entry : s.cust.pwrEntry = some n) (stays : s.cust.pwrExit = false)
    (tested : ∀ r ∈ s.cust.tests, r.running = false) (remotes : s.remotes = []) (inbound : s.inboundWait = []) (accesses : s.accesses = [])
    (hu : u = { ((s.setBits (custReg 0x38) 3 2 n).setReg (frontReg 0x118) 0).setCust { s.cust with pwrEntry := none } with waking := [] })
    (hv : v = (upTo 12).foldl (fun u st => (upTo 32).foldl (fun v ch => v.settleRefresh st ch) u) u) :
    exec .powerStateEntry s = .next (if n = 3 then (upTo 8).foldl (fun u j => (u.portDrops 0 j).portDrops 1 j) v else v) := by
  subst hu hv
  change execPowerStateEntry s = _
  have untested : s.cust.tests.any (fun r => r.running) = false := List.any_eq_false.mpr fun r hr => Bool.eq_false_iff.mp (tested r hr)
  simp only [execPowerStateEntry, entry]
  refine congrArg Host.Outcome.next (if_neg ?_)
  simp [stays, untested, remotes, inbound, accesses]

end PowerState

/-! ## Module reset and power (R464, R491, R492, R496, R497) -/

section Reset

variable (s : State)

/-- A security state below 4 that is put into an empty CUST.SEC stands there alone. -/
theorem secBits_of_lt : ∀ st < 4, let w : Word := BitVec.ofNat 64 (putBits 0 1 0 st); bits w.toNat 1 0 = st ∧ bits w.toNat 3 2 = 0 := by
  decide

theorem State.security_lt (s : State) : s.security < 4 := Nat.mod_lt _ (by decide)

/-- The security state that a module reset leaves: debug authorisation ends. -/
def State.relocked (s : State) : Nat := if s.security = 2 then 1 else s.security

theorem State.relocked_lt (s : State) : s.relocked < 4 := by
  have lt := s.security_lt
  unfold State.relocked
  split <;> omega

/-- Of CUST.SEC a module reset leaves the security state alone. -/
theorem reg_sec_moduleReset : s.moduleReset.reg (custReg 0x18) = BitVec.ofNat 64 (putBits 0 1 0 s.relocked) := by
  rw [State.moduleReset, State.reg_setReg, if_neg (by decide), State.setBits, State.reg_setReg, if_pos rfl]
  rfl

theorem reg_nonce_moduleReset : s.moduleReset.reg (custReg 0x20) = Config.nonce (s.cust.nonces + 1) := by
  rw [State.moduleReset, State.reg_setReg, if_pos rfl]

theorem security_moduleReset : s.moduleReset.security = s.relocked := by
  rw [State.security, State.regBits, reg_sec_moduleReset]
  exact (secBits_of_lt _ s.relocked_lt).1

theorem debugLevel_moduleReset : s.moduleReset.debugLevel = 0 := by
  rw [State.debugLevel, State.regBits, reg_sec_moduleReset]
  exact (secBits_of_lt _ s.relocked_lt).2

theorem exec_powerOn_off {s : State} (off : s.power = .off) : exec .powerOn s = .next s.moduleReset := by
  change execPowerOn s = _
  rw [execPowerOn, if_neg (by simp [off])]

theorem exec_powerOn_on {s : State} (on : s.power = .on) : exec .powerOn s = .next s := by
  change execPowerOn s = _
  rw [execPowerOn, if_pos on]

theorem exec_memoryTrained (lp : Bool) : exec (.memoryTrained lp) s = .next
    (if s.running then s.setBits (modReg 0) (if lp then 1 else 0) (if lp then 1 else 0) 1 else s) := rfl

end Reset

/-! ## Host accesses (R483, R490) -/

section HostPort

variable {s : State} {r : HostAccess}

/-- In P0 with no entry waiting a host access is performed at once, whatever it names. -/
theorem exec_hostMemoryAccess_awake (awake : s.awake = true) (noEntry : s.cust.pwrEntry = none) :
    exec (.hostMemoryAccess r) s = .next (s.hostPerform r) := by
  change execHostMemoryAccess r s = _
  simp only [execHostMemoryAccess, awake, noEntry, Option.isSome_none, Bool.false_eq_true, if_true, if_false, ite_self]

theorem exec_hostMemoryAccess_asleep (asleep : s.awake = false) (later : s.hostNow r = false) :
    exec (.hostMemoryAccess r) s = .next (s.setCust { s.cust with hostWait := s.cust.hostWait ++ [r] }).wake := by
  change execHostMemoryAccess r s = _
  rw [execHostMemoryAccess, if_neg (Bool.eq_false_iff.mp later), if_neg (Bool.eq_false_iff.mp asleep)]

theorem hostPerform_refused (bad : 2 ^ 45 ≤ r.addr ∨ s.physOk r.addr r.size false = false ∨ s.trained r.addr = false) :
    s.hostPerform r = s.hostRefused r := by
  refine if_pos ?_
  simpa only [Bool.not_eq_true'] using bad

theorem hostRefused_read (read : r.write = none) : s.hostRefused r =
    (answered s "Completer Abort" []).logError { source := 13, severity := 1, loc := r.addr, detail := 0 } := by
  rw [State.hostRefused, read]
  rfl

theorem hostRefused_write (write : r.write ≠ none) :
    s.hostRefused r = s.logError { source := 13, severity := 1, loc := r.addr, detail := 0 } := by
  rw [State.hostRefused, if_neg (by simpa using write)]

/-- An access to memory that the host may reach is performed there. -/
theorem hostPerform_fine (low : r.addr < 2 ^ 45) (ok : s.physOk r.addr r.size false = true) (trained : s.trained r.addr = true) :
    s.hostPerform r = match r.write with
      | none => answered (s.load r.addr r.size false true true).2
          (if (s.load r.addr r.size false true true).1.poison then "read EP" else "read")
          ((s.load r.addr r.size false true true).1.data.map (fun b => b.toNat))
      | some bs => (s.store r.addr (padTo 0 r.size bs) r.ep true true).2 := by
  rw [State.hostPerform, if_neg (by simpa [ok, trained] using low)]
  rfl

end HostPort

/-! ## CXL ports (R475, R494, R495) -/

section Cxl

variable {s : State} {p : Nat}

section Off

variable (off : s.regBits (cxlReg p 0) 0 0 = 0)
include off

/-- Enabling a port trains its link and commits the decoder over what the device has, up to 2 TiB, or fails to train. -/
theorem exec_cxlPortEnable_off (hp : p < 4) (fine : Bool) (cap : Nat) : exec (.cxlPortEnable p fine cap) s = .next (
    let u := s.setBits (cxlReg p 0) 0 0 1
    if fine then ((u.setBits (cxlReg p 8) 1 0 1).setBits (cxlReg p 8) 29 16 (Nat.min cap (2 ^ 41) / 2 ^ 28))
    else (u.setBits (cxlReg p 8) 1 0 2).setBits (cxlReg p 8) 29 16 0) :=
  congrArg Host.Outcome.next (if_neg (by omega))

theorem exec_cxlPortDisable_off : exec (.cxlPortDisable p) s = .next s := congrArg Host.Outcome.next (if_pos (.inr off))

theorem exec_cxlLinkDown_off : exec (.cxlLinkDown p) s = .next s := congrArg Host.Outcome.next (if_pos (.inr (.inl off)))

end Off

section On

variable (on : s.regBits (cxlReg p 0) 0 0 = 1)
include on

theorem exec_cxlPortEnable_on (fine : Bool) (cap : Nat) : exec (.cxlPortEnable p fine cap) s = .next s :=
  congrArg Host.Outcome.next (if_pos (.inr on))

theorem exec_cxlPortDisable_on (hp : p < 4) : exec (.cxlPortDisable p) s = .next
    (((s.setBits (cxlReg p 0) 0 0 0).setBits (cxlReg p 8) 0 0 0).setBits (cxlReg p 8) 29 16 0) :=
  congrArg Host.Outcome.next (if_neg (by omega))

/-- A link that goes down is down for good, and a fatal record says so. -/
theorem exec_cxlLinkDown_up {u : State} (hp : p < 4) (up : s.regBits (cxlReg p 8) 0 0 = 1)
    (hu : u = (s.setBits (cxlReg p 8) 0 0 0).setBits (cxlReg p 8) 2 2 1) :
    exec (.cxlLinkDown p) s = .next ((u.setCust { u.cust with cxlDown := insertNat p u.cust.cxlDown }).logError
      { source := 4, severity := 2, loc := 0x100000000000 + p * 2 ^ 41, detail := BitVec.ofNat 64 p }) := by
  subst hu
  exact congrArg Host.Outcome.next (if_neg (by omega))

end On

section Ide

variable (hp : p < 4) (required : s.regBits (custReg 0x40) p p = 1)
include hp required

theorem exec_ideEnable_down (down : s.regBits (custReg 0x40) (4 + p) (4 + p) = 0) (fine : Bool) : exec (.ideEnable p fine) s = .next
    (if fine then s.setBits (custReg 0x40) (4 + p) (4 + p) 1 else s.setBits (custReg 0x40) (8 + p) (8 + p) 1) :=
  congrArg Host.Outcome.next (if_neg (by omega))

theorem exec_ideFailure_required : exec (.ideFailure p) s = .next
    ((s.setBits (custReg 0x40) (4 + p) (4 + p) 0).setBits (custReg 0x40) (8 + p) (8 + p) 1) :=
  congrArg Host.Outcome.next (if_neg (by omega))

end Ide

end Cxl

/-- Settles O58: one lemma for each instruction and case of gating, power states, resets, the clock, host accesses and the CXL ports. -/
theorem powerAndPorts : Obligations.PowerAndPorts := by
  unfold Obligations.PowerAndPorts
  refine ⟨?sector, ?clock, ?low, ?wake, ?entry, ?reset, ?hostAwake, ?hostAsleep, ?cxl⟩
  case sector =>
    exact fun s ps hps => ⟨exec_sectorGate_held hps, fun _ => exec_sectorGate_unheld hps, fun _ => exec_sectorWake_gated hps,
      exec_sectorWake_powered, fun _ => exec_sectorClockStart, fun _ => exec_sectorStateReset, fun _ => exec_sectorReady⟩
  case clock =>
    intro s e hot beyond mhz cap next u v w hhot hmhz hcap hbeyond falls else_ hu hv hw
    rw [exec_clockThrottleStep s e hhot hmhz hcap hbeyond (eq_throttled falls else_) hu hv hw]
    exact ⟨fun cool => by rw [if_neg (Nat.not_lt.mpr cool)], fun trips => by rw [if_pos trips]⟩
  case low =>
    intro s n i hi
    rw [exec_powerRequestLow hi]
    refine ⟨fun busy => by rw [requestLow_refused n busy], ?_⟩
    rintro ended empty _ rfl
    rw [requestLow_taken n ended empty]
  case wake => exact fun s => ⟨rfl, rfl, wake_of_awake, fun _ => wake_of_asleep⟩
  case entry =>
    intro s n u v entry
    refine ⟨exec_powerStateEntry_waits entry, fun stays tested remotes inbound accesses hu hv => ?_⟩
    rw [exec_powerStateEntry_enters entry stays tested remotes inbound accesses hu hv]
    exact ⟨fun p2 => by rw [p2]; rfl, fun p3 => by rw [if_pos p3]⟩
  case reset =>
    intro s
    refine ⟨⟨s.moduleReset, rfl, rfl, rfl, rfl, rfl, rfl, rfl, rfl, rfl, rfl, rfl, rfl, debugLevel_moduleReset s, security_moduleReset s,
      reg_nonce_moduleReset s, rfl, rfl, exec_powerOn_off⟩, exec_powerOn_on, fun running => ?_, fun stopped lp => ?_⟩
    · rw [exec_memoryTrained, exec_memoryTrained, if_pos running, if_pos running]
      exact ⟨rfl, rfl⟩
    · rw [exec_memoryTrained, if_neg (Bool.eq_false_iff.mp stopped)]
  case hostAwake =>
    intro s r awake noEntry
    rw [exec_hostMemoryAccess_awake awake noEntry]
    refine ⟨fun bad => ?_, fun low ok trained => ?_⟩
    · rw [hostPerform_refused bad]
      exact ⟨fun read => by rw [hostRefused_read read], fun write => by rw [hostRefused_write write]⟩
    · rw [hostPerform_fine low ok trained]
      exact ⟨fun g t read load => by rw [read, load], fun bs write => by rw [write]⟩
  case hostAsleep => exact fun s r => exec_hostMemoryAccess_asleep
  case cxl =>
    intro s p hp
    refine ⟨?_, fun on => ⟨exec_cxlPortEnable_on on, exec_cxlPortDisable_on on hp, fun _ => exec_cxlLinkDown_up on hp⟩,
      fun required => ⟨fun down => ⟨exec_ideEnable_down hp required down true, exec_ideEnable_down hp required down false⟩,
        exec_ideFailure_required hp required⟩⟩
    rintro _ cap off rfl
    exact ⟨exec_cxlPortEnable_off off hp true cap, exec_cxlPortEnable_off off hp false cap, exec_cxlPortDisable_off off,
      exec_cxlLinkDown_off off⟩

end Sys2Proof.Machine
end

section
/-! O59: the custodian's checks of an image, its answers over SPDM, the debug level and watchpoints, errors, self-tests and repairs. -/

namespace Sys2Proof.Machine

/-! ## The ROM's checks (R471, R472) -/

section Boot

variable {len minSvn : Nat} {img : Option (List Byte)} {bs : List Byte}

/-- The signature of an image of `len` bytes, over all of it but its last 512 bytes. -/
def imageVerifies (len : Nat) (bs : List Byte) : Bool :=
  Config.rsaVerify Config.firmwareModulus (Config.sha512 (bs.take (len - 512))) (bs.drop (len - 512))

/-- The length of an image may be as CUST.BOOTLEN gives it. -/
def LengthAllowed (len : Nat) : Prop := 1024 ≤ len ∧ len ≤ 16777216 ∧ len % 64 = 0

/-- The magic number of an image, and its own account of its length. -/
def HeaderMatches (len : Nat) (bs : List Byte) : Prop := leNat (bs.take 4) = 0x4B5A4131 ∧ leNat ((bs.drop 8).take 8) = len

theorem bootReason_badLength (bad : len < 1024 ∨ 16777216 < len ∨ len % 64 ≠ 0) : bootReason len minSvn img = 5 := if_pos bad

theorem bootReason_noImage (good : LengthAllowed len) : bootReason len minSvn none = 4 := by
  unfold LengthAllowed at good
  rw [bootReason, if_neg (by omega)]

theorem bootReason_otherLength (good : LengthAllowed len) (other : bs.length ≠ len) : bootReason len minSvn (some bs) = 4 := by
  unfold LengthAllowed at good
  rw [bootReason, if_neg (by omega)]
  exact if_pos other

section Fetched

variable (good : LengthAllowed len) (length : bs.length = len)
include good length

/-- An image that was fetched whole is checked for its header, then its signature, then its SVN. -/
theorem bootReason_fetched : bootReason len minSvn (some bs) =
    if leNat (bs.take 4) ≠ 0x4B5A4131 ∨ leNat ((bs.drop 8).take 8) ≠ len then 1
    else if !imageVerifies len bs then 2
    else if leNat ((bs.drop 16).take 4) < minSvn then 3 else 0 := by
  unfold LengthAllowed at good
  rw [bootReason, if_neg (by omega)]
  exact if_neg (not_not.mpr length)

theorem bootReason_badHeader (bad : leNat (bs.take 4) ≠ 0x4B5A4131 ∨ leNat ((bs.drop 8).take 8) ≠ len) :
    bootReason len minSvn (some bs) = 1 := by
  rw [bootReason_fetched good length, if_pos bad]

variable (header : HeaderMatches len bs)
include header

theorem bootReason_headed : bootReason len minSvn (some bs) =
    if !imageVerifies len bs then 2 else if leNat ((bs.drop 16).take 4) < minSvn then 3 else 0 := by
  obtain ⟨magic, own⟩ := header
  rw [bootReason_fetched good length, if_neg (by simp [magic, own])]

theorem bootReason_forged (forged : imageVerifies len bs = false) : bootReason len minSvn (some bs) = 2 := by
  rw [bootReason_headed good length header, forged]
  rfl

theorem bootReason_signed (signed : imageVerifies len bs = true) :
    bootReason len minSvn (some bs) = if leNat ((bs.drop 16).take 4) < minSvn then 3 else 0 := by
  rw [bootReason_headed good length header, signed]
  rfl

end Fetched

variable {s : State}

theorem exec_firmwareLoad_idle (idle : s.regBits (custReg 0) 2 1 ≠ 1) : exec (.firmwareLoad img) s = .next s :=
  congrArg Host.Outcome.next (if_pos idle)

variable (loads : s.regBits (custReg 0) 2 1 = 1)
include loads

/-- An image that fails a check stops the boot with the check's REASON. -/
theorem exec_firmwareLoad_fails {why : Nat} (reason : bootReason (s.regBits (custReg 0x10) 24 0) s.cust.minSvn img = why)
    (fails : why ≠ 0) : exec (.firmwareLoad img) s = .next (s.setReg (custReg 0) (BitVec.ofNat 64 (6 + why * 8))) := by
  subst reason
  change execFirmwareLoad img s = _
  rw [execFirmwareLoad, if_neg (not_not.mpr loads)]
  exact congrArg Host.Outcome.next (if_pos fails)

/-- An image that passes every check is kept, raises the minimum SVN and runs. -/
theorem exec_firmwareLoad_passes {svn : Nat} (passes : bootReason (s.regBits (custReg 0x10) 24 0) s.cust.minSvn (some bs) = 0)
    (hsvn : svn = leNat ((bs.drop 16).take 4)) (above : s.cust.minSvn ≤ svn) : exec (.firmwareLoad (some bs)) s = .next
      ((s.setCust { s.cust with image := bs, minSvn := svn }).reapply.setReg (custReg 0) (BitVec.ofNat 64 (4 + svn * 2 ^ 32))) := by
  subst hsvn
  change execFirmwareLoad (some bs) s = _
  rw [execFirmwareLoad, if_neg (not_not.mpr loads)]
  refine congrArg Host.Outcome.next ((if_neg (not_not.mpr passes)).trans ?_)
  rw [Option.getD_some, Nat.max_eq_max, Nat.max_eq_right above]

end Boot

/-! ## SPDM (R473, R474, R479) -/

theorem exec_spdmRequest (s : State) (req : List Byte) : ∀ r ∈ spdmRequests, exec (r.1 req) s = .next (s.spdmReply r.2 req []) := by
  simp only [spdmRequests, List.forall_mem_cons, List.not_mem_nil, false_imp_iff, implies_true, and_true]
  and_intros <;> rfl

/-- An answer carries its body, then the bytes that SPDM leaves free. -/
theorem spdmReply_eq (s : State) (what : String) (req body : List Byte) : s.spdmReply what req body =
    answered (heardSpdm s req) what (body.map (fun b => b.toNat) ++ (Config.spdmAnswer (s.cust.spdm ++ req)
      ((heardSpdm s req).measurements ++ Config.certificates s.cust.image)).map (fun b => b.toNat)) := by
  rw [← List.map_append]
  rfl

theorem exec_getCertificate (s : State) (req : List Byte) : exec (.getCertificate req) s = .next
    (if s.security = 3 then answered (heardSpdm s req) "ERROR" []
     else s.spdmReply "CERTIFICATE" req (Config.certificates s.cust.image)) := rfl

/-! ## The debug level and watchpoints (R477, R480) -/

theorem maxLevel_of_mem {st max : Nat} (h : (st, max) ∈ [(0, 0), (1, 1), (2, 2), (3, 2)]) : maxLevel st = max := by
  have table : ∀ e ∈ [(0, 0), (1, 1), (2, 2), (3, 2)], maxLevel e.1 = e.2 := by decide
  exact table _ h

theorem exec_debugLevelWrite (s : State) (lvl : BitVec 2) : exec (.debugLevelWrite lvl) s = .next
    (if maxLevel s.security < lvl.toNat then s.setBits (custReg 0x18) 5 5 1 else s.setBits (custReg 0x18) 3 2 lvl.toNat) := rfl

section Watchpoint

variable {s : State} {w : Nat} {v : Word} (hw : w < 16)
include hw

theorem exec_watchpointWrite_ignored (acts : v.getLsbD 1 = true) (low : s.debugLevel < 2) :
    exec (.watchpointWrite w v) s = .next (s.setBits (custReg 0x18) 5 5 1) := by
  change execWatchpointWrite w v s = _
  rw [execWatchpointWrite, if_neg (Nat.not_le.mpr hw), if_pos ⟨acts, low⟩]
  rfl

theorem exec_watchpointWrite_taken (may : v.getLsbD 1 = false ∨ 2 ≤ s.debugLevel) : exec (.watchpointWrite w v) s = .next
    (s.setReg (custReg (0x100 + 32 * w)) (BitVec.ofNat 64 (if s.debugLevel < 1
      then putBits (v.toNat % 2 ^ 37) 0 0 (s.regBits (custReg (0x100 + 32 * w)) 0 0) else v.toNat % 2 ^ 37))) := by
  change execWatchpointWrite w v s = _
  have taken : ¬(v.getLsbD 1 = true ∧ s.debugLevel < 2) := by
    rintro ⟨acts, low⟩
    exact may.elim (fun quiet => Bool.false_ne_true (quiet.symm.trans acts)) (Nat.not_le.mpr low)
  rw [execWatchpointWrite, if_neg (Nat.not_le.mpr hw), if_neg taken, apply_ite (BitVec.ofNat 64), apply_ite (s.setReg _)]

end Watchpoint

/-! ## Errors (R361, R362, R484) -/

section Detect

variable {s : State} {e : ErrInfo}

theorem exec_errorDetect_seen {t : State} (other : e.source ≠ 1) (seen : s.seen e = some t) :
    exec (.errorDetect e) s = .next (t.logError e) := by
  change execErrorDetect e s = _
  rw [execErrorDetect, if_neg other, seen]

theorem exec_errorDetect_unseen (other : e.source ≠ 1) (unseen : s.seen e = none) : exec (.errorDetect e) s = .next s := by
  change execErrorDetect e s = _
  rw [execErrorDetect, if_neg other, unseen]

/-- A read of one byte meets the errors of its line alone. -/
theorem meet_one (t : State) (pa : Nat) : t.meet pa 1 = if (t.noUpsets || t.dead pa) = true then t else t.meetLine (pa / 64) := by
  rw [State.meet]
  simp [upTo]

/-- An error of a stack's line is decided when the line is read. -/
theorem exec_errorDetect_line {t : State} (source : e.source = 1) (ht : t = s.addUpset (e.loc / 64) e.upset) :
    exec (.errorDetect e) s = .next (if (t.noUpsets || t.dead e.loc) = true then t else t.meetLine (e.loc / 64)) := by
  subst ht
  change execErrorDetect e s = _
  rw [execErrorDetect, if_pos source, meet_one]

/-- An error of a frame's line: corrected, it leaves nothing; uncorrectable, the line is poisoned; no unit sees a fatal one. -/
theorem seen_frame {ci line : Nat} (source : e.source = 5) (place : placeOf e.loc = .frame ci line) : s.seen e =
    if 2 ≤ e.severity then none else some (if e.severity = 1 then s.setLinePoison ci line true else s) := by
  simp [State.seen, source, place]

/-- Both copies of a remap table's entry fail: its pseudo-channel is fenced. -/
theorem seen_remapTable_fatal {st off : Nat} (source : e.source = 11) (fatal : e.severity = 2) (place : placeOf e.loc = .hbm st off) :
    s.seen e = some ((s.setBits (stackReg st 8) (bits off 13 8) (bits off 13 8) 1).setBits (stackReg st 0) 5 5 1) := by
  simp [State.seen, source, fatal, place]

end Detect

section Line

variable {s : State} {line st off : Nat} {x : List Nat} (place : placeOf (64 * line) = .hbm st off) (upset : s.upsetOf line = some x)

/-- A line written back with what its code gave (R362). -/
def State.rewriteLine (s : State) (line : Nat) (d : List Nat) : State := (s.dropUpset line).putBytes (64 * line) (d.map (BitVec.ofNat 8))

include place upset

/-- The read of a stack's line with errors does what its code decides. -/
theorem meetLine_of_upset : s.meetLine line = match rsRead (s.readSymbols line x) with
    | .clean d => (s.rewriteLine line d).clearPoison (64 * line) 64
    | .poisoned d => (s.rewriteLine line d).markPoison (64 * line) 64
    | .corrected d bad => (((s.rewriteLine line d).clearPoison (64 * line) 64).stackError st off (tsvGroup bad) false).logError
        { source := 1, severity := 0, loc := 64 * line, detail := BitVec.ofNat 64 (tsvGroup bad) }
    | .uncorrectable d => (((s.rewriteLine line d).markPoison (64 * line) 64).stackError st off 31 true).logError
        { source := 1, severity := 1, loc := 64 * line, detail := 31 } := by
  simp only [State.meetLine, place, upset]
  rfl

end Line

/-! ## Self-tests (R485) -/

section Test

variable {s : State} {r : TestRec}

theorem nextTest_of_room (awake : s.awake = true) (room : (s.cust.tests.filter (fun q => q.running)).length < 8) :
    s.nextTest = s.cust.tests.find? (fun q => !q.running && s.testFree q) := if_pos ⟨awake, room⟩

theorem nextTest_of_full (full : 8 ≤ (s.cust.tests.filter (fun q => q.running)).length) : s.nextTest = none :=
  if_neg fun h => Nat.not_lt.mpr full h.2

theorem exec_selfTestStart_next (next : s.nextTest = some r) : exec (.selfTestStart r.id) s = .next (s.setCust { s.cust with
    tests := s.cust.tests.map (fun q => if q.id = r.id then { q with running := true } else q) }) := by
  change execSelfTestStart r.id s = _
  simp only [execSelfTestStart, next, if_true]

theorem exec_selfTestStart_none {n : Nat} (noNext : s.nextTest = none) : exec (.selfTestStart n) s = .next s := by
  change execSelfTestStart n s = _
  simp only [execSelfTestStart, noNext]

/-- The end of a running test: a transient fault only rewrites its record, a lasting one is repaired. -/
theorem exec_selfTestComplete {u : State} (found : s.cust.tests.find? (fun q => q.id == r.id && q.running) = some r)
    (hu : u = s.setCust { s.cust with tests := s.cust.tests.filter (fun q => q.id != r.id) }) (lasting : Bool) :
    exec (.selfTestComplete r.id lasting) s = .next
      (if lasting then (u.repair r).2.rewriteError r 3 (u.repair r).1 else u.rewriteError r 2 0) := by
  subst hu
  change execSelfTestComplete r.id lasting s = _
  simp only [execSelfTestComplete, found]
  rfl

end Test

/-! ## Repairs (R486, R487) -/

section Repairs

variable {s : State} {r : TestRec}

theorem repair_frame {ci line : Nat} (source : r.err.source = 5) (place : placeOf r.err.loc = .frame ci line) : s.repair r =
    if s.cellOccupied ci then
      (6, (s.setLinePoison ci line true).setCust { s.cust with deferred := s.cust.deferred ++ [(ci, line, r)] })
    else (2, s.retireLine ci line) := by
  simp only [State.repair, source, place]
  rfl

theorem repair_row {st off n : Nat} (source : r.err.source = 1) (place : placeOf r.err.loc = .hbm st off) (hn : n = s.remapsOf st)
    (room : n < 2048) : s.repair r =
      (1, (s.keepRepair (.remap st (bits off 13 8) (off / 65536) n)).setBits (stackReg st 0x28) 11 0 (n + 1)) := by
  subst hn
  simp only [State.repair, source, place]
  exact if_pos room

theorem repair_scratch {ps off : Nat} (source : r.err.source = 6) (place : placeOf r.err.loc = .scratch ps off)
    (room : s.linesSpared (lineBank r.err.loc) < 16) : s.repair r = (4, s.keepRepair (.spareLine (r.err.loc / 64 * 64))) := by
  simp only [State.repair, source, place]
  exact if_pos room

theorem repair_leaf {ps p off : Nat} (source : r.err.source = 7) (place : placeOf r.err.loc = .acc ps p off)
    (room : s.leavesSpared (5 * ps + p) < 64) :
    s.repair r = (4, s.keepRepair (.multiplier (5 * ps + p) r.err.detail.toNat)) := by
  simp only [State.repair, source, place]
  exact if_pos room

/-- A deferred retirement waits until no live context has the cell's sector. -/
theorem exec_frameLineRetire {ci line : Nat} {d : Nat × Nat × TestRec} {u : State}
    (found : s.cust.deferred.find? (fun d => d.1 == ci && d.2.1 == line) = some d)
    (hu : u = s.setCust { s.cust with deferred := s.cust.deferred.filter (fun x => !(x.1 == ci && x.2.1 == line)) }) :
    exec (.frameLineRetire ci line) s = .next
      (if s.cellOccupied ci then s else (u.retireLine ci line).rewriteError d.2.2 3 2) := by
  subst hu
  change execFrameLineRetire ci line s = _
  simp only [execFrameLineRetire, found]
  rfl

end Repairs

/-- Settles O59: one lemma for each instruction and case of the custodian's checks, answers, errors, tests and repairs. -/
theorem custodianErrorsAndAttestation : Obligations.CustodianErrorsAndAttestation := by
  unfold Obligations.CustodianErrorsAndAttestation
  refine ⟨fun s idle img => exec_firmwareLoad_idle idle, ?boot, ?spdm, ?answers, ?level, ?watch, ?detect, ?line, ?tests, ?store, ?retire,
    ?list⟩
  case boot =>
    rintro s img _ why loads rfl
    refine ⟨fun fails => ?_, ?_⟩
    · have reason : bootReason (s.regBits (custReg 0x10) 24 0) s.cust.minSvn img = why ∧ why ≠ 0 := by
        obtain ⟨bad, rfl⟩ | ⟨low, high, whole, checks⟩ := fails
        · exact ⟨bootReason_badLength bad, by decide⟩
        have good : LengthAllowed (s.regBits (custReg 0x10) 24 0) := ⟨low, high, whole⟩
        obtain ⟨rfl, rfl⟩ | ⟨bs, rfl, ⟨other, rfl⟩ | ⟨length, ⟨bad, rfl⟩ | ⟨magic, own, signature⟩⟩⟩ := checks
        · exact ⟨bootReason_noImage good, by decide⟩
        · exact ⟨bootReason_otherLength good other, by decide⟩
        · exact ⟨bootReason_badHeader good length bad, by decide⟩
        obtain ⟨forged, rfl⟩ | ⟨signed, below, rfl⟩ := signature
        · exact ⟨bootReason_forged good length ⟨magic, own⟩ forged, by decide⟩
        · exact ⟨(bootReason_signed good length ⟨magic, own⟩ signed).trans (if_pos below), by decide⟩
      exact exec_firmwareLoad_fails loads reason.1 reason.2
    · rintro bs svn rfl rfl low high whole length magic own signed above
      have passes := (bootReason_signed ⟨low, high, whole⟩ length ⟨magic, own⟩ signed).trans (if_neg (Nat.not_lt.mpr above))
      exact exec_firmwareLoad_passes loads passes rfl above
  case spdm =>
    intro s req r hr
    rw [exec_spdmRequest s req r hr, spdmReply_eq]
    rfl
  case answers =>
    rintro s req _ rfl
    refine ⟨fun fa => ?_, fun other => ?_, ⟨_, congrArg Host.Outcome.next (spdmReply_eq ..)⟩, rfl⟩
    · rw [exec_getCertificate, if_pos fa]
    · rw [exec_getCertificate, if_neg other, spdmReply_eq]
      exact ⟨_, rfl⟩
  case level =>
    rintro s lvl _ max rfl permitted
    rw [exec_debugLevelWrite, State.security, maxLevel_of_mem permitted]
    exact ⟨fun above => by rw [if_pos above], fun within => by rw [if_neg (Nat.not_lt.mpr within)]⟩
  case watch =>
    refine fun s w v hw => ⟨exec_watchpointWrite_ignored hw, fun may debug => ?_, fun quiet level0 => ?_⟩
    · rw [exec_watchpointWrite_taken hw may, if_neg (Nat.not_lt.mpr debug)]
    · rw [exec_watchpointWrite_taken hw (.inl quiet), if_pos (by omega)]
  case detect =>
    refine fun s e => ⟨fun t => exec_errorDetect_seen, exec_errorDetect_unseen, fun t source ht => ?_, fun ci line source place => ?_, ?_⟩
    · rw [exec_errorDetect_line source ht]
      exact ⟨fun unread => by rw [if_pos unread], fun read => by rw [if_neg (Bool.eq_false_iff.mp read)]⟩
    · rw [seen_frame source place]
      exact ⟨fun sev => by rw [sev]; rfl, fun sev => by rw [sev]; rfl, fun sev => by rw [sev]; rfl⟩
    · rintro st off _ source fatal place rfl
      exact seen_remapTable_fatal source fatal place
  case line =>
    rintro s line st off x place upset d _ rfl
    rw [meetLine_of_upset place upset]
    exact ⟨fun h => by rw [h]; rfl, fun h => by rw [h]; rfl, fun bad h => by rw [h]; rfl, fun h => by rw [h]; rfl⟩
  case tests =>
    refine fun s r => ⟨fun awake room next => exec_selfTestStart_next ((nextTest_of_room awake room).trans next),
      fun full => exec_selfTestStart_none (nextTest_of_full full), fun u found hu => ⟨exec_selfTestComplete found hu false, ?_⟩,
      fun ci line source place => ?_, fun st off n => repair_row, fun ps off => repair_scratch, fun ps p off => repair_leaf⟩
    · intro a t repaired
      rw [exec_selfTestComplete found hu true, repaired]
      rfl
    · rw [repair_frame source place]
      exact ⟨fun occupied => by rw [if_pos occupied], fun free => by rw [if_neg (Bool.eq_false_iff.mp free)]; rfl⟩
  case store => exact fun s x => ⟨fun room => if_pos room, fun full => if_neg (Nat.not_lt.mpr full)⟩
  case retire =>
    intro s ci line d u found
    refine ⟨fun occupied => ?_, fun free hu => ?_⟩
    · rw [exec_frameLineRetire found rfl, if_pos occupied]
    · rw [exec_frameLineRetire found hu, if_neg (Bool.eq_false_iff.mp free)]
      rfl
  case list =>
    rintro s _ _ rfl rfl
    rfl

end Sys2Proof.Machine
end

section
/-! O53: the page engine's commands: each refuses bad operands, then acts in the ASID it was taken with. -/

namespace Sys2Proof.Machine

/-! ## Page commands whose message passes (R103, R394, R501) -/

theorem takenAsid_of_idle {s : State} {m : Token} (idle : s.busyOf m = none) : s.takenAsid m = s.asid? m.ctx := by
  simp only [State.takenAsid, idle]

theorem inAsid_of_taken {s : State} {m : Token} {a : Nat} (taken : s.takenAsid m = some a) (f : Nat → State) : s.inAsid m f = f a := by
  simp only [State.inAsid, taken]

theorem inAsid_of_none {s : State} {m : Token} (dead : s.takenAsid m = none) (f : Nat → State) :
    s.inAsid m f = s.finish m 5 0 [] := by
  simp only [State.inAsid, dead, sXLAT]

theorem resumed_of_idle {s : State} {m : Token} (idle : s.busyOf m = none) : s.resumed m = some ([], []) := by
  simp only [State.resumed, idle]

theorem pageCmd_heads {s : State} {m : Token} {die lanes flags : Nat} (h : Heads s m (.page die) true lanes flags)
    (f : Nat → State → State) : s.pageCmd m lanes flags f = f die s := by
  simp only [State.pageCmd, h.1, Laws.command_heads h]

/-- A command that has not begun: operands out of their limits complete BADARG, then a context without an ASID completes XLAT. -/
theorem refuses_of_guard {s : State} {m : Token} {bad : Prop} [Decidable bad] {good : Bool} (limits : bad ↔ good = false)
    (idle : s.busyOf m = none) (f : Nat → State) :
    (good = false → ok (if bad then s.finish m sBADARG 0 [] else s.inAsid m f) = .next (s.finish m 3 0 []))
      ∧ (good = true → s.asid? m.ctx = none →
        ok (if bad then s.finish m sBADARG 0 [] else s.inAsid m f) = .next (s.finish m 5 0 [])) := by
  refine ⟨fun out => by rw [if_pos (limits.2 out), sBADARG], fun within dead => ?_⟩
  rw [if_neg (by simp [limits, within]), inAsid_of_none ((takenAsid_of_idle idle).trans dead)]

/-- `invalOk` is the negation of what `pg.inval` refuses (R402). -/
theorem invalOk_iff {m : Token} : invalOk m = true ↔ ¬((bitOf (lane0 m) 9 = true ∧ (!bitOf (lane0 m) 8) = true)
    ∨ (bitOf (lane0 m) 8 = true ∧ (qOp m 1 ≠ 0 ∨ qOp m 2 ≠ 0)) ∨ (!vaOk (qOp m 1)) = true ∨ 65536 ≤ qOp m 2) := by
  simp [invalOk]; grind

/-- Every command of `pageRows` that has not begun refuses bad operands, then a context without an ASID. -/
theorem pageRows_refuse {s : State} {m : Token} {die : Nat} (idle : s.busyOf m = none) (fresh : moveWaits s m = false) :
    ∀ r ∈ pageRows, Heads s m (.page die) true r.2.1 r.2.2.1 →
      (r.2.2.2 m = false → exec (r.1 m) s = .next (s.finish m 3 0 []))
        ∧ (r.2.2.2 m = true → s.asid? m.ctx = none → exec (r.1 m) s = .next (s.finish m 5 0 [])) := by
  simp only [pageRows, List.forall_mem_cons, List.not_mem_nil, false_imp_iff, implies_true, and_true]
  refine ⟨fun h => ?move, fun h => ?abort, fun h => ?pin, fun h => ?unpin, fun h => ?hot, fun h => ?viewOpen, fun h => ?viewClose,
    fun h => ?inval, fun h => ?probe⟩
  case move =>
    change (_ → execPgMove m s = _) ∧ (_ → _ → execPgMove m s = _)
    unfold moveWaits at fresh
    simp only [execPgMove, pageCmd_heads h, fresh, Bool.false_eq_true, if_false]
    exact refuses_of_guard (by simp [imp_iff_not_or]) idle _
  case abort =>
    change (_ → execPgAbort m s = _) ∧ (_ → _ → execPgAbort m s = _)
    simp only [execPgAbort, pageCmd_heads h, idle]
    exact refuses_of_guard (by simp) idle _
  case pin =>
    change (_ → execPgPin m s = _) ∧ (_ → _ → execPgPin m s = _)
    simp only [execPgPin, pageCmd_heads h, resumed_of_idle idle]
    exact refuses_of_guard (by simp [imp_iff_not_or]) idle _
  case unpin =>
    change (_ → execPgUnpin m s = _) ∧ (_ → _ → execPgUnpin m s = _)
    simp only [execPgUnpin, pageCmd_heads h]
    exact refuses_of_guard (by simp [imp_iff_not_or]) idle _
  case hot =>
    change (_ → execPgHot m s = _) ∧ (_ → _ → execPgHot m s = _)
    simp only [execPgHot, pageCmd_heads h]
    exact refuses_of_guard (by simp [imp_iff_not_or]) idle _
  case viewOpen =>
    refine ⟨nofun, fun _ dead => ?_⟩
    change execPgViewOpen m s = _
    rw [execPgViewOpen, pageCmd_heads h, inAsid_of_none ((takenAsid_of_idle idle).trans dead)]
  case viewClose =>
    refine ⟨nofun, fun _ dead => ?_⟩
    change execPgViewClose m s = _
    rw [execPgViewClose, pageCmd_heads h, inAsid_of_none ((takenAsid_of_idle idle).trans dead)]
  case inval =>
    change (_ → execPgInval m s = _) ∧ (_ → _ → execPgInval m s = _)
    simp only [execPgInval, pageCmd_heads h, idle]
    exact refuses_of_guard (by rw [← Bool.not_eq_true, invalOk_iff, not_not]; exact and_iff_right rfl) idle _
  case probe =>
    change (_ → execPgProbe m s = _) ∧ (_ → _ → execPgProbe m s = _)
    simp only [execPgProbe, pageCmd_heads h]
    exact refuses_of_guard (by simp) idle _

/-! ## Moves and probes (R397, R398, R403) -/

/-- What the walk for a move finds in a leaf (R397): nothing to move, or the leaf. -/
theorem moveCheck_of_leaf {s t : State} {die a va : Nat} {l : Leaf} (found : s.findLeaf die a va = (.ok l, t)) (tier toDie : Nat) :
    s.moveCheck die a va tier toDie = (if l.lvl ≠ 4 ∨ l.st ≠ 0 then .error (3, [BitVec.ofNat 32 l.st])
      else if tierOf l.frame = 3 then .error (3, [BitVec.ofNat 32 (l.st + 2 ^ 31)])
      else if movePlaced l.frame tier toDie then .error (0, []) else .ok l, t) := by
  simp only [State.moveCheck, found, sBADARG, sOK]
  split_ifs <;> rfl

/-- One page of a pin (R399). -/
theorem pinPages_succ {s t : State} {m : Token} {die a n f : Nat} {held : List Nat} {l : Leaf}
    (inside : qOp m 1 + 65536 * held.length < 2 ^ 56) (found : s.findLeaf die a (qOp m 1 + 65536 * held.length) = (.ok l, t))
    (hf : f = t.holdFrame l.frame) : State.pinPages m die a (n + 1) held s =
      if t.holdCount f = 255 then t.waitHold m f [] held else State.pinPages m die a n (held ++ [f]) (t.addHold f) := by
  subst hf
  simp only [State.pinPages, State.pageLeaf, if_pos inside, found]

/-- One page of an unpin (R399). -/
theorem unpinPages_succ {s t : State} {m : Token} {die a n k f : Nat} {l : Leaf}
    (inside : qOp m 1 + 65536 * k < 2 ^ 56) (found : s.findLeaf die a (qOp m 1 + 65536 * k) = (.ok l, t))
    (hf : f = t.holdFrame l.frame) : State.unpinPages m die a (n + 1) k s =
      if t.holdCount f = 0 then t.finish m 3 0 [BitVec.ofNat 32 k] else State.unpinPages m die a n (k + 1) (t.dropHold f) := by
  subst hf
  simp only [State.unpinPages, State.pageLeaf, if_pos inside, found, sBADARG]

section Command

variable {s t : State} {m : Token} {die a : Nat} (taken : s.takenAsid m = some a)
include taken

section Move

variable (va : vaOk (qOp m 1) = true) (h : Heads s m (.page die) true 4 0xF00) (fresh : moveWaits s m = false)
  (tier : bits (lane0 m) 9 8 ≠ 3)
include va h fresh tier

/-- A move whose walk finds nothing to move ends at once. -/
theorem exec_pgMove_ends {st : Nat} {lanes : List Lane}
    (check : s.moveCheck die a (qOp m 1) (bits (lane0 m) 9 8) (bits (lane0 m) 11 10) = (.error (st, lanes), t)) :
    exec (.pgMove m) s = .next (t.finish m st 0 lanes) := by
  change execPgMove m s = _
  unfold moveWaits at fresh
  simp only [execPgMove, pageCmd_heads h, fresh, tier, va, inAsid_of_taken taken, check, Bool.not_true, Bool.false_eq_true, or_self,
    if_false]

theorem exec_pgMove_starts {l : Leaf}
    (check : s.moveCheck die a (qOp m 1) (bits (lane0 m) 9 8) (bits (lane0 m) 11 10) = (.ok l, t)) :
    exec (.pgMove m) s = .next (t.newMove (waitingMove t m die a l)) := by
  change execPgMove m s = _
  unfold moveWaits at fresh
  simp only [execPgMove, pageCmd_heads h, fresh, tier, va, inAsid_of_taken taken, check, Bool.not_true, Bool.false_eq_true, or_self,
    if_false]
  rfl

end Move

section Page

variable (va : vaOk (qOp m 1) = true) (h : Heads s m (.page die) true 4 0)
include va h

theorem exec_pgProbe {l : Leaf} (found : s.findLeaf die a (qOp m 1) = (.ok l, t)) {mv : Option Move} {n : Nat} {isSealed : Bool} :
    mv = (if l.st = 1 then t.moves.find? (fun v => v.src == l.frame && v.phase != .waiting) else none) →
    n = (match mv with | some v => v.copied | none => 0) →
    isSealed = (match mv with | some v => v.phase == .sealed || v.phase == .shooting | none => false) →
    exec (.pgProbe m) s = .next (t.finish m 0 0 [BitVec.ofNat 32 l.entry, BitVec.ofNat 32 (l.entry / 2 ^ 32), BitVec.ofNat 32 l.ext,
      BitVec.ofNat 32 (l.ext / 2 ^ 32), BitVec.ofNat 32 (t.side0 l.frame), BitVec.ofNat 32 (t.side0 l.frame / 2 ^ 32),
      BitVec.ofNat 32 (n + l.lvl * 512 + (if isSealed then 4096 else 0))]) := by
  rintro rfl rfl rfl
  change execPgProbe m s = _
  simp only [execPgProbe, pageCmd_heads h, inAsid_of_taken taken, found, sOK]
  exact congrArg ok (if_neg (by simp [va]))

/-- A copying move of the page aborts, and the command waits for its end. -/
theorem exec_pgAbort_begins (idle : s.busyOf m = none) {v : Move}
    (copying : s.moves.find? (fun v => v.asid == a && v.va == qOp m 1 && v.phase == .copying) = some v) :
    exec (.pgAbort m) s = .next ((s.startAbort v 6).waitBusy m 1 [v.id, v.copied] []) := by
  change execPgAbort m s = _
  simp only [execPgAbort, pageCmd_heads h, idle, va, inAsid_of_taken taken, copying, Bool.not_true, Bool.false_eq_true, if_false]

theorem exec_pgAbort_nothing (idle : s.busyOf m = none) {l : Leaf}
    (still : s.moves.find? (fun v => v.asid == a && v.va == qOp m 1 && v.phase == .copying) = none)
    (found : s.findLeaf die a (qOp m 1) = (.ok l, t)) :
    exec (.pgAbort m) s = .next (t.finish m 3 0 [BitVec.ofNat 32 l.st]) := by
  change execPgAbort m s = _
  simp only [execPgAbort, pageCmd_heads h, idle, va, inAsid_of_taken taken, still, found, Bool.not_true, Bool.false_eq_true, if_false,
    sBADARG]

omit taken va in
/-- The command completes once its move has gone. -/
theorem exec_pgAbort_ends {b : Busy} (busy : s.busyOf m = some b) (gone : ∀ v ∈ s.moves, v.id ≠ nth 0 b.nums 0) :
    exec (.pgAbort m) s = .next (s.finish m 0 0 [BitVec.ofNat 32 (nth 0 b.nums 1)]) := by
  have absent : s.moves.any (fun v => v.id == nth 0 b.nums 0) = false := by simpa using gone
  change execPgAbort m s = _
  simp only [execPgAbort, pageCmd_heads h, busy, absent, Bool.false_eq_true, if_false, sOK]

end Page

/-! ## Pins and hotness (R377, R399, R400) -/

section Pins

variable (va : vaOk (qOp m 1) = true)
include va

theorem exec_pgPin (h : Heads s m (.page die) true 6 0) (pages : qOp m 2 < 65536) {nums held : List Nat}
    (resumed : s.resumed m = some (nums, held)) :
    exec (.pgPin m) s = .next (State.pinPages m die a (qOp m 2 + 1 - held.length) held s) := by
  change execPgPin m s = _
  simp only [execPgPin, pageCmd_heads h, va, not_le.mpr pages, resumed, inAsid_of_taken taken, Bool.not_true, Bool.false_eq_true,
    or_self, if_false]

theorem exec_pgUnpin (h : Heads s m (.page die) true 6 0) (pages : qOp m 2 < 65536) :
    exec (.pgUnpin m) s = .next (State.unpinPages m die a (qOp m 2 + 1) 0 s) := by
  change execPgUnpin m s = _
  simp only [execPgUnpin, pageCmd_heads h, va, not_le.mpr pages, inAsid_of_taken taken, Bool.not_true, Bool.false_eq_true, or_self,
    if_false]

theorem exec_pgHot (h : Heads s m (.page die) true 6 0x100) (pages : qOp m 2 < 32) {good hots : Nat}
    (read : State.hotPages m die a (bitOf (lane0 m) 8) (qOp m 2 + 1) 0 0 0 s = (good, hots, t)) :
    exec (.pgHot m) s = .next (t.finish m 0 0
      (BitVec.ofNat 32 good :: (upTo 8).map (fun i => BitVec.ofNat 32 (hots / 2 ^ (32 * i))))) := by
  change execPgHot m s = _
  simp only [execPgHot, pageCmd_heads h, va, not_le.mpr pages, inAsid_of_taken taken, read, Bool.not_true, Bool.false_eq_true, or_self,
    if_false, sOK]

end Pins

/-! ## Views (R388, R392, R401) -/

section Views

variable (h : Heads s m (.page die) true 2 0)
include h

section Open

variable (fresh : ∀ b, s.busyOf m = some b → b.phase ≠ 1)
include fresh

/-- An opening whose shootdown has not begun: a context with a view is refused, then one that finds no index or no stamp, then one that
must wait for the ASID's moves and fills. -/
theorem exec_pgViewOpen_begins : exec (.pgViewOpen m) s = .next (
    if (s.viewOf die a m.ctx).isSome then s.finish m 3 0 []
    else match (upTo 4).find? (fun v => (s.viewStamp? die a v).isNone) with
      | none => s.finish m 9 0 []
      | some v =>
        if bits (s.desc die a 0x20) 31 0 = 0xFFFFFFFF then s.finish m 9 0 []
        else if s.pagesBusy a then s.waitBusy m 0 [] []
        else ((viewEntered s m die a v (bits (s.desc die a 0x20) 31 0)).shootdown die (.all a)).2.waitBusy m 1
          [((viewEntered s m die a v (bits (s.desc die a 0x20) 31 0)).shootdown die (.all a)).1, v, bits (s.desc die a 0x20) 31 0] []) := by
  have notShot : (s.busyOf m).bind (fun b => if b.phase = 1 then some b else none) = none := by
    simpa [Option.bind_eq_none_iff] using fresh
  change execPgViewOpen m s = _
  rw [execPgViewOpen, pageCmd_heads h, inAsid_of_taken taken, notShot]
  rfl

end Open

/-- An opened view completes once its shootdown is over. -/
theorem exec_pgViewOpen_ends {b : Busy} (busy : s.busyOf m = some b) (shot : b.phase = 1) (ended : s.shooting (nth 0 b.nums 0) = false) :
    exec (.pgViewOpen m) s = .next (s.finish m 0 (nth 0 b.nums 1) [BitVec.ofNat 32 (nth 0 b.nums 2)]) := by
  change execPgViewOpen m s = _
  rw [execPgViewOpen, pageCmd_heads h, inAsid_of_taken taken]
  simp [busy, shot, ended, sOK]

theorem exec_pgViewClose_begins (idle : s.busyOf m = none) {v n : Nat} (view : s.viewOf die a m.ctx = some v)
    (shoot : s.shootdown die (.stamp a ((s.viewStamp? die a v).getD 0)) = (n, t)) :
    exec (.pgViewClose m) s = .next (t.waitBusy m 1 [n, v] []) := by
  change execPgViewClose m s = _
  simp only [execPgViewClose, pageCmd_heads h, inAsid_of_taken taken, idle, view, shoot]

theorem exec_pgViewClose_none (idle : s.busyOf m = none) (noView : s.viewOf die a m.ctx = none) :
    exec (.pgViewClose m) s = .next (s.finish m 3 0 []) := by
  change execPgViewClose m s = _
  simp only [execPgViewClose, pageCmd_heads h, inAsid_of_taken taken, idle, noView, sBADARG]

/-- After the shootdown of its stamp the view is cleared and the old copies are swept. -/
theorem exec_pgViewClose_ends {b : Busy} {k : Nat} (busy : s.busyOf m = some b) (ended : s.shooting (nth 0 b.nums 0) = false)
    (sweep : (s.clearView die a (nth 0 b.nums 1)).sweepViews die a = (k, t)) :
    exec (.pgViewClose m) s = .next (t.finish m 0 0 [BitVec.ofNat 32 k]) := by
  change execPgViewClose m s = _
  simp only [execPgViewClose, pageCmd_heads h, inAsid_of_taken taken, busy, ended, sweep, Bool.false_eq_true, if_false, sOK]

end Views

/-! ## Invalidation (R402) -/

section Invalidation

variable (h : Heads s m (.page die) true 6 0x300)
include h

section First

variable (idle : s.busyOf m = none) (good : invalOk m = true)
include idle good

/-- TEAR first ends the moves of the ASID; without it the shootdown begins. -/
theorem exec_pgInval_begins : exec (.pgInval m) s = .next (if bitOf (lane0 m) 9 then (s.tearMoves a).waitBusy m 1 [] []
    else (s.shootdown die (invalSet m a)).2.waitBusy m 3 [(s.shootdown die (invalSet m a)).1] []) := by
  have inForm := invalOk_iff.1 good
  change execPgInval m s = _
  rw [execPgInval, pageCmd_heads h, if_neg (not_and_of_not_right _ inForm), inAsid_of_taken taken, idle]
  rfl

end First

section Later

variable {b : Busy} (busy : s.busyOf m = some b) (ended : b.nums.any s.shooting = false)
include busy ended

theorem exec_pgInval_ends (phase : b.phase = 3) : exec (.pgInval m) s = .next (s.finish m 0 0 []) := by
  change execPgInval m s = _
  simp only [execPgInval, pageCmd_heads h, inAsid_of_taken taken, busy, phase, ended, Option.isNone_some, Bool.false_eq_true, false_and,
    if_false, if_true, sOK]

variable (still : s.pagesBusy a = false)
include still

/-- With the ASID's moves and fills over, TEAR shoots down the stamp of each open view. -/
theorem exec_pgInval_closes (phase : b.phase = 1) {ns : List Nat}
    (shoot : (s.openStamps die a).foldl (fun (r : List Nat × State) x =>
      (r.1 ++ [(r.2.shootdown die (.stamp a x)).1], (r.2.shootdown die (.stamp a x)).2)) ([], s) = (ns, t)) :
    exec (.pgInval m) s = .next (t.waitBusy m 2 ns []) := by
  change execPgInval m s = _
  simp only [execPgInval, pageCmd_heads h, inAsid_of_taken taken, busy, phase, ended, still, shoot, Option.isNone_some,
    Bool.false_eq_true, false_and, or_self, if_false, if_true, OfNat.one_ne_ofNat]

/-- With their stamps shot down, TEAR clears the views, frees the descriptors and shoots the pages down. -/
theorem exec_pgInval_frees (phase : b.phase = 2) {n : Nat} {u : State}
    (cleared : t = (((upTo 4).foldl (fun u v => if (u.viewStamp? die a v).isSome then u.clearView die a v else u) s).sweepViews die a).2)
    (shoot : (t.devPutBytes (t.descAddr die a + 0x20) (List.replicate 32 0)).shootdown die (invalSet m a) = (n, u)) :
    exec (.pgInval m) s = .next (u.waitBusy m 3 [n] []) := by
  subst cleared
  unfold invalSet at shoot
  change execPgInval m s = _
  simp only [execPgInval, pageCmd_heads h, inAsid_of_taken taken, busy, phase, ended, still, shoot, Option.isNone_some,
    Bool.false_eq_true, false_and, or_self, if_false, Nat.reduceEqDiff, OfNat.ofNat_ne_one]

end Later

end Invalidation

end Command

theorem exec_pgFence {s : State} {m : Token} {die : Nat} (h : Heads s m (.page die) true 2 0xF00) :
    exec (.pgFence m) s = .next (if s.inboxesClear m (bits (lane0 m) 11 8) 4 then s.finish m 0 0 [] else s) := by
  change execPgFence m s = _
  rw [execPgFence, pageCmd_heads h, State.fenceCmd, sOK]

/-- Settles O53: what a command refuses by `pageRows_refuse`, and one lemma for each thing that a command does in its ASID. -/
theorem pageCommands : Obligations.PageCommands := by
  unfold Obligations.PageCommands
  refine ⟨fun s m die lanes flags c good h idle fresh row => pageRows_refuse idle fresh _ row h,
    fun s t m die a l taken va found => ⟨fun h fresh tier => ?move, fun mv n isSealed h => exec_pgProbe taken va h found⟩,
    fun s m die a h taken va => ⟨fun v idle => exec_pgAbort_begins taken va h idle,
      fun l t idle => exec_pgAbort_nothing taken va h idle, fun b => exec_pgAbort_ends h⟩,
    fun s m die a h taken va pages => ⟨fun nums held => exec_pgPin taken va h pages, exec_pgUnpin taken va h pages⟩,
    fun m die a n k f held s t l => ⟨rfl, rfl, fun inside found hf => ?pin, fun inside found hf => ?unpin⟩,
    fun s t m die a good hots h taken va pages => exec_pgHot taken va h pages,
    fun s m die a h taken => ⟨fun fresh => ?viewOpen, fun b => exec_pgViewOpen_ends taken h,
      fun v n t idle => exec_pgViewClose_begins taken h idle, exec_pgViewClose_none taken h, fun b k t => exec_pgViewClose_ends taken h⟩,
    fun s m die a h taken => ⟨fun idle good => ?inval,
      fun b busy ended => ⟨exec_pgInval_ends taken h busy ended,
        fun ns t phase still => exec_pgInval_closes taken h busy ended still phase,
        fun t n u phase still => exec_pgInval_frees taken h busy ended still phase⟩⟩,
    fun s m die => exec_pgFence⟩
  case move =>
    have check := moveCheck_of_leaf found (bits (lane0 m) 9 8) (bits (lane0 m) 11 10)
    refine ⟨fun lvl home sunk => ⟨fun placed => ?_, fun away => ?_⟩, fun lvl home sunk => ?_, fun other => ?_⟩
    · exact exec_pgMove_ends taken va h fresh tier (check.trans (by simp [lvl, home, sunk, placed]))
    · exact exec_pgMove_starts taken va h fresh tier (check.trans (by simp [lvl, home, sunk, away]))
    · exact exec_pgMove_ends taken va h fresh tier (check.trans (by simp [lvl, home, sunk]))
    · exact exec_pgMove_ends taken va h fresh tier (check.trans (by rw [if_pos other]))
  case pin =>
    rw [pinPages_succ inside found hf]
    exact ⟨fun free => if_neg free, fun full => if_pos full⟩
  case unpin =>
    rw [unpinPages_succ inside found hf]
    exact ⟨fun held => if_neg held, fun free => if_pos free⟩
  case viewOpen =>
    rw [exec_pgViewOpen_begins taken h fresh]
    refine ⟨fun has => by rw [if_pos has], fun no full => ?_, fun v stamp no index hstamp => ?_⟩
    · simp only [no, full, Option.isSome_none, Bool.false_eq_true, if_false]
    · subst hstamp
      simp only [no, index, Option.isSome_none, Bool.false_eq_true, if_false]
      refine ⟨fun last => by rw [if_pos last], fun more waits => by rw [if_neg more, if_pos waits], fun n t more still shoot => ?_⟩
      rw [if_neg more, if_neg (by simp [still]), shoot]
  case inval =>
    rw [exec_pgInval_begins taken h idle good]
    exact ⟨fun tear => by rw [if_pos tear], fun n t keep shoot => by rw [if_neg (by simp [keep]), shoot]⟩

end Sys2Proof.Machine
end

section
/-! O54: the page engine's own steps: moves, shootdowns, twin fills, automatic moves and the halving of hotness. -/

namespace Sys2Proof.Machine

/-! ## Moves (R379 to R384) -/

section Moves

variable {s : State} {id : Nat} {v : Move} (found : s.move? id = some v)
include found

section Waiting

variable (waiting : v.phase = .waiting)
include waiting

theorem exec_moveBegin_held (held : s.moveHeld v = true) : exec (.moveBegin id) s = .next s.markHeld := by
  change execMoveBegin id s = _
  simp only [execMoveBegin, found, waiting, held, ne_eq, not_true_eq_false, true_or, if_true, if_false]

section Ready

variable (free : s.moveHeld v = false) (room : (s.movesOf v.die).length < 8)
include free room

/-- A move whose ring holds no frame ends with cause 2. -/
theorem exec_moveBegin_none {t : State} (untaken : v.taken = none) (empty : s.takeFrame v.toDie v.tier = (none, t)) :
    exec (.moveBegin id) s = .next (((t.bump (pageReg v.die 0x90) 1).migAbort v 2).moveDone v 0xD 0 2) := by
  change execMoveBegin id s = _
  simp only [execMoveBegin, found, waiting, free, not_le.mpr room, untaken, empty, ne_eq, not_true_eq_false, Bool.false_eq_true, or_self,
    if_false, sABORTED]

variable {f : Nat} {t : State}
  (took : (v.taken = none ∧ s.takeFrame v.toDie v.tier = (some f, t)) ∨ (v.taken = some f ∧ t = s))
include took

/-- A move that has its frame, where the entry stands as the walk found it: ST goes to MOVING. -/
theorem exec_moveBegin_starts (same : t.leafIs v 0 = true) : exec (.moveBegin id) s = .next ((match v.msg with
    | some m => (t.swapLeaf v 0 1).popInbox (inboxKey m.dest)
    | none => t.swapLeaf v 0 1).putMove { v with phase := .copying, dst := f, taken := some f }) := by
  change execMoveBegin id s = _
  obtain ⟨untaken, ring⟩ | ⟨kept, rfl⟩ := took
  · simp only [execMoveBegin, found, waiting, free, not_le.mpr room, untaken, ring, ne_eq, not_true_eq_false, Bool.false_eq_true, or_self,
      if_false]
    exact congrArg ok (if_pos same)
  · simp only [execMoveBegin, found, waiting, free, not_le.mpr room, kept, ne_eq, not_true_eq_false, Bool.false_eq_true, or_self, if_false]
    exact congrArg ok (if_pos same)

/-- A move that has its frame, where the entry has changed: the page is walked again. -/
theorem exec_moveBegin_walks (changed : t.leafIs v 0 = false) {l : Leaf} {u : State} (walk : t.findLeaf v.die v.asid v.va = (.ok l, u))
    (lvl : l.lvl = 4) (home : l.st = 0) (away : movePlaced l.frame v.tier v.toDie = false) :
    exec (.moveBegin id) s = .next (u.putMove { v with
      pte := l.pte, entry := l.entry, src := l.frame, taken := some f, heldAt := none }).markHeld := by
  change execMoveBegin id s = _
  obtain ⟨untaken, ring⟩ | ⟨kept, rfl⟩ := took
  · simp only [execMoveBegin, found, waiting, free, not_le.mpr room, untaken, ring, changed, walk, lvl, home, away, ne_eq,
      not_true_eq_false, Bool.false_eq_true, or_self, if_false]
  · simp only [execMoveBegin, found, waiting, free, not_le.mpr room, kept, changed, walk, lvl, home, away, ne_eq, not_true_eq_false,
      Bool.false_eq_true, or_self, if_false]

end Ready

/-- A wait that has lasted `MOVETO` ends the move with HELD. -/
theorem exec_moveTimeout_held (held : s.moveHeld v = true) {t : Nat} (since : v.heldAt = some t) (late : s.moveTo v.die ≤ s.usSince t) :
    exec (.moveTimeout id) s = .next (s.moveDone v 0xC (v.taken.getD 0) 3) := by
  change execMoveTimeout id s = _
  simp only [execMoveTimeout, found, waiting, held, since, not_lt.mpr late, and_self, if_true, if_false, sHELD]

end Waiting

section Copying

variable (copying : v.phase = .copying)
include copying

theorem exec_moveAbort {cause : Nat} (due : cause = 1 ∨ (cause = 7 ∧ s.leafIs v 1 = false)) :
    exec (.moveAbort id cause) s = .next (s.startAbort v cause) := by
  change execMoveAbort id cause s = _
  simp only [execMoveAbort, found]
  exact congrArg ok (if_pos ⟨copying, by simpa using due⟩)

/-- Software rewrote the entry. -/
theorem exec_moveLineCopy_rewritten (running : v.paused = none) (rewritten : s.leafIs v 1 = false) :
    exec (.moveLineCopy id) s = .next (s.startAbort v 7) := by
  change execMoveLineCopy id s = _
  simp only [execMoveLineCopy, found, copying, running, rewritten, ne_eq, not_true_eq_false, Option.isSome_none, Bool.false_eq_true,
    or_self, if_false, Bool.not_false, if_true]

/-- A line is read at the source: poison aborts the move, the last line seals it. -/
theorem exec_moveLineCopy (running : v.paused = none) (same : s.leafIs v 1 = true) {w : State} {g : Got} {v1 : Move}
    (hw : w = (s.meet (v.src + 256 * v.copied) 256).mscCount (v.src + 256 * v.copied))
    (hg : g = w.rawLoad (v.src + 256 * v.copied) 256)
    (hv1 : v1 = { v with copied := v.copied + 1, queue := v.queue ++ [(256 * v.copied, g.data, false)] }) :
    exec (.moveLineCopy id) s = .next (if g.poison then w.startAbort v 4
      else if v.copied = 255 then (w.moveSide v.src v.dst).putMove { v1 with phase := .sealed } else w.putMove v1) := by
  subst hv1 hg hw
  change execMoveLineCopy id s = _
  simp only [execMoveLineCopy, found, copying, running, same, ne_eq, not_true_eq_false, Option.isSome_none, Bool.false_eq_true, or_self,
    if_false, Bool.not_true]

variable {t : Nat} (paused : v.paused = some t)
include paused

/-- A pause goes on while a hold stands, until `MOVETO`. -/
theorem exec_moveTimeout_paused : exec (.moveTimeout id) s = .next (if s.usSince t < s.moveTo v.die then s
    else if 0 < s.holdCount v.src then s.startAbort v 3 else s) := by
  change execMoveTimeout id s = _
  simp only [execMoveTimeout, found, copying, paused, reduceCtorEq, false_and, true_and, if_false]

omit copying in
theorem exec_moveCopyResume : exec (.moveCopyResume id) s = .next
    (if s.holdCount v.src = 0 then s.putMove { v with paused := none } else s) := by
  change execMoveCopyResume id s = _
  simp only [execMoveCopyResume, found, paused, Option.isSome_some, true_and]

end Copying

theorem exec_forwardApply {line : Nat} {e : Nat × List Byte × Bool} (going : v.phase ≠ .aborting)
    (oldest : v.queue.find? (fun e => e.1 / 256 == line) = some e) : exec (.forwardApply id line) s = .next
      (((s.rawStore (v.dst + e.1) e.2.1 e.2.2).mscCount (v.dst + e.1)).putMove { v with
        queue := dropNth v.queue (v.queue.takeWhile (fun x => x.1 / 256 != line)).length }) := by
  change execForwardApply id line s = _
  simp only [execForwardApply, found, going, oldest, if_false]

section Sealed

variable (isSealed : v.phase = .sealed) (applied : v.queue = [])
include isSealed applied

theorem exec_moveCutover_swaps (same : s.leafIs v 1 = true) {n : Nat} {t : State}
    (shoot : ((s.setPte v.pte (putBits (v.entryIn 0) 56 16 (v.dst / 65536))).bump (pageReg v.die 0x88) 1).shootdown
      v.die (.pages v.asid (v.va / 65536) 1) = (n, t)) :
    exec (.moveCutover id) s = .next (t.putMove { v with phase := .shooting, shoot := n, cause := 0 }) := by
  change execMoveCutover id s = _
  simp only [execMoveCutover, found, isSealed, applied, same, shoot, ne_eq, not_true_eq_false, List.isEmpty_nil, Bool.not_true,
    Bool.false_eq_true, or_self, if_false, if_true]

theorem exec_moveCutover_rewritten (rewritten : s.leafIs v 1 = false) {n : Nat} {t : State}
    (shoot : s.shootdown v.die (.pages v.asid (v.va / 65536) 1) = (n, t)) :
    exec (.moveCutover id) s = .next (t.putMove { v with phase := .shooting, shoot := n, cause := 7 }) := by
  change execMoveCutover id s = _
  simp only [execMoveCutover, found, isSealed, applied, rewritten, shoot, ne_eq, not_true_eq_false, List.isEmpty_nil, Bool.not_true,
    Bool.false_eq_true, or_self, if_false]

end Sealed

theorem exec_moveAbortFinish (aborting : v.phase = .aborting) : exec (.moveAbortFinish id) s = .next
    ((((s.swapLeaf v 3 0).bump (pageReg v.die 0x90) 1).migAbort v v.cause).moveDone
      { v with queue := [] } (if v.cause = 3 then 0xC else 0xD) v.dst v.cause) := by
  change execMoveAbortFinish id s = _
  simp only [execMoveAbortFinish, found, aborting, if_true, sHELD, sABORTED]

end Moves

/-! ## Shootdowns (R374) -/

/-- Whether a shootdown covers an entry of a page engine's walk cache (R372, R374). -/
def ShootSet.hits (w : ShootSet) (die : Nat) (e : WalkEntry) : Bool :=
  e.die == die && (match w with
    | .pages a p n => e.asid == a && (upTo n).any (fun i => walkPrefix ((p + i) * 65536) e.level == e.pre)
    | .all a => e.asid == a
    | .stamp a _ => e.asid == a)

theorem ShootSet.hits_all {a die : Nat} {e : WalkEntry} : (ShootSet.all a).hits die e = true ↔ e.die = die ∧ e.asid = a := by
  simp only [ShootSet.hits, Bool.and_eq_true, beq_iff_eq]

section Shootdown

variable {s : State} {id : Nat} {x : Shoot} (found : s.shoots.find? (fun x => x.id == id) = some x)
include found

section Receiver

variable {rc : Nat} (waits : x.waiting.contains rc = true)
include waits

theorem exec_shootdownInvalidate_sector (sector : rc < 32) : exec (.shootdownInvalidate id rc) s = .next
    (if s.sectorOut rc x.what then s else acked ((s.invalidateSector rc x.what).retranslate rc x.what) id rc) := by
  change execShootdownInvalidate id rc s = _
  simp only [execShootdownInvalidate, found, waits, Bool.not_true, Bool.false_eq_true, if_false]
  exact congrArg ok ((if_neg (by omega)).trans (if_neg (by omega)))

theorem exec_shootdownInvalidate_page (low : 32 ≤ rc) (high : rc < 36) : exec (.shootdownInvalidate id rc) s = .next
    { acked s id rc with walkCache := s.walkCache.filter (fun e => !x.what.hits (rc - 32) e) } := by
  change execShootdownInvalidate id rc s = _
  simp only [execShootdownInvalidate, found, waits, Bool.not_true, Bool.false_eq_true, if_false]
  exact congrArg ok ((if_neg (by omega)).trans (if_pos low))

theorem exec_shootdownInvalidate_link (link : 36 ≤ rc) : exec (.shootdownInvalidate id rc) s = .next
    (if s.linkOut (rc - 36) x.what then s else acked (s.invalidateLink (rc - 36) x.what) id rc) := by
  change execShootdownInvalidate id rc s = _
  simp only [execShootdownInvalidate, found, waits, Bool.not_true, Bool.false_eq_true, if_false]
  exact congrArg ok (if_pos link)

end Receiver

section Complete

variable {t : State} (acknowledged : x.waiting = [])
  (ht : t = { s with shoots := s.shoots.filter (fun y => y.id != id), fills := s.fills.filter (fun f => f.shoot != some id) })
include acknowledged ht

theorem exec_shootdownComplete_alone (noMove : t.moves.find? (fun v => v.phase == .shooting && v.shoot == id) = none) :
    exec (.shootdownComplete id) s = .next t := by
  subst ht
  change execShootdownComplete id s = _
  simp only [execShootdownComplete, found, acknowledged, noMove, List.isEmpty_nil, Bool.not_true, Bool.false_eq_true, if_false]

/-- The move whose cut-over it was completes, or aborts where software rewrote its entry. -/
theorem exec_shootdownComplete_move {v : Move} (cutOver : t.moves.find? (fun v => v.phase == .shooting && v.shoot == id) = some v) :
    exec (.shootdownComplete id) s = .next (if v.cause = 0 then t.moveDone v 0 v.src 0
      else ((t.bump (pageReg v.die 0x90) 1).migAbort v 7).moveDone v 0xD v.src 7) := by
  subst ht
  change execShootdownComplete id s = _
  simp only [execShootdownComplete, found, acknowledged, cutOver, List.isEmpty_nil, Bool.not_true, Bool.false_eq_true, if_false, sOK,
    sABORTED]

end Complete

end Shootdown

/-! ## Twin fills (R389, R390) -/

section Fill

variable {s : State} {id : Nat} {f : Fill} (found : s.fills.find? (fun f => f.id == id && f.filling) = some f)
include found

theorem exec_twinLineCopy {l : Nat} (lowest : (upTo 256).find? (fun l => !f.lines.contains l) = some l) :
    exec (.twinLineCopy id) s = .next (s.copyFillLine f l) := by
  change execTwinLineCopy id s = _
  simp only [execTwinLineCopy, found, lowest]

variable (copied : 256 ≤ f.lines.length)
include copied

theorem exec_twinFillComplete_links (same : s.devRead f.pte 8 = f.entry) {n : Nat} {t : State}
    (shoot : ((twinLinked s f).bump (pageReg f.die 0x98) 1).shootdown f.die (.pages f.asid (f.va / 65536) 1) = (n, t)) :
    exec (.twinFillComplete id) s = .next { t with
      fills := t.fills.map (fun x => if x.id = f.id then { x with shoot := some n } else x) } := by
  obtain ⟨rfl, rfl⟩ := Prod.mk.inj shoot
  change execTwinFillComplete id s = _
  rw [execTwinFillComplete, found]
  exact congrArg ok ((if_neg (not_lt.mpr copied)).trans (if_pos same))

theorem exec_twinFillComplete_rewritten (rewritten : s.devRead f.pte 8 ≠ f.entry) :
    exec (.twinFillComplete id) s = .next { s with fills := s.fills.filter (fun x => x.id != f.id) } := by
  change execTwinFillComplete id s = _
  rw [execTwinFillComplete, found]
  exact congrArg ok ((if_neg (not_lt.mpr copied)).trans (if_neg rewritten))

end Fill

/-! ## Automatic moves and the halving of hotness (R386, R387) -/

section Auto

variable {s t : State} {die frame asid pte tier : Nat} {rest : List (Nat × Nat × Nat × Nat)}
  (oldest : Tab.get [] s.autoQ die = (frame, asid, pte, tier) :: rest) (ht : t = { s with autoQ := Tab.set s.autoQ die rest })
include oldest ht

theorem exec_autoMoveStart_gone (unmapped : t.leafPage die asid pte = none) : exec (.autoMoveStart die) s = .next t := by
  subst ht
  change execAutoMoveStart die s = _
  simp only [execAutoMoveStart, oldest, unmapped]

variable {va lvl : Nat} (page : t.leafPage die asid pte = some (va, lvl))
include page

theorem exec_autoMoveStart_drops (small : lvl = 4) (other : bits (t.devRead pte 8) 7 4 ≠ 0) : exec (.autoMoveStart die) s = .next t := by
  subst ht
  change execAutoMoveStart die s = _
  simp only [execAutoMoveStart, oldest, page]
  exact congrArg ok (if_pos ⟨small, other⟩)

variable (home : lvl = 4 → bits (t.devRead pte 8) 7 4 = 0) {u : State}
include home

theorem exec_autoMoveStart_starts {l : Leaf} (check : t.moveCheck die asid va tier die = (.ok l, u)) :
    exec (.autoMoveStart die) s = .next (u.newMove (autoMove die asid va tier l)) := by
  subst ht
  change execAutoMoveStart die s = _
  simp only [execAutoMoveStart, oldest, page, check]
  exact congrArg ok (if_neg fun ⟨small, other⟩ => other (home small))

theorem exec_autoMoveStart_ends {st : Nat} {lanes : List Lane} (check : t.moveCheck die asid va tier die = (.error (st, lanes), u)) :
    exec (.autoMoveStart die) s = .next (u.autoAnswer die asid st lanes) := by
  subst ht
  change execAutoMoveStart die s = _
  simp only [execAutoMoveStart, oldest, page, check]
  exact congrArg ok (if_neg fun ⟨small, other⟩ => other (home small))

end Auto

section Halve

variable {s t : State} {die : Nat} (due : Tab.get 0 s.halved die < s.clk / 2 ^ 20)
  (ht : t = { s with halved := Tab.set s.halved die (Tab.get 0 s.halved die + 1) })
include due ht

theorem exec_hotHalve_off (off : t.regBits (pageReg die 0x10) 16 16 = 0) : exec (.hotHalve die) s = .next t := by
  subst ht
  change execHotHalve die s = _
  simp only [execHotHalve, not_le.mpr due, off, if_true, if_false]

/-- With one side entry and no demotion, its HOT is halved. -/
theorem exec_hotHalve_one (on : t.regBits (pageReg die 0x10) 16 16 ≠ 0) {i : Nat} {u : State} (only : t.sideEntries die = [i])
    (hu : u = t.setSide0 (sideFrame die i) (putBits (t.side0 (sideFrame die i)) 7 0 (bits (t.side0 (sideFrame die i)) 7 0 / 2)))
    (noDemotion : u.regBits (pageReg die 0x10) 17 17 = 0) : exec (.hotHalve die) s = .next u := by
  subst hu ht
  change execHotHalve die s = _
  simp only [execHotHalve, not_le.mpr due, on, only, List.foldl_cons, List.foldl_nil, if_false]
  exact congrArg ok (if_neg fun demotes => absurd (noDemotion.symm.trans demotes.1) (by decide))

end Halve

/-- Settles O54: one lemma for each thing that each step can do. -/
theorem pageEvents : Obligations.PageEvents := by
  unfold Obligations.PageEvents
  refine ⟨fun s id v found waiting => ⟨fun free room => ?begin, fun held => ⟨exec_moveBegin_held found waiting held,
      fun t => exec_moveTimeout_held found waiting held⟩⟩,
    fun s id v found copying => ⟨fun running rewritten => ⟨exec_moveLineCopy_rewritten found copying running rewritten,
      exec_moveAbort found copying (.inr ⟨rfl, rewritten⟩)⟩, exec_moveAbort found copying (.inl rfl),
      fun w g v1 running same hw hg hv1 => ?copy, fun t paused => ?paused⟩,
    fun s id line k v e found going oldest hk => hk ▸ exec_forwardApply found going oldest,
    fun s t id n v found isSealed applied => ⟨fun same => exec_moveCutover_swaps found isSealed applied same,
      fun rewritten => exec_moveCutover_rewritten found isSealed applied rewritten⟩,
    fun s id v => exec_moveAbortFinish,
    fun s id rc x found waits => ⟨fun sector => ?sector, fun low high => ?page, fun link => ?link⟩,
    fun s t id x found acknowledged ht => ⟨exec_shootdownComplete_alone found acknowledged ht, fun v cutOver => ?complete⟩,
    fun s id f found => ⟨fun l => exec_twinLineCopy found, fun copied => ⟨fun n t same => exec_twinFillComplete_links found copied same,
      exec_twinFillComplete_rewritten found copied⟩⟩,
    fun s t die frame asid pte tier rest oldest ht => ⟨exec_autoMoveStart_gone oldest ht,
      fun va lvl page => ⟨exec_autoMoveStart_drops oldest ht page, fun l u home walk => ?auto⟩⟩,
    fun s t die due ht => ⟨exec_hotHalve_off due ht, fun i u on only hu => exec_hotHalve_one due ht on only hu⟩⟩
  case begin =>
    exact ⟨fun t untaken empty => exec_moveBegin_none found waiting free room untaken empty,
      fun f t took => ⟨exec_moveBegin_starts found waiting free room took,
        fun l u changed walk => exec_moveBegin_walks found waiting free room took changed walk⟩⟩
  case copy =>
    rw [exec_moveLineCopy found copying running same hw hg hv1]
    refine ⟨fun bad => by rw [if_pos bad], fun clean more => ?_, fun clean last => ?_⟩
    · rw [if_neg (by simp [clean]), if_neg more]
    · rw [if_neg (by simp [clean]), if_pos last]
  case paused =>
    rw [exec_moveCopyResume found paused, exec_moveTimeout_paused found copying paused]
    refine ⟨fun released => ?_, fun held => ⟨by rw [if_neg held.ne'], fun late => by rw [if_neg (not_lt.mpr late), if_pos held]⟩⟩
    rw [if_pos released, if_neg (by omega : ¬0 < s.holdCount v.src), ite_self]
    exact ⟨rfl, rfl⟩
  case sector =>
    rw [exec_shootdownInvalidate_sector found waits sector]
    exact ⟨fun out => by rw [if_pos out], fun performed => by rw [if_neg (by simp [performed])]⟩
  case page =>
    refine ⟨_, exec_shootdownInvalidate_page found waits low high, rfl, fun e kept => (List.mem_filter.1 kept).1, ?_⟩
    intro a all e kept hit
    simpa [all, ShootSet.hits_all.2 hit] using (List.mem_filter.1 kept).2
  case link =>
    rw [exec_shootdownInvalidate_link found waits link]
    exact ⟨fun out => by rw [if_pos out], fun performed => by rw [if_neg (by simp [performed])]⟩
  case complete =>
    rw [exec_shootdownComplete_move found acknowledged ht cutOver]
    exact ⟨fun swapped => by rw [if_pos swapped], fun rewritten => by rw [if_neg rewritten]⟩
  case auto =>
    have check := moveCheck_of_leaf walk tier die
    refine ⟨fun small notMoving away elsewhere => ?_, fun other => ?_⟩
    · exact exec_autoMoveStart_starts oldest ht page home (check.trans (by simp [small, notMoving, away, elsewhere]))
    · exact exec_autoMoveStart_ends oldest ht page home (check.trans (by rw [if_pos other]))

end Sys2Proof.Machine
end

section
/-! O8 and O10: every step of a powered module gives a next state, and what module reset leaves (R463, R464, R496, R497). -/

namespace Sys2Proof.Machine

/-! ## Steps with and without power (R496) -/

/-- Every instruction has a meaning that ends in a next state, for each constructor by unfolding. -/
theorem exec_next (i : Instr) (s : State) : ∃ t, exec i s = .next t := by
  cases i <;> exact ⟨_, rfl⟩

/-- A turn that runs an instruction ends as the instruction does; any other turn is its preparation. -/
theorem runTurn_next (t : Turn) (s : State) : ∃ u, runTurn t s = .next u := by
  rw [runTurn]
  cases turnInstr s t with
  | some i => exact exec_next i _
  | none => exact ⟨_, rfl⟩

/-- Without power no turn but power-on is taken. -/
theorem step_off_of_inputs {s : State} {t : Turn} {ts : List Turn} (off : s.power = .off) (hi : s.inputs = t :: ts) :
    step s = if poweringTurn t then runTurn t { s with inputs := ts } else .fault .poweredOff := by
  have hnext : nextTurn s = (t, { s with inputs := ts }) := by rw [nextTurn, hi]
  cases h : poweringTurn t <;> simp [step, hnext, off, h]

/-- Settles O8: with power the step runs its turn, and every turn ends in a next state; power-on is a module reset. -/
theorem poweredStepIsSafe : Obligations.PoweredStepIsSafe := by
  unfold Obligations.PoweredStepIsSafe
  refine ⟨fun s on => ?_, fun s t ts off hi other => ?_, fun s ts off hi => ?_⟩
  · obtain ⟨u, hu⟩ := runTurn_next (nextTurn s).1 (nextTurn s).2
    exact ⟨u, (if_neg (by simp [on])).trans hu⟩
  · rw [step_off_of_inputs off hi, if_neg (by simpa [poweringTurn] using other)]
  · rw [step_off_of_inputs off hi, if_pos (by simp [poweringTurn])]
    exact ⟨_, exec_powerOn_off off, rfl⟩

/-! ## Registers at reset (R48, R61, R128, R467) -/

/-- A sector register's address names its unit of its sector (R59, region 4). -/
theorem placeOf_secReg {ps u off : Nat} (hps : ps < 32) (hu : u ≤ 9) (ho : off < 2 ^ 16) : placeOf (secReg ps u off) = .sreg ps u off := by
  obtain ⟨d, i, hd, hi, rfl⟩ : ∃ d i, d < 4 ∧ i < 8 ∧ ps = 8 * d + i := ⟨ps / 8, ps % 8, by omega, by omega, by omega⟩
  have addr : secReg (8 * d + i) u off = windowBase + (d * 2 ^ 38 + 4 * 2 ^ 34 + i * 2 ^ 23 + u * 2 ^ 16 + off) := by
    simp only [secReg]; omega
  rw [addr, placeOf_window (by omega)]
  generalize hx : d * 2 ^ 38 + 4 * 2 ^ 34 + i * 2 ^ 23 + u * 2 ^ 16 + off = x
  have die : bits x 39 38 = d := by simp only [bits]; omega
  have region : bits x 37 34 = 4 := by simp only [bits]; omega
  have zero : bits x 33 26 = 0 := by simp only [bits]; omega
  have sector : bits x 25 23 = i := by simp only [bits]; omega
  have unit : bits x 22 16 = u := by simp only [bits]; omega
  have offset : bits x 15 0 = off := by simp only [bits]; omega
  simp [windowPlace, die, region, zero, sector, unit, offset, hu]

/-- No register is listed after reset: each holds its reset value. -/
theorem reg_reset (pa : Nat) : State.reset.reg pa = regReset pa := rfl

/-- A register of unit 0 of a sector at reset: `SEC.MODE`, `SEC.MSCAP`, `SEC.MSLOW`, else zero (R48). -/
theorem reg_reset_sec {ps off : Nat} (hps : ps < 32) (ho : off < 2 ^ 16) : State.reset.reg (secReg ps 0 off) =
    if off = 0x00 then 1 else if off = 0x08 then 256 else if off = 0x10 then 192 else 0 := by
  rw [reg_reset, regReset, placeOf_secReg hps (by omega) ho]
  rfl

/-- A CSR at reset: `KSTAT` says halted and supervisor, every other CSR is zero (R128). -/
theorem reg_reset_csr {ps n : Nat} (hps : ps < 32) (hn : n < 4096) : State.reset.reg (csr ps n) = if n = 0 then 9 else 0 := by
  rw [reg_reset, regReset, placeOf_csr hps hn]
  simp

/-- Settles O10: no unit is listed in the state after reset, so each is as its own reset leaves it, and so is each register. -/
theorem resetState : Obligations.ResetState := by
  unfold Obligations.ResetState
  refine ⟨fun ci => ⟨rfl, rfl, rfl, rfl, rfl, rfl⟩, fun ci line k => rfl, fun ps hps => ?keeper, fun pl => rfl, fun ps => rfl,
    fun d => rfl, by rfl, rfl, fun q => ⟨rfl, rfl⟩, rfl, rfl⟩
  case keeper =>
    have kstat : State.reset.reg (csr ps 0) = 9 := reg_reset_csr hps (by omega)
    refine ⟨?_, ?_, ?_, rfl, fun n low high => ?_, ?_, ?_, ?_, ?_⟩
    · rw [State.halted, kstat]; rfl
    · rw [State.supervisor, kstat]; rfl
    · rw [State.inTrap, kstat]; rfl
    · rw [reg_reset_csr hps (by omega), if_neg (by omega)]
    all_goals exact reg_reset_sec hps (by omega)

end Sys2Proof.Machine
end

section
/-! O60: the custodian's requests of authorisation, relock, JTAG and platform monitoring (R476 to R479, R498, R500). -/

namespace Sys2Proof.Machine

/-! ## Requests of authorisation (R478) -/

section Auth

variable {s t : State} {bs : List Byte} (block : s.authBlock = (some bs, t))
include block

/-- A request whose block carries its TYPE: where the present state allows it, its fields and signature decide. -/
theorem auth_of_block {ty : Nat} (type : (nth 0 bs 0).toNat = ty) (allowed : Bool) (digest : List Byte)
    (f : List Byte → State → State) : s.auth ty allowed digest f =
      if allowed = false then requestEnded t 3
      else if t.authGood bs ty digest = true then requestEnded (f bs t) 1 else requestEnded t 2 := by
  subst type
  rw [State.auth, block]
  simp only [ne_eq, not_true_eq_false, if_false]
  cases allowed <;> rfl

theorem exec_authProvision (type : (nth 0 bs 0).toNat = 1) : exec .authProvision s = .next
    (if (s.security == 0) = false then requestEnded t 3
      else if t.authGood bs 1 Config.provisionDigest = true then requestEnded
        ((t.setCust { t.cust with owner := (bs.drop 0x40).take 0x40 }).setBits (custReg 0x18) 1 0 1) 1
      else requestEnded t 2) := congrArg Host.Outcome.next (auth_of_block block type ..)

theorem exec_authUnlock (type : (nth 0 bs 0).toNat = 2) : exec .authUnlock s = .next
    (if (s.security == 1) = false then requestEnded t 3
      else if t.authGood bs 2 s.cust.owner = true then requestEnded (t.setBits (custReg 0x18) 1 0 2) 1
      else requestEnded t 2) := congrArg Host.Outcome.next (auth_of_block block type ..)

/-- Failure analysis is allowed from every state. -/
theorem exec_authFa (type : (nth 0 bs 0).toNat = 3) : exec .authFa s = .next
    (if t.authGood bs 3 Config.faDigest = true then requestEnded
        (((t.zeroize.setCust { t.zeroize.cust with keys := false }).setBits (custReg 0x40) 7 4 0).setBits (custReg 0x18) 1 0 3) 1
      else requestEnded t 2) := congrArg Host.Outcome.next (auth_of_block block type true ..)

theorem exec_authRequestUnknownType : exec .authRequestUnknownType s = .next
    (if (nth 0 bs 0).toNat ∈ [1, 2, 3] then s else requestEnded t 3) := by
  change execAuthRequestUnknownType s = _
  rw [execAuthRequestUnknownType, block]
  simp only [List.contains_iff_mem]
  rfl

end Auth

/-- What a good request's fields and signature are. -/
theorem authGood_parts {s : State} {bs : List Byte} {ty : Nat} {digest : List Byte} (good : s.authGood bs ty digest = true) :
    leNat ((bs.drop 8).take 8) = (s.reg (custReg 0x20)).toNat ∧ leNat ((bs.drop 0x10).take 8) = (s.reg (custReg 0x30)).toNat
      ∧ Config.sha512 ((bs.drop 0x80).take 0x200) = digest
      ∧ Config.rsaVerify ((bs.drop 0x80).take 0x200) (Config.sha512 (bs.take 0x280)) ((bs.drop 0x280).take 0x200) = true := by
  simp only [State.authGood, Bool.and_eq_true, beq_iff_eq] at good
  obtain ⟨⟨⟨⟨⟨nonce, serial⟩, _⟩, _⟩, modulus⟩, signature⟩ := good
  exact ⟨nonce, serial, modulus, signature⟩

/-- After zeroization no pool holds a stationary set. -/
theorem pools_zeroize (s : State) : s.zeroize.pools.all (fun e => e.2.set0 == .none && e.2.set1 == .none) = true := by
  simp [State.zeroize]

/-- After zeroization memory lists only what CXL devices hold. -/
theorem mem_zeroize {s : State} {c : Host.Cell} (hc : c ∈ s.zeroize.mem) : ∃ p off, placeOf c.1 = .cxl p off := by
  have kept : (match placeOf c.1 with | .cxl _ _ => true | _ => false) = true := (List.mem_filter.mp hc).2
  split at kept
  case h_1 p off place => exact ⟨p, off, place⟩
  case h_2 => exact absurd kept Bool.false_ne_true

/-! ## Relock (R476) -/

theorem exec_relock (s : State) : exec .relock s = .next
    (if s.security = 2 then (s.lowerLevel 1).setBits (custReg 0x18) 1 0 1 else s) := rfl

/-! ## JTAG (R477, R479) -/

/-- A refused access sets bit 1 of the status word, and nothing else. -/
theorem jtagTurnedAway_refused (s : State) : jtagTurnedAway s s.jtagRefused := by
  refine ⟨?_, rfl, rfl⟩
  change bitOf (if bitOf s.cust.jtagStatus 1 = true then s.cust.jtagStatus else s.cust.jtagStatus + 2) 1 = true
  split
  case isTrue set => exact set
  case isFalse clear =>
    simp only [bitOf, decide_eq_true_eq] at clear ⊢
    omega

/-- A scan of the boundary register leaves everything but the custodian and the free values it captures. -/
theorem scan_frame (s : State) (dr : List Bool) : { s.scan dr with cust := s.cust, free := s.free } = s := by
  rfl

theorem boundaryTest_refused {s : State} (h : s.security ≠ 3 ∨ s.debugLevel ≠ 2) (dr : List Bool) :
    s.boundaryTest dr = s.jtagRefused := if_neg (by tauto)

theorem boundaryTest_scan {s : State} (fa : s.security = 3) (level : s.debugLevel = 2) (dr : List Bool) :
    s.boundaryTest dr = s.scan dr := if_pos ⟨fa, level⟩

/-- An access below its level or out of scope is refused, whether or not its kind and alignment fit its place. -/
theorem jtag_ite_refused {s : State} {l : Nat} {p : Place} (h : s.debugLevel < l ∨ s.inScope p = false) (fits : Prop) [Decidable fits]
    (f : State → State) : s.jtag l (if fits then p else .bad) f = s.jtagRefused := by
  split
  · exact Laws.jtag_refused (h.imp_right .inr) f
  · exact Laws.jtag_refused (.inr (.inl rfl)) f

/-- A register's place is a place. -/
theorem ne_bad_of_isRegister {p : Place} (h : isRegister p = true) : p ≠ .bad := by
  rintro rfl
  cases h

section Access

variable {s : State}

theorem exec_jtagRegisterRead {pa : Nat} (reg : isRegister (placeOf pa) = true) (aligned : pa % 8 = 0) (level : 1 ≤ s.debugLevel)
    (scope : s.inScope (placeOf pa) = true) : exec (.jtagRegisterRead pa) s = .next (answered s "JTAG" [(s.regRead pa).toNat]) := by
  change execJtagRegisterRead pa s = _
  rw [execJtagRegisterRead, if_pos (by simp [reg, aligned]), Laws.jtag_allowed level (ne_bad_of_isRegister reg) scope]
  rfl

section Level2

variable (level : 2 ≤ s.debugLevel)
include level

theorem exec_jtagWrite {pa : Nat} {isReg : Bool} (kind : isReg = isRegister (placeOf pa)) (place : placeOf pa ≠ .bad)
    (phys : s.physOk pa 8 false = true) (scope : s.inScope (placeOf pa) = true) (v : Word) : exec (.jtagWrite pa v isReg) s = .next
      (if isReg = true then s.regWrite pa v else (s.store pa (leBytes 8 v.toNat) false true true).2) := by
  change execJtagWrite pa v isReg s = _
  rw [execJtagWrite, if_pos (by simp [kind, phys]), Laws.jtag_allowed level place scope]

theorem exec_jtagMemoryRead {pa : Nat} (mem : isRegister (placeOf pa) = false) (place : placeOf pa ≠ .bad)
    (phys : s.physOk pa 8 false = true) (scope : s.inScope (placeOf pa) = true) {g : Got} {t : State}
    (load : s.load pa 8 false true true = (g, t)) : exec (.jtagMemoryRead pa) s = .next
      (answered t (if g.poison then "JTAG poison" else "JTAG") (g.data.map (fun b => b.toNat))) := by
  change execJtagMemoryRead pa s = _
  rw [execJtagMemoryRead, if_pos (by simp [mem, phys]), Laws.jtag_allowed level place scope, load]
  rfl

variable {ps : Nat} (hps : ps < 32) (scope : s.inScope (.kmem ps 0) = true)
include hps scope

theorem exec_jtagKeeperHalt : exec (.jtagKeeperHalt ps) s = .next (s.setBits (csr ps 0) 3 3 1) := by
  change execJtagKeeperHalt ps s = _
  rw [execJtagKeeperHalt, if_pos hps, Laws.jtag_allowed level (by simp) scope]

theorem exec_jtagKeeperStep {u : State} (hu : u = s.setBits (csr ps 0) 3 3 0) : exec (.jtagKeeperStep ps) s = .next
    { u with inputs := [.keeper ps, .event (.jtagKeeperHalt ps)] ++ u.inputs } := by
  subst hu
  change execJtagKeeperStep ps s = _
  rw [execJtagKeeperStep, if_pos hps, Laws.jtag_allowed level (by simp) scope]

end Level2

theorem exec_jtagRegisterRead_refused {pa : Nat} (h : s.debugLevel < 1 ∨ s.inScope (placeOf pa) = false) :
    exec (.jtagRegisterRead pa) s = .next s.jtagRefused := congrArg Host.Outcome.next (jtag_ite_refused h ..)

theorem exec_jtagWrite_refused {pa : Nat} (h : s.debugLevel < 2 ∨ s.inScope (placeOf pa) = false) (v : Word) (isReg : Bool) :
    exec (.jtagWrite pa v isReg) s = .next s.jtagRefused := congrArg Host.Outcome.next (jtag_ite_refused h ..)

theorem exec_jtagMemoryRead_refused {pa : Nat} (h : s.debugLevel < 2 ∨ s.inScope (placeOf pa) = false) :
    exec (.jtagMemoryRead pa) s = .next s.jtagRefused := congrArg Host.Outcome.next (jtag_ite_refused h ..)

theorem exec_jtagKeeperHalt_refused {ps : Nat} (h : s.debugLevel < 2 ∨ s.inScope (.kmem ps 0) = false) :
    exec (.jtagKeeperHalt ps) s = .next s.jtagRefused := congrArg Host.Outcome.next (jtag_ite_refused h ..)

theorem exec_jtagKeeperStep_refused {ps : Nat} (h : s.debugLevel < 2 ∨ s.inScope (.kmem ps 0) = false) :
    exec (.jtagKeeperStep ps) s = .next s.jtagRefused := congrArg Host.Outcome.next (jtag_ite_refused h ..)

end Access

/-! ## The scope of debug access (R479) -/

section Scope

variable {s : State} {p : Place}

/-- In P0 and P1 every place is in scope but those of gated sectors. -/
theorem inScope_awake (cur : s.regBits (custReg 0x38) 3 2 < 2) :
    s.inScope p = true ↔ ∀ ps, placeSector p = some ps → s.gated ps = false := by
  have clocked : s.inScope p = match placeSector p with | some ps => !s.gated ps | none => true := by
    unfold State.inScope
    split
    case h_5 => rfl
    all_goals omega
  rw [clocked]
  cases placeSector p <;> simp

/-- In P2 link die A is in scope. -/
theorem inScope_p2 (cur : s.regBits (custReg 0x38) 3 2 = 2) : s.inScope p = true ↔ ∃ u off, p = .lreg 0 u off := by
  simp only [State.inScope, cur]
  split <;> simp_all

/-- In P3 the custodian is in scope. -/
theorem inScope_p3 (cur : s.regBits (custReg 0x38) 3 2 = 3) : s.inScope p = true ↔ ∃ off, p = .lreg 0 3 off := by
  simp only [State.inScope, cur]
  split <;> simp_all

end Scope

/-! ## Platform monitoring (R498, R500) -/

theorem exec_pldmSensorRead (s : State) (n : Nat) : exec (.pldmSensorRead n) s = .next
    (answered s "PLDM" (if n ≤ 2 then [(s.reg (modReg (nth 0 [0x10, 0x18, 0x20] n))).toNat] else [])) := rfl

/-- Settles O60: one lemma for each request, and for JTAG one where an access is performed and one where it is turned away. -/
theorem custodianAccess : Obligations.CustodianAccess := by
  unfold Obligations.CustodianAccess
  refine ⟨fun s t bs block => ⟨fun type => ?provision, fun type => ?unlock, fun type => ?fa, fun other => ?other, fun known => ?known⟩,
    fun s bs ty digest => authGood_parts, fun s => ⟨pools_zeroize s, fun c hc => mem_zeroize hc⟩,
    fun s => ⟨fun no => ?_, fun yes => ⟨s.lowerLevel 1, ?_, rfl⟩⟩, fun s dr => ⟨rfl, rfl, ?scan, ?away⟩, ?register, ?memory,
    fun s ps hps level scope u hu => ⟨exec_jtagKeeperHalt level hps scope, exec_jtagKeeperStep level hps scope hu⟩, ?refused,
    fun s p cur hcur => hcur ▸ ⟨inScope_awake, inScope_p2, inScope_p3⟩, fun s n v => ⟨fun off sensor => ?sensor, fun beyond => ?_, rfl⟩⟩
  case provision =>
    rw [exec_authProvision block type]
    exact ⟨fun no => by rw [if_pos (by simp [no])], fun yes bad => by rw [if_neg (by simp [yes]), if_neg (by simp [bad])],
      fun yes good => by rw [if_neg (by simp [yes]), if_pos good]⟩
  case unlock =>
    rw [exec_authUnlock block type]
    exact ⟨fun no => by rw [if_pos (by simp [no])], fun yes bad => by rw [if_neg (by simp [yes]), if_neg (by simp [bad])],
      fun yes good => by rw [if_neg (by simp [yes]), if_pos good]⟩
  case fa =>
    rw [exec_authFa block type]
    exact ⟨fun bad => by rw [if_neg (by simp [bad])], fun u good hu => by rw [if_pos good, hu]⟩
  case other => rw [exec_authRequestUnknownType block, if_neg other]
  case known => rw [exec_authRequestUnknownType block, if_pos known]
  · rw [exec_relock, if_neg no]
  · rw [exec_relock, if_pos yes]
  case scan =>
    refine ⟨s.scan dr, rfl, rfl, scan_frame s dr, fun fa level => ?_⟩
    exact ⟨congrArg Host.Outcome.next (boundaryTest_scan fa level dr), congrArg Host.Outcome.next (boundaryTest_scan fa level dr)⟩
  case away =>
    intro h
    exact ⟨s.jtagRefused, jtagTurnedAway_refused s, congrArg Host.Outcome.next (boundaryTest_refused h dr),
      congrArg Host.Outcome.next (boundaryTest_refused h dr)⟩
  case register =>
    exact fun s pa reg aligned => ⟨exec_jtagRegisterRead reg aligned,
      fun v level scope phys => exec_jtagWrite level reg.symm (ne_bad_of_isRegister reg) phys scope v⟩
  case memory =>
    exact fun s pa mem place phys level scope => ⟨exec_jtagWrite level mem.symm place phys scope,
      fun g t => exec_jtagMemoryRead level mem place phys scope⟩
  case refused =>
    exact fun s pa ps v b => ⟨fun h => ⟨s.jtagRefused, jtagTurnedAway_refused s, exec_jtagRegisterRead_refused h⟩,
      fun h => ⟨s.jtagRefused, jtagTurnedAway_refused s, exec_jtagWrite_refused h v b, exec_jtagMemoryRead_refused h⟩,
      fun h => ⟨s.jtagRefused, jtagTurnedAway_refused s, exec_jtagKeeperHalt_refused h, exec_jtagKeeperStep_refused h⟩⟩
  case sensor =>
    simp only [List.mem_cons, Prod.mk.injEq, List.not_mem_nil, or_false] at sensor
    obtain ⟨rfl, rfl⟩ | ⟨rfl, rfl⟩ | ⟨rfl, rfl⟩ := sensor <;> rfl
  · rw [exec_pldmSensorRead, if_neg (by omega)]

end Sys2Proof.Machine
end

section
/-! O57, first part: the commands of the front as they are dispatched (R443 to R446, R450, R454, R458, R463). -/

namespace Sys2Proof.Machine

/-! ## Dispatch and completion (R444, R447, R465, R468) -/

/-- A command that is not the ready head of its queue does nothing, whatever its line. -/
theorem exec_undispatched {s : State} {c : Cmd} (waits : s.readyHead c.queue ≠ some c) :
    ∀ i ∈ [Instr.launch c, .wait c, .signal c, .preempt c, .resume c, .resetPart c, .query c], exec i s = .next s := by
  simp only [List.forall_mem_cons, List.not_mem_nil, false_imp_iff, implies_true, and_true]
  and_intros <;> exact congrArg Host.Outcome.next (Laws.dispatch_other waits _)

/-- While journaling is off no entry is written. -/
theorem journal_off {s : State} (off : s.regBits (frontReg 0x100) 0 0 = 0) (c : Cmd) (st e : Nat) : s.journal c st e = s := by
  rw [State.journal, State.journalAt, if_neg (by omega)]

/-- A queue set twice holds what was set last. -/
theorem setQueue_setQueue (s : State) (q : Nat) (k l : QueueSt) : (s.setQueue q k).setQueue q l = s.setQueue q l := by
  simp only [State.setQueue, Tab.set_set]

/-- A command that completes in its turn moves DONE past its sequence number. -/
theorem completeSeq_in_turn {s : State} {q seq : Nat} (ordered : (s.queue q).done = []) (turn : s.doneSeq q = seq) :
    s.completeSeq q seq = (s.setQueue q { s.queue q with done := [] }).setBits (queueReg q 0x18) 63 32 (seq + 1) := by
  have turn' : ∀ k, (s.setQueue q k).doneSeq q = seq := fun _ => turn
  rw [State.completeSeq, ordered, List.nil_append, List.length_nil, State.advanceDone]
  simp only [State.queue_setQueue, if_true, turn', List.contains_cons, beq_self_eq_true, Bool.true_or, State.advanceDone,
    setQueue_setQueue, List.filter_cons, bne_self_eq_false, Bool.false_eq_true, if_false, List.filter_nil]

/-- A body's bits that R443 does not name, as the commands test them. -/
theorem body_malformed {c : Cmd} {masks : List Nat} (bad : bodyOk c masks = false) : (!bodyOk c masks) = true := by rw [bad]; rfl

theorem body_inForm {c : Cmd} {masks : List Nat} (good : bodyOk c masks = true) : ¬(!bodyOk c masks) = true := by simp [good]

section Dispatched

variable {s t : State} {c : Cmd}

/-! ## WAIT, SIGNAL, QUERY, RESET.PART (R444 to R446, R463) -/

theorem exec_wait (h : Dispatches s c 1 t) : exec (.wait c) s = .next
    (if bodyOk c [maskBits 9 0 + maskBits 63 32] then t.finishCmd c 3 0 else t.finishCmd c 4 3) :=
  congrArg Host.Outcome.next (Laws.dispatch_ready h _)

theorem exec_resetPart (h : Dispatches s c 5 t) : exec (.resetPart c) s = .next
    (if bodyOk c [] then t.resetPartition (t.partMask c.queue) 0xD (some c) none else t.finishCmd c 4 3) :=
  congrArg Host.Outcome.next (Laws.dispatch_ready h _)

/-- The model's check of SIGNAL's ADDR. -/
theorem not_signalAddrOk_iff {a : Nat} :
    ¬ signalAddrOk t a ↔ a ≠ 0 ∧ (a % 8 ≠ 0 ∨ (!isGlobal a) = true ∨ (!t.physOk a 8 false) = true) := by
  simp only [signalAddrOk, Bool.not_eq_true', ← Bool.not_eq_true]
  tauto

section Signal

variable (h : Dispatches s c 2 t)
include h

theorem exec_signal_malformed (bad : bodyOk c signalMasks = false) : exec (.signal c) s = .next (t.finishCmd c 4 3) :=
  congrArg Host.Outcome.next ((Laws.dispatch_ready h _).trans (if_pos (body_malformed bad)))

variable (good : bodyOk c signalMasks = true)
include good

theorem exec_signal_badAddr (bad : ¬ signalAddrOk t (Cmd.w c 0)) : exec (.signal c) s = .next (t.finishCmd c 4 4) :=
  congrArg Host.Outcome.next ((Laws.dispatch_ready h _).trans ((if_neg (body_inForm good)).trans
    (if_pos (not_signalAddrOk_iff.mp bad))))

variable (addr : signalAddrOk t (Cmd.w c 0))
include addr

theorem exec_signal_engine (bad : dKind (signalToken c).dest = 2) : exec (.signal c) s = .next (t.finishCmd c 4 3) :=
  congrArg Host.Outcome.next ((Laws.dispatch_ready h _).trans ((if_neg (body_inForm good)).trans
    ((if_neg (fun bad => not_signalAddrOk_iff.mpr bad addr)).trans (if_pos (.inl bad)))))

/-- A SIGNAL in form stores, posts its token, raises its vector if it has one, and completes. -/
theorem exec_signal_posts (kind : dKind (signalToken c).dest ≠ 2) (form : destForm (signalToken c).dest = true) {u v : State}
    (hu : u = if Cmd.w c 0 = 0 then t else (t.store (Cmd.w c 0) (leBytes 8 (Cmd.w c 1)) false true true).2)
    (hv : v = u.send (frontSrc c.queue) (signalToken c)) : exec (.signal c) s = .next
      ((if bitOf (Cmd.w c 3) 16 then v.raise (bits (Cmd.w c 3) 10 0) else v).finishCmd c 3 0) := by
  have fits : ¬(dKind (signalToken c).dest = 2 ∨ (!destForm (signalToken c).dest) = true) := by simp [kind, form]
  subst hv hu
  exact congrArg Host.Outcome.next ((Laws.dispatch_ready h _).trans ((if_neg (body_inForm good)).trans
    ((if_neg (fun bad => not_signalAddrOk_iff.mpr bad addr)).trans (if_neg fits))))

end Signal

section Query

variable (h : Dispatches s c 6 t)
include h

theorem exec_query_malformed (bad : bodyOk c [maskBits 1 0 + maskBits 15 4, maskBits 56 6] = false ∨ 2 ≤ bits (Cmd.w c 0) 1 0
      ∨ (bits (Cmd.w c 0) 1 0 = 0 ∧ 1024 ≤ bits (Cmd.w c 0) 15 4)) : exec (.query c) s = .next (t.finishCmd c 4 3) :=
  congrArg Host.Outcome.next ((Laws.dispatch_ready h _).trans (if_pos (bad.imp_left (by simp))))

/-- A QUERY in form writes what it names, where device memory lies at RESULT. -/
theorem exec_query_wellFormed (good : bodyOk c [maskBits 1 0 + maskBits 15 4, maskBits 56 6] = true)
    (names : (bits (Cmd.w c 0) 1 0 = 0 ∧ bits (Cmd.w c 0) 15 4 < 1024) ∨ bits (Cmd.w c 0) 1 0 = 1) : exec (.query c) s = .next
      (if (!isGlobal (Cmd.w c 1)) = true ∨ (!t.physOk (Cmd.w c 1) 64 false) = true then t.finishCmd c 4 4
      else (t.store (Cmd.w c 1) ((padTo 0 8 (t.queryWords (bits (Cmd.w c 0) 1 0) (bits (Cmd.w c 0) 15 4))).flatMap
        (fun w => leBytes 8 w)) false true true).2.finishCmd c 3 0) := by
  refine congrArg Host.Outcome.next ((Laws.dispatch_ready h _).trans (if_neg ?_))
  simp only [good, Bool.not_true, Bool.false_eq_true, false_or]
  omega

end Query

/-! ## LAUNCH (R108, R450) -/

section Launch

variable (h : Dispatches s c 0 t)
include h

theorem exec_launch_refused {st : Nat} {u : State}
    (check : t.launchCheck c.body (bits (Cmd.w c 6) 31 0) (bits (Cmd.w c 5) 11 0) c.queue (sectorsOf (bits (Cmd.w c 6) 31 0)) true
      = (.error st, u)) : exec (.launch c) s = .next ((u.finishCmd c 4 st).launchAnswer c st) := by
  change execLaunch c s = _
  simp only [execLaunch, Laws.dispatch_ready h, check, jFAILED]

theorem exec_launch_performed {d : LaunchData} {u : State}
    (check : t.launchCheck c.body (bits (Cmd.w c 6) 31 0) (bits (Cmd.w c 5) 11 0) c.queue (sectorsOf (bits (Cmd.w c 6) 31 0)) true
      = (.ok d, u)) : exec (.launch c) s = .next (u.performLaunch c d) := by
  change execLaunch c s = _
  simp only [execLaunch, Laws.dispatch_ready h, check]

end Launch

/-- A launch without sections delivers nothing: its context is bound, its workers seeded, its tokens injected, and it ends as the
next step unless something holds it. -/
theorem performLaunch_of_no_section (toks : List Token) {u v : State}
    (hu : u = s.bindSlot (bits (Cmd.w c 5) 11 0) c c.body (bits (Cmd.w c 6) 31 0) 0 [])
    (hv : v = ((((u.clearFlags (bits (Cmd.w c 5) 11 0)).seedWorkers (bits (Cmd.w c 6) 31 0) c.body).injectTokens
      ((sectorsOf (bits (Cmd.w c 6) 31 0)).headD 0) toks).journal c 2 0).launchAnswer c 0) :
    s.performLaunch c { sections := [], sched := [], tokens := toks } =
      { v with inputs := .event (.contextEnd (bits (Cmd.w c 5) 11 0)) :: v.inputs } := by
  subst hv hu
  rfl

/-! ## PREEMPT (R454) -/

section Preempt

variable (h : Dispatches s c 3 t)
include h

theorem exec_preempt_malformed (bad : bodyOk c slotMasks = false) : exec (.preempt c) s = .next (t.finishCmd c 4 3) :=
  congrArg Host.Outcome.next ((Laws.dispatch_ready h _).trans (if_pos (body_malformed bad)))

theorem exec_preempt_unbound (unbound : t.contexts.find? (bits (Cmd.w c 0) 11 0) = none) :
    exec (.preempt c) s = .next (t.finishCmd c 4 3) := by
  change execPreempt c s = _
  simp only [execPreempt, Laws.dispatch_ready h, unbound, ite_self, jFAILED, sBADARG]

/-- A slot that is bound: a live context of the queue's own partition, and not one being restored, begins to drain. -/
theorem exec_preempt_bound (good : bodyOk c slotMasks = true) {x : Context}
    (bound : t.contexts.find? (bits (Cmd.w c 0) 11 0) = some x) : exec (.preempt c) s = .next
      (if (!x.live) = true ∨ t.regBits (queueReg x.queue 0) 5 1 ≠ t.regBits (queueReg c.queue 0) 5 1
          ∨ t.restores.any (fun r => r.slot == bits (Cmd.w c 0) 11 0) = true then t.finishCmd c 4 3
      else t.frontDrain (bits (Cmd.w c 0) 11 0) x (some c) 0) := by
  change execPreempt c s = _
  unfold slotMasks at good
  simp only [execPreempt, Laws.dispatch_ready h, good, bound, Bool.not_true, Bool.false_eq_true, if_false, jFAILED, sBADARG]

end Preempt

/-! ## RESUME (R458 to R460) -/

section Resume

variable {slot a old part : Nat} {pairs : List (Nat × Nat)} (h : Dispatches s c 4 t)
include h

theorem exec_resume_malformed (bad : bodyOk c slotMasks = false) : exec (.resume c) s = .next (t.finishCmd c 4 3) :=
  congrArg Host.Outcome.next ((Laws.dispatch_ready h _).trans (if_pos (body_malformed bad)))

variable (good : bodyOk c slotMasks = true) (ha : a = bits (Cmd.w c 1) 56 16 * 65536)
include good ha

theorem exec_resume_unstored (bad : isGlobal a = false ∨ t.physOk a 0x180 false = false) :
    exec (.resume c) s = .next (t.finishCmd c 4 4) := by
  subst ha
  exact congrArg Host.Outcome.next ((Laws.dispatch_ready h _).trans ((if_neg (body_inForm good)).trans
    (if_pos (bad.imp (by simp) (by simp [imageHead])))))

variable (device : isGlobal a = true) (phys : t.physOk a 0x180 false = true) (hslot : slot = bits (Cmd.w c 0) 11 0)
  (hold : old = t.imageNum (a + 8) 4) (hpart : part = if bits (Cmd.w c 2) 31 0 = 0 then old else bits (Cmd.w c 2) 31 0)
  (hpairs : pairs = (sectorsOf old).zip (sectorsOf part))
include device phys hslot hold hpart hpairs

/-- An image that has its storage, with a slot or a partition that it may not take. -/
theorem exec_resume_refused (bad : t.imageNum a 8 = 0 ∨ (t.live? (BitVec.ofNat 12 slot)).isSome = true ∨ popPart part ≠ popPart old
      ∨ (part &&& (t.partMask c.queue ^^^ (2 ^ 32 - 1))) ≠ 0 ∨ t.tooFewLines a pairs = true) :
    exec (.resume c) s = .next (t.finishCmd c 4 3) := by
  subst hpairs hpart hold hslot ha
  exact congrArg Host.Outcome.next ((Laws.dispatch_ready h _).trans ((if_neg (body_inForm good)).trans
    ((if_neg (by simp [imageHead, device, phys])).trans (if_pos bad))))

variable {r0 rec_ : List Word} {w7 : Nat}
  (fits : ¬(t.imageNum a 8 = 0 ∨ (t.live? (BitVec.ofNat 12 slot)).isSome = true ∨ popPart part ≠ popPart old
    ∨ (part &&& (t.partMask c.queue ^^^ (2 ^ 32 - 1))) ≠ 0 ∨ t.tooFewLines a pairs = true))
  (hr0 : r0 = (chunks 8 8 (t.imageBytes (a + 0x40) 64)).map (fun b => (BitVec.ofNat 64 (leNat b) : Word)))
include fits hr0

/-- The saved record goes through the checks of a launch. -/
theorem exec_resume_unchecked {st : Nat} {u : State} (check : t.launchCheck r0 part slot c.queue (sectorsOf old) false = (.error st, u)) :
    exec (.resume c) s = .next (u.finishCmd c 4 3) := by
  subst hr0 hpairs hpart hold hslot ha
  refine congrArg Host.Outcome.next ((Laws.dispatch_ready h _).trans ((if_neg (body_inForm good)).trans
    ((if_neg (by simp [imageHead, device, phys])).trans ((if_neg fits).trans ?_))))
  simp only [check, jFAILED, sBADARG]

variable {d : LaunchData} {u v : State} {cold : List (Section × Nat)}
  (check : t.launchCheck r0 part slot c.queue (sectorsOf old) false = (.ok d, u))
  (hw7 : w7 = (nth 0 r0 7).toNat)
  (hrec : rec_ = setNth (BitVec.ofNat 64 (putBits w7 36 16 (moveDest pairs (BitVec.ofNat 21 (bits w7 36 16))).toNat)) r0 7)
  (hcold : cold = d.sections.map (fun x => (x, targetOf pairs x.ps)))
include check hw7 hrec hcold

/-- A cell that may not be written gives the slot back. -/
theorem exec_resume_busy (busy : (u.bindSlot slot c rec_ part (t.imageNum (a + 0x10) 8) (cold.map (fun e => e.2))).deliverCold cold slot
      (bits w7 13 0) pairs = .error v) :
    exec (.resume c) s = .next (({ v with contexts := v.contexts.erase slot } : State).finishCmd c 4 3) := by
  subst hcold hrec hw7 hr0 hpairs hpart hold hslot ha
  refine congrArg Host.Outcome.next ((Laws.dispatch_ready h _).trans ((if_neg (body_inForm good)).trans
    ((if_neg (by simp [imageHead, device, phys])).trans ((if_neg fits).trans ?_))))
  simp only [check, busy, jFAILED, sBADARG]

/-- The saved graph is launched cold, no keeper starts, and the restore begins. -/
theorem exec_resume_launches (delivered : (u.bindSlot slot c rec_ part (t.imageNum (a + 0x10) 8) (cold.map (fun e => e.2))).deliverCold
      cold slot (bits w7 13 0) pairs = .ok v) :
    ∃ w, exec (.resume c) s = .next { w with restores := w.restores ++ [{ slot := slot, image := a, cmd := c, pairs := pairs }] }
      ∧ w = (cold.foldl (fun y e => (((y.setBits (secReg e.2 0 0) 0 0 0).loadKeeper e.1 e.2 rec_).startKeeper e.1 e.2 slot
        (bits w7 13 0) (bits (recWordOf r0 0) 55 0) false).seedSector e.1 e.2 rec_ d.sched) (v.clearFlags slot)).seedWorkers part rec_ := by
  subst hcold hrec hw7 hr0 hpairs hpart hold hslot ha
  refine ⟨_, congrArg Host.Outcome.next ((Laws.dispatch_ready h _).trans ((if_neg (body_inForm good)).trans
    ((if_neg (by simp [imageHead, device, phys])).trans ((if_neg fits).trans ?_)))), rfl⟩
  simp only [check, delivered]

end Resume

end Dispatched

end Sys2Proof.Machine
end

section
/-! O57, second part: windows and acceptance, the ends of contexts, saves and restores, partitions and the Function Level Reset
(R438 to R440, R449, R452, R454, R458, R462, R463, R491). -/

namespace Sys2Proof.Machine

/-! ## Command windows and acceptance (R438 to R441) -/

section Window

variable {s : State} {off : Nat} {data : List Byte} (low : off < 0x80000)
include low

/-- A write below the MSI-X table is discarded during a Function Level Reset, and else goes to the command lines. -/
theorem exec_commandWindowWrite : exec (.commandWindowWrite off data) s = .next
    (if s.flrHold then s else State.windowWrite (data.length + 1) s off data) :=
  congrArg Host.Outcome.next (if_neg (by omega))

/-- A write within one line is staged whole. -/
theorem windowWrite_line (fits : data.length ≤ 64 - off % 64) (nonempty : data ≠ []) : State.windowWrite (data.length + 1) s off data =
    s.stage (off / 512) (off / 64 % 8) (off % 64) data := by
  have nothing_left : ∀ (n : Nat) (t : State) (at_ : Nat), State.windowWrite n t at_ [] = t := by
    intro n t at_
    cases n with
    | zero => rfl
    | succ n => exact if_pos (.inl rfl)
  have goes : ¬(data.isEmpty = true ∨ 0x80000 ≤ off) := by simp [nonempty]; omega
  rw [State.windowWrite, if_neg goes]
  simp only [Nat.min_def, if_pos fits, List.take_length, List.drop_length, nothing_left]

end Window

/-- A whole line written at once, with nothing staged before it, is a command. -/
theorem stage_whole_line {s : State} {q line : Nat} {data : List Byte} (whole : data.length = 64)
    (fresh : (s.queue q).staging.find? line = none) : s.stage q line 0 data =
      (s.setQueue q { s.queue q with staging := (s.queue q).staging.erase line }).acceptCmd q line (stagedBody (data.map some)) none := by
  have clash : ((List.replicate 64 (none : Option Byte)).take 64).any (fun b => b.isSome) = false := by decide
  have full : (data.map some).all (fun b => b.isSome) = true := by simp
  simp only [State.stage, fresh, Option.getD_none, List.take_zero, List.nil_append, Nat.zero_add, whole, clash,
    Bool.false_eq_true, if_false, List.drop_replicate, Nat.sub_self, List.replicate_zero, List.append_nil, full, if_true]

section Accept

variable {s u : State} {q line : Nat} {body : List Word} {kp : Option (Nat × BitVec 12 × Lane)} {c : Cmd} {k : QueueSt}
  (hc : c = { queue := q, seq := s.nextSeq q, line := line, body := body, keeper := kp })
  (hu : u = ((s.journal c 1 0).setBits (queueReg q 0x18) 31 0 (s.nextSeq q + 1)).wakeUp)
include hc hu

theorem acceptCmd_disabled (off : u.regBits (queueReg q 0) 0 0 = 0) : s.acceptCmd q line body kp = u.refuseCmd c 3 := by
  subst hu hc
  exact if_pos off

variable (on : u.regBits (queueReg q 0) 0 0 = 1)
include on

theorem acceptCmd_reserved (reserved : line = 7) :
    s.acceptCmd q line body kp = { u with inputs := .event (.commandReserved c) :: u.inputs } := by
  subst hu hc
  exact (if_neg (fun off => absurd (off.symm.trans on) (by decide))).trans (if_pos reserved)

variable (hk : k = u.queue q) (used : line ≠ 7)
include hk used

theorem acceptCmd_onchip (room : k.onchip.length < 64) (empty : k.overflow = []) :
    s.acceptCmd q line body kp = u.setQueue q { k with onchip := k.onchip ++ [c] } := by
  subst hk hu hc
  exact (if_neg (fun off => absurd (off.symm.trans on) (by decide))).trans ((if_neg used).trans
    (if_pos ⟨room, List.isEmpty_iff.mpr empty⟩))

/-- A command that finds its queue and the overflow area full is refused with OVERFLOW. -/
theorem acceptCmd_full (full : 64 ≤ k.onchip.length) (full' : u.regBits (queueReg q 0x10) 23 0 ≤ k.overflow.length) :
    s.acceptCmd q line body kp = (u.setBits (queueReg q 0x20) 32 32 1).refuseCmd c 9 := by
  subst hk hu hc
  exact (if_neg (fun off => absurd (off.symm.trans on) (by decide))).trans ((if_neg used).trans
    ((if_neg (fun room => absurd room.1 (Nat.not_lt.mpr full))).trans (if_neg (Nat.not_lt.mpr full'))))

end Accept

theorem exec_commandReserved (s : State) (c : Cmd) : exec (.commandReserved c) s = .next
    (if c.line = 7 ∧ s.outstanding c.queue c.seq = true then s.refuseCmd c 3 else s) := rfl

/-- The oldest command of the overflow area takes a free slot as memory holds it (R440). -/
theorem exec_overflowAreaReturn {s t : State} {q a size : Nat} {c : Cmd} {rest : List Cmd} {k : QueueSt} {g : Got} (hk : k = s.queue q)
    (oldest : k.overflow = c :: rest) (room : k.onchip.length < 64) (hsize : size = Nat.max 1 (s.regBits (queueReg q 0x10) 23 0))
    (ha : a = s.regBits (queueReg q 0x08) 56 12 * 4096 + 64 * (k.ovfHead % size)) (load : s.load a 64 false true true = (g, t))
    (fine : g.code = 0) : exec (.overflowAreaReturn q) s = .next (t.setQueue q { k with
      onchip := k.onchip ++ [{ c with body := (chunks 8 8 g.data).map (fun b => BitVec.ofNat 64 (leNat b)) }], overflow := rest,
      ovfHead := (k.ovfHead + 1) % size }) := by
  subst ha hsize hk
  change execOverflowAreaReturn q s = _
  simp only [execOverflowAreaReturn, oldest, room, load, fine, if_true]

/-! ## The end of a context and its watchdog (R452, R462) -/

section Context

variable {s : State} {slot : Nat} {x : Context} (bound : s.contexts.find? slot = some x) (live : x.live = true)
include bound live

/-- A context that nothing holds any more, at a boundary or without a section, ends well. -/
theorem exec_contextEnd_ends (undrained : s.fdrains.find? (fun f => f.slot == slot) = none)
    (restored : s.restores.any (fun r => r.slot == slot) = false) (closing : x.closing = true ∨ x.sections = [])
    (entries : s.noEntries (BitVec.ofNat 12 slot) = true) (run : s.cmdsRun (BitVec.ofNat 12 slot) = false)
    (wait : s.cmdsWait (BitVec.ofNat 12 slot) = false) (accesses : s.accesses.any (fun a => a.fir.ctx == BitVec.ofNat 12 slot) = false) :
    exec (.contextEnd slot) s = .next (s.endContext slot 0 x) := by
  change execContextEnd slot s = _
  rw [← List.isEmpty_iff] at closing
  simp only [execContextEnd, bound, live, undrained, restored, closing, entries, run, wait, accesses, Bool.not_true, Bool.not_false,
    Bool.false_eq_true, and_self, if_true, if_false, sOK]

/-- A context that its watchdog has drained, and that is not to be saved, ends with the watchdog's status. -/
theorem exec_contextEnd_drained {f : FrontDrain} (drained : s.fdrains.find? (fun f => f.slot == slot) = some f) (dog : f.cmd = none)
    (quiet : s.quiet f = true) (unsaved : s.dogSave x = none) :
    exec (.contextEnd slot) s = .next ((s.freeEntries (BitVec.ofNat 12 slot)).endContext slot f.status x) := by
  change execContextEnd slot s = _
  simp only [execContextEnd, bound, live, drained, dog, quiet, unsaved, Option.isNone_none, Bool.not_true, Bool.false_eq_true,
    and_self, if_true, if_false]

omit live in
theorem exec_watchdogExpire_idle (idle : s.dogStatus slot x = none) : exec (.watchdogExpire slot) s = .next s := by
  change execWatchdogExpire slot s = _
  simp only [execWatchdogExpire, bound, idle, ite_self]

/-- A watchdog that expires is journaled, and its context drained where no PREEMPT drains it already. -/
theorem exec_watchdogExpire_expires {st : Nat} {u : State} (unexpired : x.expired = 0)
    (restored : s.restores.any (fun r => r.slot == slot) = false) (status : s.dogStatus slot x = some st)
    (hu : u = { s with contexts := Tab.set s.contexts slot { x with expired := st } }.journalCtx slot { x with expired := st } 9 st) :
    exec (.watchdogExpire slot) s = .next
      (if s.fdrains.any (fun f => f.slot == slot) then u else u.frontDrain slot { x with expired := st } none st) := by
  subst hu
  change execWatchdogExpire slot s = _
  simp only [execWatchdogExpire, bound, status]
  exact congrArg ok (if_neg (by simp [live, unexpired, restored]))

end Context

/-! ## Drains and saves (R454, R462) -/

section Drain

variable {s : State} {slot : Nat} {x : Context} {f : FrontDrain} (bound : s.contexts.find? slot = some x)
  (drain : s.fdrains.find? (fun f => f.slot == slot) = some f)
include bound drain

/-- A drain that is not over by its deadline resets the partition. -/
theorem exec_drainDeadlineExpire {q late : Nat} (hq : q = (match f.cmd with | some c => c.queue | none => x.queue))
    (hlate : late = Nat.max 1 (s.regBits (queueReg q 0) 63 48)) : exec (.drainDeadlineExpire slot) s = .next
      (if s.quiet f = true ∨ s.usSince f.since < late then s
        else s.resetPartition (s.partMask x.queue) (if f.cmd = none then f.status else 0xD) none (some slot)) := by
  subst hlate hq
  change execDrainDeadlineExpire slot s = _
  simp only [execDrainDeadlineExpire, bound, drain, Option.isNone_iff_eq_none, sABORTED] <;> rfl

theorem exec_saveComplete_unquiet (noisy : s.quiet f = false) : exec (.saveComplete slot) s = .next s := by
  change execSaveComplete slot s = _
  simp only [execSaveComplete, bound, drain, noisy, Bool.not_false, if_true]
  cases s.savePlace f x <;> rfl

section Quiet

variable {a cap size : Nat} {plan : List (Nat × Nat × List Byte)} (quiet : s.quiet f = true) (place : s.savePlace f x = some (a, cap))
  (image : s.imagePlan (BitVec.ofNat 12 slot) true 0x180 (sectorsOf x.part) = (plan, size))
include quiet place image

/-- A quiet context whose image fits where it goes is saved. -/
theorem exec_saveComplete_saves (fits : size ≤ cap * 65536) (device : isGlobal a = true) (phys : s.physOk a size false = true) :
    exec (.saveComplete slot) s = .next ((s.writeImage a slot x plan size).saved f x) := by
  change execSaveComplete slot s = _
  simp only [execSaveComplete, bound, drain, quiet, place, imageHead, image, fits, device, phys, Bool.not_true, Bool.false_eq_true,
    if_false, decide_true, Bool.and_self, if_true]

/-- A PREEMPT whose image does not fit fails, and its context goes on. -/
theorem exec_saveComplete_overflows {c : Cmd} (preempt : f.cmd = some c) (large : cap * 65536 < size) :
    exec (.saveComplete slot) s = .next ((s.goOn slot x).finishCmd c 4 9) := by
  change execSaveComplete slot s = _
  simp only [execSaveComplete, bound, drain, quiet, place, imageHead, image, preempt, Nat.not_le.mpr large, Bool.not_true,
    Bool.false_eq_true, if_false, decide_false, Bool.false_and, jFAILED, sOVERFLOW]

end Quiet

end Drain

/-! ## Restores (R458) -/

section Restore

variable {s : State} {slot : Nat} {x : Context} {r : Restore} (bound : s.contexts.find? slot = some x)
  (restore : s.restores.find? (fun r => r.slot == slot) = some r)
include bound restore

/-- A completed restore is over. -/
theorem exec_restoreComplete_over : ∃ t, exec (.restoreComplete slot) s = .next t ∧ ∀ q ∈ t.restores, q.slot ≠ slot := by
  change ∃ t, execRestoreComplete slot s = _ ∧ _
  simp only [execRestoreComplete, bound, restore]
  refine ⟨_, rfl, fun q hq => ?_⟩
  rw [apply_ite State.restores, ite_self] at hq
  simpa using (List.mem_filter.mp hq).2

/-- An image without a saved sector: the keepers of the sections start, what was bound passes on, and RESUMED is journaled. -/
theorem exec_restoreComplete_fresh (sections : x.sections ≠ []) (empty : ∀ p ∈ r.pairs, s.imageNum (r.image + 0x80 + 8 * p.1) 8 = 0)
    {u : State} (hu : u = ((x.sections.foldl (fun t ps => t.setBits (csr ps 0) 3 3 0) s).rebind r.image
      (bits (s.imageNum (r.image + 8) 8) 43 32) slot (frontDie x.part) x.asid).journal r.cmd 7 0) :
    exec (.restoreComplete slot) s = .next { u with
      contexts := Tab.set u.contexts slot { x with started := u.clk, mark := u.timer },
      restores := u.restores.filter (fun q => q.slot != slot) } := by
  have none_saved : (r.pairs.map (fun p => (p.2, r.image + s.imageNum (r.image + 0x80 + 8 * p.1) 8))).filter
      (fun p => p.2 != r.image) = [] := by
    refine List.filter_eq_nil_iff.mpr fun p hp => ?_
    obtain ⟨q, hq, rfl⟩ := List.mem_map.mp hp
    simp [empty q hq]
  subst hu
  change execRestoreComplete slot s = _
  simp only [execRestoreComplete, bound, restore, none_saved, List.filter_nil, List.foldl_nil, List.any_nil, Bool.not_false,
    List.filter_true, List.isEmpty_iff, sections, if_false, jRESUMED, sOK]

end Restore

/-! ## Partitions and the Function Level Reset (R449, R463, R491) -/

/-- A reset that completes: its sectors that nothing else holds are ready again, and its RESET.PART completes. -/
theorem exec_partitionResetComplete {s t u : State} {r : PartReset} (found : s.resets.find? (fun x => x.id == r.id) = some r)
    (ht : t = (sectorsOf r.mask).foldl (fun t ps =>
        if t.gated ps ∨ t.awake = false ∨ (t.waking.find? ps).isSome = true ∨ t.resets.any (fun x => bitOf x.mask ps) = true then t
        else t.setBits (frontReg 0x118) ps ps 1) { s with resets := s.resets.filter (fun x => x.id != r.id) })
    (hu : u = if t.resets = [] then { t with flrHold := false } else t) :
    exec (.partitionResetComplete r.id) s = .next (match r.cmd with | some c => u.finishCmd c 3 0 | none => u) := by
  subst hu ht
  change execPartitionResetComplete r.id s = _
  simp only [execPartitionResetComplete, found, List.isEmpty_iff, Bool.not_eq_true', State.setReady, if_true, jCOMPLETED,
    sOK] <;> rfl

/-- A partition may be written where it takes no sector of another and leaves no live context behind. -/
theorem exec_partitionWrite {s : State} {n new old : Nat} {v : Word} (hn : n < 32) (hnew : new = v.toNat % 2 ^ 32)
    (hold : old = s.regBits (frontReg (8 * n)) 31 0) : exec (.partitionWrite n v) s = .next
      (if (∃ k, k < 32 ∧ k ≠ n ∧ s.regBits (frontReg (8 * k)) 31 0 &&& new ≠ 0) ∨ (new ≠ old ∧ s.liveOn old ≠ [])
        then s.setBits (frontReg 0x120) 0 0 1 else s.setReg (frontReg (8 * n)) (BitVec.ofNat 64 new)) := by
  subst hold hnew
  have others : ((upTo 32).any (fun k => k != n && (s.regBits (frontReg (8 * k)) 31 0 &&& v.toNat % 2 ^ 32) != 0)) = true ↔
      ∃ k, k < 32 ∧ k ≠ n ∧ s.regBits (frontReg (8 * k)) 31 0 &&& v.toNat % 2 ^ 32 ≠ 0 := by
    simp [upTo]
  refine congrArg Host.Outcome.next ((if_pos hn).trans ?_)
  simp only [← others]

/-- A Function Level Reset refuses what the queues hold, resets every partition and disables every queue, in this order. -/
theorem exec_flr {s t u v : State} (ht : t = (s.queues.map (fun e => e.1)).foldl (fun t q => t.abortQueue q) s)
    (hu : u = (upTo 32).foldl (fun t n => if t.regBits (frontReg (8 * n)) 31 0 = 0 then t
      else t.resetPartition (t.regBits (frontReg (8 * n)) 31 0) 0xD none none) t)
    (hv : v = (upTo 1024).foldl (fun t q => if (t.reg (queueReg q 0)).getLsbD 0 then t.setBits (queueReg q 0) 0 0 0 else t) u) :
    exec .flr s = .next { v with flrHold := !v.resets.isEmpty } := by
  have run : exec .flr s = execFlr s := rfl
  rw [run, execFlr]
  simp only [sABORTED, ← ht, ← hu, ← hv]
/-- Settles O57: for each command, event and register of the front, one lemma for each thing that it can do. -/
theorem frontCommands : Obligations.FrontCommands := by
  unfold Obligations.FrontCommands
  refine ⟨fun s c => exec_undispatched, fun s c st e => ⟨rfl, fun off => journal_off off c st e, completeSeq_in_turn⟩,
    fun s t c h => ?wait, fun s t c h => ?signal, ?query, fun s t c h => ⟨fun st u => exec_launch_refused h,
      fun d u => exec_launch_performed h⟩, fun s u c toks hu v hv => performLaunch_of_no_section toks hu hv, ?preempt, ?resume,
    fun s t c h => ?reset, fun s c => ?reserved, fun s off data => ⟨fun low hold => ?held, fun low accepts fits nonempty => ?staged,
      fun q line k whole hk fresh => ?line⟩, ?accept,
    fun s t q a c rest k g hk oldest room size hsize ha load => exec_overflowAreaReturn hk oldest room hsize ha load,
    fun s slot x bound live => ⟨exec_contextEnd_ends bound live, fun f => exec_contextEnd_drained bound live, fun st => rfl,
      fun st u unexpired restored status hu => ?watchdog, exec_watchdogExpire_idle bound⟩,
    fun s slot x f bound drain => ⟨fun q late hq hlate => ?deadline, ?save, exec_saveComplete_unquiet bound drain⟩,
    fun s slot x r u bound sections restore empty => exec_restoreComplete_fresh bound restore sections empty,
    fun s slot x r => exec_restoreComplete_over, fun s t r found ht u hu => ?complete, fun s n new old v hn hnew hold => ?partition, ?flr⟩
  case wait =>
    rw [exec_wait h]
    exact ⟨fun good => by rw [if_pos good], fun bad => by rw [if_neg (by simp [bad])]⟩
  case signal =>
    refine ⟨exec_signal_malformed h, exec_signal_badAddr h, exec_signal_engine h, fun u v good addr kind form hu hv => ?_⟩
    rw [exec_signal_posts h good addr kind form hu hv]
    exact ⟨fun vector => by rw [if_pos vector], fun other => by rw [if_neg (by simp [other])]⟩
  case query =>
    rintro s t c _ _ h rfl rfl
    refine ⟨exec_query_malformed h, fun good names => ?_⟩
    rw [exec_query_wellFormed h good names]
    exact ⟨fun bad => by rw [if_pos (by simpa using bad)], fun device phys => by rw [if_neg (by simp [device, phys])]⟩
  case preempt =>
    rintro s t c _ h rfl
    refine ⟨exec_preempt_malformed h, exec_preempt_unbound h, fun x good bound => ?_⟩
    rw [exec_preempt_bound h good bound]
    exact ⟨fun bad => by rw [if_pos (by simpa using bad)], fun live own restored => by rw [if_neg (by simp [live, own, restored])]⟩
  case resume =>
    intro s t c slot a old part pairs h hslot ha hold hpart hpairs
    refine ⟨exec_resume_malformed h, fun good => exec_resume_unstored h good ha, fun good device phys =>
      ⟨exec_resume_refused h good ha device phys hslot hold hpart hpairs, fun r0 rec_ w7 written free same own lines hr0 hw7 hrec => ?_⟩⟩
    have fits : ¬(t.imageNum a 8 = 0 ∨ (t.live? (BitVec.ofNat 12 slot)).isSome = true ∨ popPart part ≠ popPart old
        ∨ (part &&& (t.partMask c.queue ^^^ (2 ^ 32 - 1))) ≠ 0 ∨ t.tooFewLines a pairs = true) := by
      simp only [not_or]
      exact ⟨written, by simp [free], not_not.mpr same, not_not.mpr own, by simp [lines]⟩
    exact ⟨fun st u => exec_resume_unchecked h good ha device phys hslot hold hpart hpairs fits hr0,
      fun d u cold v check hcold => exec_resume_busy h good ha device phys hslot hold hpart hpairs fits hr0 check hw7 hrec hcold,
      fun d u cold v check hcold => exec_resume_launches h good ha device phys hslot hold hpart hpairs fits hr0 check hw7 hrec hcold⟩
  case reset =>
    rw [exec_resetPart h]
    exact ⟨fun good => by rw [if_pos good], fun bad => by rw [if_neg (by simp [bad])]⟩
  case reserved =>
    rw [exec_commandReserved]
    exact ⟨fun line out => by rw [if_pos ⟨line, out⟩], fun done => by rw [if_neg (by simp [done])]⟩
  case held => rw [exec_commandWindowWrite low, if_pos hold]
  case staged => rw [exec_commandWindowWrite low, if_neg (by simp [accepts]), windowWrite_line low fits nonempty]
  case line =>
    subst hk
    exact stage_whole_line whole fresh
  case accept =>
    exact fun s u q line body kp c k hc hu hk => ⟨acceptCmd_disabled hc hu, fun on => ⟨acceptCmd_reserved hc hu on,
      acceptCmd_onchip hc hu on hk, acceptCmd_full hc hu on hk⟩⟩
  case watchdog =>
    rw [exec_watchdogExpire_expires bound live unexpired restored status hu]
    exact ⟨fun drains => by rw [if_pos drains], fun other => by rw [if_neg (by simp [other])]⟩
  case deadline =>
    rw [exec_drainDeadlineExpire bound drain hq hlate]
    exact ⟨fun noisy late => by rw [if_neg (by simp [noisy, late])], fun early => by rw [if_pos (.inr early)]⟩
  case save =>
    exact fun a cap plan size quiet place image => ⟨exec_saveComplete_saves bound drain quiet place image,
      fun c => exec_saveComplete_overflows bound drain quiet place image⟩
  case complete =>
    rw [exec_partitionResetComplete found ht hu]
    exact ⟨fun c cmd => by rw [cmd], fun asked => by rw [asked]⟩
  case partition =>
    rw [exec_partitionWrite hn hnew hold]
    refine ⟨fun bad => by rw [if_pos bad], fun apart ends => congrArg Host.Outcome.next (if_neg ?_)⟩
    rintro (⟨k, hk, other, shared⟩ | ⟨changed, holds⟩)
    · exact shared (apart k hk other)
    · exact ends.elim changed holds
  case flr => exact fun s t u v => exec_flr

end Sys2Proof.Machine
end

section
/-! O55: the link engines' commands: transfers, signals, joins, collectives, fence and statistics (R418 to R433). -/

namespace Sys2Proof.Machine

/-- A link command that heads its inbox and passes its checks is performed (R103, R418). -/
theorem lnCmd_heads {s : State} {m : Token} {l d lanes flags : Nat} (h : Heads s m (.link l d) true lanes flags) (f : State → State) :
    s.lnCmd m lanes flags f = f s := by
  simp only [State.lnCmd, h.1, Laws.command_heads h]

/-- A command that has no holds yet and gets them all goes on with them (R377). -/
theorem withHolds_taken {s v : State} {m : Token} {holds frames h : List Nat}
    (take : s.takeHolds holds (frames.filter (fun f => !holds.contains (s.holdFrame f))) = (h, [], v)) (nums : List Nat)
    (k : List Nat → State → State) : s.withHolds m holds frames nums k = k h v := by
  simp only [State.withHolds, take]

/-! ## Put and get (R422) -/

section Transfer

variable {s : State} {m : Token} {l d : Nat} {put : Bool} (h : Heads s m (.link l d) true 8 0)

/-- `ln.put` and `ln.get` are transfers. -/
theorem exec_transfer {i : Instr} (kind : (i = .lnPut m ∧ put = true) ∨ (i = .lnGet m ∧ put = false)) :
    exec i s = .next (s.transfer m put) := by
  obtain ⟨rfl, rfl⟩ | ⟨rfl, rfl⟩ := kind <;> rfl

section Begins

variable (idle : s.busyOf m = none)

include h idle in
theorem transfer_begins : s.transfer m put = s.beginTransfer m put [] := by
  rw [State.transfer, lnCmd_heads h, idle]

/-- Operands out of form end a transfer before any page is found. -/
theorem beginTransfer_malformed (bad : 2 ^ 56 ≤ qOp m 1 ∨ 2 ^ 56 ≤ qOp m 2 ∨ qOp m 3 = 0 ∨ 2 ^ 32 ≤ qOp m 3) :
    s.beginTransfer m put [] = s.finish m 3 0 [0] := if_pos bad

/-- A transfer in range whose pages are all found, local where they must be, and held, stands at its first chunk. -/
theorem beginTransfer_holds (form : transferOk m) {src dst : Tab (Nat × Bool)} {t u v : State} {held : List Nat}
    (hsrc : s.linkPages (dDie m.dest) m.ctx (s.takenAsid m) false (!put) (pagesOf (qOp m 2) (qOp m 3)) = (.ok src, t))
    (hdst : t.linkPages (dDie m.dest) m.ctx (s.takenAsid m) true put (pagesOf (qOp m 1) (qOp m 3)) = (.ok dst, u))
    (own : (if put then u.localOk src (qOp m 2) (qOp m 3) else u.localOk dst (qOp m 1) (qOp m 3)) = true)
    (take : u.takeHolds [] (pageFrames (if put then src else dst)) = (held, [], v)) :
    s.beginTransfer m put [] = v.setBusy m (transferBusy m src dst held (v.transferShared m src dst)) := by
  obtain ⟨_, _, _, _, _, _⟩ := form
  have take' : u.takeHolds [] ((pageFrames (if put then src else dst)).filter (fun f => !([] : List Nat).contains (u.holdFrame f)))
      = (held, [], v) := by
    simpa using take
  refine (if_neg (by omega)).trans ((if_neg (by omega)).trans ?_)
  simp only [hsrc, hdst, own, Bool.not_true, Bool.false_eq_true, if_false, withHolds_taken take']
  rfl

end Begins

include h in
/-- A transfer that has chunks left, none of which has failed, moves one more. -/
theorem transfer_moves {b : Busy} (busy : s.busyOf m = some b) (phase : b.phase = 50) (more : nth 0 b.nums 0 < qOp m 3)
    (fine : nth 0 b.nums 1 = 0) : s.transfer m put = if put then s.putChunk b else s.getChunk b := by
  simp only [State.transfer, lnCmd_heads h, busy]
  rw [if_neg (by omega), if_pos ⟨phase, more, fine⟩]

end Transfer

/-! ## Signals (R423) -/

section Signal

variable {s u : State} {m : Token} {l d : Nat} {x : Xlation} (h : Heads s m (.link l d) true 8 0) (idle : s.busyOf m = none)
  (low : qOp m 1 < 2 ^ 56) (aligned : qOp m 1 % 8 = 0) (notice : qOp m 3 < 2 ^ 44)
  (form : destForm (BitVec.ofNat 21 (bits (qOp m 3) 20 0)) = true) (kind : dKind (BitVec.ofNat 21 (bits (qOp m 3) 20 0)) ≠ 2)
include low aligned notice form kind

/-- Operands of a signal that keep their limits are none that the model refuses. -/
theorem signal_inForm : ¬(2 ^ 56 ≤ qOp m 1 ∨ qOp m 1 % 8 ≠ 0 ∨ 2 ^ 44 ≤ qOp m 3
    ∨ (!destForm (BitVec.ofNat 21 (bits (qOp m 3) 20 0))) = true ∨ dKind (BitVec.ofNat 21 (bits (qOp m 3) 20 0)) = 2) := by
  simp only [form, kind, Bool.not_true, Bool.false_eq_true, or_false]
  omega

variable (walk : s.engineXlate (dDie m.dest) m.ctx (s.takenAsid m) (qOp m 1) true = (.ok x, u))
include h idle walk

theorem exec_lnSignal_unreadable (unreadable : x.read = false) : exec (.lnSignal m) s = .next (u.signalEnd m 6 0) := by
  change execLnSignal m s = _
  rw [execLnSignal, lnCmd_heads h]
  refine congrArg ok ((if_neg (by simp [idle])).trans ((if_neg (signal_inForm low aligned notice form kind)).trans ?_))
  simp only [walk, unreadable, Bool.not_false, if_true, sPERM]

variable (readable : x.read = true)
include readable

/-- A target of this module: the add is performed at once, and a poisoned target is not updated. -/
theorem exec_lnSignal_here {pa : Nat} {g : Got} {v : State} (here : u.target (dDie m.dest) (x.pa (qOp m 1)) = .here pa)
    (add : u.atomic pa 8 (fun old => (atomAct 0x190 8 (qOp m 2) 0 old).1) = (g, v)) (fine : g.code = 0) :
    exec (.lnSignal m) s = .next
      (if g.poison then v.signalEnd m 7 (leNat g.data) else v.signalAdded m (leNat g.data)) := by
  change execLnSignal m s = _
  rw [execLnSignal, lnCmd_heads h]
  refine congrArg ok ((if_neg (by simp [idle])).trans ((if_neg (signal_inForm low aligned notice form kind)).trans ?_))
  simp only [walk, readable, here, add, fine, Bool.not_true, Bool.false_eq_true, ne_eq, not_true_eq_false, if_false, sPOISON]

/-- A target of another module: the add is sent there. -/
theorem exec_lnSignal_away {dev off : Nat} (away : u.target (dDie m.dest) (x.pa (qOp m 1)) = .away dev off) :
    exec (.lnSignal m) s = .next ((u.waitBusy m 51 [] []).remoteSend (linkDie m) (Remote.make dev off 2 0x190 8
      (leBytes 8 (qOp m 2)) 0 false (.command (inboxKey m.dest)) (linkSource m))) := by
  change execLnSignal m s = _
  rw [execLnSignal, lnCmd_heads h]
  refine congrArg ok ((if_neg (by simp [idle])).trans ((if_neg (signal_inForm low aligned notice form kind)).trans ?_))
  simp only [walk, readable, away, Bool.not_true, Bool.false_eq_true, if_false]

end Signal

/-- A signal without a notice ends with the value its add found. -/
theorem signalAdded_silent {s : State} {m : Token} (silent : dKind (BitVec.ofNat 21 (bits (qOp m 3) 20 0)) = 0) (old : Nat) :
    s.signalAdded m old = s.signalEnd m 0 old := if_pos silent

/-- A notice to this module enters the switch at once. -/
theorem signalAdded_own {s : State} {m : Token} (kind : dKind (BitVec.ofNat 21 (bits (qOp m 3) 20 0)) ≠ 0) (valid : s.devValid = true)
    (own : bits (qOp m 3) 31 21 = s.ownDev (linkDie m)) (old : Nat) : s.signalAdded m old =
      (s.send (portOf m.dest) (noticeToken (BitVec.ofNat 21 (bits (qOp m 3) 20 0)) (BitVec.ofNat 12 (bits (qOp m 3) 43 32))
        (bits (qOp m 3) 31 21) ((old + qOp m 2) % 2 ^ 64))).signalEnd m 0 old :=
  (if_neg kind).trans (if_pos ⟨valid, own⟩)

/-! ## Joining and leaving (R425, R426) -/

section Join

variable {s u v : State} {m : Token} {l d n : Nat} {pages : Tab (Nat × Bool)} {bs : List (Byte × Bool)} {list : List Nat}
  (h : Heads s m (.link l d) true 6 0x1FC000) (hn : n = qOp m 2 + 1) (join : bitOf (lane0 m) 20 = false)
  (free : s.groups.find? (gidOf m) = none) (low : qOp m 1 < 2 ^ 56) (aligned : qOp m 1 % 2 = 0) (few : n ≤ 2048)
  (inside : qOp m 1 + 2 * n ≤ 2 ^ 56)
  (walk : s.linkPages (dDie m.dest) m.ctx (s.takenAsid m) false false (pagesOf (qOp m 1) (2 * n)) = (.ok pages, u))
  (own : u.localOk pages (qOp m 1) (2 * n) = true)
  (read : u.readBytes (pageReaches pages (2 * n + 1) (qOp m 1) (2 * n)) = (bs, v)) (hlist : list = listOf (bs.map (fun b => b.1)) n)
  (clean : ∀ b ∈ bs, b.2 = false)
include h hn join free low aligned few inside walk own read hlist clean

/-- A join whose list has been read without poison: the list is checked, and the group waits for the other members. -/
theorem exec_lnJoin : exec (.lnJoin m) s = .next
    (if (v.groups.find? (gidOf m)).isSome = true ∨ list.any (fun x => decide (2048 ≤ x)) = true ∨ list.eraseDups.length ≠ n
        ∨ (!list.contains (v.ownDev (linkDie m))) = true ∨ (!v.devValid) = true then v.collAnswer m 3 0
    else (v.setGroup (gidOf m) ((v.earlyJoins.filter (fun e => e.1 == gidOf m && decide (e.2.1 < n))).foldl (fun x e =>
      { x with heard := Tab.set x.heard e.2.1 e.2.2 }) (joiningGroup v m list
        [(list.idxOf (v.ownDev (linkDie m)), Config.listDigest list)]))).joinCheck (gidOf m)) := by
  subst hlist hn
  have unpoisoned : bs.any (fun b => b.2) = false := by simpa using clean
  change execLnJoin m s = _
  rw [execLnJoin, lnCmd_heads h]
  refine congrArg ok ((if_neg (by simp [join, free])).trans ((if_neg (by omega)).trans ((if_neg (by omega)).trans ?_)))
  simp only [walk, own, read, unpoisoned, Bool.not_true, Bool.false_eq_true, if_false]
  rfl

end Join

section Leave

variable {s : State} {m : Token} {l d : Nat} (h : Heads s m (.link l d) true 6 0x1FC000) (leave : bitOf (lane0 m) 20 = true)
  (none1 : qOp m 1 = 0) (none2 : qOp m 2 = 0)
include h leave none1 none2

theorem exec_lnJoinLeave_unknown (unknown : s.groups.find? (gidOf m) = none) :
    exec (.lnJoinLeave m) s = .next (s.collAnswer m 3 0) := by
  change execLnJoinLeave m s = _
  simp [execLnJoinLeave, lnCmd_heads h, leave, none1, none2, unknown, sBADARG]

/-- A bound group is freed once no collective is in progress on it. -/
theorem exec_lnJoinLeave_known {g : Group} (known : s.groups.find? (gidOf m) = some g) : exec (.lnJoinLeave m) s = .next
    (if g.bound = false then s.collAnswer m 3 0 else if ∃ c ∈ s.colls, c.gid = gidOf m then s
      else (s.freeGroup (gidOf m)).collAnswer m 0 0) := by
  change execLnJoinLeave m s = _
  simp [execLnJoinLeave, lnCmd_heads h, leave, none1, none2, known, sBADARG, sOK]

end Leave

/-! ## Collectives (R426 to R428, R431) -/

/-- The five collectives differ in the lanes of their message alone. -/
theorem exec_collective {c : Token → Instr} {lanes : Nat}
    (hc : (c, lanes) ∈ [(Instr.lnAllred, 8), (.lnRedsc, 8), (.lnAllgath, 8), (.lnBcast, 8), (.lnBarrier, 2)]) (s : State) (m : Token) :
    exec (c m) s = .next (s.collective m lanes) := by
  simp only [List.mem_cons, Prod.mk.injEq, List.not_mem_nil, or_false] at hc
  obtain ⟨rfl, rfl⟩ | ⟨rfl, rfl⟩ | ⟨rfl, rfl⟩ | ⟨rfl, rfl⟩ | ⟨rfl, rfl⟩ := hc <;> rfl

section Collective

variable {s : State} {m : Token} {l d lanes : Nat} (h : Heads s m (.link l d) true lanes 0xFFFFFF00)
include h

theorem collective_unknown (unknown : s.groups.find? (gidOf m) = none) : s.collective m lanes = s.collAnswer m 3 0 := by
  simp only [State.collective, lnCmd_heads h, unknown, sBADARG]

variable {g : Group} (known : s.groups.find? (gidOf m) = some g)
include known

/-- A collective that has begun goes on once what it waited for has come. -/
theorem collective_resumed {x : Coll} (begun : s.colls.find? (fun x => x.gid == gidOf m && x.msg == m) = some x)
    (resumed : (s.resumed m).isSome = true) :
    s.collective m lanes = if x.running then (s.clearBusy m).collFinish x g else s.collCheck (gidOf m) := by
  rw [State.collective, lnCmd_heads h]
  simp only [known, begun]
  exact if_neg (by simpa [Option.isSome_iff_ne_none] using resumed)

variable (fresh : s.colls.find? (fun x => x.gid == gidOf m && x.msg == m) = none)
include fresh

theorem collective_refused
    (refused : g.bound = false ∨ g.broken = true ∨ g.leaving = true ∨ g.inbox ≠ inboxKey m.dest ∨ g.ctx ≠ m.ctx) :
    s.collective m lanes = s.collAnswer m 3 0 := by
  rw [State.collective, lnCmd_heads h]
  simp only [known, fresh]
  exact if_pos (refused.imp_left (by simp))

section Begins

variable (bound : g.bound = true) (whole : g.broken = false) (stays : g.leaving = false) (inbox : g.inbox = inboxKey m.dest)
  (ctx : g.ctx = m.ctx) {nums holds : List Nat} (resumed : s.resumed m = some (nums, holds))
include bound whole stays inbox ctx resumed

/-- A collective that fails a check begins with an invalid descriptor. -/
theorem collective_invalid {st : Nat} {u : State}
    (pages : s.collPages m (s.takenAsid m) (collDesc m true) g.list.length = (.error st, u)) :
    s.collective m lanes = (u.dropHolds holds).collBegin m g st [] [] [] := by
  rw [State.collective, lnCmd_heads h]
  simp only [known, fresh]
  refine (if_neg (by simp [bound, whole, stays, inbox, ctx])).trans ?_
  simp only [resumed, pages]

/-- A collective whose pages are found and held begins. -/
theorem collective_begins {src dst : Tab (Nat × Bool)} {u v : State} {held : List Nat}
    (pages : s.collPages m (s.takenAsid m) (collDesc m true) g.list.length = (.ok (src, dst), u))
    (take : u.takeHolds holds ((pageFrames src ++ (pageFrames dst).filter (fun f => !(pageFrames src).contains f)).filter
      (fun f => !holds.contains (u.holdFrame f))) = (held, [], v)) :
    s.collective m lanes = v.collBegin m g 0 src dst held := by
  rw [State.collective, lnCmd_heads h]
  simp only [known, fresh]
  refine (if_neg (by simp [bound, whole, stays, inbox, ctx])).trans ?_
  simp only [resumed, pages, withHolds_taken take, sOK]

end Begins

end Collective

/-! ## Fence and statistics (R432, R433) -/

theorem exec_lnFence {s : State} {m : Token} {l d : Nat} (h : Heads s m (.link l d) true 2 0xFF00)
    (clear : s.inboxesClear m (bits (lane0 m) 15 8) 8 = true) : exec (.lnFence m) s = .next (s.finish m 0 0 []) := by
  change execLnFence m s = _
  rw [execLnFence, lnCmd_heads h, State.fenceCmd, if_pos clear, sOK]

theorem exec_lnStat {s : State} {m : Token} {l d : Nat} (h : Heads s m (.link l d) true 2 0x100) : exec (.lnStat m) s = .next
    ((if bitOf (lane0 m) 8 then linkCounts.foldl (fun u o => u.setReg (linkReg (linkDie m) 0 o) 0) s else s).finish m 0 0
      (linkCounts.map (fun o => lo32 (s.reg (linkReg (linkDie m) 0 o))) ++ [lo32 (s.regRead (linkReg (linkDie m) 0 0x10))])) := by
  change execLnStat m s = _
  rw [execLnStat, lnCmd_heads h]
  rfl

/-- Settles O55: one lemma for each thing that each command can do; the two transfers and the five collectives share theirs. -/
theorem linkCommands : Obligations.LinkCommands := by
  unfold Obligations.LinkCommands
  refine ⟨fun s m i put l d kind h => ?transfer, ?signal, ?join, fun s m l d h leave none1 none2 =>
    ⟨exec_lnJoinLeave_unknown h leave none1 none2, fun g known => ?leave⟩, fun s m l d lanes c hc h => ?collective,
    fun s m l d => ⟨exec_lnFence, exec_lnStat⟩⟩
  case transfer =>
    rw [exec_transfer kind]
    refine ⟨fun src t dst u held v idle form hsrc hdst own take => ?_, fun idle bad => ?_, fun b busy phase more fine => ?_⟩
    · rw [transfer_begins h idle, beginTransfer_holds form hsrc hdst own take]
    · rw [transfer_begins h idle, beginTransfer_malformed bad]
    · rw [transfer_moves h busy phase more fine]
  case signal =>
    intro s m l d x u h idle low aligned notice form kind walk
    refine ⟨exec_lnSignal_unreadable h idle low aligned notice form kind walk, fun pa g v readable here add fine => ?_,
      fun dev off readable => exec_lnSignal_away h idle low aligned notice form kind walk readable⟩
    rw [exec_lnSignal_here h idle low aligned notice form kind walk readable here add fine]
    refine ⟨fun bad => by rw [if_pos bad], fun good silent => ?_, fun good loud valid own => ?_⟩
    · rw [if_neg (by simp [good]), signalAdded_silent silent]
    · rw [if_neg (by simp [good]), signalAdded_own loud valid own]
  case join =>
    rintro s u v m l d n gid pages bs list h rfl hn join free low aligned few inside walk own read hlist clean
    rw [exec_lnJoin h hn join free low aligned few inside walk own read hlist clean]
    refine ⟨fun free' ids distinct member valid => ?_, fun stranger => ?_⟩
    · rw [if_neg]
      simp only [free', distinct, member, valid, not_or]
      exact ⟨by simp, by simpa using ids, by simp⟩
    · rw [if_pos (.inr (.inr (.inr (.inl (by rw [stranger]; rfl)))))]
  case leave =>
    rw [exec_lnJoinLeave_known h leave none1 none2 known]
    refine ⟨fun unbound => by rw [if_pos unbound], fun bound done => ?_, fun c bound hc same => ?_⟩
    · rw [if_neg (by simp [bound]), if_neg (by simpa using done)]
    · rw [if_neg (by simp [bound]), if_pos ⟨c, hc, same⟩]
  case collective =>
    rw [exec_collective hc]
    refine ⟨fun unknown => by rw [collective_unknown h unknown], fun g known fresh => ⟨fun refused => ?_,
      fun bound whole stays inbox ctx nums holds resumed => ⟨fun st u pages => ?_, fun src dst u held v pages take => ?_⟩⟩,
      fun g x known begun resumed => ?_⟩
    · rw [collective_refused h known fresh refused]
    · rw [collective_invalid h known fresh bound whole stays inbox ctx resumed pages]
    · rw [collective_begins h known fresh bound whole stays inbox ctx resumed pages take]
    · rw [collective_resumed h known begun resumed]

end Sys2Proof.Machine
end

section
/-! O56: the link engines' own steps: replies and failures, ports, inbound requests, digests, descriptors, contributions and notices
(R409 to R417, R423, R425 to R428). -/

namespace Sys2Proof.Machine

/-! ## Replies and failures (R412, R417) -/

section Reply

variable {s : State} {id : Nat} {r : Remote} (asked : s.remotes.find? (fun r => r.id == id && r.kind != 4) = some r)
include asked

/-- A reply ends its request with as many bytes as were asked for, and with none where it refuses. -/
theorem exec_remoteReply (d : RemoteData) : exec (.remoteReply id d) s = .next (s.remoteDone r { d with
    data := if d.code = 0 then padTo 0 (if r.kind = 0 then r.size else if r.kind = 2 then atomReply r.atom r.size else 0) d.data else [] }) := by
  change execRemoteReply id d s = _
  simp only [execRemoteReply, State.remote?, asked]

variable {f : State} (hf : f = (s.bump (linkReg r.die 0 0xA0) 1).remoteDone r { code := 0x13, data := [], poison := false })
include hf

theorem exec_deviceUnreachable : exec (.deviceUnreachable id) s = .next f := by
  subst hf
  change execDeviceUnreachable id s = _
  simp only [execDeviceUnreachable, State.remote?, asked, State.remoteFails, fLINK]

theorem exec_remoteRequestTimeout : exec (.remoteRequestTimeout id) s = .next
    (if Nat.max 1 (s.regBits (linkReg r.die 0 8) 15 0) ≤ s.usSince r.since then f else s) := by
  subst hf
  change execRemoteRequestTimeout id s = _
  simp only [execRemoteRequestTimeout, State.remote?, asked, State.remoteFails, fLINK]

end Reply

section Done

variable {s t : State} {r : Remote} {d : RemoteData} (ht : t = { s with remotes := s.remotes.filter (fun x => x.id != r.id) })
include ht

/-- An answer goes to the keeper, the access or the command that asked. -/
theorem remoteDone_keeper {ps : Nat} (who : r.who = .keeper ps) : s.remoteDone r d = t.keeperReplied ps r d := by
  subst ht
  simp only [State.remoteDone, who]

theorem remoteDone_access {id j : Nat} (who : r.who = .access id j) : s.remoteDone r d = t.accessReplied id j d := by
  subst ht
  simp only [State.remoteDone, who]

theorem remoteDone_command {key : Nat} (who : r.who = .command key) : s.remoteDone r d = t.commandReplied key r d := by
  subst ht
  simp only [State.remoteDone, who]

end Done

/-! ## Ports (R409, R415, R416) -/

section Port

variable {s : State} {l port : Nat}

/-- A replayed flit is counted; a lane that fails is dropped and logged. -/
theorem exec_flitReplay (hl : l < 2) (hport : port < 8) (drop : Bool) : exec (.flitReplay l port drop) s = .next
    (if drop then (((s.bump (linkReg l 0 0x98) 1).setBits (linkReg l 0 0x10) (8 + port) (8 + port) 1).logError
      { source := 8, severity := 0, loc := linkReg l 0 (8 * port), detail := Config.freeWord s.free % 8 }).useFree
    else s.bump (linkReg l 0 0x98) 1) := congrArg Host.Outcome.next (if_neg (by omega))

theorem exec_portUp_trained (hl : l < 2) (hport : port < 8) (valid : s.devValid = true)
    (down : s.regBits (linkReg l 0 0x10) port port = 0) : exec (.portUp l port) s = .next
      (((s.setBits (linkReg l 0 0x10) port port 1).setBits (linkReg l 0 0x10) (8 + port) (8 + port) 0).setCust
        { s.cust with lanes := s.cust.lanes.filter (fun x => !(x.1 == l && x.2.1 == port)) }) :=
  congrArg Host.Outcome.next (if_pos ⟨valid, hl, hport, down⟩)

theorem exec_portUp_unnamed (unnamed : s.devValid = false) : exec (.portUp l port) s = .next s :=
  congrArg Host.Outcome.next (if_neg fun up => Bool.false_ne_true (unnamed.symm.trans up.1))

theorem exec_portDown (hl : l < 2) (hport : port < 8) {u : State} (hu : u = s.setBits (linkReg l 0 0x10) port port 0) :
    exec (.portDown l port) s = .next { u with
      remotes := u.remotes.map (fun r => if r.die = l ∧ r.port = port then { r with port := (u.portFor l r.dev).getD 8 } else r) } := by
  subst hu
  exact congrArg Host.Outcome.next (if_pos ⟨hl, hport⟩)

end Port

/-! ## Inbound requests (R411 to R413, R483) -/

section Inbound

variable {s : State} {l : Nat} {r : Inbound}

/-- A request that was answered before is discarded. -/
theorem exec_inboundRequest_resent (resent : (s.inboundDone.any (fun x => x.1 == r.src && x.2.1 == r.req)) = true) :
    exec (.inboundRequest l r) s = .next s := congrArg Host.Outcome.next (if_pos (.inl resent))

section New

variable (sized : r.size ≠ 0) (new : (s.inboundDone.any (fun x => x.1 == r.src && x.2.1 == r.req)) = false)
include sized new

/-- The request is new and not empty. -/
theorem inbound_goes : ¬(s.inboundDone.any (fun x => x.1 == r.src && x.2.1 == r.req) = true ∨ r.size = 0) := by
  simp [sized, new]

/-- In P2 it waits for P0; in P3 the module is not reached. -/
theorem exec_inboundRequest_asleep (asleep : s.awake = false) : exec (.inboundRequest l r) s = .next
    (if s.regBits (custReg 0x38) 3 2 = 3 then s else s.inboundHold l r) :=
  congrArg Host.Outcome.next ((if_neg (inbound_goes sized new)).trans (if_pos (by simp [asleep])))

section Awake

variable (awake : s.awake = true)
include awake

theorem exec_inboundRequest_outside (bad : isGlobal r.off = false ∨ s.physOk r.off r.size (decide (2 ≤ r.kind)) = false) :
    exec (.inboundRequest l r) s = .next (s.inboundRefuse l r 7) :=
  congrArg Host.Outcome.next ((if_neg (inbound_goes sized new)).trans ((if_neg (by simp [awake])).trans
    (if_pos (bad.imp (by simp) (by simp)))))

variable (device : isGlobal r.off = true) (phys : s.physOk r.off r.size (decide (2 ≤ r.kind)) = true)
include device phys

theorem exec_inboundRequest_unpermitted (shut : s.windowPermits l r.off r.size (r.kind != 1) (r.kind != 0) = false) :
    exec (.inboundRequest l r) s = .next (s.inboundRefuse l r 9) :=
  congrArg Host.Outcome.next ((if_neg (inbound_goes sized new)).trans ((if_neg (by simp [awake])).trans
    ((if_neg (by simp [device, phys])).trans (if_pos (by simp [shut])))))

variable (permitted : s.windowPermits l r.off r.size (r.kind != 1) (r.kind != 0) = true)
include permitted

/-- A request that is permitted waits behind an earlier one of its source to the same address. -/
theorem exec_inboundRequest_behind (behind : s.inboundBehind r = true) : exec (.inboundRequest l r) s = .next (s.inboundHold l r) :=
  congrArg Host.Outcome.next ((if_neg (inbound_goes sized new)).trans ((if_neg (by simp [awake])).trans
    ((if_neg (by simp [device, phys])).trans ((if_neg (by simp [permitted])).trans (if_pos behind)))))

variable (first : s.inboundBehind r = false) {held : List Nat} {t : State}
  (take : s.takeHolds [] (if r.kind = 0 then [] else (pagesOf r.off r.size).map (fun p => p * 65536)) = (held, [], t))
include first take

/-- A request that has its holds is performed, an atomic only in its home's turn. -/
theorem exec_inboundRequest_first : exec (.inboundRequest l r) s = .next
    (if r.kind < 2 then (((t.inboundPerform r).2.dropHolds held).bump (linkReg l 0 0x88) 1).inboundAnswer r (t.inboundPerform r).1
    else if s.atomicTurn (s.homeOf 0 r.off) (32 + l) then
      ((((t.atomicServed (s.homeOf 0 r.off) (32 + l)).inboundPerform r).2.dropHolds held).bump (linkReg l 0 0x88) 1).inboundAnswer r
        ((t.atomicServed (s.homeOf 0 r.off) (32 + l)).inboundPerform r).1
    else s.inboundHold l r) := by
  refine congrArg Host.Outcome.next ((if_neg (inbound_goes sized new)).trans ((if_neg (by simp [awake])).trans
    ((if_neg (by simp [device, phys])).trans ((if_neg (by simp [permitted])).trans ((if_neg (by simp [first])).trans ?_)))))
  simp only [take]

end Awake

end New

end Inbound

/-! ## Digests of a join (R425) -/

section Join

variable {s : State} {gid rank : Nat}

/-- A digest that comes before this module's own join waits for it. -/
theorem exec_joinDigestArrive_early (unknown : s.groups.find? gid = none) (dg : Word) : exec (.joinDigestArrive gid rank dg) s = .next
    { s with earlyJoins := s.earlyJoins.filter (fun e => !(e.1 == gid && e.2.1 == rank)) ++ [(gid, rank, dg)] } := by
  change execJoinDigestArrive gid rank dg s = _
  simp only [execJoinDigestArrive, unknown]

variable {g : Group} (known : s.groups.find? gid = some g) (joining : g.bound = false)
include known joining

theorem exec_joinDigestArrive_joining (member : rank < g.list.length) (other : rank ≠ g.rank) (dg : Word) :
    exec (.joinDigestArrive gid rank dg) s = .next ((s.heardFrom gid g rank dg).joinCheck gid) := by
  change execJoinDigestArrive gid rank dg s = _
  simp only [execJoinDigestArrive, known]
  exact congrArg ok (if_neg (by simp [joining, other, member]))

/-- A join goes on while every digest agrees and some have not come. -/
theorem joinCheck_waits (agree : ∀ e ∈ g.heard, e.2 = g.digest) (incomplete : g.heard.length ≠ g.list.length) : s.joinCheck gid = s := by
  have same : g.heard.any (fun e => e.2 != g.digest) = false := by simpa using agree
  simp only [State.joinCheck, known, joining, same, incomplete, Bool.false_eq_true, if_false]

/-- The last digest binds the group. -/
theorem joinCheck_binds (agree : ∀ e ∈ g.heard, e.2 = g.digest) (all : g.heard.length = g.list.length) (stays : g.leaving = false) :
    s.joinCheck gid = State.collAnswer { s with
      groups := Tab.set s.groups gid { g with bound := true }, earlyJoins := s.earlyJoins.filter (fun e => e.1 != gid) } g.msg 0 g.rank := by
  have same : g.heard.any (fun e => e.2 != g.digest) = false := by simpa using agree
  simp only [State.joinCheck, known, joining, same, all, stays, Bool.false_eq_true, if_false, if_true, State.setGroup, sOK]

variable {t : State} (ht : t = { s with groups := s.groups.erase gid, earlyJoins := s.earlyJoins.filter (fun e => e.1 != gid) })
include ht

/-- A digest that differs ends the join. -/
theorem joinCheck_differs (differs : ∃ e ∈ g.heard, e.2 ≠ g.digest) : s.joinCheck gid = t.collAnswer g.msg 3 0 := by
  have other : g.heard.any (fun e => e.2 != g.digest) = true := by simpa using differs
  subst ht
  simp only [State.joinCheck, known, joining, other, Bool.false_eq_true, if_false, if_true, sBADARG]

theorem exec_collectiveTimeout_join (late : 1000 * s.collTimeout (linkDie g.msg) ≤ s.usSince g.since) :
    exec (.collectiveTimeout gid) s = .next (t.collAnswer g.msg 0xE 0) := by
  subst ht
  change execCollectiveTimeout gid s = _
  simp only [execCollectiveTimeout, known, joining, late, Bool.not_false, decide_true, if_true, sTIMEOUT]

end Join

/-! ## Descriptors and contributions (R427, R428) -/

section Member

variable {s : State} {gid rank : Nat} {g : Group} (known : s.groups.find? gid = some g)
include known

section Other

variable (other : rank ≠ g.rank) (member : rank < g.list.length)
include other member

/-- A descriptor that comes before this module's own collective waits for it. -/
theorem exec_collectiveDescriptor_early (fresh : s.colls.find? (fun c => c.gid == gid) = none) (d : CollDesc) :
    exec (.collectiveDescriptor gid rank d) s = .next { s with earlyDescs := s.earlyDescs ++ [(gid, rank, d)] } := by
  have goes : ¬(rank = g.rank ∨ g.list.length ≤ rank) := by omega
  change execCollectiveDescriptor gid rank d s = _
  simp only [execCollectiveDescriptor, known, goes, fresh, if_false]

variable {c : Coll} (begun : s.colls.find? (fun c => c.gid == gid) = some c)
include begun

/-- A member's second descriptor is of its next collective; the first joins this one. -/
theorem exec_collectiveDescriptor_begun (d : CollDesc) : exec (.collectiveDescriptor gid rank d) s = .next
    (if (c.descs.find? rank).isSome then { s with earlyDescs := s.earlyDescs ++ [(gid, rank, d)] }
    else (s.putColl { c with descs := Tab.set c.descs rank d }).collCheck gid) := by
  have goes : ¬(rank = g.rank ∨ g.list.length ≤ rank) := by omega
  change execCollectiveDescriptor gid rank d s = _
  simp only [execCollectiveDescriptor, known, goes, begun, if_false]

theorem exec_collectiveContributionArrive (awaited : c.parts.find? rank = none) (valid : c.status = 0) (x : Contribution) :
    exec (.collectiveContributionArrive gid rank x) s = .next
      ((s.putColl { c with parts := Tab.set c.parts rank x }).collFinish { c with parts := Tab.set c.parts rank x } g) := by
  change execCollectiveContributionArrive gid rank x s = _
  simp only [execCollectiveContributionArrive, known, begun]
  exact congrArg ok (if_neg (by simp [other, member, awaited, valid, sOK]))

end Other

/-- A collective that not every member has joined is over after COLLTO. -/
theorem exec_collectiveTimeout_collective {c : Coll} (begun : s.colls.find? (fun c => c.gid == gid) = some c) (bound : g.bound = true)
    (waits : c.running = false) (late : 1000 * s.collTimeout (linkDie c.msg) ≤ s.usSince c.since) :
    exec (.collectiveTimeout gid) s = .next (s.collEnd c { g with broken := true } 0xE) := by
  change execCollectiveTimeout gid s = _
  simp only [execCollectiveTimeout, known, begun, bound, waits, late, Bool.not_true, Bool.not_false, Bool.false_eq_true, decide_true,
    and_self, if_false, if_true, sTIMEOUT]

end Member

/-- Settles O56: one lemma for each thing that each event can do. -/
theorem linkEvents : Obligations.LinkEvents := by
  unfold Obligations.LinkEvents
  refine ⟨fun s id r asked => ⟨exec_remoteReply asked, fun f hf => ⟨exec_deviceUnreachable asked hf, ?timeout⟩⟩,
    fun s r d t ht => ⟨fun ps => remoteDone_keeper ht, fun id j => remoteDone_access ht, fun key => remoteDone_command ht⟩,
    fun s l port hl hport => ⟨exec_flitReplay hl hport false, exec_flitReplay hl hport true,
      fun valid down => ⟨_, exec_portUp_trained hl hport valid down, rfl, rfl, rfl⟩, exec_portUp_unnamed, fun u => exec_portDown hl hport, rfl⟩,
    fun s l r sized => ⟨exec_inboundRequest_resent, fun new awake => ⟨exec_inboundRequest_outside sized new awake,
      exec_inboundRequest_unpermitted sized new awake, fun held t d u device phys permitted take first => ?performed,
      fun held t device phys permitted take atomic other => ?held⟩, fun new => exec_inboundRequest_asleep sized new⟩,
    fun s gid rank dg => ⟨fun g known joining member other => exec_joinDigestArrive_joining known joining member other dg,
      fun unknown => exec_joinDigestArrive_early unknown dg, fun g t known joining ht => ⟨joinCheck_differs known joining ht, ?bound,
        joinCheck_waits known joining, exec_collectiveTimeout_join known joining ht⟩⟩,
    fun s gid rank d g known other member => ⟨fun fresh => exec_collectiveDescriptor_early known other member fresh d,
      fun c begun => ⟨?second, ?first,
        fun x awaited valid => exec_collectiveContributionArrive known other member begun awaited valid x,
        exec_collectiveTimeout_collective known begun⟩⟩, fun s l n => rfl⟩
  case timeout =>
    rw [exec_remoteRequestTimeout asked hf]
    exact ⟨fun late => by rw [if_pos late], fun early => by rw [if_neg (Nat.not_le.mpr early)]⟩
  case performed =>
    rw [exec_inboundRequest_first sized new awake device phys permitted first take]
    rintro (⟨plain, perform⟩ | ⟨atomic, turn, perform⟩)
    · rw [if_pos plain, perform]
    · rw [if_neg (Nat.not_lt.mpr atomic), if_pos turn, perform]
  case held =>
    have phys' : s.physOk r.off r.size (decide (2 ≤ r.kind)) = true := by rw [decide_eq_true atomic, phys]
    have reads : (r.kind != 1) = true := bne_iff_ne.mpr (by omega)
    have writes : (r.kind != 0) = true := bne_iff_ne.mpr (by omega)
    have permitted' : s.windowPermits l r.off r.size (r.kind != 1) (r.kind != 0) = true := by rw [reads, writes, permitted]
    have take' : s.takeHolds [] (if r.kind = 0 then [] else (pagesOf r.off r.size).map (fun p => p * 65536)) = (held, [], t) := by
      rw [if_neg (by omega), take]
    cases behind : s.inboundBehind r with
    | true => exact exec_inboundRequest_behind sized new awake device phys' permitted' behind
    | false =>
      rw [exec_inboundRequest_first sized new awake device phys' permitted' behind take', if_neg (Nat.not_lt.mpr atomic),
        if_neg (by simp [other])]
  case bound =>
    intro agree all stays
    subst ht
    exact joinCheck_binds known joining agree all stays
  case second => exact fun again => by rw [exec_collectiveDescriptor_begun known other member begun, if_pos again]
  case first => exact fun new => by rw [exec_collectiveDescriptor_begun known other member begun, if_neg (by simp [new])]

end Sys2Proof.Machine
end
